-- ==== Sys2Proof/Word.lean ====
section
/-! DEFINITION. Words, bytes and the operand names of an instruction, as R59 to R64, R78 and R88 list them. -/

namespace Sys2Proof

/-- A 64-bit scalar value or address (R82, R205). -/
abbrev Word := BitVec 64
/-- One byte of memory (R244). -/
abbrev Byte := BitVec 8
/-- One 32-bit vector lane or accumulator element (R82, R147). -/
abbrev Lane := BitVec 32

/-- A scalar source operand (R62): a loop name carries its distance (R64), no other name can. -/
inductive SSrc where
  | x (r : Fin 32)
  | l (r : Fin 16) (d : Fin 8)
  | q (n : Fin 4)
  | zero
  | it
  | lane
  | cid
  | ctx
  deriving DecidableEq, Repr, Inhabited

/-- A scalar destination (R62, R63): `zero` discards. -/
inductive SDst where
  | x (r : Fin 32)
  | l (r : Fin 16)
  | q (n : Fin 4)
  | zero
  deriving DecidableEq, Repr, Inhabited

/-- A vector source operand (R63). -/
inductive VSrc where
  | v (r : Fin 16)
  | w (r : Fin 8) (d : Fin 8)
  | q (n : Fin 4)
  | zero
  | it
  | lane
  deriving DecidableEq, Repr, Inhabited

/-- A vector destination (R63). -/
inductive VDst where
  | v (r : Fin 16)
  | w (r : Fin 8)
  | q (n : Fin 4)
  | zero
  deriving DecidableEq, Repr, Inhabited

/-- The guard field (R60, R66): the register and its negate bit. -/
structure Guard where
  neg : Bool
  g : Fin 8
  deriving DecidableEq, Repr, Inhabited

/-- The three lengths of a headed instruction (R59). -/
inductive Form where
  | h64
  | h96
  | h128
  deriving DecidableEq, Repr, Inhabited

/-- The immediate of a class I or F instruction, with the form that carries it (R67). -/
structure Imm where
  form : Form
  val : Word
  deriving DecidableEq, Repr, Inhabited

/-- Condition codes (R78). -/
inductive CC where
  | eq | ne | lt | ge | ltu | geu | le | gt | leu | gtu | un | ord
  deriving DecidableEq, Repr, Inhabited

/-- Format tags (R88): the reserved tags 0x8 to 0xF are held by no register. -/
inductive Tag where
  | raw | fp32 | bf16 | fp16 | int32 | int16 | int8 | dyad8
  deriving DecidableEq, Repr, Inhabited

/-- The saturation mode of VIADD and VISUB (R181). -/
inductive SatMode where
  | wrap | s | us
  deriving DecidableEq, Repr, Inhabited

/-- LOOP's trip count: a scalar name or a 32-bit literal (R97). -/
inductive LoopCount where
  | reg (a : SSrc)
  | lit (n : BitVec 32)
  deriving DecidableEq, Repr, Inhabited

/-- VSEED's destination (R97). -/
inductive SeedName where
  | l (r : Fin 16)
  | w (r : Fin 8)
  deriving DecidableEq, Repr, Inhabited

/-- VSEED's source (R97, R119). -/
inductive SeedSrc where
  | s (a : SSrc)
  | v (a : VSrc)
  | lit (i : Imm)
  deriving DecidableEq, Repr, Inhabited

/-- FMTG's source (R92). -/
inductive TagSrc where
  | v (a : VSrc)
  | z (n : Fin 2)
  deriving DecidableEq, Repr, Inhabited

/-- FMTS's destination (R92). -/
inductive TagDst where
  | v (a : VDst)
  | z (n : Fin 2)
  deriving DecidableEq, Repr, Inhabited

/-- The delivery modes a packet may ask for (R301): ordered, unordered, or one that the module does not use. -/
inductive Delivery where
  | rod | rud | unreliable | idempotent
  deriving DecidableEq, Repr, Inhabited

/-- The module does not use the mode (R301). -/
def Delivery.unused : Delivery → Bool
  | .unreliable | .idempotent => true
  | _ => false

/-- What a packet that a port die receives for another module asks for and carries (R301, R308). -/
structure Packet where
  mode : Delivery := .rud
  payload : List Byte
  deriving DecidableEq, Repr, Inhabited

/-- A Dvorade request as it reaches a service core (R303): the header's fields and the body's bytes. `op` is the
header's OP, `len` its LEN and `scn` its SCN field (R303); `rsv` is 0 when every header byte that must be zero is. -/
structure HostReq where
  /-- The delivery mode its packets ask for (R301). -/
  mode : Delivery := .rod
  ver : Nat
  op : Nat
  flags : Nat
  part : Nat
  scn : Nat
  rsv : Nat
  seq : BitVec 32
  len : Nat
  htag : Word
  body : List Byte
  deriving DecidableEq, Repr, Inhabited

/-- An inbound stream frame (R317): its header fields, its payload, and whether it comes from the grant's endpoint. -/
structure Frame where
  mode : Delivery := .rud
  endpoint : BitVec 32
  sid : BitVec 16
  kind : Byte
  rsv : Nat
  seq : BitVec 32
  pf : BitVec 32
  payload : List Byte
  deriving DecidableEq, Repr, Inhabited

end Sys2Proof
end

