-- ==== Sys2Proof/Config.lean ====
section
/-! DEFINITION. What an implementation or the outside world fixes and the spec leaves open: uninterpreted constants
without a body, and the machine's fixed figures (R2). No proof can see a value of an opaque constant here. -/

namespace Sys2Proof.Config

/-- Which of the machine's enabled moves comes next when the agenda holds none (R247: the machine may choose any; log 1). -/
opaque pick : Nat → Nat

/-- The newest stamp a load made inside another step may return, among the writes M4 allows (R247, R417; log 6). -/
opaque cut : Nat → Nat

/-- Whether a line has left an L2 before an access, by number of the choice and line (R214, R364; log 58). -/
opaque evicted : Nat → Nat → Bool
/-- The line that leaves a full L2 (log 58). -/
opaque victim : Nat → Nat

/-- The set of a shared TLB that holds a page, by partition and first byte (R215; log 7). -/
opaque tlbSet : Nat → Nat → Nat

/-- The bits of v and z registers of a crew member at join (R82: undefined; log 4). -/
opaque joinBits : Nat → BitVec 8192
/-- The tag of a v or z register of a crew member at join: any of 0x0 to 0x7 (R82; log 4). -/
opaque joinTag : Nat → Tag

/-- The value that a copy's release writes to its sync word, for which the spec gives none (R238, R250; log 42). -/
opaque releaseValue : Nat → BitVec 64

/-- Whether the firmware image in the store verifies against the key in ROM (R409; log 8). -/
opaque verifies : List Byte → Bool
/-- The signature of an attestation with an index (R411; log 8). -/
opaque signature : Nat → List Byte → List Byte
/-- SHAKE256 with 256 bits of output (R411, R382; log 8). -/
opaque shake256 : List Byte → BitVec 256
/-- Whether a core fails its test at a partition start, by core and number of the choice (R414; log 9). -/
opaque coreFails : Nat → Nat → Bool
/-- Whether a service core other than the lead is mapped out at the boot (R21, R409; log 9). -/
opaque svcFails : Nat → Nat → Bool

/-- This module's id in multicast groups, four bytes (R302, R305; log 46). -/
opaque moduleId : BitVec 32
/-- The ports of a port die over which firmware reaches a peer module (R302, R308; log 46). -/
opaque routeOf : Nat → Nat → BitVec 8
/-- The port die that carries a transfer, by number of the choice (R301, R365; log 46). -/
opaque portOf : Nat → Fin 4
/-- The port that a forwarded packet takes among those its table entry gives, by number of the choice (R301, R308; log 46). -/
opaque sprayOf : Nat → Nat
/-- How often a transfer's packets are sent again, by number of the choice (R301, R365; log 46). -/
opaque resent : Nat → Nat
/-- The UET endpoint state of a port after a link event (R302; log 46). -/
opaque uetState : Nat → Bool → Nat → BitVec 64
/-- The peer modules whose forwarding firmware adds at a partition's start (R302; log 46). -/
opaque peersOf : Nat → List Nat
/-- The streams and far-end endpoints that firmware grants to a partition at its start (R315; log 47). -/
opaque grantsOf : Nat → List (Nat × BitVec 32)
/-- The core that firmware makes a partition's allocator on a die: its place among the partition's cores there (R264; log 47). -/
opaque allocatorOf : Nat → Nat → Nat
/-- Whether firmware grants a granule of a partition as a list granule, by partition, die and granule (R264; log 47). -/
opaque listGranule : Nat → Nat → Nat → Bool

/-- What reaches the machine from outside, by number of the choice (log 1): host requests, stream frames and numbers. -/
opaque requestIn : Nat → HostReq
opaque frameIn : Nat → Frame
opaque packetIn : Nat → Packet
opaque numberIn : Nat → Nat
opaque bytesIn : Nat → List Byte
opaque homesIn : Nat → List (Nat × Nat)
opaque packetsIn : Nat → List (Nat × Nat × List Lane × BitVec 5)
opaque resultIn : Nat → Option (List Lane × BitVec 5)

/-- Compute dies (R2). -/
def nDies : Nat := 32
/-- Barrel cores of the module (R2). -/
def nCores : Nat := 8192
/-- Remaining identity-key signatures at manufacture: 2^40 (R411). -/
def nKeys : Nat := 2 ^ 40

end Sys2Proof.Config
end

