-- ==== Sys2Proof/Syntax.lean ====
section
/-! DEFINITION. The syntax: one constructor for each row of the operation table. The instructions come
first; then the steps of the other agents of the machine, with the choices the spec leaves to the machine as arguments. -/

namespace Sys2Proof

/-- One step of the machine: an instruction with its operands, or an event. -/
inductive Instr where
  /-- NOP. No effect (R75). -/
  | nop (g : Guard) (form : Form) (lit : Word)
  /-- BR. Control transfer (R134, R135). -/
  | br (g : Guard) (imm : Imm)
  /-- BRA. Control transfer (R134, R135). -/
  | bra (g : Guard) (imm : Imm)
  /-- JAL. PC-relative call (R135). -/
  | jal (g : Guard) (rd : SDst) (imm : Imm)
  /-- JALR. Register-indirect call (R135). -/
  | jalr (g : Guard) (rd : SDst) (a : SSrc)
  /-- RET. Register-indirect return (R135). -/
  | ret (g : Guard) (a : SSrc)
  /-- REP. Repeat (R137). -/
  | rep (g : Guard) (a : SSrc) (blen : Fin 64) (imm : Imm)
  /-- TRAP. Raises TRAP (R140). -/
  | trap (g : Guard) (n : BitVec 20)
  /-- LOOP. Opens a counted versioned loop (R97, R98); `c` is C - 1. -/
  | loop (count : LoopCount) (w c : Fin 8) (om : Bool) (ofs : BitVec 12)
  /-- LOOP_OPEN. Opens an open-ended versioned loop (R97, R98). -/
  | loopOpen (w c : Fin 8) (om : Bool) (ofs : BitVec 12)
  /-- BRK. Ends the loop (R113). -/
  | brk (g : Guard)
  /-- BRK_O. Ends the inner and the enclosing loop (R113). -/
  | brkO (g : Guard)
  /-- IRET. No further distance reads in the iteration (R105). -/
  | iret (g : Guard)
  /-- VSEED. Sets a seed (R119). -/
  | vseed (g : Guard) (dst : SeedName) (k : Fin 8) (src : SeedSrc)
  /-- LFREE. Frees the level frame (R120). -/
  | lfree (g : Guard)
  /-- SYSRD. Reads a system register (R90). -/
  | sysrd (g : Guard) (rd : SDst) (n : Byte)
  /-- SYSWR. Writes a system register (R90). -/
  | syswr (g : Guard) (n : Byte) (a : SSrc)
  /-- FMTG. Reads a tag (R92). -/
  | fmtg (g : Guard) (rd : SDst) (src : TagSrc)
  /-- FMTS. Sets a tag (R92). -/
  | fmts (g : Guard) (dst : TagDst) (t : Tag)
  /-- ADD. Scalar arithmetic (R125, R126). -/
  | add (g : Guard) (w : Bool) (rd : SDst) (a b : SSrc)
  /-- SUB. Scalar arithmetic (R125, R126). -/
  | sub (g : Guard) (w : Bool) (rd : SDst) (a b : SSrc)
  /-- MUL. Scalar arithmetic (R125, R126). -/
  | mul (g : Guard) (w : Bool) (rd : SDst) (a b : SSrc)
  /-- MULH. Scalar arithmetic (R125, R126). -/
  | mulh (g : Guard) (w : Bool) (rd : SDst) (a b : SSrc)
  /-- MULHU. Scalar arithmetic (R125, R126). -/
  | mulhu (g : Guard) (w : Bool) (rd : SDst) (a b : SSrc)
  /-- DIV. Scalar arithmetic (R125, R126). -/
  | div (g : Guard) (w : Bool) (rd : SDst) (a b : SSrc)
  /-- DIVU. Scalar arithmetic (R125, R126). -/
  | divu (g : Guard) (w : Bool) (rd : SDst) (a b : SSrc)
  /-- REM. Scalar arithmetic (R125, R126). -/
  | rem (g : Guard) (w : Bool) (rd : SDst) (a b : SSrc)
  /-- REMU. Scalar arithmetic (R125, R126). -/
  | remu (g : Guard) (w : Bool) (rd : SDst) (a b : SSrc)
  /-- AND. Scalar logic (R125). -/
  | and (g : Guard) (rd : SDst) (a b : SSrc)
  /-- OR. Scalar logic (R125). -/
  | or (g : Guard) (rd : SDst) (a b : SSrc)
  /-- XOR. Scalar logic (R125). -/
  | xor (g : Guard) (rd : SDst) (a b : SSrc)
  /-- ANDN. Scalar logic (R125). -/
  | andn (g : Guard) (rd : SDst) (a b : SSrc)
  /-- ORN. Scalar logic (R125). -/
  | orn (g : Guard) (rd : SDst) (a b : SSrc)
  /-- SHL. Scalar shift (R125). -/
  | shl (g : Guard) (w : Bool) (rd : SDst) (a b : SSrc)
  /-- SHR. Scalar shift (R125). -/
  | shr (g : Guard) (w : Bool) (rd : SDst) (a b : SSrc)
  /-- SAR. Scalar shift (R125). -/
  | sar (g : Guard) (w : Bool) (rd : SDst) (a b : SSrc)
  /-- ROL. Scalar shift (R125). -/
  | rol (g : Guard) (w : Bool) (rd : SDst) (a b : SSrc)
  /-- CLZ. Scalar bit count (R125). -/
  | clz (g : Guard) (w : Bool) (rd : SDst) (a : SSrc)
  /-- CTZ. Scalar bit count (R125). -/
  | ctz (g : Guard) (w : Bool) (rd : SDst) (a : SSrc)
  /-- POPC. Scalar bit count (R125). -/
  | popc (g : Guard) (w : Bool) (rd : SDst) (a : SSrc)
  /-- MIN. Scalar minimum or maximum (R125). -/
  | min (g : Guard) (w : Bool) (rd : SDst) (a b : SSrc)
  /-- MAX. Scalar minimum or maximum (R125). -/
  | max (g : Guard) (w : Bool) (rd : SDst) (a b : SSrc)
  /-- MINU. Scalar minimum or maximum (R125). -/
  | minu (g : Guard) (w : Bool) (rd : SDst) (a b : SSrc)
  /-- MAXU. Scalar minimum or maximum (R125). -/
  | maxu (g : Guard) (w : Bool) (rd : SDst) (a b : SSrc)
  /-- SEL. Selects by a guard bit (R127). -/
  | sel (g : Guard) (rd : SDst) (n : Fin 8) (a b : SSrc)
  /-- MOV. Copies a scalar (R125). -/
  | mov (g : Guard) (rd : SDst) (a : SSrc)
  /-- ADDI. Adds an immediate (R128). -/
  | addi (g : Guard) (w : Bool) (rd : SDst) (a : SSrc) (imm : Imm)
  /-- LI. Loads an immediate (R128). -/
  | li (g : Guard) (rd : SDst) (imm : Imm)
  /-- EXTF. Extracts a field (R129); `len` is LEN - 1. -/
  | extf (g : Guard) (s : Bool) (rd : SDst) (a : SSrc) (pos len : Fin 64)
  /-- INSF. Inserts a field (R129); `len` is LEN - 1. -/
  | insf (g : Guard) (rd : SDst) (a b : SSrc) (pos len : Fin 64)
  /-- PGA. Composes an address (R130, R131). -/
  | pga (g : Guard) (c : Bool) (rd : SDst) (place off : SSrc) (space : BitVec 4) (disp : Imm)
  /-- CMP. Compares into a guard (R132). -/
  | cmp (g : Guard) (w : Bool) (cc : CC) (gd : Fin 8) (a b : SSrc)
  /-- CMPI. Compares with an immediate (R132). -/
  | cmpi (g : Guard) (w : Bool) (cc : CC) (gd : Fin 8) (a : SSrc) (imm : Imm)
  /-- GAND. Combines guards (R133). -/
  | gand (g : Guard) (gd ga gb : Fin 8)
  /-- GOR. Combines guards (R133). -/
  | gor (g : Guard) (gd ga gb : Fin 8)
  /-- GNOT. Negates a guard (R133). -/
  | gnot (g : Guard) (gd ga : Fin 8)
  /-- VADD. Vector float arithmetic (R166). -/
  | vadd (g : Guard) (vd : VDst) (a b : VSrc)
  /-- VSUB. Vector float arithmetic (R166). -/
  | vsub (g : Guard) (vd : VDst) (a b : VSrc)
  /-- VMUL. Vector float arithmetic (R166). -/
  | vmul (g : Guard) (vd : VDst) (a b : VSrc)
  /-- VFMA. Fused multiply-add (R166). -/
  | vfma (g : Guard) (vd : VDst) (a b c : VSrc)
  /-- VFMS. Fused multiply-add (R166). -/
  | vfms (g : Guard) (vd : VDst) (a b c : VSrc)
  /-- VMIN. Vector minimum or maximum (R167). -/
  | vmin (g : Guard) (vd : VDst) (a b : VSrc)
  /-- VMAX. Vector minimum or maximum (R167). -/
  | vmax (g : Guard) (vd : VDst) (a b : VSrc)
  /-- VABS. Sign operation (R168). -/
  | vabs (g : Guard) (vd : VDst) (a : VSrc)
  /-- VNEG. Sign operation (R168). -/
  | vneg (g : Guard) (vd : VDst) (a : VSrc)
  /-- VCPS. Copies the sign of b (R168). -/
  | vcps (g : Guard) (vd : VDst) (a b : VSrc)
  /-- VCMP. Lanewise compare (R169). -/
  | vcmp (g : Guard) (cc : CC) (gd : Fin 8) (a b : VSrc)
  /-- VSEL. Lanewise select (R170). -/
  | vsel (g : Guard) (vd : VDst) (n : Fin 8) (a b : VSrc)
  /-- VRND. Function helper (R172). -/
  | vrnd (g : Guard) (vd : VDst) (a : VSrc)
  /-- VFEXP. Function helper (R173). -/
  | vfexp (g : Guard) (vd : VDst) (a : VSrc)
  /-- VEXPI. Scales by a power of two (R174). -/
  | vexpi (g : Guard) (vd : VDst) (a b : VSrc)
  /-- VLOGB. Function helper (R176). -/
  | vlogb (g : Guard) (vd : VDst) (a : VSrc)
  /-- VRCP. Function helper (R176). -/
  | vrcp (g : Guard) (vd : VDst) (a : VSrc)
  /-- VRSQ. Function helper (R176). -/
  | vrsq (g : Guard) (vd : VDst) (a : VSrc)
  /-- VCVT. Converts in place (R178). -/
  | vcvt (g : Guard) (u m : Bool) (t : Tag) (vd : VDst) (a : VSrc)
  /-- VPACK. Narrows two sources (R179). -/
  | vpack (g : Guard) (u m : Bool) (t : Tag) (vd : VDst) (a b : VSrc)
  /-- VUNPK. Widens half of each lane (R180). -/
  | vunpk (g : Guard) (u : Bool) (t : Tag) (h : Bool) (vd : VDst) (a : VSrc)
  /-- VIADD. Vector integer sum (R182). -/
  | viadd (g : Guard) (mode : SatMode) (vd : VDst) (a b : VSrc)
  /-- VISUB. Vector integer sum (R182). -/
  | visub (g : Guard) (mode : SatMode) (vd : VDst) (a b : VSrc)
  /-- VIMUL. Vector integer product (R182). -/
  | vimul (g : Guard) (vd : VDst) (a b : VSrc)
  /-- VIMAD. Vector integer multiply-add (R182). -/
  | vimad (g : Guard) (vd : VDst) (a b c : VSrc)
  /-- VAND. Vector integer operation (R182). -/
  | vand (g : Guard) (vd : VDst) (a b : VSrc)
  /-- VOR. Vector integer operation (R182). -/
  | vor (g : Guard) (vd : VDst) (a b : VSrc)
  /-- VXOR. Vector integer operation (R182). -/
  | vxor (g : Guard) (vd : VDst) (a b : VSrc)
  /-- VSHL. Vector integer operation (R182). -/
  | vshl (g : Guard) (vd : VDst) (a b : VSrc)
  /-- VSHR. Vector integer operation (R182). -/
  | vshr (g : Guard) (vd : VDst) (a b : VSrc)
  /-- VSAR. Vector integer operation (R182). -/
  | vsar (g : Guard) (vd : VDst) (a b : VSrc)
  /-- VDOT4. Four-term dot product (R182). -/
  | vdot4 (g : Guard) (vd : VDst) (a b c : VSrc)
  /-- VBCAST. Broadcasts a scalar (R184). -/
  | vbcast (g : Guard) (vd : VDst) (a : SSrc) (t : Tag) (imm : Imm)
  /-- VPERM. Permutes lanes (R185). -/
  | vperm (g : Guard) (vd : VDst) (a b : VSrc)
  /-- VROT. Rotates lanes (R185). -/
  | vrot (g : Guard) (vd : VDst) (a : VSrc) (k : Fin 32)
  /-- VMOVS. Lane to scalar (R186). -/
  | vmovs (g : Guard) (s : Bool) (rd : SDst) (a : VSrc) (k : Fin 32)
  /-- VINS. Scalar to lane (R186). -/
  | vins (g : Guard) (vd : VDst) (a : SSrc) (k : Fin 32) (t : Tag)
  /-- VREDA. Reduction or scan (R187). -/
  | vreda (g : Guard) (vd : VDst) (a : VSrc)
  /-- VREDM. Reduction or scan (R187). -/
  | vredm (g : Guard) (vd : VDst) (a : VSrc)
  /-- VSCAN. Reduction or scan (R187). -/
  | vscan (g : Guard) (vd : VDst) (a : VSrc)
  /-- MMAB. Matrix multiply-accumulate (R197). -/
  | mmab (g : Guard) (z : Fin 2) (xa xw : SSrc)
  /-- MMAI. Matrix multiply-accumulate (R197). -/
  | mmai (g : Guard) (z : Fin 2) (xa xw : SSrc)
  /-- MMAD. Block-scaled matrix multiply-accumulate (R197). -/
  | mmad (g : Guard) (z : Fin 2) (xa xw xs : SSrc)
  /-- ZCLR. Clears an accumulator (R199). -/
  | zclr (g : Guard) (z : Fin 2) (t : Tag)
  /-- ZSCALE. Scales columns (R199). -/
  | zscale (g : Guard) (z : Fin 2) (a : VSrc)
  /-- ZRD. Reads two rows (R199). -/
  | zrd (g : Guard) (vd : VDst) (z : Fin 2) (p : Fin 8)
  /-- ZWR. Writes two rows (R199). -/
  | zwr (g : Guard) (z : Fin 2) (a : VSrc) (p : Fin 8)
  /-- ZLD. Loads an accumulator (R200). -/
  | zld (g : Guard) (z : Fin 2) (xb : SSrc) (t : Tag) (imm : Imm)
  /-- ZST. Stores an accumulator (R200). -/
  | zst (g : Guard) (z : Fin 2) (xb : SSrc) (imm : Imm)
  /-- WBLD. Fills the weight buffer (R193). -/
  | wbld (g : Guard) (xd xb : SSrc) (imm : Imm)
  /-- LDT. Fills the weight buffer (R193). -/
  | ldt (g : Guard) (xd xb : SSrc) (imm : Imm)
  /-- SWAPT. Exchange with the mirrored core (R201). -/
  | swapt (g : Guard) (t : Bool) (zd zs : Fin 2) (key : Byte)
  /-- LD. Scalar load (R225). -/
  | ld (g : Guard) (rd : SDst) (xb : SSrc) (imm : Imm)
  /-- LD_W. Scalar load (R225). -/
  | ldW (g : Guard) (rd : SDst) (xb : SSrc) (imm : Imm)
  /-- LD_WU. Scalar load (R225). -/
  | ldWu (g : Guard) (rd : SDst) (xb : SSrc) (imm : Imm)
  /-- LD_H. Scalar load (R225). -/
  | ldH (g : Guard) (rd : SDst) (xb : SSrc) (imm : Imm)
  /-- LD_HU. Scalar load (R225). -/
  | ldHu (g : Guard) (rd : SDst) (xb : SSrc) (imm : Imm)
  /-- LD_B. Scalar load (R225). -/
  | ldB (g : Guard) (rd : SDst) (xb : SSrc) (imm : Imm)
  /-- LD_BU. Scalar load (R225). -/
  | ldBu (g : Guard) (rd : SDst) (xb : SSrc) (imm : Imm)
  /-- ST. Scalar store (R225). -/
  | st (g : Guard) (rs xb : SSrc) (imm : Imm)
  /-- ST_W. Scalar store (R225). -/
  | stW (g : Guard) (rs xb : SSrc) (imm : Imm)
  /-- ST_H. Scalar store (R225). -/
  | stH (g : Guard) (rs xb : SSrc) (imm : Imm)
  /-- ST_B. Scalar store (R225). -/
  | stB (g : Guard) (rs xb : SSrc) (imm : Imm)
  /-- LDV. Vector load (R226). -/
  | ldv (g : Guard) (vd : VDst) (xb : SSrc) (imm : Imm)
  /-- STV. Vector store (R226). -/
  | stv (g : Guard) (vs : VSrc) (xb : SSrc) (imm : Imm)
  /-- LDG. Gather (R227). -/
  | ldg (g : Guard) (vd : VDst) (xb : SSrc) (vi : VSrc)
  /-- STS. Scatter (R227). -/
  | sts (g : Guard) (vs : VSrc) (xb : SSrc) (vi : VSrc)
  /-- LDL. Lane-slice load (R228). -/
  | ldl (g : Guard) (vd : VDst) (xo : SSrc) (off : BitVec 11)
  /-- STL. Lane-slice store (R228). -/
  | stl (g : Guard) (vs : VSrc) (xo : SSrc) (off : BitVec 11)
  /-- PREF. Prefetch hint (R229). -/
  | pref (g : Guard) (xb : SSrc) (imm : Imm)
  /-- LDE. Consumes a full word (R231). -/
  | lde (g : Guard) (rd : SDst) (xb : SSrc) (imm : Imm)
  /-- STF. Stores and fills (R231). -/
  | stf (g : Guard) (rs xb : SSrc) (imm : Imm)
  /-- LDF. Tests a full/empty bit (R231). -/
  | ldf (g : Guard) (rd : SDst) (xb : SSrc) (imm : Imm)
  /-- FEMPTY. Empties a word (R231). -/
  | fempty (g : Guard) (xb : SSrc) (imm : Imm)
  /-- FUTR. Reads a future (R231). -/
  | futr (g : Guard) (rd : SDst) (xb : SSrc) (imm : Imm)
  /-- FUTW. Fills a future once (R231). -/
  | futw (g : Guard) (rd : SDst) (rs xb : SSrc) (imm : Imm)
  /-- AADD. Atomic (R234). -/
  | aadd (g : Guard) (w : Bool) (rd : SDst) (xb rs : SSrc)
  /-- AMIN. Atomic (R234). -/
  | amin (g : Guard) (w : Bool) (rd : SDst) (xb rs : SSrc)
  /-- AMAX. Atomic (R234). -/
  | amax (g : Guard) (w : Bool) (rd : SDst) (xb rs : SSrc)
  /-- AXCH. Atomic (R234). -/
  | axch (g : Guard) (w : Bool) (rd : SDst) (xb rs : SSrc)
  /-- ACAS. Atomic compare-and-swap (R234). -/
  | acas (g : Guard) (w : Bool) (rd : SDst) (xb rs rc : SSrc)
  /-- AAND. Atomic (R234). -/
  | aand (g : Guard) (w : Bool) (rd : SDst) (xb rs : SSrc)
  /-- AOR. Atomic (R234). -/
  | aor (g : Guard) (w : Bool) (rd : SDst) (xb rs : SSrc)
  /-- ACQ_GROUP. Acquire (R254). -/
  | acqGroup (g : Guard) (rd : SDst) (xs : SSrc)
  /-- ACQ_DEVICE. Acquire (R254). -/
  | acqDevice (g : Guard) (rd : SDst) (xs : SSrc)
  /-- ACQ_SYSTEM. Acquire (R254). -/
  | acqSystem (g : Guard) (rd : SDst) (xs : SSrc)
  /-- REL_GROUP. Release (R254). -/
  | relGroup (g : Guard) (xs rv : SSrc)
  /-- REL_DEVICE. Release (R254). -/
  | relDevice (g : Guard) (xs rv : SSrc)
  /-- REL_SYSTEM. Release (R254). -/
  | relSystem (g : Guard) (xs rv : SSrc)
  /-- FENCE_GROUP. Fence (R254). -/
  | fenceGroup (g : Guard)
  /-- FENCE_DEVICE. Fence (R254). -/
  | fenceDevice (g : Guard)
  /-- FENCE_SYSTEM. Fence (R254). -/
  | fenceSystem (g : Guard)
  /-- CPW. Writes two copy registers (R236). -/
  | cpw (g : Guard) (k : Fin 8) (a b : SSrc)
  /-- CPGO. Launches a copy (R237). -/
  | cpgo (g : Guard) (rd : SDst)
  /-- CPWANY. Waits for or finds finished tags (R239). -/
  | cpwany (g : Guard) (rd : SDst) (a : SSrc)
  /-- CPWALL. Waits for or finds finished tags (R239). -/
  | cpwall (g : Guard) (rd : SDst) (a : SSrc)
  /-- CPFF. Waits for or finds finished tags (R239). -/
  | cpff (g : Guard) (rd : SDst) (a : SSrc)
  /-- CPCLR. Clears finished tags (R239). -/
  | cpclr (g : Guard) (a : SSrc)
  /-- CPCLR_F. Frees a multicast tile (R241). -/
  | cpclrF (g : Guard) (a : SSrc)
  /-- CPCHK. Reads a tag's map (R239). -/
  | cpchk (g : Guard) (rd : SDst) (a : SSrc)
  /-- SPAWN. Starts a context (R280). -/
  | spawn (g : Guard) (gd : Fin 8) (xpc xc : SSrc) (b : Fin 32)
  /-- QUIT. Ends the thread (R281). -/
  | quit (g : Guard) (xs : SSrc)
  /-- REAP. Pops an exit word (R282). -/
  | reap (g : Guard) (rd : SDst)
  /-- WAITW. Waits for work (R286). -/
  | waitw (g : Guard)
  /-- TASKQ. Enqueues a task (R284). -/
  | taskq (g : Guard) (gd : Fin 8) (xs : SSrc) (n : Fin 16)
  /-- TASKQ_DEQUE. Pushes on the own deque (R284). -/
  | taskqDeque (g : Guard) (gd : Fin 8) (xs : SSrc)
  /-- TAKE. Pops the newest own deque entry (R293). -/
  | take (g : Guard) (rd : SDst) (gd : Fin 8)
  /-- STEAL. Pops another deque's oldest entry (R293). -/
  | steal (g : Guard) (rd : SDst) (gd : Fin 8) (xc : SSrc)
  /-- QCFG_HWQUEUE_TYPE. Queue configuration (R294). -/
  | qcfgHwqueueType (g : Guard) (xa xb : SSrc)
  /-- QCFG_PRIORITY. Queue configuration (R294). -/
  | qcfgPriority (g : Guard) (xa xb : SSrc)
  /-- QCFG_OWNER. Queue configuration (R294). -/
  | qcfgOwner (g : Guard) (xa xb : SSrc)
  /-- QCFG_RING. Queue configuration (R294). -/
  | qcfgRing (g : Guard) (xa xb : SSrc)
  /-- QCFG_ARM. Queue configuration (R294). -/
  | qcfgArm (g : Guard) (xa xb : SSrc)
  /-- QCFG_COUNTER. Queue configuration (R294). -/
  | qcfgCounter (g : Guard) (xa xb : SSrc)
  /-- QSTAT_HWQUEUE. Queue status (R295). -/
  | qstatHwqueue (g : Guard) (rd : SDst) (xa : SSrc)
  /-- QSTAT_TASKQUEUE. Queue status (R295). -/
  | qstatTaskqueue (g : Guard) (rd : SDst) (xa : SSrc)
  /-- QSTAT_COUNTER. Queue status (R295). -/
  | qstatCounter (g : Guard) (rd : SDst) (xa : SSrc)
  /-- QSTAT_DEQUE. Queue status (R295). -/
  | qstatDeque (g : Guard) (rd : SDst) (xa : SSrc)
  /-- QSTAT_EXITQUEUE. Queue status (R295). -/
  | qstatExitqueue (g : Guard) (rd : SDst) (xa : SSrc)
  /-- QSTAT_MAILBOX. Queue status (R295). -/
  | qstatMailbox (g : Guard) (rd : SDst) (xa : SSrc)
  /-- QSTAT_POISONLOG. Queue status (R295). -/
  | qstatPoisonlog (g : Guard) (rd : SDst) (xa : SSrc)
  /-- QSTAT_DROPS. Queue status (R295). -/
  | qstatDrops (g : Guard) (rd : SDst) (xa : SSrc)
  /-- QRST. Resets a task queue (R292). -/
  | qrst (g : Guard) (xa : SSrc)
  /-- SEND. Sends a message (R297). -/
  | send (g : Guard) (xd xa xb : SSrc)
  /-- MRECV. Receives a message (R298). -/
  | mrecv (g : Guard) (rd : Fin 32) (mb : Byte)
  /-- MRECV_R. Takes a reply (R299). -/
  | mrecvR (g : Guard) (rd : SDst) (k : Fin 4)
  /-- RCALL. Calls and waits (R299). -/
  | rcall (g : Guard) (rd : SDst) (xd xa : SSrc) (k : Fin 4)
  /-- RCALL_N. Calls without waiting (R299). -/
  | rcallN (g : Guard) (xd xa : SSrc) (k : Fin 4)
  /-- RREPLY. Sends a reply (R300). -/
  | rreply (g : Guard) (xt xv : SSrc)
  /-- BSDEF_J. Joins a barrier set (R333). -/
  | bsdefJ (g : Guard) (xs xc : SSrc)
  /-- BSDEF_L. Leaves a barrier set (R333). -/
  | bsdefL (g : Guard) (xs : SSrc)
  /-- BARV. Arrives (R335). -/
  | barv (g : Guard) (rd : SDst) (k : Fin 4)
  /-- BWAIT. Waits for a phase (R335). -/
  | bwait (g : Guard) (xp : SSrc) (k : Fin 4)
  /-- BARW. Arrives and waits (R335). -/
  | barw (g : Guard) (rd : SDst) (k : Fin 4)
  /-- RBIND. Binds a range (R338). -/
  | rbind (g : Guard) (rd : SDst) (xb xl xs : SSrc)
  /-- RUNBND. Unbinds an entry (R338). -/
  | runbnd (g : Guard) (xi : SSrc)
  /-- SLOTW_A. Writes slot state (R271). -/
  | slotwA (g : Guard) (xp xv : SSrc)
  /-- SLOTW_B. Writes slot state (R271). -/
  | slotwB (g : Guard) (xp xv : SSrc)
  /-- SLOTW_E. Writes slot state (R271). -/
  | slotwE (g : Guard) (xp xv : SSrc)
  /-- SLOTW_T. Writes slot state (R271). -/
  | slotwT (g : Guard) (xp xv : SSrc)
  /-- SLOTRD_A. Reads slot state (R272). -/
  | slotrdA (g : Guard) (rd : SDst) (xp : SSrc)
  /-- SLOTRD_B. Reads slot state (R272). -/
  | slotrdB (g : Guard) (rd : SDst) (xp : SSrc)
  /-- SLOTRD_E. Reads slot state (R272). -/
  | slotrdE (g : Guard) (rd : SDst) (xp : SSrc)
  /-- SLOTRD_T. Reads slot state (R272). -/
  | slotrdT (g : Guard) (rd : SDst) (xp : SSrc)
  /-- SFRAME. Takes an input entry (R323). -/
  | sframe (g : Guard) (gd : Fin 8) (rd : SDst) (xs : SSrc)
  /-- SEMIT. Offers an output value (R324). -/
  | semit (g : Guard) (gd : Fin 8) (rd : SDst) (xs xv : SSrc)
  /-- SCUR_GNC. Reads stream state (R325). -/
  | scurGnc (g : Guard) (rd : SDst) (xs : SSrc)
  /-- SCUR_PBC. Reads stream state (R325). -/
  | scurPbc (g : Guard) (rd : SDst) (xs : SSrc)
  /-- SCUR_TP. Reads stream state (R325). -/
  | scurTp (g : Guard) (rd : SDst) (xs : SSrc)
  /-- SCUR_NSEQ. Reads stream state (R325). -/
  | scurNseq (g : Guard) (rd : SDst) (xs : SSrc)
  /-- SCUR_SNAPSHOTS. Reads stream state (R325). -/
  | scurSnapshots (g : Guard) (rd : SDst) (xs : SSrc)
  /-- SCUR_LOSS. Reads stream state (R325). -/
  | scurLoss (g : Guard) (rd : SDst) (xs : SSrc)
  /-- SCUR_DROPS. Reads stream state (R325). -/
  | scurDrops (g : Guard) (rd : SDst) (xs : SSrc)
  /-- STRUNC. Performs the truncation (R327). -/
  | strunc (g : Guard) (rd : SDst) (xs : SSrc)
  /-- SSNAP. Registers a snapshot (R326). -/
  | ssnap (g : Guard) (rd : SDst) (xs xp : SSrc)
  /-- SOWN_OWNER. Stream ownership (R328). -/
  | sownOwner (g : Guard) (xs xo : SSrc)
  /-- SOWN_OPEN. Stream ownership (R328). -/
  | sownOpen (g : Guard) (xs xo : SSrc)
  /-- SOWN_CLOSE. Stream ownership (R328). -/
  | sownClose (g : Guard) (xs xo : SSrc)
  /-- SWDECL. Declares a tensor (R355). -/
  | swdecl (g : Guard) (rd : SDst) (xa : SSrc)
  /-- SWDECL_O. Sets a tensor's owner (R355). -/
  | swdeclO (g : Guard) (xt xo : SSrc)
  /-- SWGO. Requests sweeps or a wake (R355). -/
  | swgo (g : Guard) (xt xn : SSrc)
  /-- SWGO_C. Requests sweeps or a wake (R355). -/
  | swgoC (g : Guard) (xt xn : SSrc)
  /-- SWGO_W. Wakes an element (R355); `res`: the reserved op 3, which raises ILLEGAL (R354). -/
  | swgoW (g : Guard) (res : Bool) (xt xn : SSrc)
  /-- SWSTOP. Stops sweeps (R355). -/
  | swstop (g : Guard) (xt : SSrc)
  /-- SWSTOP_D. Stops sweeps (R355). -/
  | swstopD (g : Guard) (xt : SSrc)
  /-- SWSTAT_SN. Reads tensor state (R355). -/
  | swstatSn (g : Guard) (rd : SDst) (xt : SSrc)
  /-- SWSTAT_POS. Reads tensor state (R355). -/
  | swstatPos (g : Guard) (rd : SDst) (xt : SSrc)
  /-- SWSTAT_PEND. Reads tensor state (R355). -/
  | swstatPend (g : Guard) (rd : SDst) (xt : SSrc)
  /-- SWSTAT_LOSS. Reads tensor state (R355). -/
  | swstatLoss (g : Guard) (rd : SDst) (xt : SSrc)
  /-- CNTCFG. Configures a counter (R369). -/
  | cntcfg (g : Guard) (id : BitVec 12) (a : SSrc)
  /-- CNTRD. Reads a counter (R369). -/
  | cntrd (g : Guard) (rd : SDst) (id : BitVec 12)
  /-- CNTRD_C. Reads a counter's configuration (R369). -/
  | cntrdC (g : Guard) (rd : SDst) (id : BitVec 12)
  /-- CNTWR. Writes a counter (R369). -/
  | cntwr (g : Guard) (id : BitVec 12) (a : SSrc)
  /-- CNTSV. Saves or loads a counter group (R369). -/
  | cntsv (g : Guard) (grp : Fin 4) (a : SSrc)
  /-- CNTLD. Saves or loads a counter group (R369). -/
  | cntld (g : Guard) (grp : Fin 4) (a : SSrc)
  /-- BKPT. Raises BKPT (R385). -/
  | bkpt (g : Guard) (n : BitVec 16)
  /-- BKPT_W. Writes a debug item (R385). -/
  | bkptW (g : Guard) (a b : SSrc)
  /-- BKPT_R. Reads a debug item (R385). -/
  | bkptR (g : Guard) (rd : SDst) (a : SSrc)
  /-- BKPT_S. Stops or releases a context (R385). -/
  | bkptS (g : Guard) (a b : SSrc)
  /-- BKPT_F. Sounds the foghorn (R385). -/
  | bkptF (g : Guard)
  /-- BKPT_T. Thaws (R385); `op` above 0 stands for the reserved ops 6 to 15, which raise ILLEGAL. -/
  | bkptT (g : Guard) (op : Fin 11) (a : SSrc)
  /-- TMARK. Produces a mark record (R379). -/
  | tmark (g : Guard) (a : SSrc) (imm : Imm)
  /-- TMARK_O. Opens a trace session (R379). -/
  | tmarkO (g : Guard) (a : SSrc) (imm : Imm)
  /-- TMARK_C. Closes a trace session (R379). -/
  | tmarkC (g : Guard) (form : Form)
  /-- RMARK. Logs or checks the checksum (R384). -/
  | rmark (g : Guard) (a : SSrc) (imm : Imm)
  /-- TRET. Returns from the handler (R392). -/
  | tret (g : Guard)
  /-- YIELD. Yields (R394). -/
  | yield (g : Guard) (rd : SDst)
  /-- CSAVE. Saves or restores a context image (R401, R402). -/
  | csave (g : Guard) (xa xc : SSrc)
  /-- ENDL. Completes the current iteration (R111). -/
  | endl
  /-- RESERVED_ENCODING. An issued word that R79 reserves. -/
  | reservedEncoding
  /-- CREST. Saves or restores a context image (R401, R402). -/
  | crest (g : Guard) (xa xc : SSrc)
  /-- PAIR_WORD. A scalar half and a vector half under one guard (R68 to R70). -/
  | pairWord (g : Guard) (sh vh : Instr)
  /-- POWER_ON. The supply is stable; boot (R409). -/
  | powerOn
  /-- COMMIT. Recovery command: verify and store the staged image (R410). -/
  | commit
  /-- LINK_EVENT. A port link goes up or down (R302). -/
  | linkEvent (port : Fin 32) (up : Bool)
  /-- SCRUB. A scrubber meets a word; `bad`: uncorrectable (R412, R413). -/
  | scrub (loc : Nat) (bad : Bool)
  /-- QUEUE_SRAM_ERROR. Uncorrectable error in a queue-SRAM entry or a dependence counter (R291). -/
  | queueSramError (cl : Nat) (counter : Bool) (idx : Nat)
  /-- LAUNCH. Dvorade LAUNCH (R23, R305). -/
  | launch (req : HostReq)
  /-- START_MESSAGE. The start message at place `i` of the network reaches its core (R23, R25). -/
  | startMessage (i : Nat)
  /-- LAUNCH_COMPLETE. The completion word of launch `i` has reached NCORE (R23). -/
  | launchComplete (i : Nat)
  /-- WRITE. Dvorade WRITE (R305). -/
  | write (req : HostReq)
  /-- READ. Dvorade READ (R305). -/
  | read (req : HostReq)
  /-- MAP. Dvorade MAP (R305, R218). -/
  | map (req : HostReq)
  /-- UNMAP. Dvorade UNMAP (R305, R218). -/
  | unmap (req : HostReq)
  /-- SHARE. Dvorade SHARE (R305). -/
  | share (req : HostReq)
  /-- GROUP. Dvorade GROUP (R305). -/
  | group (req : HostReq)
  /-- SESSION_DEFINE. Dvorade SESSION, SOP 0 (R310). -/
  | sessionDefine (req : HostReq)
  /-- SESSION_REMOVE. Dvorade SESSION, SOP 1 (R305). -/
  | sessionRemove (req : HostReq)
  /-- PSTART. Dvorade PSTART (R305, R204). -/
  | pstart (req : HostReq)
  /-- PSTOP. Dvorade PSTOP (R305). -/
  | pstop (req : HostReq)
  /-- STATUS. Dvorade STATUS (R415, R418). -/
  | status (req : HostReq)
  /-- MAILBOX_REQUEST. The forwarded message at place `i` of the network reaches its service core (R307). -/
  | mailboxRequest (i : Nat)
  /-- STOP_REPORT. The 0x41 event at place `i` of the network reaches its service core (R391, R418). -/
  | stopReport (i : Nat)
  /-- RELAY_FORWARD. The relay forwards a packet to module `dst` (R308). -/
  | relayForward (die : Fin 4) (dst : BitVec 32) (packet : Packet)
  /-- ROUND_CONTRIBUTION. The relay acquires CS and reads the contribution of a round (R312). -/
  | roundContribution (sid : Nat)
  /-- TREE_COMBINE. A node combines its two inputs (R311); `remote` are packets from other modules. -/
  | treeCombine (sid level node : Nat) (remote : List (Nat × Nat × List Lane × BitVec 5))
  /-- ROUND_RESULT. The root's value reaches this member (R312). -/
  | roundResult (sid : Nat) (remote : Option (List Lane × BitVec 5))
  /-- MEMBER_UNREACHABLE. UET reports a member unreachable (R314). -/
  | memberUnreachable (sid : Nat)
  /-- INPUT_FRAME. An input frame is taken (R317 to R320). -/
  | inputFrame (f : Frame)
  /-- ACK_FRAME. An ack frame is taken (R317 to R320). -/
  | ackFrame (f : Frame)
  /-- BARGE_FRAME. A barge frame is taken (R317 to R320). -/
  | bargeFrame (f : Frame)
  /-- OUTPUT_RECORD_SEND. The stream unit sends its next output record (R320). -/
  | outputRecordSend (sid : Nat)
  /-- SWEEP_PERIOD. A period of PER tender cycles ends (R348). -/
  | sweepPeriod (cl t : Nat)
  /-- SWEEP_START. The tender begins the oldest requested sweep (R348, R349). -/
  | sweepStart (cl : Nat)
  /-- ELEMENT_VISIT. A visit of the next awake element (R344). -/
  | elementVisit (cl : Nat)
  /-- VISIT_OVERRUN. A visit of the next awake element that spends its step budget (R344, R419). -/
  | visitOverrun (cl : Nat)
  /-- SWEEP_RELEASE. The sweep writes the skip map and releases SYNC (R349). -/
  | sweepRelease (cl : Nat)
  /-- INSTRUCTION_FETCH. A context's fetch block is read as an M4 load (R417). -/
  | instructionFetch (core ctx : Nat) (block : Word) (cut : Nat)
  /-- MEMORY_REPLY. The reply of a context's request arrives (R222); `cuts` bounds the write each unit of a load returns (R247). -/
  | memoryReply (core ctx : Nat) (cuts : List Nat)
  /-- DRAIN. M2: buffered write `i` moves to its agent's group store (R247). -/
  | drain (i : Nat)
  /-- LIFT. M3: the write of that stamp is offered to the next store above (R247). -/
  | lift (store stamp : Nat)
  /-- ACQUIRE_MOVE. The acquire move of a waiting ACQ (R249). -/
  | acquireMove (core ctx : Nat)
  /-- RELEASE_MOVE. The release move of a waiting REL (R250). -/
  | releaseMove (core ctx : Nat)
  /-- FENCE_MOVE. The fence move of a waiting FENCE (R251). -/
  | fenceMove (core ctx : Nat)
  /-- ATOMIC_MOVE. The indivisible move of an atomic or full/empty request (R252). -/
  | atomicMove (core ctx : Nat)
  /-- TLB_WALK_COMPLETE. The walk of pending page `i` of a miss queue ends (R216). -/
  | tlbWalkComplete (cl i : Nat)
  /-- FRT_WINDOW. A far-read window ends (R269). -/
  | frtWindow (die : Nat)
  /-- COPY_CHUNK_LAND. Every byte of a chunk has been written (R238), or the chunk faults (R239). -/
  | copyChunkLand (core tag chunk : Nat)
  /-- COPY_COMPLETE. A copy releases and sets its CPDONE bit (R238). -/
  | copyComplete (core tag : Nat)
  /-- FREEBACK_COMBINE. The reverse tree forwards a complete set of frees to the sender's mailbox (R241). -/
  | freebackCombine (core tag : Nat)
  /-- MATRIX_COMPLETE. The array completes its operation (R196). -/
  | matrixComplete (core : Nat)
  /-- WEIGHT_LOAD_COMPLETE. A WBLD or LDT writes the weight buffer (R194). -/
  | weightLoadComplete (core ctx : Nat)
  /-- SWAPT_COMPLETE. A matched exchange writes both accumulators (R201). -/
  | swaptComplete (core ctx : Nat)
  /-- FOLD_SWAP. A barrel core takes in another virtual core's image (R202, R208). -/
  | foldSwap (phys virt : Nat)
  /-- SLOT_CHANGE. The home core applies pending slot change `i` (R268). -/
  | slotChange (i : Nat)
  /-- BINDING_CHANGE. The binding table applies pending change `i` (R339). -/
  | bindingChange (part i : Nat)
  /-- L2_BANK_CHANGE. A counter write reaches its L2 bank (R405). -/
  | l2BankChange (die i : Nat)
  /-- MESSAGE_DEPART. The oldest message leaves the send queue (R297). -/
  | messageDepart (core : Nat)
  /-- MESSAGE_ENTRY. The message at place `i` of the network enters its mailbox (R297). -/
  | messageEntry (i : Nat)
  /-- REPLY_ARRIVAL. The reply at place `i` of the network reaches its slot (R300). -/
  | replyArrival (i : Nat)
  /-- TASK_DISPATCH. The dispenser chooses a task for the oldest eligible waiter (R286, R287). -/
  | taskDispatch (cl : Nat)
  /-- FOOTPRINT_FETCH_COMPLETE. The footprint copy of a dispatched task ends (R287). -/
  | footprintFetchComplete (core ctx : Nat)
  /-- RING_REFILL. The dispenser moves a ring entry into queue SRAM (R288). -/
  | ringRefill (cl : Nat)
  /-- DEADLINE_EXPIRY. Contexts whose YDL has expired are pre-empted (R393). -/
  | deadlineExpiry (core : Nat)
  /-- PREEMPTION_COMPLETE. The module collector holds every acknowledgement (R397, R259). -/
  | preemptionComplete (part : Nat)
  /-- COUNTER_OVERFLOW. An overflowed counter sends its event (R367). -/
  | counterOverflow (l2 : Bool) (place : Nat)
  /-- PC_SAMPLE. The sampler writes a due record (R366). -/
  | pcSample (core : Nat)
  /-- STEP_EXPIRY. STEPS has reached 0 (R374). -/
  | stepExpiry (core ctx : Nat)
  /-- FOGHORN_CORE_STOP. The halt tree reaches a core (R376, R377). -/
  | foghornCoreStop (core : Nat)
  /-- TRACE_TAIL_SEND. A trace tail sends its oldest record (R380). -/
  | traceTailSend (core ctx : Nat)
  /-- CORE_CYCLE. One unfrozen cycle of a core (R12, R15, R359 to R363). -/
  | coreCycle (core : Nat)
  /-- WORLD_SWITCH. Firmware switches partitions (R403, R404); `homes` gives each virtual core of the incoming partition its barrel core. -/
  | worldSwitch (out inn : Nat) (slice : Word) (homes : List (Nat × Nat))
  /-- POWER_LOSS. The supply is lost (R410, R411). -/
  | powerLoss
  /-- ATTESTATION. Firmware signs an attestation (R411). -/
  | attestation (nonce : List Byte)
  deriving DecidableEq, Repr, Inhabited

end Sys2Proof
end

