-- ==== Sys2Proof/Machine/State.lean ====
section
/-! DEFINITION. The state: everything the spec gives the machine, as plain data, and the state after reset. Register
widths follow R82, R84, R93, R190, R203, R220, R264, R276, R302, R315, R329, R340, R359 and R370; the last fields are the
model's own. -/

namespace Sys2Proof.Machine

/-- A sparse table: entries by rising key; a key that is absent holds its default. -/
abbrev Tbl (α : Type) := List (Nat × α)

/-- The faults of R386. -/
inductive FaultCode where
  | illegal | slot | place | priv | fmt | align | page | prot | seg | space | vread0 | fnest | frame | queue | futpool
  | notag | bind | stream | lateframe | bkpt | watch | step | ue | trap
  deriving DecidableEq, Repr, Inhabited

/-- The access kind of a cause: R389 field ACC. -/
inductive Acc where
  | read | write | fetch | none
  deriving DecidableEq, Repr, Inhabited

/-- A fault with what TCAUSE and TVAL will hold of it (R386, R389). -/
structure Cause where
  code : FaultCode
  tval : Word := 0
  acc : Acc := .none
  kind : Fin 4 := 0
  level : Fin 4 := 0
  ctag : Option (Fin 64) := none
  /-- The instruction that raised it, where TPC holds the next one (R378, R386). -/
  pc : Option Word := none
  deriving DecidableEq, Repr, Inhabited

/-- The classes of R15. -/
inductive SlotClass where
  | iss | wmem | wmsg | wver | vac
  deriving DecidableEq, Repr, Inhabited

/-- The agents of the ordering machine (R243): a context stands for itself or for the loop it opened. -/
inductive Agent where
  | ctx (core ctx : Nat)
  | copy (core tag : Nat)
  /-- Sweep `n` of tensor `t` of a cluster (R349). -/
  | sweep (cl t n : Nat)
  | foot (core ctx : Nat)
  | dispenser (cl : Nat)
  | sampler (core : Nat)
  | svc (n : Nat)
  | stream (die : Nat)
  | relay (die : Nat)
  | log (part : Nat)
  deriving DecidableEq, Repr, Inhabited

/-- The scopes of R246. -/
inductive Scope where
  | group | device | system
  deriving DecidableEq, Repr, Inhabited

/-- A byte with the stamp of its write (R246). -/
structure Held where
  stamp : Nat
  byte : Byte
  deriving DecidableEq, Repr, Inhabited

/-- A buffered write (R247 M1): the locations of one unit with their bytes. -/
structure BufWrite where
  agent : Agent
  stamp : Nat
  cells : List Host.Cell
  deriving DecidableEq, Repr, Inhabited

/-- Memory: a list of cells in canonical form (see `Memory.wf`). An unlisted location reads as 0. -/
abbrev Memory := List Host.Cell

/-- The memories and the ordering machine (R203, R246). A location is one physical byte (see `Loc`). -/
structure MemSys where
  d : Memory := []
  dStamp : Tbl Nat := []
  g : Tbl (Tbl Held) := []
  y : Tbl Held := []
  /-- The write that every group store holds at least: the atomics' (R252). -/
  floor : Tbl Held := []
  bufs : List BufWrite := []
  views : List (Agent × Tbl Held) := []
  /-- The stamp of each agent's newest write of a location (R249, R250). -/
  own : List (Agent × Tbl Nat) := []
  next : Nat := 1
  /-- The locations of each write of several bytes, by stamp: one unit for every move (R244). -/
  units : Tbl (List Nat) := []
  /-- The aligned words whose full/empty bit is empty (R219). -/
  empty : List Nat := []
  /-- The aligned words that hold an uncorrectable error (R413). -/
  bad : List Nat := []
  deriving DecidableEq, Repr, Inhabited

/-- A v register, w version or vector queue entry: 32 lanes and a tag (R82). -/
structure VReg where
  bits : BitVec 1024 := 0
  tag : Tag := .raw
  deriving DecidableEq, Repr, Inhabited

/-- A z register (R82, R190). -/
structure ZReg where
  bits : BitVec 8192 := 0
  tag : Tag := .raw
  deriving DecidableEq, Repr, Inhabited

/-- The KV side of a store: the core and slot whose length it extends, that length, and the address of each of its units, by which a
held store is translated at its own move (R267, R268). -/
structure KvExt where
  core : Nat
  slot : Nat
  len : Nat
  addrs : List Nat
  deriving DecidableEq, Repr, Inhabited

/-- The effect an instruction has decided on and not yet made: a write of a register, a push, flags. -/
inductive Put where
  | s (d : SDst) (v : Word)
  | v (d : VDst) (mask : Lane) (bits : BitVec 1024) (t : Tag)
  | g (n : Fin 8) (mask bits : Lane)
  | z (n : Fin 2) (bits : BitVec 8192) (t : Tag)
  | ff (f : BitVec 5)
  /-- A store of one store-queue entry (R107): the bytes of each of its units, whether it is the last of its instruction
  (R363), and its KV side. -/
  | mem (units : List (List Host.Cell)) (last : Bool) (ext : Option KvExt)
  deriving DecidableEq, Repr, Inhabited

/-- An entry of a hardware queue (R277). -/
inductive QEntry where
  | s (v : Word)
  | v (r : VReg)
  deriving DecidableEq, Repr, Inhabited

/-- A control block (R399): delay state, repeat state, the BARW phase. -/
structure CtlBlock where
  target : Word := 0
  left : Nat := 0
  taken : Bool := false
  start : Word := 0
  passes : Word := 0
  blen : Nat := 0
  pos : Nat := 0
  active : Bool := false
  phase : BitVec 32 := 0
  barw : Bool := false
  deriving DecidableEq, Repr, Inhabited

/-- DBC (R372). -/
structure Dbc where
  stop : Bool := false
  steps : BitVec 16 := 0
  stt : Bool := false
  wgv : Bool := false
  wg : BitVec 4 := 0
  deriving DecidableEq, Repr, Inhabited

/-- The trace session and tail (R370, R380). -/
structure Trace where
  mask : BitVec 32 := 0
  opened : Bool := false
  loss : BitVec 32 := 0
  tail : List (List Word) := []
  deriving DecidableEq, Repr, Inhabited

/-- A reply slot (R276). -/
inductive RSlot where
  | empty
  | pending
  | full (v : Word)
  deriving DecidableEq, Repr, Inhabited

/-- The exchange slot (R190, R201). `m` is the cycle of the match with the partner's accumulator as sent. -/
structure Exch where
  key : Byte
  t : Bool
  zd : Fin 2
  zs : Fin 2
  matched : Option (Nat × ZReg) := none
  deriving DecidableEq, Repr, Inhabited

/-- A leaf of the page tables as the TLBs hold it (R212, R215). -/
structure Leaf where
  part : Nat
  base : Nat
  size : Nat
  pa : Nat
  r : Bool
  w : Bool
  x : Bool
  nc : Bool
  level : Fin 4
  deriving DecidableEq, Repr, Inhabited

/-- What a walk of a page ends with (R213, R216). -/
inductive WalkResult where
  | leaf (l : Leaf)
  | fault (level : Fin 4) (malformed : Bool)
  deriving DecidableEq, Repr, Inhabited

/-- A unit of a load that reads as one (R244): its locations and the held store bytes that come before memory (R108). -/
structure LUnit where
  locs : List Nat
  own : List (Option Byte)
  deriving DecidableEq, Repr, Inhabited

/-- What a load does with its bytes at the reply. -/
inductive LoadFin where
  | scalar (d : SDst) (bytes : Nat) (signed : Bool)
  | lanes (d : VDst) (mask : Lane)
  | gather (d : VDst) (mask : Lane) (f : Cause)
  | acc (z : Fin 2) (t : Tag)
  | counters (grp : Fin 4) (a : Word)
  deriving DecidableEq, Repr, Inhabited

/-- The atomics of R234. -/
inductive AtomOp where
  | add | min | max | xch | cas | and | or
  deriving DecidableEq, Repr, Inhabited

/-- The operations of major 0x11 (R231). -/
inductive FeOp where
  | lde | stf | ldf | fempty | futr | futw
  deriving DecidableEq, Repr, Inhabited

/-- A value that another unit reads when the request reaches it (R355, R369). -/
inductive Ask where
  /-- Counter `id` of an L2 bank or the fabric, or its configuration. -/
  | cnt (id : Nat) (cfg : Bool) (rd : SDst)
  /-- The L2 counter group, stored at some locations. -/
  | save (locs : List Nat)
  /-- A status of a tensor, and what it was at issue. -/
  | tensor (cl t sel : Nat) (old : Word) (rd : SDst)
  deriving DecidableEq, Repr, Inhabited

/-- What a request in flight awaits (R222). -/
inductive PendKind where
  | load (units : List LUnit) (fin : LoadFin) (puts : List Put)
  | atom (op : AtomOp) (w : Bool) (loc addr : Nat) (b c : Word) (rd : SDst)
  | fe (op : FeOp) (loc : Nat) (addr : Word) (b : Word) (rd : SDst)
  /-- A waiter record linked to a word (R231). -/
  | future (rec : Nat) (rd : SDst)
  /-- The move is made; the reply brings the value or the fault. -/
  | value (puts : List Put)
  | fault (f : Cause)
  | acq (sc : Scope) (addr : Word) (loc : Nat) (rd : SDst)
  | rel (sc : Scope) (addr : Word) (loc : Nat) (v : Word)
  | fence (sc : Scope)
  | array
  | weight
  | swapt
  | slotw
  | bind (rd : SDst)
  | rcall (k : Fin 4) (rd : SDst)
  | footprint
  | trunc (rd : SDst) (v : Word) (late : Option Word)
  /-- The bytes of a load that came while its cluster was stopped (R375). -/
  | came (bs : List (List Byte)) (fin : LoadFin) (puts : List Put)
  /-- A value that is taken where the request arrives (R355, R369). -/
  | ask (q : Ask)
  /-- The reply completes the instruction and raises LATEFRAME (R327). -/
  | late (p : Word)
  deriving DecidableEq, Repr, Inhabited

/-- A request in flight: how long its instruction is, the queue entries that belong to it (R65) and the queue entries it has
reserved (R277). -/
structure Pend where
  kind : PendKind
  cls : SlotClass := .wmem
  len : Nat := 8
  popped : List (Nat × QEntry) := []
  reserve : List Nat := []
  deriving DecidableEq, Repr, Inhabited

/-- The condition a waiting thread waits for (R7 Wait, R14). -/
inductive WaitCond where
  /-- The unit that stopped the thread lets it go on. -/
  | held
  | qHas (core q n : Nat)
  | qRoom (core q n : Nat)
  | qIdle (core q : Nat)
  | version (core fix name : Nat) (iter : Int)
  | freed (core fix : Nat) (iter : Int)
  | oldest (core fix iter : Nat)
  | frameFree (core : Nat)
  | storeRoom (core fix n : Nat)
  | walked (cl part page : Nat)
  | tagFree (core : Nat)
  | cpAny (core : Nat) (m : Word)
  | cpAll (core : Nat) (m : Word)
  | mail (core box : Nat)
  | event (core ctx : Nat)
  | exitWord (core : Nat)
  | exitRoom (core : Nat)
  | sendRoom (core : Nat)
  | reply (core ctx : Nat) (k : Fin 4)
  | phase (part set : Nat) (p : BitVec 32)
  /-- Every buffered write of the agent has reached the store of that scope. -/
  | drained (a : Agent) (sc : Scope)
  | swept (cl t : Nat)
  /-- In replay, a tensor's next logged wake is the one of that element, at the present place. -/
  | wakePlace (cl t j : Nat)
  /-- The far-tier lines of a KV read that begins at `line`: die and number (R269). -/
  | farWindow (line : Nat) (need : List (Nat × Nat))
  | fold (phys virt : Nat)
  | replayTurn (part kind : Nat) (key : Word) (core ctx : Nat)
  deriving DecidableEq, Repr, Inhabited

/-- The checkpoint of an iteration's start (R93, R100). -/
structure Ckpt where
  x : Vector Word 32 := Vector.replicate 32 0
  g : Vector Lane 7 := Vector.replicate 7 0
  v : Vector VReg 16 := Vector.replicate 16 {}
  z : Vector ZReg 2 := Vector.replicate 2 {}
  ff : BitVec 5 := 0
  deriving DecidableEq, Repr

/-- Who holds a context (R15, R19). -/
inductive RunState where
  | vacant
  | held
  | parked
  deriving DecidableEq, Repr, Inhabited

/-- A context (R82 to R86, R121, R370, R398). -/
structure Ctx where
  x : Vector Word 32 := Vector.replicate 32 0
  g : Vector Lane 7 := Vector.replicate 7 0
  v : Vector VReg 16 := Vector.replicate 16 {}
  z : Vector ZReg 2 := Vector.replicate 2 {}
  pc : Word := 0
  h : Bool := false
  rm : BitVec 2 := 0
  ff : BitVec 5 := 0
  crew : Nat := 0
  cm : Bool := false
  tcause : Word := 0
  tpc : Word := 0
  tval : Word := 0
  tvec : Word := 0
  ydl : Word := 0
  qmap : BitVec 16 := 0
  bsm : BitVec 32 := 0
  cps : Word := 0
  cpd : Word := 0
  cpxs : Word := 0
  cpys : Word := 0
  cpsz : Word := 0
  cpfl : Word := 0
  live : CtlBlock := {}
  trap : CtlBlock := {}
  counts : Vector Nat 5 := Vector.replicate 5 0
  origin : Option Nat := none
  events : List (Word × Word) := []
  replies : Vector RSlot 4 := Vector.replicate 4 .empty
  dbc : Dbc := {}
  stepDue : Bool := false
  checksum : Word := 0
  trace : Trace := {}
  exch : Option Exch := none
  forced : Bool := false
  yielded : Bool := false
  vcid : Nat := 0
  vctx : Nat := 0
  run : RunState := .vacant
  /-- Stopped by pre-emption (R396). -/
  stopped : Bool := false
  wait : Option (SlotClass × WaitCond) := none
  pend : Option Pend := none
  fetched : List (Word × List Byte) := []
  walks : List (Nat × WalkResult) := []
  /-- The condition of its wait has held since its last attempt: it is ready (R16, R362). -/
  woke : Bool := false
  /-- The dependence counter its task signals at QUIT (R285). -/
  signal : Option Nat := none
  /-- The record of the dispatched task whose footprint is still to be copied (R287). -/
  foot : List Word := []
  deriving DecidableEq, Repr

/-- One version of a loop name (R93, R101). `need` are the lanes whose value is still to be taken from the version before;
names 0 to 15 are l0 to l15, 16 to 23 are w0 to w7. -/
structure Ver where
  name : Nat
  iter : Int
  carried : Bool
  need : Lane
  bits : BitVec 1024
  tag : Tag
  deriving DecidableEq, Repr, Inhabited

/-- A held store (R107): the writes of its units in order. -/
structure HeldStore where
  iter : Nat
  units : List (List Host.Cell)
  /-- The stamp of the newest write when it was made (R108). -/
  made : Nat := 0
  /-- Its KV side (R267, R268). -/
  ext : Option KvExt := none
  deriving DecidableEq, Repr, Inhabited

/-- An iteration begun and not settled (R109). `fault` is the fault held with it (R116). -/
structure Iter where
  i : Nat
  ctx : Nat
  retired : Bool := false
  completed : Bool := false
  committed : Bool := false
  squashed : Bool := false
  fault : Option Cause := none
  ckpt : Ckpt := {}
  deriving DecidableEq, Repr

/-- The states of R94. -/
inductive FrameState where
  | free | seed | run | exit
  deriving DecidableEq, Repr, Inhabited

/-- A loop frame (R93, R94, R400). -/
structure LFrame where
  st : FrameState := .free
  level : Nat := 1
  opener : Nat := 0
  trip : Nat := 0
  w : Nat := 0
  c : Nat := 0
  om : Bool := false
  opn : Bool := false
  body : Word := 0
  fin : Word := 0
  setl : Nat := 0
  brkd : Bool := false
  rst : Bool := false
  last : Int := -1
  members : List Nat := []
  /-- Its members as an image named them, by virtual context, until the loop resumes (R117, R400, R402). -/
  virt : List Nat := []
  vers : List Ver := []
  its : List Iter := []
  held : List HeldStore := []
  deriving DecidableEq, Repr

/-- A hardware queue (R277). -/
structure HwQueue where
  vec : Bool := false
  entries : List QEntry := []
  reserved : Nat := 0
  deriving DecidableEq, Repr, Inhabited

/-- A mailbox (R276). -/
structure Mailbox where
  msgs : List (Word × Word) := []
  count : BitVec 32 := 0
  deriving DecidableEq, Repr, Inhabited

/-- A message on the request network, of a partition (R297). -/
structure Msg where
  part : Nat
  src : Nat
  sctx : Nat
  dst : Nat
  box : Nat
  w0 : Word
  w1 : Word
  sent : Nat
  /-- It is the message of an RCALL: word 1 is its token (R299). -/
  call : Bool := false
  deriving DecidableEq, Repr, Inhabited

/-- A start message (R23). -/
structure StartMsg where
  part : Nat
  core : Nat
  pc : Word
  args : List Word
  /-- What the device store held when it was sent (R257, R263; log 128). -/
  view : Option (Tbl Held) := none
  deriving DecidableEq, Repr, Inhabited

/-- What is in flight on the networks (R23, R297, R300, R302, R391). -/
inductive NetItem where
  | msg (m : Msg)
  /-- A message to mailbox 253, forwarded to its service core (R307). -/
  | forward (m : Msg) (scn : Nat)
  | reply (part core ctx : Nat) (slot : Fin 4) (v : Word)
  | start (m : StartMsg)
  | stop (scn : Nat) (core part : Nat) (w0 w1 : Word)
  deriving DecidableEq, Repr, Inhabited

/-- The record kinds of the waiter pool (R220, R352). -/
inductive WKind where
  | read
  | consume
  | buoy (cl tensor elem : Nat)
  deriving DecidableEq, Repr, Inhabited

/-- A record of the waiter pool (R220). -/
structure WRec where
  ctx : Nat
  rd : SDst
  kind : WKind
  addr : Word
  link : Option (Nat × Nat) := none
  delivered : Bool := false
  /-- Its context was terminated: the record is freed without effect (R292). -/
  dead : Bool := false
  val : Word := 0
  deriving DecidableEq, Repr, Inhabited

/-- The states of a copy tag (R220, R237). -/
inductive TagState where
  | flight | done | faulted
  deriving DecidableEq, Repr, Inhabited

/-- A copy tag that is not free (R220, R237 to R241). -/
structure CopyTag where
  st : TagState
  map : Word
  rmap : Word := 0
  ctx : Nat
  part : Nat
  cps : Word
  cpd : Word
  cpxs : Word
  cpys : Word
  cpsz : Word
  cpfl : Word
  /-- The sync words that it acquires and releases. -/
  aq : Option Word := none
  rl : Option Word := none
  acquired : Bool := false
  fault : Option Cause := none
  /-- Chunks landed at each receiver of a multicast copy (R241). -/
  rcv : Tbl Word := []
  /-- The bytes of chunks of a multicast copy that have been read and have not landed everywhere (R241). -/
  got : Tbl (List Byte) := []
  deriving DecidableEq, Repr, Inhabited

/-- The reverse tree of a multicast token (R241): its receivers, the mailbox that counts, the frees each receiver has sent
and those forwarded. -/
structure FreeTree where
  mask : Word
  fbox : Nat
  frees : Tbl Nat := []
  forwarded : Nat := 0
  deriving DecidableEq, Repr, Inhabited

/-- A slot table entry (R265). -/
structure Slot where
  a : Word := 0
  b : Word := 0
  deriving DecidableEq, Repr, Inhabited

/-- A counter with its configuration (R363). -/
structure PCnt where
  val : Nat := 0
  cfg : Word := 0
  deriving DecidableEq, Repr, Inhabited

/-- The sampler (R366). `due` is the record to write. -/
structure Sampler where
  cfg : Word := 0
  base : Word := 0
  index : Nat := 0
  run : Nat := 0
  due : List (Word × Word) := []
  deriving DecidableEq, Repr, Inhabited

/-- An access to the weight buffer or an operation of the array, in order of issue (R195, R196). -/
structure WAcc where
  ctx : Nat
  /-- Bytes of the weight buffer it touches. -/
  lo : Nat
  hi : Nat
  /-- A WBLD or LDT: the descriptor, the source address, and whether it transposes. -/
  load : Option (Word × Word × Bool) := none
  /-- An MMA: 1, 2 or 4 rows a cycle (R196), descriptor, accumulator, activation and scale addresses. -/
  e : Nat := 0
  desc : Word := 0
  z : Fin 2 := 0
  xa : Word := 0
  xs : Word := 0
  /-- The cycle the operation started in and the activation and scale bytes read then (R197). -/
  started : Option (Nat × List Byte × List Byte) := none
  /-- The issuer was squashed or ended: the write is discarded (R198). -/
  dropped : Bool := false
  deriving DecidableEq, Repr, Inhabited

/-- A barrel core, a virtual core under folding, or a service core (R11, R404). -/
structure Core where
  home : Nat := 0
  /-- The physical contexts it may use (R404). -/
  mask : BitVec 16 := 0xFFFF
  partid : Nat := 0
  segb : BitVec 20 := 0
  segl : BitVec 21 := 0x100000
  cyc : Word := 0
  cpdone : Word := 0
  wbuf : List Host.Cell := []
  wq : List WAcc := []
  /-- The cycle in which the array completed its last operation. -/
  arrayFree : Nat := 0
  hwq : Vector HwQueue 8 := Vector.replicate 8 {}
  exitq : List Word := []
  startBuf : Option StartMsg := none
  /-- Its keeper has taken a start message since the partition started (R25). -/
  began : Bool := false
  deque : List Word := []
  pinned : List (Nat × Nat × Nat) := []
  mbox : Tbl Mailbox := []
  sendq : List NetItem := []
  drops : BitVec 32 := 0
  pool : Tbl WRec := []
  tags : Tbl CopyTag := []
  trees : Tbl FreeTree := []
  slots : Tbl Slot := []
  hist : Vector Nat 17 := Vector.replicate 17 0
  pcnt : Vector PCnt 8 := Vector.replicate 8 {}
  sampler : Sampler := {}
  stopCyc : Word := 0
  stopSent : Nat := 0
  stopRecv : Nat := 0
  sent : Nat := 0
  recv : Nat := 0
  tlb : List Leaf := []
  frames : Vector LFrame 2 := Vector.replicate 2 {}
  /-- The virtual core whose lane slices, weight buffer and queues the barrel core holds (R208). -/
  image : Option Nat := none
  /-- The foghorn has reached the core (R376). -/
  halted : Bool := false
  foghornDue : Bool := false
  /-- Configurations and values written in this cycle: from the next cycle on (R369). -/
  cntNew : List (Nat × Option Nat × Option Word) := []
  /-- Events counted in this cycle: event code, context, amount (R363). -/
  cntEv : List (Nat × Nat × Nat) := []
  deriving DecidableEq, Repr

/-- A task record with its arrival number (R283, R284). -/
structure Task where
  queue : Nat
  arrival : Nat
  words : List Word
  poisoned : Bool := false
  deriving DecidableEq, Repr, Inhabited

/-- A task queue (R276, R294). -/
structure TaskQ where
  pri : Nat := 0
  owner : Option (Nat × Nat) := none
  ring : Option (Word × Nat) := none
  armed : Bool := false
  head : Nat := 0
  /-- Arrival numbers of the ring's entries, oldest first. -/
  arrivals : List Nat := []
  deriving DecidableEq, Repr, Inhabited

/-- A swept-tensor table entry (R341), with its awake set. -/
structure Tensor where
  part : Nat
  base : Word
  count : Nat
  stride : Nat
  boff : Nat
  prog : Word
  skip : Word
  sync : Word
  owner : Word
  home : Nat
  sn : BitVec 32 := 0
  run : Bool := false
  pos : Option Nat := none
  pend : Nat := 0
  cont : Bool := false
  per : Nat := 0
  /-- The tender cycle at which the current period began (R348). -/
  since : Nat := 0
  loss : BitVec 32 := 0
  ovr : BitVec 32 := 0
  awake : List Nat := []
  /-- The running sweep has written its skip map (R349 step 3). -/
  mapped : Bool := false
  /-- Outside wakes that replay holds back until their logged place (R347, R383). -/
  late : List (Nat × BitVec 12) := []
  /-- Flags that W0 does not hold yet, by element: those of a visit that runs, which its end writes, and those that could not be
  written (R342, R346). -/
  flags : Tbl (BitVec 12) := []
  held : List (Word × Word) := []
  /-- The owner context went vacant: events are held until a new owner is set (R20). -/
  gone : Bool := false
  deriving DecidableEq, Repr, Inhabited

/-- A pending page of a miss queue (R216), with the requests that joined it: core, context and the page each needs. -/
structure Miss where
  part : Nat
  page : Nat
  joined : List (Nat × Nat × Nat)
  deriving DecidableEq, Repr, Inhabited

/-- A cluster (R276, R340, R370, R215). -/
structure Cluster where
  frozen : Bool := false
  /-- The replies that arrived while it was stopped, in order: the context's request holds what came (R375). -/
  skid : List (Nat × Nat) := []
  tq : Vector TaskQ 16 := Vector.replicate 16 {}
  sram : Tbl Task := []
  deps : Tbl (BitVec 16 × Bool) := []
  /-- The poison log: queue and slot by entry, and the entry written next (R291). -/
  plog : Tbl (Nat × Nat) := []
  plogAt : Nat := 0
  arrival : Nat := 0
  waiters : List (Nat × Nat) := []
  tensors : Tbl Tensor := []
  /-- Requests of sweeps: the cycle, the tensor, their number, and whether continuous mode made them (R348). -/
  requests : List (Nat × Nat × Nat × Bool) := []
  bps : Tbl (Word × Word) := []
  tlb : List Leaf := []
  misses : List Miss := []
  /-- Requests that wait until an entry of the miss queue frees, in order of arrival: partition, page, core, context (R216). -/
  missWait : List (Nat × Nat × Nat × Nat) := []
  deriving DecidableEq, Repr

/-- An entry of the granule map (R209, R264). -/
structure Granule where
  valid : Bool := false
  part : Nat := 0
  lst : Bool := false
  deriving DecidableEq, Repr, Inhabited

/-- A counter write on its way to an L2 bank (R405). -/
structure BankWrite where
  core : Nat
  ctx : Nat
  bank : Nat
  n : Nat
  val : Option Nat
  cfg : Option Word
  deriving DecidableEq, Repr, Inhabited

/-- A C-die (R264, R203, R359, R414). -/
structure Die where
  granules : Vector Granule 16 := Vector.replicate 16 {}
  alloc : Vector (Option Nat) 16 := Vector.replicate 16 none
  frt : Word := 0
  limit : Nat := 0
  admitted : Nat := 0
  /-- KV reads with far-tier lines in order of arrival: agent, number, and the lines still to be admitted (R269). -/
  farq : List (Agent × Nat × Nat) := []
  l2 : List (Nat × Nat) := []
  /-- The pending pages of the die's miss queues in order of entry: cluster, partition, page. The first 64 hold its walkers
  (R215, R216). -/
  walkq : List (Nat × Nat × Nat) := []
  banks : Vector (Vector PCnt 4) 16 := Vector.replicate 16 (Vector.replicate 4 {})
  bankNew : List BankWrite := []
  failed : List Nat := []
  spares : Nat := 0
  deriving DecidableEq, Repr

/-- A barrier set (R330): members by context key, each with its arrived bit and the phase of its last arrival. -/
structure BarSet where
  n : Nat
  scope : Scope
  cl : Nat
  arr : Nat := 0
  ph : BitVec 32 := 0
  members : Tbl (Bool × BitVec 32) := []
  deriving DecidableEq, Repr, Inhabited

/-- A valid entry of the region binding table (R336). -/
structure Binding where
  base : Word
  len : Nat
  sync : Word
  deriving DecidableEq, Repr, Inhabited

/-- A pending change of the binding table (R338, R339): `none` unbinds. -/
structure BindChange where
  core : Nat
  ctx : Nat
  entry : Option Binding
  idx : Nat
  /-- Its thread still awaits the answer. -/
  live : Bool := true
  deriving DecidableEq, Repr, Inhabited

/-- The modes of R382. -/
inductive RMode where
  | off | record | replay
  deriving DecidableEq, Repr, Inhabited

/-- The replay state (R382, R383). -/
structure Replay where
  mode : RMode := .off
  base : Nat := 0
  limit : Nat := 0
  pos : Nat := 0
  full : Bool := false
  seqs : List ((Nat × Word) × Nat) := []
  diverged : Option (Nat × Word × Nat) := none
  deriving DecidableEq, Repr, Inhabited

/-- A pending change of a slot (R268, R271, R273). -/
structure SlotChange where
  core : Nat
  ctx : Nat
  /-- The place value (R270). -/
  place : Word
  sel : Nat
  v : Word
  /-- Its thread still awaits the answer. -/
  live : Bool := true
  deriving DecidableEq, Repr, Inhabited

/-- What a world switch saves of a partition (R403). -/
structure SaveArea where
  cores : Tbl Core := []
  ctxs : Tbl Ctx := []
  clusters : Tbl Cluster := []
  cells : List Host.Cell := []
  empties : List Nat := []
  bads : List Nat := []
  frts : Tbl Word := []
  granules : Tbl Granule := []
  deriving DecidableEq, Repr

/-- A partition (R22, R211, R305, R329, R382). -/
structure Partition where
  started : Bool := false
  sliced : Bool := false
  slice : Word := 0
  trt : Word := 0
  ranges : List (Nat × Nat) := []
  clusters : List Nat := []
  granules : List Nat := []
  resident : Bool := false
  sets : Tbl BarSet := []
  binds : Tbl Binding := []
  bindNew : List BindChange := []
  replay : Replay := {}
  /-- The engines are asked to stop (R397, R403). -/
  stopping : Bool := false
  preempted : Bool := false
  saved : Option SaveArea := none
  deriving DecidableEq, Repr

/-- A launch that awaits its completion word (R23). -/
structure LaunchRec where
  scn : Nat
  req : HostReq
  cw : Word
  ncore : Nat
  deriving DecidableEq, Repr, Inhabited

/-- A stream (R315). -/
structure Stream where
  part : Nat
  endpoint : BitVec 32
  opened : Bool := false
  owner : Word := 0
  gnc : Nat := 0
  pbc : Nat := 0
  nseq : BitVec 32 := 0
  gap : List Frame := []
  irb : Word := 0
  snb : Word := 0
  /-- Entries of the input ring available to SFRAME, oldest first, the held one, and the next to fill. -/
  avail : List Nat := []
  heldEntry : Option Nat := none
  nextIn : Nat := 0
  out : List (Nat × Word) := []
  sentTo : Nat := 0
  tpPos : Nat := 0
  tpPend : Bool := false
  tpLate : Bool := false
  kvb : Word := 0
  snaps : Vector (Option Nat) 16 := Vector.replicate 16 none
  claim : List Nat := []
  newest : Nat := 0
  heldEv : List (Word × Word) := []
  /-- The owner context went vacant: events are held until a new owner is set (R20). -/
  gone : Bool := false
  loss : BitVec 32 := 0
  drops : BitVec 32 := 0
  gapTold : Option (BitVec 32) := none
  faultTold : Option (BitVec 32) := none
  deriving DecidableEq, Repr

/-- A session (R310, R312), with the state of its round: contributions by tree place, results. -/
structure Session where
  part : Nat
  kind : Nat
  grp : Nat
  n : Nat
  ca : Word
  cs : Word
  ra : Word
  rs : Word
  round : Nat := 0
  contributed : Bool := false
  values : List ((Nat × Nat) × List Lane × BitVec 5) := []
  refused : Bool := false
  deriving DecidableEq, Repr, Inhabited

/-- A reply to a host request (R303). -/
structure HostReply where
  ver : Nat
  flags : Nat
  scn : Nat
  op : Nat
  part : Nat
  seq : BitVec 32
  htag : Word
  len : Nat
  body : List Byte
  deriving DecidableEq, Repr, Inhabited

/-- An outbound stream frame (R317). -/
structure OutFrame where
  sid : Nat
  kind : Nat
  pos : Nat
  val : Word
  deriving DecidableEq, Repr, Inhabited

/-- A UET acknowledgement of an inbound frame (R317, R318). -/
structure FrameAck where
  endpoint : BitVec 32
  sid : BitVec 16
  seq : BitVec 32
  deriving DecidableEq, Repr, Inhabited

/-- A packet that the relay has forwarded: the port it left by (R308). -/
structure OutPacket where
  port : Nat
  dst : BitVec 32
  payload : List Byte
  deriving DecidableEq, Repr, Inhabited

/-- A packet of a round on its way to another member: the value of a node, or the result when it names none (R309, R312). -/
structure RoundPacket where
  dst : Nat
  sid : Nat
  round : Nat
  node : Option (Nat × Nat)
  value : List Lane
  flags : BitVec 5
  deriving DecidableEq, Repr, Inhabited

/-- A service core: whether it runs or is mapped out, and its stop reports (R21, R409, R418). -/
structure Service where
  released : Bool := false
  gone : Bool := false
  reports : List (Nat × Nat × Word × Word) := []
  dropped : Nat := 0
  deriving DecidableEq, Repr, Inhabited

/-- The power and boot state (R409, R410). -/
inductive Power where
  | off | on | recovery
  deriving DecidableEq, Repr, Inhabited

/-- The instruction being issued: the context's core and number. -/
abbrev Acting := Nat × Nat

/-- The machine. -/
structure State where
  cores : Tbl Core := []
  ctxs : Tbl Ctx := []
  clusters : Tbl Cluster := []
  dies : Tbl Die := []
  parts : Tbl Partition := []
  streams : Tbl Stream := []
  services : Tbl Service := []
  mem : MemSys := {}
  net : List NetItem := []
  slotNew : List SlotChange := []
  launches : List LaunchRec := []
  links : BitVec 32 := 0
  /-- The UET endpoint state of each port (R302). -/
  uet : Tbl Word := []
  fwd : Tbl (Tbl (BitVec 8)) := []
  groups : Tbl (List Nat) := []
  sessions : Tbl Session := []
  fabric : Vector Nat 8 := Vector.replicate 8 0
  pktDrops : BitVec 32 := 0
  frameDrops : Vector Nat 4 := Vector.replicate 4 0
  power : Power := .off
  store : List Byte := []
  staging : List Host.Cell := []
  /-- A power loss has cut a commit short: the store does not verify (R410). -/
  torn : Bool := false
  keyNext : Nat := 0
  keyWindow : Nat := 0
  keyUsed : Nat := 0
  repl : Bool := false
  sreq : Bool := false
  recov : Bool := false
  keyx : Bool := false
  /-- Corrected errors counted (R413). -/
  corrected : Nat := 0
  /-- Overflow events to send: partition, core, owner context, counter, CYC (R367). -/
  ovfDue : List (Nat × Nat × Nat × Nat × Word) := []
  /-- Those of L2 counters: bank, owner core, counter, CYC (R367). -/
  l2Pending : List (Nat × Nat × Nat × Word) := []
  hostOut : List HostReply := []
  frameOut : List OutFrame := []
  ackOut : List FrameAck := []
  packetOut : List OutPacket := []
  roundOut : List RoundPacket := []
  traceOut : List (Nat × List Word) := []
  attest : List (Nat × List Byte) := []
  /-- The model's own: the moves to come, the number of choices made, the acting context, its slot's class. -/
  agenda : List Instr := []
  tick : Nat := 0
  fresh : Nat := 0
  cur : Acting := (0, 0)
  issue : Option Acting := none
  acct : SlotClass := .iss
  deriving DecidableEq, Repr

/-- Why a step stops. -/
inductive Fault where
  /-- The supply is off: no unit of the module steps but the boot itself (R409). Raised by `step`, and by no meaning, when a
  slot is to issue or an event is to come. Safe: the spec gives the module no behaviour then (log 3). -/
  | unpowered
  deriving DecidableEq, Repr, Inhabited

/-- Why an instruction has no meaning. -/
inductive Refusal where
  /-- An instruction the model does not give a meaning yet, by its mnemonic. Safe: the run stops. -/
  | notModelled (mnemonic : String)
  deriving DecidableEq, Repr, Inhabited

/-- The machine before its supply is first stable: every register at its reset value, no memory listed (log 5, log 10). -/
def State.reset : State := {}

end Sys2Proof.Machine
end

