-- ==== Sys2Proof/Machine/Table.lean ====
section
/-! DEFINITION. Tables by rising key, association lists, and the canonical memory. -/

namespace Sys2Proof.Machine

variable {α β : Type}

/-- The entry of a key. -/
def tget : Tbl α → Nat → Option α
  | [], _ => none
  | (j, a) :: r, k => if j = k then some a else tget r k

/-- The entry of a key, or a default. -/
def tgetD (t : Tbl α) (k : Nat) (d : α) : α := (tget t k).getD d

/-- Sets the entry of a key, keeping the order. -/
def tset : Tbl α → Nat → α → Tbl α
  | [], k, a => [(k, a)]
  | (j, b) :: r, k, a =>
    if k < j then (k, a) :: (j, b) :: r else if j = k then (k, a) :: r else (j, b) :: tset r k a

/-- Removes a key. -/
def tdel : Tbl α → Nat → Tbl α
  | [], _ => []
  | (j, b) :: r, k => if j = k then r else (j, b) :: tdel r k

/-- The keys are strictly rising. -/
def rising : List Nat → Bool
  | [] => true
  | [_] => true
  | a :: b :: r => decide (a < b) && rising (b :: r)

/-- The entry of a key in an association list without order. -/
def aget [DecidableEq β] : List (β × α) → β → Option α
  | [], _ => none
  | (j, a) :: r, k => if j = k then some a else aget r k

/-- Sets the entry of a key of an association list. -/
def aset [DecidableEq β] : List (β × α) → β → α → List (β × α)
  | [], k, a => [(k, a)]
  | (j, b) :: r, k, a => if j = k then (k, a) :: r else (j, b) :: aset r k a

/-- Reads one byte: an unlisted location reads as 0 (log 2). -/
def Memory.get (m : Memory) (l : Nat) : Byte := tgetD m l 0

/-- Writes one byte and keeps the canonical form: a 0 is not listed. -/
def Memory.set (m : Memory) (l : Nat) (b : Byte) : Memory := if b = 0 then tdel m l else tset m l b

/-- The canonical form: strictly rising locations, no listed 0 (log 2). -/
def Memory.wf (m : Memory) : Bool := rising (m.map Prod.fst) && m.all (fun c => decide (c.2 ≠ 0))

/-- The little-endian number of a list of bytes (R59). -/
def leVal : List Byte → Nat
  | [] => 0
  | b :: r => b.toNat + 256 * leVal r

/-- The `n` low bytes of a number, little-endian (R59). -/
def leCut : Nat → Nat → List Byte
  | 0, _ => []
  | n + 1, v => BitVec.ofNat 8 v :: leCut n (v / 256)

/-- The locations `l`, `l + 1`, … of `n` bytes. -/
def locsFrom (l : Nat) : Nat → List Nat
  | 0 => []
  | n + 1 => l :: locsFrom (l + 1) n

/-- Replaces the element at a place of a list. -/
def lset (l : List α) (i : Nat) (a : α) : List α := l.set i a

/-- Removes the element at a place of a list. -/
def ldel (l : List α) (i : Nat) : List α := l.eraseIdx i

end Sys2Proof.Machine
end

