-- ==== Sys2Proof/Machine/Lanes.lean ====
section
/-! DEFINITION. Lanes of vector and accumulator values (R82): access, construction and merging by a mask. -/

namespace Sys2Proof.Machine

/-- Lane `n` of a vector value. -/
def getLane (b : BitVec 1024) (n : Nat) : Lane := b.extractLsb' (32 * n) 32

/-- The number whose 32-bit digits are `f 0`, `f 1`, …, from digit `i` on. -/
def packLanes (f : Nat → Lane) (i : Nat) : Nat → Nat
  | 0 => 0
  | n + 1 => (f i).toNat + 2 ^ 32 * packLanes f (i + 1) n

/-- The vector value with those lanes. -/
def ofLanes (f : Nat → Lane) : BitVec 1024 := BitVec.ofNat 1024 (packLanes f 0 32)

/-- Every lane on. -/
def allOn : Lane := 0xFFFF_FFFF

/-- The lanes of `m` from `a`, the others from `b`. -/
def mergeLanes (m : Lane) (a b : BitVec 1024) : BitVec 1024 :=
  if m = allOn then a else if m = 0 then b
  else ofLanes (fun n => if m.getLsbD n then getLane a n else getLane b n)

/-- Element (i, j) of an accumulator lies at bytes 64 i + 4 j (R190, R398). -/
def getElem (z : BitVec 8192) (n : Nat) : Lane := z.extractLsb' (32 * n) 32

/-- The accumulator with those elements in row order. -/
def ofElems (f : Nat → Lane) : BitVec 8192 := BitVec.ofNat 8192 (packLanes f 0 256)

/-- A guard value from a predicate on lanes. -/
def ofBits (f : Nat → Bool) : Lane :=
  BitVec.ofNat 32 ((List.range 32).foldl (fun a n => if f n then a + 2 ^ n else a) 0)

/-- The bytes of a bit vector's low part, little-endian. -/
def bytesOf {w : Nat} (n : Nat) (v : BitVec w) : List Byte := leCut n v.toNat

/-- A word from bytes. -/
def ofBytes (w : Nat) (bs : List Byte) : BitVec w := BitVec.ofNat w (leVal bs)

end Sys2Proof.Machine
end

