-- ==== Sys2Proof/Machine/Memory.lean ====
section
/-! DEFINITION. The ordering machine: the stores, buffers and views of R246 and the moves M1 to M4, acquire, release,
fence, atomic and hand-off of R247 to R259, over physical locations. A group store is named by its number. -/

namespace Sys2Proof.Machine

/-- The location of a physical address (R210). -/
def locPA (pa : Nat) : Nat := pa
/-- The location of a byte of a barrel core's core store (R203). -/
def locStore (home p : Nat) : Nat := 1 * 2 ^ 56 + home * 2 ^ 20 + p
/-- The location of a byte of a core's lane slices (R203). -/
def locLane (core lane off : Nat) : Nat := 2 * 2 ^ 56 + core * 2 ^ 16 + lane * 2 ^ 11 + off
/-- The location of a byte of a die scratchpad (R203). -/
def locPad (die off : Nat) : Nat := 3 * 2 ^ 56 + die * 2 ^ 26 + off

/-- The newer of two writes of one location. -/
def newer (a b : Held) : Held := if a.stamp < b.stamp then b else a

/-- The write the device store holds. -/
def MemSys.dHeld (m : MemSys) (l : Nat) : Held := ⟨tgetD m.dStamp l 0, Memory.get m.d l⟩
/-- The write a group store holds. -/
def MemSys.gHeld (m : MemSys) (g l : Nat) : Held := newer (tgetD (tgetD m.g g []) l default) (tgetD m.floor l default)
/-- The write the system store holds (log 62). -/
def MemSys.yHeld (m : MemSys) (l : Nat) : Held := tgetD m.y l default
/-- The write Z(a, scope) holds, for an agent of group `g` (R246). -/
def MemSys.zHeld (m : MemSys) (sc : Scope) (g l : Nat) : Held :=
  match sc with
  | .group => m.gHeld g l
  | .device => m.dHeld l
  | .system => m.yHeld l
/-- The write an agent's view names. -/
def MemSys.view (m : MemSys) (a : Agent) (l : Nat) : Held := tgetD ((aget m.views a).getD []) l default

/-- Offers a write to a group store: an older arrival is absorbed (R246). -/
def MemSys.offerG (m : MemSys) (g l : Nat) (h : Held) : MemSys :=
  if (m.gHeld g l).stamp < h.stamp then { m with g := tset m.g g (tset (tgetD m.g g []) l h) } else m
/-- Offers a write to the device store. -/
def MemSys.offerD (m : MemSys) (l : Nat) (h : Held) : MemSys :=
  if (m.dHeld l).stamp < h.stamp then
    { m with d := Memory.set m.d l h.byte, dStamp := tset m.dStamp l h.stamp } else m
/-- Offers a write to the system store (log 62). -/
def MemSys.offerY (m : MemSys) (l : Nat) (h : Held) : MemSys :=
  if (m.yHeld l).stamp < h.stamp then { m with y := tset m.y l h } else m

/-- Sets what an agent's view names. -/
def MemSys.setView (m : MemSys) (a : Agent) (l : Nat) (h : Held) : MemSys :=
  { m with views := aset m.views a (tset ((aget m.views a).getD []) l h) }
/-- Raises a view to a write that is newer than what it names. -/
def MemSys.raiseView (m : MemSys) (a : Agent) (l : Nat) (h : Held) : MemSys :=
  if (m.view a l).stamp < h.stamp then m.setView a l h else m

/-- Records an agent's own write. -/
def MemSys.setOwn (m : MemSys) (a : Agent) (l st : Nat) : MemSys :=
  { m with own := aset m.own a (tset ((aget m.own a).getD []) l st) }

/-- The next stamp is given to a write of some cells, one unit (R244, R246). -/
def MemSys.stamped (m : MemSys) (cells : List Host.Cell) : MemSys :=
  { m with next := m.next + 1, units := if cells.length ≤ 1 then m.units else m.units ++ [(m.next, cells.map Prod.fst)] }

/-- M1: one write of the bytes of a unit by an agent (R247). -/
def MemSys.write (m : MemSys) (a : Agent) (cells : List Host.Cell) : MemSys :=
  cells.foldl (fun m c => (m.setView a c.1 ⟨m.next - 1, c.2⟩).setOwn a c.1 (m.next - 1))
    { m.stamped cells with bufs := m.bufs ++ [⟨a, m.next, cells⟩] }

/-- Two buffered writes share a location. -/
def BufWrite.meets (w v : BufWrite) : Bool := w.cells.any (fun c => v.cells.any (fun d => c.1 == d.1))

/-- Buffered write `i` is the oldest of its agent at each of its locations (M2). -/
def MemSys.drainable (m : MemSys) (i : Nat) : Bool :=
  match m.bufs[i]? with
  | none => false
  | some w => (m.bufs.take i).all (fun v => !(v.agent == w.agent && v.meets w))

/-- M2: buffered write `i` moves to its group store `g`. -/
def MemSys.drain (m : MemSys) (i g : Nat) : MemSys :=
  match m.bufs[i]? with
  | none => m
  | some w =>
    w.cells.foldl (fun m c => m.offerG g c.1 ⟨w.stamp, c.2⟩) { m with bufs := ldel m.bufs i }

/-- M3 from a group store: the write of that stamp is offered to the device store. -/
def MemSys.liftG (m : MemSys) (g st : Nat) : MemSys :=
  (tgetD m.g g []).foldl (fun m c => if c.2.stamp = st then m.offerD c.1 c.2 else m) m

/-- M3 from the device store: the write of that stamp is offered to the system store (log 62). -/
def MemSys.liftD (m : MemSys) (st : Nat) : MemSys :=
  m.dStamp.foldl (fun m c => if c.2 = st then m.offerY c.1 (m.dHeld c.1) else m) m

/-- The writes of a location that a load may return (M4): a group store that lists none holds what the last atomic placed. -/
def MemSys.candidates (m : MemSys) (a : Agent) (l : Nat) : List Held :=
  let v := m.view a l
  let gs := m.g.filterMap (fun t => (tget t.2 l).map (fun h => newer h (tgetD m.floor l default)))
  v :: (m.dHeld l :: m.yHeld l :: tgetD m.floor l default :: gs).filter (fun h => v.stamp ≤ h.stamp)

/-- The choice of a load bounded by `cut`: the newest write not younger than it, or the oldest there is (log 6). -/
def chooseHeld (cut : Nat) : List Held → Held
  | [] => default
  | [h] => h
  | h :: r =>
    let b := chooseHeld cut r
    if h.stamp ≤ cut then (if b.stamp ≤ cut ∧ h.stamp < b.stamp then b else h)
    else if b.stamp ≤ cut then b
    else if b.stamp < h.stamp then b else h

/-- The cut of byte `i` of a unit: one cut for all of them, or a digit for each (log 6). -/
def byteCut (cut i : Nat) : Nat := if cut < 2 ^ 64 then cut else cut / 2 ^ (64 * (i + 1)) % 2 ^ 64

/-- The choice for a location among the writes of stamp `lo` and above (R244, R247). -/
def MemSys.pick (m : MemSys) (a : Agent) (cut lo l : Nat) : Held :=
  let cs := m.candidates a l
  match cs.filter (fun h => lo ≤ h.stamp) with
  | [] => chooseHeld cut cs
  | ds => chooseHeld cut ds

/-- The stamp that a byte at a location must have beside the others of its unit: where one of them comes from a write of several
bytes, the byte is that write's or newer (R244). -/
def MemSys.beside (m : MemSys) (hs : List Held) (l : Nat) : Nat :=
  hs.foldl (fun b h => if b < h.stamp && (tgetD m.units h.stamp []).contains l then h.stamp else b) 0

/-- The choices for the locations of a unit, brought together until no write is torn (R244). -/
def MemSys.pickAll (m : MemSys) (a : Agent) (cut : Nat) (ls : List Nat) (los : List Nat) : Nat → List Held
  | 0 => (ls.zip (los.zip (List.range ls.length))).map (fun p => m.pick a (byteCut cut p.2.2) p.2.1 p.1)
  | n + 1 =>
    let hs := (ls.zip (los.zip (List.range ls.length))).map (fun p => m.pick a (byteCut cut p.2.2) p.2.1 p.1)
    let next := ls.map (m.beside hs)
    if (los.zip next).all (fun p => p.2 ≤ p.1) then hs
    else m.pickAll a cut ls ((los.zip next).map (fun p => max p.1 p.2)) n

/-- The writes that a load of the locations of one unit returns (R244, M4; log 6). -/
def MemSys.chosen (m : MemSys) (a : Agent) (cut : Nat) (ls : List Nat) : List Held :=
  m.pickAll a cut ls (ls.map (fun _ => 0)) (ls.length * (m.g.length + 4))

/-- M4: a load of the locations of one unit (R244, R247; log 6). -/
def MemSys.load (m : MemSys) (a : Agent) (cut : Nat) (ls : List Nat) : List Byte × MemSys :=
  let hs := m.chosen a cut ls
  (hs.map Held.byte, (ls.zip hs).foldl (fun m p => m.raiseView a p.1 p.2) m)

/-- M4 loads of several locations, each a unit of its own (R417). -/
def MemSys.loadEach (m : MemSys) (a : Agent) (cut : Nat) : List Nat → Nat → List Byte × MemSys
  | [], _ => ([], m)
  | l :: r, i =>
    let (b, m1) := m.load a (byteCut cut i) [l]
    let (bs, m2) := m1.loadEach a cut r (i + 1)
    (b ++ bs, m2)

/-- Every write of the agent at a location of `p` has reached Z(a, scope) (R249 to R251). -/
def MemSys.reached (m : MemSys) (a : Agent) (sc : Scope) (g : Nat) (p : Nat → Bool) : Bool :=
  ((aget m.own a).getD []).all (fun c => !p c.1 || decide (c.2 ≤ (m.zHeld sc g c.1).stamp))

/-- The locations at which a scope store holds a write. -/
def MemSys.zLocs (m : MemSys) (sc : Scope) (g : Nat) : List Nat :=
  match sc with
  | .group => (tgetD m.g g []).map Prod.fst ++ m.floor.map Prod.fst
  | .device => m.dStamp.map Prod.fst
  | .system => m.y.map Prod.fst

/-- Refreshes a view from Z(a, scope) at the locations of `p` (R249, R251). -/
def MemSys.refresh (m : MemSys) (a : Agent) (sc : Scope) (g : Nat) (p : Nat → Bool) : MemSys :=
  (m.zLocs sc g).foldl (fun m l => if p l then m.raiseView a l (m.zHeld sc g l) else m) m

/-- The acquire move (R249): the bytes of the sync word and the refreshed view. -/
def MemSys.acquire (m : MemSys) (a : Agent) (sc : Scope) (g : Nat) (word : List Nat) (p : Nat → Bool) :
    List Byte × MemSys :=
  let m1 := word.foldl (fun m l => m.raiseView a l (m.zHeld sc g l)) m
  (word.map (fun l => (m1.view a l).byte), m1.refresh a sc g p)

/-- Places a write in every store from the group store up to a scope (R250). -/
def MemSys.place (m : MemSys) (sc : Scope) (g l : Nat) (h : Held) : MemSys :=
  match sc with
  | .group => m.offerG g l h
  | .device => (m.offerG g l h).offerD l h
  | .system => ((m.offerG g l h).offerD l h).offerY l h

/-- The release move (R250): the write of the sync word. -/
def MemSys.release (m : MemSys) (a : Agent) (sc : Scope) (g : Nat) (cells : List Host.Cell) : MemSys :=
  cells.foldl (fun m c =>
      let h : Held := ⟨m.next - 1, c.2⟩
      ((m.place sc g c.1 h).setView a c.1 h).setOwn a c.1 (m.next - 1))
    (m.stamped cells)

/-- The newest write of a location that any store of the module holds (R252). -/
def MemSys.newest (m : MemSys) (l : Nat) : Held :=
  (m.g.filterMap (fun t => tget t.2 l)).foldl newer (newer (m.dHeld l) (tgetD m.floor l default))

/-- The newest bytes of an aligned word (R252). -/
def MemSys.wordNow (m : MemSys) (w : Nat) : Nat := leVal ((locsFrom w 8).map (fun l => (m.newest l).byte))

/-- Every store of the module holds at least the write (R252). -/
def MemSys.placeAll (m : MemSys) (l : Nat) (h : Held) : MemSys :=
  let m := m.offerD l h
  if (tgetD m.floor l default).stamp < h.stamp then { m with floor := tset m.floor l h } else m

/-- No buffered write of the agent meets a location (R249, R252). -/
def MemSys.clearOf (m : MemSys) (a : Agent) (ls : List Nat) : Bool :=
  m.bufs.all (fun w => !(w.agent == a && w.cells.any (fun c => ls.contains c.1)))

/-- The indivisible move of R252, its read: every store comes to the newest write of the word. -/
def MemSys.atomRead (m : MemSys) (a : Agent) (word : List Nat) : List Byte × MemSys :=
  let m1 := word.foldl (fun m l => (m.placeAll l (m.newest l)).raiseView a l (m.newest l)) m
  (word.map (fun l => (m1.newest l).byte), m1)

/-- The indivisible move of R252, its write. -/
def MemSys.atomWrite (m : MemSys) (a : Agent) (cells : List Host.Cell) : MemSys :=
  cells.foldl (fun m c =>
      let h : Held := ⟨m.next - 1, c.2⟩
      ((m.placeAll c.1 h).setView a c.1 h).setOwn a c.1 (m.next - 1))
    (m.stamped cells)

/-- The first buffered write of an agent. -/
def firstOf (a : Agent) : List BufWrite → Option Nat
  | [] => none
  | w :: r => if w.agent = a then some 0 else (firstOf a r).map (· + 1)

/-- Every buffered write of an agent drains, `n` at most. -/
def MemSys.drainAll (m : MemSys) (a : Agent) (g : Nat) : Nat → MemSys
  | 0 => m
  | n + 1 =>
    match firstOf a m.bufs with
    | none => m
    | some i => (m.drain i g).drainAll a g n

/-- Every write of the agent reaches the device store: M2 and M3 moves (R257, R259). -/
def MemSys.flush (m : MemSys) (a : Agent) (g : Nat) : MemSys :=
  let m1 := m.drainAll a g m.bufs.length
  ((aget m1.own a).getD []).foldl (fun m c => m.offerD c.1 (m.gHeld g c.1)) m1

/-- Every write of the agent reaches the system store too. -/
def MemSys.flushSystem (m : MemSys) (a : Agent) (g : Nat) : MemSys :=
  ((aget m.own a).getD []).foldl (fun m c => m.offerY c.1 (m.dHeld c.1)) (m.flush a g)

/-- The view of every location becomes at least the device store's (R257, R259). -/
def MemSys.handOff (m : MemSys) (a : Agent) : MemSys := m.refresh a .device 0 (fun _ => true)

/-- What the device store holds now, as a hand-off on its way carries it (R257; log 128). -/
def MemSys.snapshot (m : MemSys) : Tbl Held := m.dStamp.map (fun c => (c.1, ⟨c.2, Memory.get m.d c.1⟩))

/-- The view of every location becomes at least that of a hand-off (R257; log 128). -/
def MemSys.handOffOf (m : MemSys) (a : Agent) (t : Tbl Held) : MemSys := t.foldl (fun m c => m.raiseView a c.1 c.2) m

/-- The bytes the device store holds. -/
def MemSys.readD (m : MemSys) (ls : List Nat) : List Byte := ls.map (fun l => Memory.get m.d l)

/-- The entries of a table whose key does not satisfy `p`. -/
def outside {α : Type} (p : Nat → Bool) (t : Tbl α) : Tbl α := t.filter (fun c => !p c.1)

/-- Memory given to a partition: zero in every store and view, full, sound (R203, R204, R246). -/
def MemSys.clear (m : MemSys) (p : Nat → Bool) : MemSys :=
  { m with
    d := outside p m.d, dStamp := outside p m.dStamp, y := outside p m.y, floor := outside p m.floor
    g := m.g.map (fun t => (t.1, outside p t.2))
    bufs := (m.bufs.map (fun w => { w with cells := outside p w.cells })).filter (fun w => !w.cells.isEmpty)
    views := m.views.map (fun v => (v.1, outside p v.2))
    own := m.own.map (fun v => (v.1, outside p v.2))
    empty := m.empty.filter (fun l => !p l), bad := m.bad.filter (fun l => !p l) }

end Sys2Proof.Machine
end

