-- ==== Sys2Proof/Machine/Access.lean ====
section
/-! DEFINITION. Access to the parts of the state: cores, contexts, clusters, dies, partitions, and the numbers of R9. -/

namespace Sys2Proof.Machine

/-- The cluster of a barrel core, counted over the module (R9); a service core is a group of its own (R243). -/
def clOf (p : Nat) : Nat :=
  if p < 8192 then p / 256 * 16 + 4 * (p % 256 / 64) + p % 16 / 4 else 512 + (p - 8192)

/-- The die of a barrel or service core (R9). -/
def dieOf (p : Nat) : Nat := if p < 8192 then p / 256 else (p - 8192) / 4

/-- The die of a cluster, a service core's own group among them (R9, R243). -/
def dieOfCl (cl : Nat) : Nat := if cl < 512 then cl / 16 else (cl - 512) / 4

/-- The service core of a barrel core's quadrant (R9, R302). -/
def quadOf (p : Nat) : Nat := p / 256 * 4 + 2 * (p % 256 / 128) + p % 16 / 8

/-- The barrel cores of a cluster (R9). -/
def coresOf (cl : Nat) : List Nat :=
  let b := cl / 16 * 256 + cl % 16 / 4 * 64 + cl % 4 * 4
  (List.range 16).map (fun i => b + i / 4 * 16 + i % 4)

/-- A core that the tables do not list is at its reset values, at home on itself. -/
def State.core (s : State) (c : Nat) : Core := tgetD s.cores c { home := c }
/-- Replaces a core. -/
def State.setCore (s : State) (c : Nat) (x : Core) : State := { s with cores := tset s.cores c x }
/-- Changes a core. -/
def State.modCore (s : State) (c : Nat) (f : Core → Core) : State := s.setCore c (f (s.core c))

/-- A context that the tables do not list is at its reset values. -/
def State.ctx (s : State) (c k : Nat) : Ctx := tgetD s.ctxs (c * 16 + k) { vcid := c, vctx := k }
/-- Replaces a context. -/
def State.setCtx (s : State) (c k : Nat) (x : Ctx) : State := { s with ctxs := tset s.ctxs (c * 16 + k) x }
/-- Changes a context. -/
def State.modCtx (s : State) (c k : Nat) (f : Ctx → Ctx) : State := s.setCtx c k (f (s.ctx c k))

/-- A cluster. -/
def State.cluster (s : State) (cl : Nat) : Cluster := tgetD s.clusters cl {}
/-- Changes a cluster. -/
def State.modCluster (s : State) (cl : Nat) (f : Cluster → Cluster) : State :=
  { s with clusters := tset s.clusters cl (f (s.cluster cl)) }
/-- A C-die. -/
def State.die (s : State) (d : Nat) : Die := tgetD s.dies d {}
/-- Changes a C-die. -/
def State.modDie (s : State) (d : Nat) (f : Die → Die) : State := { s with dies := tset s.dies d (f (s.die d)) }
/-- A partition. -/
def State.part (s : State) (p : Nat) : Partition := tgetD s.parts p {}
/-- Changes a partition. -/
def State.modPart (s : State) (p : Nat) (f : Partition → Partition) : State :=
  { s with parts := tset s.parts p (f (s.part p)) }
/-- A stream of a partition: R315 numbers the module's streams. -/
def State.stream? (s : State) (n : Nat) : Option Stream := tget s.streams n
/-- Replaces a stream. -/
def State.setStream (s : State) (n : Nat) (x : Stream) : State := { s with streams := tset s.streams n x }

/-- The acting context's core. -/
abbrev State.cc (s : State) : Nat := s.cur.1
/-- The acting context's number. -/
abbrev State.ck (s : State) : Nat := s.cur.2
/-- The acting context. -/
def State.me (s : State) : Ctx := s.ctx s.cur.1 s.cur.2
/-- Changes the acting context. -/
def State.modMe (s : State) (f : Ctx → Ctx) : State := s.modCtx s.cur.1 s.cur.2 f
/-- The acting context's core. -/
def State.myCore (s : State) : Core := s.core s.cur.1
/-- Changes the acting context's core. -/
def State.modMyCore (s : State) (f : Core → Core) : State := s.modCore s.cur.1 f
/-- The acting context's partition (R22). -/
def State.myPart (s : State) : Nat := (s.core s.cur.1).partid

/-- The cluster a core's requests come from: that of its barrel core (R404). -/
def State.clusterOf (s : State) (c : Nat) : Nat := clOf (s.core c).home

/-- The group store of an agent (R243). -/
def State.groupOf (s : State) : Agent → Nat
  | .ctx c _ => s.clusterOf c
  | .copy c _ => s.clusterOf c
  | .sweep cl _ _ => cl
  | .foot c _ => s.clusterOf c
  | .dispenser cl => cl
  | .sampler c => s.clusterOf c
  | .svc n => 512 + n
  | .stream d => 640 + d
  | .relay d => 640 + d
  | .log _ => 512

/-- Changes the memories. -/
def State.modMem (s : State) (f : MemSys → MemSys) : State := { s with mem := f s.mem }

/-- A cut of a load made inside another step, and the state with the choice counted (log 6). -/
def State.drawCut (s : State) : Nat × State := (Config.cut s.fresh, { s with fresh := s.fresh + 1 })

/-- A core's per-core images are in place: those of its lane slices, weight buffer and queues (R202, R208, R276; log 63). -/
def State.foldReady (s : State) (c : Nat) : Bool :=
  match (s.core (s.core c).home).image with
  | none => (s.core c).home == c
  | some v => v == c

/-- The partition is there to be acted on: a world switch may have taken it away (R403; log 110). -/
def State.present (s : State) (p : Nat) : Bool := !(s.part p).sliced || (s.part p).resident

/-- The clocks of a core's cluster run and the core is not halted (R17, R375, R376; log 63). -/
def State.runs (s : State) (c : Nat) : Bool :=
  s.power == .on && !(s.cluster (s.clusterOf c)).frozen && !(s.core c).halted

/-- The physical contexts of a core (R404). -/
def State.ctxsOf (s : State) (c : Nat) : List Nat := (List.range 16).filter (fun k => (s.core c).mask.getLsbD k)

/-- The physical context that holds a virtual context of a core (R404). -/
def State.physOf (s : State) (c v : Nat) : Option Nat := (s.ctxsOf c).find? (fun k => (s.ctx c k).vctx == v)

/-- The keeper of a core: its context 0 (R18). -/
def State.keeper (s : State) (c : Nat) : Nat := (s.physOf c 0).getD 0

/-- The core of a die and index (R9). -/
def coreAt (die k : Nat) : Nat := die * 256 + k

/-- The virtual context number of a context (R404). -/
def State.vOf (s : State) (c k : Nat) : Nat := (s.ctx c k).vctx

/-- A core and a context in one number. -/
def ctxKey (c k : Nat) : Nat := c * 16 + k

end Sys2Proof.Machine
end

