-- ==== Sys2Proof/Machine/Sets.lean ====
section
/-! DEFINITION. The barrier-set table: memberships, arrival, phase completion and leaving (R330 to R334). -/

namespace Sys2Proof.Machine

/-- The set in a membership slot (R331). -/
def bsmSlot (b : BitVec 32) (k : Nat) : Option Nat :=
  let e := b.toNat / 2 ^ (8 * k) % 256
  if 128 ≤ e then some (e - 128) else none

/-- A membership word with a slot replaced. -/
def bsmPut (b : BitVec 32) (k : Nat) (e : Option Nat) : BitVec 32 :=
  let old := b.toNat / 2 ^ (8 * k) % 256 * 2 ^ (8 * k)
  BitVec.ofNat 32 (b.toNat - old + (match e with | some n => (128 + n % 128) * 2 ^ (8 * k) | none => 0))

/-- The slot that names a set. -/
def bsmFind (b : BitVec 32) (n : Nat) : Option Nat := (List.range 4).find? (fun k => bsmSlot b k == some n)
/-- The lowest invalid slot. -/
def bsmFree (b : BitVec 32) : Option Nat := (List.range 4).find? (fun k => (bsmSlot b k).isNone)

/-- A phase completes (R334). -/
def BarSet.complete (b : BarSet) : BarSet :=
  { b with ph := b.ph + 1, arr := 0, members := b.members.map (fun m => (m.1, (false, m.2.2))) }

/-- A phase has completed (R334). -/
def BarSet.past (b : BarSet) (p : BitVec 32) : Bool :=
  let d := (b.ph - p).toNat
  decide (1 ≤ d ∧ d < 2 ^ 31)

/-- Whether a member has arrived in the current phase. -/
def BarSet.arrived (b : BarSet) (m : Nat) : Bool := (tgetD b.members m (false, 0)).1

/-- A member arrives, and the last arrival completes the phase (R334). -/
def BarSet.arrive (b : BarSet) (m : Nat) : BarSet :=
  let b := { b with arr := b.arr + 1, members := tset b.members m (true, b.ph) }
  if b.arr = b.n then b.complete else b

/-- A member leaves; none when the set becomes undefined (R333). -/
def BarSet.leave (b : BarSet) (m : Nat) : Option BarSet :=
  let arr := if b.arrived m then b.arr - 1 else b.arr
  let b := { b with arr, n := b.n - 1, members := tdel b.members m }
  if b.n = 0 then none
  else if b.n ≤ b.arr ∧ 0 < b.arr then some b.complete
  else some b

/-- A barrier set of a partition. -/
def State.barSet (s : State) (p n : Nat) : Option BarSet := tget (s.part p).sets n
/-- Sets or undefines a barrier set. -/
def State.putSet (s : State) (p n : Nat) (b : Option BarSet) : State :=
  s.modPart p (fun q => { q with sets := match b with | some b => tset q.sets n b | none => tdel q.sets n })

/-- A context leaves a set it is a member of (R333). -/
def State.leaveSet (s : State) (c k n : Nat) : State :=
  let p := (s.core c).partid
  match bsmFind (s.ctx c k).bsm n, s.barSet p n with
  | some j, some b =>
    (s.putSet p n (b.leave (ctxKey c (s.vOf c k)))).modCtx c k (fun x => { x with bsm := bsmPut x.bsm j none })
  | _, _ => s

/-- A context that goes vacant leaves its sets in slot order (R333). -/
def State.leaveAll (s : State) (c k : Nat) : State :=
  if (s.ctx c k).bsm = 0 then s
  else (List.range 4).foldl (fun s j =>
    match bsmSlot (s.ctx c k).bsm j with
    | some n => s.leaveSet c k n
    | none => s) s

end Sys2Proof.Machine
end

