-- ==== Sys2Proof/Machine/Translate.lean ====
section
/-! DEFINITION. Spaces, segments, granules, page walks and KV translation: R205 to R213, R221, R264 to R267. -/

namespace Sys2Proof.Machine

/-- Bits `lo` to `lo + n - 1` of a number. -/
def bitsOf (v lo n : Nat) : Nat := v / 2 ^ lo % 2 ^ n

/-- A PA lies in a populated range (R210). -/
def populated (pa : Nat) : Bool :=
  (pa < 2 ^ 40 && pa % 2 ^ 35 < 0x6_0000_0000) || (0x1000_0000_0000 ≤ pa && pa < 0x1400_0000_0000)

/-- The `n` bytes from a PA lie in one populated range. -/
def populatedRange (pa n : Nat) : Bool :=
  populated pa && populated (pa + n - 1) && pa / 2 ^ 35 == (pa + n - 1) / 2 ^ 35 ||
  0x1000_0000_0000 ≤ pa && pa + n ≤ 0x1400_0000_0000

/-- The index of a virtual offset at a level (R211). -/
def levelIndex (level v : Nat) : Nat :=
  match level with
  | 0 => bitsOf v 43 13
  | 1 => bitsOf v 31 12
  | 2 => bitsOf v 25 6
  | _ => bitsOf v 19 6

/-- The size of a leaf's page at a level (R213). -/
def pageSize (level : Nat) : Nat :=
  match level with
  | 0 => 2 ^ 43
  | 1 => 2 ^ 31
  | 2 => 2 ^ 25
  | _ => 2 ^ 19

/-- The alignment of the table a table entry at a level names (R211). -/
def tableAlign (level : Nat) : Nat :=
  match level with
  | 0 => 2 ^ 15
  | _ => 2 ^ 12

/-- A valid entry is malformed (R212). -/
def malformedEntry (level e : Nat) : Bool :=
  let lf := e / 2 % 2 == 1
  let addr := bitsOf e 12 36 * 2 ^ 12
  bitsOf e 48 16 != 0 || bitsOf e 6 6 != 0 || (lf && level == 0) || (!lf && level == 3) ||
  (!lf && bitsOf e 2 4 != 0) ||
  (if lf then addr % pageSize level != 0 || !populatedRange addr (pageSize level)
   else addr % tableAlign level != 0 || !populated addr)

/-- The walk of R213 without its permission check, from the table at `t`. -/
def walkFrom (m : MemSys) (part v t : Nat) (level : Nat) : Nat → WalkResult
  | 0 => .fault 3 true
  | fuel + 1 =>
    let e := leVal (m.readD (locsFrom (locPA (t + 8 * levelIndex level v)) 8))
    if e % 2 = 0 then .fault (Fin.ofNat 4 level) false
    else if malformedEntry level e then .fault (Fin.ofNat 4 level) true
    else
      let addr := bitsOf e 12 36 * 2 ^ 12
      if e / 2 % 2 = 1 then
        .leaf { part, base := v - v % pageSize level, size := pageSize level, pa := addr
                r := e.testBit 2, w := e.testBit 3, x := e.testBit 4, nc := e.testBit 5
                level := Fin.ofNat 4 level }
      else walkFrom m part v addr (level + 1) fuel

/-- The physical addresses of the entries that a walk reads from the table at `t` on (R213). -/
def trailFrom (m : MemSys) (v t : Nat) (level : Nat) : Nat → List Nat
  | 0 => []
  | fuel + 1 =>
    let pa := t + 8 * levelIndex level v
    let e := leVal (m.readD (locsFrom (locPA pa) 8))
    if e % 2 = 0 || malformedEntry level e || e / 2 % 2 = 1 then [pa]
    else pa :: trailFrom m v (bitsOf e 12 36 * 2 ^ 12) (level + 1) fuel

/-- The entries that the walk of a virtual offset reads (R213). -/
def State.trail (s : State) (part v : Nat) : List Nat :=
  let trt := (s.part part).trt
  let root := bitsOf trt.toNat 16 32 * 2 ^ 16
  if trt.getLsbD 0 && populated root then trailFrom s.mem v root 0 4 else []

/-- The walk of a virtual offset for a partition (R211, R213). -/
def State.walk (s : State) (part v : Nat) : WalkResult :=
  let trt := (s.part part).trt
  if trt.getLsbD 0 = false then .fault 0 false
  else
    let root := bitsOf trt.toNat 16 32 * 2 ^ 16
    if !populated root then .fault 0 true else walkFrom s.mem part v root 0 4

/-- What translation answers for a virtual offset. -/
inductive Tr where
  | leaf (l : Leaf)
  | fault (level : Fin 4) (malformed : Bool)
  | miss (page : Nat)
  deriving DecidableEq, Repr, Inhabited

/-- The cached leaf of a virtual offset (R215). -/
def findLeaf (t : List Leaf) (part v : Nat) : Option Leaf :=
  t.find? (fun l => l.part == part && l.base ≤ v && v < l.base + l.size)

/-- The TLBs that serve a requester (R215): those of its core, the shared one of its cluster, or none. -/
inductive TlbPath where
  | core
  | shared (cl : Nat)
  | none
  deriving DecidableEq, Repr, Inhabited

/-- The leaf that a requester's TLBs hold for a virtual offset (R215). -/
def State.cached (s : State) (path : TlbPath) (core part v : Nat) : Option Leaf :=
  match path with
  | .core => (findLeaf (s.core core).tlb part v).orElse (fun _ => findLeaf (s.cluster (s.clusterOf core)).tlb part v)
  | .shared cl => findLeaf (s.cluster cl).tlb part v
  | .none => Option.none

/-- An engine's translation: its TLBs, else the walk, which it makes within its own step (R215; log 7). -/
def State.engineTr (s : State) (path : TlbPath) (core part v : Nat) : Tr :=
  match s.cached path core part v with
  | some l => .leaf l
  | none =>
    match s.walk part v with
    | .leaf l => .leaf l
    | .fault lv m => .fault lv m

/-- A context's translation: the result of its own walk, the core's TLB, the cluster's TLB, else a miss (R215, R216). -/
def State.threadTr (s : State) (c k part v : Nat) : Tr :=
  match tget (s.ctx c k).walks (v / 2 ^ 19) with
  | some (.leaf l) => .leaf l
  | some (.fault lv m) => .fault lv m
  | none =>
    match findLeaf (s.core c).tlb part v with
    | some l => .leaf l
    | none =>
      match findLeaf (s.cluster (s.clusterOf c)).tlb part v with
      | some l => .leaf l
      | none => .miss (v / 2 ^ 19)

/-- What an access needs of a page. -/
structure Need where
  r : Bool := false
  w : Bool := false
  x : Bool := false
  deriving DecidableEq, Repr, Inhabited

/-- The access kind of a cause (R389; log 73). -/
def Need.acc (n : Need) : Acc := if n.w then .write else if n.x then .fetch else .read

/-- Where an access lies: its locations, or the fault, or the page whose walk it waits for. -/
inductive Where where
  | at (locs : List Nat)
  | fault (c : Cause)
  | miss (page : Nat)
  deriving DecidableEq, Repr, Inhabited

/-- A fault of an access at an address (log 73). -/
def accFault (code : FaultCode) (n : Need) (a : Nat) (kind level : Fin 4 := 0) : Cause :=
  { code, tval := BitVec.ofNat 64 a, acc := n.acc, kind, level }

/-- The requester of an access: its core, its partition, its translation, and the TLBs that serve it. -/
structure Via where
  core : Nat
  part : Nat
  tr : Nat → Tr
  path : TlbPath := .none

/-- The acting context as a requester. -/
def State.viaThread (s : State) (c k : Nat) : Via :=
  { core := c, part := (s.core c).partid, tr := s.threadTr c k (s.core c).partid, path := .core }

/-- An engine outside the clusters as a requester, such as a stream unit, a relay or firmware: no TLB serves it (R215; log 7). -/
def State.viaEngine (s : State) (core part : Nat) : Via := { core, part, tr := s.engineTr .none core part }
/-- The copy engine of a core, or its matrix fetches, as a requester (R215; log 7); `core` gives the own core of space 0x8. -/
def State.viaCore (s : State) (core part : Nat) : Via := { core, part, tr := s.engineTr .core core part, path := .core }
/-- A cluster's tender, dispenser or sampler as a requester (R215; log 7). -/
def State.viaCluster (s : State) (cl core part : Nat) : Via :=
  { core, part, tr := s.engineTr (.shared cl) core part, path := .shared cl }

/-- The space code of an address (R205). -/
def spaceOf (a : Nat) : Nat := a / 2 ^ 60

/-- The width of the offset field of a space (R205). -/
def offBits (sp : Nat) : Option Nat :=
  match sp with
  | 0x0 => some 56
  | 0x8 => some 20
  | 0x9 => some 11
  | 0xA => some 20
  | 0xB => some 26
  | 0xC => some 32
  | _ => none

/-- The bits of an address that a space gives no field (R205). -/
def strayBits (sp a : Nat) : Nat :=
  match sp with
  | 0x0 => bitsOf a 56 4
  | 0x8 => bitsOf a 20 40
  | 0x9 => bitsOf a 21 39 + bitsOf a 11 5
  | 0xA => bitsOf a 53 7 + bitsOf a 20 20
  | 0xB => bitsOf a 53 7 + bitsOf a 26 22
  | _ => bitsOf a 53 7

/-- The space check of R205 for `n` bytes; `spaces` are those the access admits. -/
def spaceOk (spaces : List Nat) (a n : Nat) : Bool :=
  let sp := spaceOf a
  match offBits sp with
  | none => false
  | some w => spaces.contains sp && strayBits sp a == 0 && a % 2 ^ w + n ≤ 2 ^ w

/-- A core-store access of `n` bytes at an offset, rebased (R207). -/
def State.segLocs (s : State) (c o n : Nat) : Option (List Nat) :=
  let k := s.core c
  if k.segl.toNat < o + n || 0x10_0000 < k.segb.toNat + o + n then none
  else some (locsFrom (locStore k.home (k.segb.toNat + o)) n)

/-- The granule-map entry of a die-scratchpad offset (R209). -/
def State.granuleOf (s : State) (die o : Nat) : Granule := ((s.die die).granules.toList[o / 2 ^ 22]?).getD {}

/-- The target core of a space-0xA or 0xC address (R205). -/
def targetCore (a : Nat) : Nat := coreAt (bitsOf a 48 5) (bitsOf a 40 8)

/-- A partition holds a core (R206). -/
def State.holdsCore (s : State) (part c : Nat) : Bool := (s.core c).partid == part && (s.part part).started

/-- One page piece of a space-0x0 access (R213). -/
def trPiece (via : Via) (need : Need) (v n : Nat) : Where :=
  match via.tr v with
  | .miss p => .miss p
  | .fault lv m => .fault (accFault .page need v (if m then 1 else 0) lv)
  | .leaf l =>
    if need.r && !l.r then .fault { accFault .prot need v 0 l.level with acc := if need.x then .fetch else .read }
    else if (need.w && !l.w) || (need.x && !l.x) then .fault (accFault .prot need v 0 l.level)
    else .at (locsFrom (locPA (l.pa + (v - l.base))) n)

/-- Two pieces of one access: the first that does not translate decides. -/
def Where.append (a : Where) (b : Where) : Where :=
  match a, b with
  | .at x, .at y => .at (x ++ y)
  | .at _, w => w
  | w, _ => w

/-- A space-0x0 access, page by page in address order. -/
def trSpan (via : Via) (need : Need) (v n : Nat) : Nat → Where
  | 0 => .at []
  | fuel + 1 =>
    let room := 2 ^ 19 - v % 2 ^ 19
    if n ≤ room then trPiece via need v n
    else (trPiece via need v room).append (trSpan via need (v + room) (n - room) fuel)

/-- A slot table entry (R265). -/
def State.slot (s : State) (c i : Nat) : Slot := tgetD (s.core c).slots i {}

/-- The list entry of a slot at a block index (R266). -/
def State.listEntry (s : State) (c i b : Nat) : Nat :=
  leVal (s.mem.readD (locsFrom (locPad (c / 256) (bitsOf (s.slot c i).b.toNat 0 26 + 8 * b)) 8))

/-- The blocks of a KV access, block by block (R267). -/
def State.kvSpan (s : State) (part : Nat) (need : Need) (c i a o n : Nat) : Nat → Where
  | 0 => .at []
  | fuel + 1 =>
    let b := o / 2 ^ 19
    let room := 2 ^ 19 - o % 2 ^ 19
    let m := if n ≤ room then n else room
    let be := s.listEntry c i b
    let here : Where :=
      let g := s.granuleOf (c / 256) ((bitsOf (s.slot c i).b.toNat 0 26 + 8 * b) % 2 ^ 26)
      if bitsOf (s.slot c i).a.toNat 0 14 ≤ b then .fault (accFault .space need a)
      else if !(g.valid && g.part == part) then .fault (accFault .prot need a 1)
      else if be % 2 = 0 then .fault (accFault .space need a)
      else if need.w && (be.testBit 1 || be.testBit 2) then .fault (accFault .prot need a 3)
      else .at (locsFrom (locPA (bitsOf be 19 29 * 2 ^ 19 + o % 2 ^ 19)) m)
    if n ≤ room then here else here.append (s.kvSpan part need c i (a + room) (o + room) (n - room) fuel)

/-- The bytes per position of a slot (R265). -/
def Slot.bpp (e : Slot) : Nat := 2 ^ bitsOf e.a.toNat 16 5
/-- The length in positions of a slot (R265). -/
def Slot.len (e : Slot) : Nat := bitsOf e.a.toNat 32 32

/-- A KV access (R267). -/
def State.kvWhere (s : State) (part : Nat) (need : Need) (a n : Nat) : Where :=
  let c := targetCore a
  let i := bitsOf a 32 8
  let e := s.slot c i
  let o := a % 2 ^ 32
  if e.a.getLsbD 31 = false then .fault (accFault .space need a)
  else
    match s.kvSpan part need c i a o n (n / 2 ^ 19 + 2) with
    | .at ls =>
      if need.r && e.len * e.bpp < o + n then
        .fault (accFault .space need (a - o + max o (e.len * e.bpp)))
      else .at ls
    | w => w

/-- The checks of R221 in order, then the locations of the `n` bytes of an access. -/
def State.locate (s : State) (via : Via) (need : Need) (spaces : List Nat) (a n align : Nat) : Where :=
  if !spaceOk spaces a n then .fault (accFault .space need a)
  else if a % align ≠ 0 then .fault (accFault .align need a)
  else
    match spaceOf a with
    | 0x0 => trSpan via need (a % 2 ^ 56) n (n / 2 ^ 19 + 2)
    | 0x8 =>
      match s.segLocs via.core (a % 2 ^ 20) n with
      | none => .fault (accFault .seg need a)
      | some ls => .at ls
    | 0x9 => .at (locsFrom (locLane via.core (bitsOf a 16 5) (a % 2 ^ 11)) n)
    | 0xA =>
      match s.segLocs (targetCore a) (a % 2 ^ 20) n with
      | none => .fault (accFault .seg need a)
      | some ls => if s.holdsCore via.part (targetCore a) then .at ls else .fault (accFault .prot need a 1)
    | 0xB =>
      let die := bitsOf a 48 5
      let o := a % 2 ^ 26
      let own (g : Granule) : Bool := g.valid && g.part == via.part
      let bad (i : Nat) : Option (Nat × Fin 4) :=
        let g := s.granuleOf die ((o / 2 ^ 22 + i) * 2 ^ 22)
        if !own g then some (i, 1) else if need.w && g.lst then some (i, 3) else none
      match (List.range ((o + n - 1) / 2 ^ 22 - o / 2 ^ 22 + 1)).findSome? bad with
      | some (i, k) => .fault (accFault .prot need (if i = 0 then a else a - o + (o / 2 ^ 22 + i) * 2 ^ 22) k)
      | none => .at (locsFrom (locPad die o) n)
    | _ => if s.holdsCore via.part (targetCore a) then s.kvWhere via.part need a n else .fault (accFault .prot need a 1)

/-- The fault of the first byte that has one, of `n` bytes from an address on (R221); `f` where none has. -/
def State.firstFault (s : State) (v : Via) (need : Need) (spaces : List Nat) (a : Nat) (f : Cause) : Nat → Cause
  | 0 => f
  | n + 1 =>
    match s.locate v need spaces a 1 1 with
    | .fault g => g
    | _ => s.firstFault v need spaces (a + 1) f n

/-- The KV side of a store of `n` bytes at each of some addresses, the last one the highest (R267). -/
def State.kvExt (s : State) (as : List Nat) (n : Nat) : Option KvExt :=
  let a := as.getLastD 0
  if spaceOf a = 0xC then
    let c := targetCore a
    let i := bitsOf a 32 8
    some { core := c, slot := i, len := (a % 2 ^ 32 + n - 1) / (s.slot c i).bpp + 1, addrs := as }
  else none

/-! The far-read throttle. -/

/-- The far-tier lines that a KV read touches, by the die of its address (R269; log 71). -/
def farLines (acc : List (Nat × List Nat)) : List (Nat × Nat) :=
  (acc.flatMap (fun p =>
    if spaceOf p.1 = 0xC then
      (p.2.filter (fun l => 0x1000_0000_0000 ≤ l && l < 0x1400_0000_0000)).map (fun l => (bitsOf p.1 48 5, l / 128))
    else [])).eraseDups

/-- The dies that must admit some lines, with their numbers. -/
def farNeed (ls : List (Nat × Nat)) : List (Nat × Nat) :=
  ((ls.map Prod.fst).eraseDups).map (fun d => (d, ls.countP (fun l => l.1 == d)))

/-- A read asks its dies for its lines: as many as the window has room for, when no request waits before it (R269). -/
def State.farEnter (s : State) (a : Agent) (n : Nat) (need : List (Nat × Nat)) : State :=
  need.foldl (fun s e => s.modDie e.1 (fun y =>
    if y.limit = 0 || y.farq.any (fun q => q.1 == a && q.2.1 == n) then y
    else
      let take := if y.farq.all (fun q => q.2.2 == 0) then min e.2 (y.limit - y.admitted) else 0
      { y with admitted := y.admitted + take, farq := y.farq ++ [(a, n, e.2 - take)] })) s

/-- Every line of a read has been admitted (R269). -/
def State.farGranted (s : State) (a : Agent) (n : Nat) (need : List (Nat × Nat)) : Bool :=
  need.all (fun e => !(s.die e.1).farq.any (fun q => q.1 == a && q.2.1 == n && q.2.2 != 0))

/-- An admitted read leaves its dies' queues. -/
def State.farLeave (s : State) (a : Agent) (n : Nat) (need : List (Nat × Nat)) : State :=
  need.foldl (fun s e => s.modDie e.1 (fun y => { y with farq := y.farq.filter (fun q => !(q.1 == a && q.2.1 == n)) })) s

/-- An engine's read of some far-tier lines: whether it may go on, and its requests (R269). -/
def State.farAsk (s : State) (a : Agent) (n : Nat) (need : List (Nat × Nat)) : Bool × State :=
  if need.isEmpty then (true, s)
  else
    let t := s.farEnter a n need
    if t.farGranted a n need then (true, t.farLeave a n need) else (false, t)

/-- A new window admits waiting lines in their order of arrival (R269). -/
def farServe (limit room : Nat) : List (Agent × Nat × Nat) → List (Agent × Nat × Nat) × Nat
  | [] => ([], 0)
  | (a, n, k) :: r =>
    let take := if limit = 0 then k else min k room
    let (q, m) := farServe limit (room - take) r
    ((a, n, k - take) :: q, take + m)

/-- The spaces of a plain access (R205, R221). -/
def allSpaces : List Nat := [0x0, 0x8, 0x9, 0xA, 0xB, 0xC]
/-- The spaces whose words carry a full/empty bit (R219). -/
def feSpaces : List Nat := [0x8, 0xA, 0xB]
/-- The spaces of a sync word (R254). -/
def syncSpaces : List Nat := [0x0, 0x8, 0xA, 0xB]

end Sys2Proof.Machine
end

