-- ==== Sys2Proof/Machine/Loop.lean ====
section
/-! DEFINITION. Loop frames: versions, freeing, iterations, the store queue, commit, squash and exit (R93 to R117). -/

namespace Sys2Proof.Machine

/-- The version of a name for an iteration. -/
def LFrame.ver? (F : LFrame) (name : Nat) (i : Int) : Option Ver :=
  F.vers.find? (fun v => v.name == name && v.iter == i)

/-- The value of a version, when it is determined; a seed that is not set is 0 with tag RAW (R98, R102). -/
def LFrame.val? (F : LFrame) (name : Nat) (i : Int) : Option (BitVec 1024 × Tag) :=
  match F.ver? name i with
  | some v => if v.need = 0 then some (v.bits, v.tag) else none
  | none => if i < 0 then some (0, .raw) else none

/-- A version takes its copy of the version before (R101). -/
def Ver.fill (v : Ver) (src : BitVec 1024 × Tag) : Ver :=
  { v with bits := mergeLanes v.need src.1 v.bits, tag := if v.carried then src.2 else v.tag, need := 0 }

/-- Replaces a version. -/
def LFrame.setVer (F : LFrame) (v : Ver) : LFrame :=
  { F with vers := v :: F.vers.filter (fun u => !(u.name == v.name && u.iter == v.iter)) }

/-- Versions from `i` on take the copies that are determined (R101). -/
def LFrame.propagate (F : LFrame) (name : Nat) (i : Int) : Nat → LFrame
  | 0 => F
  | n + 1 =>
    match F.ver? name i with
    | none => F
    | some v =>
      if v.need = 0 then F.propagate name (i + 1) n
      else
        match F.val? name (i - 1) with
        | none => F
        | some src => (F.setVer (v.fill src)).propagate name (i + 1) n

/-- Adds a version and passes its value on (log 67). -/
def LFrame.putVer (F : LFrame) (v : Ver) : LFrame :=
  (F.setVer v).propagate v.name v.iter (F.vers.length + 2)

/-- A write of iteration `i` with its guarded-on lanes (R101; log 67). -/
def LFrame.write (F : LFrame) (name : Nat) (i : Int) (mask : Lane) (bits : BitVec 1024) (t : Tag) : LFrame :=
  F.putVer { name, iter := i, carried := false, need := ~~~mask, bits, tag := t }

/-- An unwritten version becomes carried (R101, R104). -/
def LFrame.carry (F : LFrame) (name : Nat) (i : Int) : LFrame :=
  if (F.ver? name i).isSome then F
  else F.putVer { name, iter := i, carried := true, need := allOn, bits := 0, tag := .raw }

/-- Every unwritten version of an iteration becomes carried (R104). -/
def LFrame.carryAll (F : LFrame) (i : Int) : LFrame := (List.range 24).foldl (fun F n => F.carry n i) F

/-- The entry of an iteration. -/
def LFrame.it? (F : LFrame) (i : Nat) : Option Iter := F.its.find? (fun t => t.i == i)
/-- Changes the entry of an iteration. -/
def LFrame.modIt (F : LFrame) (i : Nat) (f : Iter → Iter) : LFrame :=
  { F with its := F.its.map (fun t => if t.i == i then f t else t) }
/-- The iteration a context runs in this frame. -/
def LFrame.iterOf (F : LFrame) (k : Nat) : Option Iter :=
  if F.st = .run then F.its.find? (fun t => t.ctx == k && !t.completed) else none

/-- Iteration `j` has retired: an IRET, its own or ENDL's (R105). -/
def LFrame.retired (F : LFrame) (j : Int) : Bool :=
  decide (j < F.setl) || F.its.any (fun t => (t.i : Int) == j && t.retired)
/-- Iteration `j` has completed. -/
def LFrame.completed (F : LFrame) (j : Int) : Bool :=
  decide (j < F.setl) || F.its.any (fun t => (t.i : Int) == j && t.completed)

/-- The versions of iteration `m` are freed (R105, R106). -/
def LFrame.freed (F : LFrame) (m : Int) : Bool :=
  if m ≤ -8 then true
  else if F.vers.any (fun v => v.iter == m + 1 && v.need != 0) then false
  else if m < 0 then decide ((F.w : Int) + m < 0) || F.retired (F.w + m)
  else F.completed m && F.retired (m + F.w)

/-- The actual crew A (R99). -/
def LFrame.a (F : LFrame) : Nat := if F.members.isEmpty then F.virt.length else F.members.length

/-- A loop frame of a core. -/
def State.fr (s : State) (c : Nat) (f : Fin 2) : LFrame := (s.core c).frames.get f
/-- Replaces a loop frame. -/
def State.setFr (s : State) (c : Nat) (f : Fin 2) (F : LFrame) : State :=
  s.modCore c (fun k => { k with frames := k.frames.set f.val F f.isLt })
/-- Changes a loop frame. -/
def State.modFr (s : State) (c : Nat) (f : Fin 2) (g : LFrame → LFrame) : State := s.setFr c f (g (s.fr c f))

/-- The iteration a context runs, of its innermost loop (R83, R95). -/
def State.curIter (s : State) (c k : Nat) : Option (Fin 2 × Iter) :=
  match (s.fr c 0).iterOf k, (s.fr c 1).iterOf k with
  | some a, some b => if (s.fr c 0).level = 2 then some (0, a) else some (1, b)
  | some a, none => some (0, a)
  | none, some b => some (1, b)
  | none, none => none

/-- The frame a context holds as opener at a level (R94, R95). -/
def State.heldFrame (s : State) (c k level : Nat) : Option (Fin 2) :=
  let h (f : Fin 2) : Bool := (s.fr c f).st != .free && (s.fr c f).opener == k && (s.fr c f).level == level
  if h 0 then some 0 else if h 1 then some 1 else none

/-- The frame in exit state a context holds at a level. -/
def State.exitFrame (s : State) (c k level : Nat) : Option (Fin 2) :=
  match s.heldFrame c k level with
  | some f => if (s.fr c f).st = .exit then some f else none
  | none => none

/-- A context's level (R95). -/
def State.levelOf (s : State) (c k : Nat) : Nat := if (s.curIter c k).isSome then 2 else 1

/-- The current frame, with the iteration run in it, or none of it for an exit view (R95). -/
def State.curFrame (s : State) (c k : Nat) : Option (Fin 2 × Option Iter) :=
  match s.curIter c k with
  | some (f, t) =>
    match s.exitFrame c k 2 with
    | some e => some (e, none)
    | none => some (f, some t)
  | none => (s.exitFrame c k 1).map (fun e => (e, none))

/-- The iteration whose versions a context's writes name. -/
def State.writeIter (s : State) (c k : Nat) : Option (Fin 2 × Iter) :=
  match s.curFrame c k with
  | some (f, some t) => some (f, t)
  | _ => none

/-- The agent of a context: its loop's opener stands for the crew (R109). -/
def State.agentOf (s : State) (c k : Nat) : Agent :=
  match s.curIter c k with
  | some (f, _) => .ctx c (s.fr c f).opener
  | none => .ctx c k

/-- The frames a context holds (R85 FH). -/
def State.heldCount (s : State) (c k : Nat) : Nat :=
  ([0, 1] : List (Fin 2)).countP (fun f => (s.fr c f).st != .free && (s.fr c f).opener == k)

/-- The member index of a context in its innermost loop (R85 CREW). -/
def State.crewIndex (s : State) (c k : Nat) : Nat := (s.ctx c k).crew

/-- An amount of an event that programmable counters select (R363). -/
def State.count (s : State) (c k ev n : Nat) : State :=
  s.modCore c (fun x => { x with cntEv := x.cntEv ++ [(ev, k, n)] })

/-- A context's slot for a trace record or an event: virtual core and context (R11, R404). -/
def traceHead (x : Ctx) (cyc : Word) (lost : Bool) (ty : Nat) : Word :=
  BitVec.ofNat 64 (cyc.toNat % 2 ^ 32 * 2 ^ 32 + x.vcid % 2 ^ 13 * 2 ^ 16 + (if lost then 2 ^ 12 else 0) + x.vctx * 2 ^ 8 + ty)

/-- A record that takes the kept entry of a tail: loss or RESET (R380). -/
def keptRec (r : List Word) : Bool := (r.headD 0).toNat % 256 == 0x0E || (r.headD 0).toNat % 256 == 0x0F

/-- A tail has no room for a record: 8 entries are taken, or the kept one where the loss record must enter first (R380; log 102). -/
def Trace.full (t : Trace) : Bool :=
  decide (8 ≤ t.tail.countP (fun r => !keptRec r)) || (t.loss != 0 && t.tail.any keptRec)

/-- A trace record of a context (R378). -/
def State.traceRec (s : State) (c k : Nat) (lost : Bool) (ty : Nat) (pc pay : Word) : List Word :=
  [traceHead (s.ctx c k) (s.core (s.core c).home).cyc lost ty, pc, BitVec.ofNat 64 ((s.core c).sent % 2 ^ 48), pay]

/-- The loss record that is due (R380). -/
def State.lossRec (s : State) (c k : Nat) : List (List Word) :=
  let n := (s.ctx c k).trace.loss
  if n = 0 then [] else [s.traceRec c k false 0x0E 0 (n.setWidth 64)]

/-- A record of a type enters a context's tail when its session is open and enables it (R378 to R380). -/
def State.trace (s : State) (c k ty : Nat) (pc pay : Word) : State :=
  let x := s.ctx c k
  let t := x.trace
  if !t.opened || !(t.mask.getLsbD ty || ty = 0x0B || ty = 0x0E || ty = 0x0F) then s
  else if t.full then s.setCtx c k { x with trace := { t with loss := t.loss + 1 } }
  else s.setCtx c k { x with trace := { t with
      loss := 0, tail := t.tail ++ s.lossRec c k ++ [s.traceRec c k (t.loss != 0) ty pc pay] } }

/-- The trace port of a die's records (R380). -/
def tracePort (die : Nat) : Nat := if die / 8 < 2 then 0 else 2

/-- A context's whole tail is sent (R381). -/
def State.sendTail (s : State) (c k : Nat) : State :=
  let x := s.ctx c k
  let s := { s with traceOut := s.traceOut ++ x.trace.tail.map (fun r => (tracePort (dieOf (s.core c).home), r)) }
  s.setCtx c k { x with trace := { x.trace with tail := [] } }

/-- The session of a terminated context: its tail is sent, and a RESET record in the kept entry ends it (R381). -/
def State.resetTrace (s : State) (c k : Nat) : State :=
  if !(s.ctx c k).trace.opened then s
  else
    let s := s.sendTail c k
    let t := (s.ctx c k).trace
    s.modCtx c k (fun x => { x with trace := { t with
      opened := false, loss := 0, tail := s.lossRec c k ++ [s.traceRec c k (t.loss != 0) 0x0F 0 0] } })

/-- A KV length grows at the write's move (R267, R268). -/
def State.extend (s : State) : Option KvExt → State
  | none => s
  | some x =>
    let e := s.slot x.core x.slot
    if e.len < x.len then
      let a := BitVec.ofNat 64 (x.len * 2 ^ 32 + e.a.toNat % 2 ^ 32)
      s.modCore x.core (fun k => { k with slots := tset k.slots x.slot { e with a } })
    else s

/-- A store of an agent: one M1 write for each unit, and the KV length it extends (R247, R267). -/
def State.storeUnits (s : State) (a : Agent) (units : List (List Host.Cell)) (ext : Option KvExt) : State :=
  (s.modMem (fun m => units.foldl (fun m u => m.write a u) m)).extend ext

/-- A held store makes its M1 writes; one of the KV space goes where its slot's entry then names, and a unit that the entry no longer
admits writes nothing (R107, R267, R268; log 129). -/
def State.drainStore (s : State) (c : Nat) (a : Agent) (h : HeldStore) : State :=
  match h.ext with
  | none => s.storeUnits a h.units none
  | some e => (h.units.zip e.addrs).foldl (fun s u =>
      match s.locate (s.viaEngine c (s.core c).partid) { w := true } allSpaces u.2 u.1.length 1 with
      | .at ls => s.storeUnits a [ls.zip (u.1.map Prod.snd)] (s.kvExt [u.2] u.1.length)
      | _ => s) s

/-- Drains the held stores of an iteration in program order (R109). -/
def State.drainHeld (s : State) (c : Nat) (f : Fin 2) (i : Nat) : State :=
  let F := s.fr c f
  let s := (F.held.filter (fun h => h.iter == i)).foldl (fun s h => s.drainStore c (.ctx c F.opener) h) s
  s.modFr c f (fun F => { F with held := F.held.filter (fun h => h.iter != i) })

/-- Drains and commits an iteration (R110). -/
def State.commitIn (s : State) (c : Nat) (f : Fin 2) (i : Nat) : State :=
  (s.drainHeld c f i).modFr c f (fun F => F.modIt i (fun t => { t with committed := true }))

/-- The other frame. -/
def otherFrame (f : Fin 2) : Fin 2 := if f = 0 then 1 else 0

/-- Commits the iteration a context runs, first the enclosing one, which its loop's opener runs (R110). -/
def State.commit (s : State) (c k : Nat) : State :=
  match s.curIter c k with
  | none => s
  | some (f, t) =>
    let o := otherFrame f
    let s1 :=
      match (s.fr c o).iterOf (s.fr c f).opener with
      | some u => if (s.fr c f).level = 2 && !u.committed then s.commitIn c o u.i else s
      | none => s
    s1.commitIn c f t.i

/-- An owner value names a context of a core, by its virtual number (R319). -/
def ownerIs (owner : Word) (c v : Nat) : Bool :=
  !owner.getLsbD 63 && bitsOf owner.toNat 0 13 == c && bitsOf owner.toNat 16 4 == v

/-- The streams and tensors that a context owns lose their owner, until a new one is set (R20). -/
def State.loseOwner (s : State) (c k : Nat) : State :=
  let p := (s.core c).partid
  let v := (s.ctx c k).vctx
  let lost (q : Nat) (o : Word) (g : Bool) : Bool := g || (q == p && ownerIs o c v)
  { s with
    streams := s.streams.map (fun e => (e.1, { e.2 with gone := lost e.2.part e.2.owner e.2.gone }))
    clusters := s.clusters.map (fun y => (y.1, { y.2 with
      tensors := y.2.tensors.map (fun e => (e.1, { e.2 with gone := lost e.2.part e.2.owner e.2.gone })) })) }

/-- A context goes vacant: nobody holds it, it leaves its barrier sets, and what it owned has no owner (R15, R19, R20, R259, R333;
log 117). -/
def State.vacate (s : State) (c k : Nat) : State :=
  ((s.leaveAll c k).loseOwner c k).modCtx c k (fun x => { x with
    run := .vacant, wait := none, pend := none, walks := [], fetched := [], exch := none, stopped := false
    origin := none, signal := none, foot := [], live := {}, cm := false, crew := 0 })

/-- The checkpoint of a context (R100). -/
def Ctx.ckptOf (x : Ctx) : Ckpt := { x := x.x, g := x.g, v := x.v, z := x.z, ff := x.ff }

/-- A context returns to a checkpoint; its repeat state is inactive (R100, R139). -/
def Ctx.toCkpt (x : Ctx) (p : Ckpt) : Ctx :=
  { x with x := p.x, g := p.g, v := p.v, z := p.z, ff := p.ff, live := {} }

/-- A member begins an iteration at the body's start (R99, R100, R111). -/
def State.beginIter (s : State) (c : Nat) (f : Fin 2) (i k : Nat) : State :=
  let x := s.ctx c k
  let F := s.fr c f
  let s := s.setFr c f { F with its := F.its ++ [{ i, ctx := k, ckpt := x.ckptOf }] }
  let s := s.modCtx c k (fun x => { x with pc := F.body, wait := none, run := .held, live := {} })
  s.trace c k 0x02 F.body (BitVec.ofNat 64 (i % 2 ^ 32 + f.val * 2 ^ 32))

/-- A waiter record of a buoy (R352). -/
def WKind.ofBuoy : WKind → Bool
  | .buoy _ _ _ => true
  | _ => false

/-- Queue entries that a discarded request had reserved are free again (R277). -/
def freeReserved (h : Vector HwQueue 8) (qs : List Nat) : Vector HwQueue 8 :=
  qs.foldl (fun h q =>
    let w := h.get (Fin.ofNat 8 q)
    h.set (q % 8) { w with reserved := w.reserved - 1 } (Nat.mod_lt _ (by decide))) h

/-- The requests of a context's discarded instruction come to nothing for it (R198, R277, R292). -/
def State.dropWork (s : State) (c k : Nat) : State :=
  let mine (c' k' : Nat) : Bool := c' == c && k' == k
  let qs := ((s.ctx c k).pend.map Pend.reserve).getD []
  let s := s.modCore c (fun x => { x with
    wq := x.wq.map (fun w => if w.ctx = k then { w with dropped := true } else w)
    pool := x.pool.map (fun r => if r.2.ctx = k && !r.2.kind.ofBuoy then (r.1, { r.2 with dead := true }) else r)
    hwq := freeReserved x.hwq qs })
  let s := s.modCtx c k (fun x => { x with pend := x.pend.map (fun p => { p with reserve := [] }) })
  { s with
    slotNew := s.slotNew.map (fun b => if mine b.core b.ctx then { b with live := false } else b)
    parts := s.parts.map (fun p => (p.1, { p.2 with
      bindNew := p.2.bindNew.map (fun b => if mine b.core b.ctx then { b with live := false } else b) })) }

/-- The oldest entry of each member among the iterations from `j` on. -/
def oldestOf (its : List Iter) (j : Nat) (k : Nat) : Option Iter :=
  (its.filter (fun t => t.ctx == k && j ≤ t.i)).foldl
    (fun a t => match a with | none => some t | some b => if t.i < b.i then some t else some b) none

/-- Squashes iteration `j` and every younger one of a loop: their versions and held stores go, each member returns to
the start of its oldest of them and waits (R114, R116). -/
def State.squashFrom (s : State) (c : Nat) (f : Fin 2) (j : Nat) : State :=
  let F := s.fr c f
  let olds := F.members.filterMap (oldestOf F.its j)
  let gone := F.its.countP (fun t => j ≤ t.i)
  let s := s.setFr c f { F with
    vers := F.vers.filter (fun v => v.iter < j)
    held := F.held.filter (fun h => h.iter < j)
    its := F.its.filter (fun t => t.i < j) ++
      olds.map (fun t => { t with retired := false, completed := false, squashed := true, fault := none }) }
  let s := if gone = 0 then s else s.count c F.opener 0x11 gone
  olds.foldl (fun s t => (s.dropWork c t.ctx).modCtx c t.ctx (fun x =>
    { x.toCkpt t.ckpt with run := .held, wait := some (.wver, .held), pend := none, walks := [] })) s

/-- The squashed iterations of a loop begin again (R116, R117). -/
def State.restart (s : State) (c : Nat) (f : Fin 2) : State :=
  let F := s.fr c f
  let sq := F.its.filter (fun t => t.squashed)
  let s := s.setFr c f { F with rst := false, its := F.its.map (fun t => { t with squashed := false }) }
  sq.foldl (fun s t => s.modCtx c t.ctx (fun x => { x.toCkpt t.ckpt with pc := F.body, wait := none })) s

/-- A frame becomes free (R94). -/
def State.freeFrame (s : State) (c : Nat) (f : Fin 2) : State := s.setFr c f {}

/-- A loop ends with its last completed iteration (R112). -/
def State.exitLoop (s : State) (c : Nat) (f : Fin 2) (l : Nat) (brk : Bool) : State :=
  let F := s.fr c f
  let crew := F.members.drop 1
  let ff := crew.foldl (fun a k => a ||| (s.ctx c k).ff) 0
  let s := crew.foldl (fun s k => (s.dropWork c k).vacate c k) s
  let s := s.setFr c f { F with st := .exit, last := l, setl := l + 1, brkd := brk, its := [], held := [] }
  let o := otherFrame f
  let G := s.fr c o
  let s := if G.opener = F.opener && G.level = 2 && (G.st == .exit || G.st == .seed) then s.freeFrame c o else s
  s.modCtx c F.opener (fun x => { x with ff := x.ff ||| ff, pc := F.fin + 8, wait := none, pend := none, live := {} })

/-- Iterations settle as long as the oldest has completed (R109, R112). -/
def State.settle (s : State) (c : Nat) (f : Fin 2) : Nat → State
  | 0 => s
  | n + 1 =>
    let F := s.fr c f
    match (if F.st = .run then F.it? F.setl else none) with
    | none => s
    | some t =>
      if !t.completed then s
      else
        let s := s.drainHeld c f t.i
        let s := s.modFr c f (fun F => { F with
          setl := F.setl + 1, its := F.its.filter (fun u => u.i != t.i)
          vers := F.vers.filter (fun v => decide ((F.setl : Int) - 16 ≤ v.iter)) })
        let s := (s.count c F.opener 0x10 1).trace c t.ctx 0x03 F.fin (BitVec.ofNat 64 (t.i % 2 ^ 32 + f.val * 2 ^ 32))
        if F.trip ≤ t.i + 1 then s.exitLoop c f t.i false else s.settle c f n

/-- The loop of a member ends with no exit view: its members go vacant and its frame is freed (R391). -/
def State.abortLoop (s : State) (c : Nat) (f : Fin 2) : State :=
  let F := s.fr c f
  let crew := if F.st = .run then F.members.filter (fun k => k != F.opener) else []
  let s := crew.foldl (fun s k => (s.dropWork c k).vacate c k) s
  (s.dropWork c F.opener).freeFrame c f

end Sys2Proof.Machine
end

