-- ==== Sys2Proof/Machine/Banks.lean ====
section
/-! DEFINITION. Counters of 48 bits, the L2 counter banks (R360, R364, R367, R405), and what an access leaves in the TLBs and L2s
(R214, R215). -/

namespace Sys2Proof.Machine

/-- A counter value after an amount (R360). -/
def cntAdd (v n : Nat) : Nat := (v + n) % 2 ^ 48
/-- The addition carries past the counter's width (R360). -/
def cntOver (v n : Nat) : Bool := decide (2 ^ 48 ≤ v + n)

/-- The event a configuration selects, when it counts (R363). -/
def cfgEvent (cfg : Word) : Option Nat :=
  if cfg.getLsbD 8 && cfg.toNat % 256 != 0 then some (cfg.toNat % 256) else none
/-- The overflow event is enabled (R363). -/
def cfgOve (cfg : Word) : Bool := cfg.getLsbD 9

/-- The L2 counters of a partition on a die. -/
def Die.bank (d : Die) (p : Nat) : Vector PCnt 4 := d.banks.get (Fin.ofNat 16 p)
/-- Changes an L2 counter of a bank. -/
def State.modBank (s : State) (d p n : Nat) (f : PCnt → PCnt) : State :=
  s.modDie d (fun k => { k with
    banks := k.banks.set (p % 16) ((k.bank p).set (n % 4) (f ((k.bank p).get (Fin.ofNat 4 n))) (Nat.mod_lt _ (by decide)))
      (Nat.mod_lt _ (by decide)) })

/-- An L2 counter overflows: its event is due, one at a time while its owner's partition is not resident: a second
one is dropped and counted on the saved core (R367; log 81). -/
def State.l2Overflow (s : State) (d p n : Nat) (cfg : Word) : State :=
  let owner := cfg.toNat / 2 ^ 16 % 2 ^ 13
  let key := d * 16 + p
  let held := !(s.part p).resident && s.l2Pending.any (fun e => e.1 == key && e.2.2.1 == 0xC0 + n)
  if held then s.modPart p (fun q => { q with saved := q.saved.map (fun a =>
      let y := tgetD a.cores owner {}
      { a with cores := tset a.cores owner { y with drops := y.drops + 1 } }) })
  else { s with l2Pending := s.l2Pending ++ [(key, owner, 0xC0 + n, (s.core (coreAt d 0)).cyc)] }

/-- An event of a partition's bank on a die (R364). -/
def State.bankEvent (s : State) (d p ev : Nat) : State :=
  (List.range 4).foldl (fun s n =>
    let e := ((s.die d).bank p).get (Fin.ofNat 4 n)
    if cfgEvent e.cfg = some ev then
      let t := s.modBank d p n (fun e => { e with val := cntAdd e.val 1 })
      if cntOver e.val 1 && cfgOve e.cfg then t.l2Overflow d p n e.cfg else t
    else s) s

/-- A counter write reaches its bank (R405). -/
def State.applyBank (s : State) (d : Nat) (b : BankWrite) : State :=
  s.modBank d b.bank b.n (fun e => { val := b.val.getD e.val, cfg := b.cfg.getD e.cfg })

/-- A context's counter writes on a die reach their bank, in order (R405). -/
def State.flushBank (s : State) (d c k : Nat) : State :=
  if (s.die d).bankNew.isEmpty then s
  else
    let mine := (s.die d).bankNew.filter (fun b => b.core == c && b.ctx == k)
    let s := s.modDie d (fun y => { y with bankNew := y.bankNew.filter (fun b => !(b.core == c && b.ctx == k)) })
    mine.foldl (fun s b => s.applyBank d b) s

/-- The lines that a die's L2 has evicted since the last access, and a line more when it is full (R203, R364; log 58). -/
def State.evictLines (s : State) (d : Nat) : State :=
  let l := (s.die d).l2
  let n := s.fresh
  let full := 2 ^ 19 ≤ l.length
  let out (e : Nat × (Nat × Nat)) : Bool := Config.evicted n e.2.1 || (full && e.1 == Config.victim n % 2 ^ 19)
  let l := (List.range l.length).zip l
  let s := { s with fresh := n + 1 }.modDie d (fun k => { k with l2 := (l.filter (fun e => !out e)).map Prod.snd })
  (l.filter out).foldl (fun s e => s.bankEvent d e.2.2 4) s

/-- The L2 line of an access of a partition, homed on the die of its near-tier PA (R214, R364; log 58). -/
def State.useLine (s : State) (part pa : Nat) : State :=
  let d := pa / 2 ^ 35
  let line := pa / 128
  let s := s.evictLines d
  match (s.die d).l2.find? (fun e => e.1 == line) with
  | some e => if e.2 = part then s.bankEvent d part 1 else s
  | none => ((s.modDie d (fun k => { k with l2 := (line, part) :: k.l2 })).bankEvent d part 2).bankEvent d part 3

/-- The virtual offsets of an access's pages, each by its first byte in the access. -/
def pagesOf (a n : Nat) : List Nat :=
  (List.range ((a + n - 1) / 2 ^ 19 - a / 2 ^ 19 + 1)).map (fun i => if i = 0 then a % 2 ^ 56 else ((a / 2 ^ 19 + i) * 2 ^ 19) % 2 ^ 56)

/-- A translated access uses the L2 lines of its near-tier bytes, on each page that allows it; the context's counter writes come
before it (R213, R214, R405). -/
def State.useL2 (s : State) (via : Via) (k a : Nat) (ls : List Nat) : State :=
  if spaceOf a != 0 || ls.isEmpty then s
  else
    let nc := (pagesOf a ls.length).map (fun v => match via.tr v with
      | .leaf l => l.nc
      | _ => true)
    let on (e : Nat × Nat) : Bool := e.1 < 2 ^ 40 && !nc.getD ((a + e.2) / 2 ^ 19 - a / 2 ^ 19) true
    (((ls.zipIdx.filter on).map (fun e => e.1 / 128)).eraseDups).foldl
      (fun s line => (s.flushBank (line * 128 / 2 ^ 35) via.core k).useLine via.part (line * 128)) s

/-! TLBs. -/

/-- A walk reads its entries through the L2s (R213, R214). -/
def State.useTrail (s : State) (part v : Nat) : State :=
  ((s.trail part v).filter (fun pa => pa < 2 ^ 40)).foldl (fun s pa => s.useLine part pa) s

/-- A TLB of 64 entries with a leaf brought to the front: the least recently used goes (R215). -/
def touchTlb (t : List Leaf) (l : Leaf) : List Leaf := (l :: t.filter (fun k => k != l)).take 64

/-- A leaf enters a cluster's shared TLB, 256 sets of 8: which set holds a page and which entry a full set gives up are free (R215;
log 7). -/
def State.fillShared (s : State) (cl : Nat) (l : Leaf) : State :=
  let t := (s.cluster cl).tlb
  if t.contains l then s
  else
    let set (e : Leaf) : Nat := Config.tlbSet e.part e.base % 256
    let mine := t.filter (fun e => set e == set l)
    let out := if mine.length < 8 then none else mine[Config.victim s.fresh % 8]?
    { s with fresh := if mine.length < 8 then s.fresh else s.fresh + 1 }.modCluster cl (fun y =>
      { y with tlb := l :: y.tlb.filter (fun e => out != some e) })

/-- What a translated page of a requester's access leaves in the TLBs that serve it: the entry used is the newest of the core's, a
miss of the core's counts for the context, and a walk fills them (R215, R216, R363). -/
def State.useTlb (s : State) (via : Via) (k v : Nat) : State :=
  match via.tr v, via.path with
  | .leaf l, .core =>
    let hit := (s.core via.core).tlb.contains l
    let cl := s.clusterOf via.core
    let walked := ((tget (s.ctx via.core k).walks (v / 2 ^ 19)).isSome)
    let s := if hit || walked then s else s.count via.core k 0x0C 1
    let s := if hit || walked || (s.cluster cl).tlb.contains l then s else (s.useTrail via.part v).fillShared cl l
    s.modCore via.core (fun y => { y with tlb := touchTlb y.tlb l })
  | .leaf l, .shared cl => if (s.cluster cl).tlb.contains l then s else (s.useTrail via.part v).fillShared cl l
  | .leaf _, .none => s.useTrail via.part v
  | _, _ => s

/-- What the translations and lines of an access leave in the TLBs and L2s (R214 to R216). -/
def State.used (s : State) (via : Via) (k a : Nat) (ls : List Nat) : State :=
  if spaceOf a != 0 || ls.isEmpty then s
  else ((pagesOf a ls.length).foldl (fun s v => s.useTlb via k v) s).useL2 via k a ls

end Sys2Proof.Machine
end

