-- ==== Sys2Proof/Machine/Replay.lean ====
section
/-! DEFINITION. Record and replay: the log of a partition, the turn of an event, divergence and the checksum (R382 to R384). -/

namespace Sys2Proof.Machine

/-- The foghorn of a partition sounds: it is to reach each of its cores (R376). -/
def State.soundFoghorn (s : State) (p : Nat) : State :=
  let hear (c : Nat × Core) : Nat × Core :=
    if c.2.partid = p && decide (c.1 < 8192) then (c.1, { c.2 with foghornDue := true }) else c
  { s with cores := s.cores.map hear }

/-- The number of entries of a key so far. -/
def Replay.seq (r : Replay) (kind : Nat) (key : Word) : Nat := (aget r.seqs (kind, key)).getD 0
/-- The next entry of a key is due. -/
def Replay.bump (r : Replay) (kind : Nat) (key : Word) : Replay :=
  { r with seqs := aset r.seqs (kind, key) (r.seq kind key + 1) }

/-- Word 0 of an entry (R382). -/
def logHead (kind core ctx seq : Nat) : Nat := kind + core % 8192 * 2 ^ 8 + ctx % 16 * 2 ^ 21 + seq % 2 ^ 32 * 2 ^ 32

/-- The entries of the log from a place on, as words of 32 bytes, at most `n`. -/
def State.logEntries (s : State) (at_ limit : Nat) : Nat → List (List Nat)
  | 0 => []
  | n + 1 =>
    if limit < at_ + 32 then []
    else
      let w (i : Nat) : Nat := s.mem.wordNow (locPA (at_ + 8 * i))
      [w 0, w 1, w 2, w 3] :: s.logEntries (at_ + 32) limit n

/-- The entries that follow an entry as its data: a frame's payload, a request's header and hash (log 40). -/
def logExtra (e : List Nat) : Nat :=
  match e.headD 0 % 256 with
  | 4 => (e.getD 2 0 % 2 ^ 16 + 31) / 32
  | 5 => 2
  | _ => 0

/-- The entry of a kind, key and sequence number, with the data entries after it. -/
def findEntry (kind : Nat) (key : Word) (seq : Nat) : List (List Nat) → Nat → Option (List (List Nat))
  | [], _ => none
  | e :: r, skip =>
    if skip ≠ 0 then findEntry kind key seq r (skip - 1)
    else if e.headD 0 % 256 = kind ∧ e.getD 1 0 = key.toNat ∧ e.headD 0 / 2 ^ 32 = seq then some (e :: r)
    else findEntry kind key seq r (logExtra e)

/-- The next logged event of a key (R383). -/
def State.logNext (s : State) (p kind : Nat) (key : Word) : Option (List (List Nat)) :=
  let r := (s.part p).replay
  findEntry kind key (r.seq kind key) (s.logEntries r.base r.limit ((r.limit - r.base) / 32)) 0

/-- Whether an event of a key may be made by that agent now (R383; log 77). -/
def State.turn (s : State) (p kind : Nat) (key : Word) (core ctx : Nat) : Bool :=
  if (s.part p).replay.mode != .replay then true
  else
    match s.logNext p kind key with
    | none => false
    | some l => (l.headD []).headD 0 / 2 ^ 8 % 2 ^ 17 == core % 8192 + ctx % 16 * 2 ^ 13

/-- A divergence sounds the foghorn and is recorded (R384; log 77). -/
def State.diverge (s : State) (p kind : Nat) (key : Word) : State :=
  (s.modPart p (fun q => { q with
    replay := { q.replay with diverged := some (kind, key, q.replay.seq kind key) } })).soundFoghorn p

/-- The logged agent of the next event of a key is vacant: a divergence (R384; log 77). -/
def State.checkVacant (s : State) (p kind : Nat) (key : Word) : State :=
  if (s.part p).replay.mode != .replay || (s.part p).replay.diverged.isSome then s
  else
    match s.logNext p kind key with
    | none => s
    | some l =>
      let h := (l.headD []).headD 0
      let c := h / 2 ^ 8 % 2 ^ 13
      let v := h / 2 ^ 21 % 16
      let gone := match s.physOf c v with
        | none => true
        | some k => (s.ctx c k).run == .vacant
      if v ≠ 0 && gone then s.diverge p kind key else s

/-- Appends entries to the log: a full log stops recording and sounds the foghorn (R382; log 40). -/
def State.logWords (s : State) (p : Nat) : List (List Nat) → State
  | [] => s
  | e :: r =>
    let y := (s.part p).replay
    if y.full then s
    else if y.limit < y.base + y.pos + 32 then
      (s.modPart p (fun q => { q with replay := { q.replay with full := true } })).soundFoghorn p
    else
      let cells := (locsFrom (locPA (y.base + y.pos)) 32).zip (e.flatMap (fun w => leCut 8 w))
      ((s.modMem (fun m => m.write (.log p) cells)).modPart p (fun q => { q with
        replay := { q.replay with pos := q.replay.pos + 32 } })).logWords p r

/-- An event of a kind and key has been made: RECORD logs it, REPLAY goes to the next (R382, R383). -/
def State.logged (s : State) (p kind : Nat) (key : Word) (core ctx : Nat) (d2 d3 : Word := 0)
    (more : List (List Nat) := []) : State :=
  match (s.part p).replay.mode with
  | .off => s
  | m =>
    let e : List Nat := [logHead kind core ctx ((s.part p).replay.seq kind key), key.toNat, d2.toNat, d3.toNat]
    let s := s.modPart p (fun q => { q with replay := q.replay.bump kind key })
    if m = .record then s.logWords p (e :: more) else s

/-- An annotation of a context's core (R382): 1 a page fault with its address, 2 a corrected error, 3 a pre-emption (log 40). -/
def State.annotate (s : State) (p c k what : Nat) (d : Word) : State :=
  s.logged p 7 (BitVec.ofNat 64 c) c (s.vOf c k) (BitVec.ofNat 64 what) d

/-- The key of a hardware queue (R382; log 40). -/
def queueKey (c q : Nat) : Word := BitVec.ofNat 64 (2 ^ 63 + c % 8192 + q * 2 ^ 13)
/-- The key of a mailbox (R382; log 40). -/
def mailKey (c mb : Nat) : Word := BitVec.ofNat 64 (c % 8192 + mb * 2 ^ 13)

/-- An address with the own core store in the form of space 0xA (R245; log 80). -/
def normAddr (c a : Nat) : Nat :=
  if a / 2 ^ 60 = 0x8 then 0xA * 2 ^ 60 + c / 256 % 32 * 2 ^ 48 + c % 256 * 2 ^ 40 + a % 2 ^ 20 else a

/-- The key of a sync word or atomic word (R382). -/
def wordKey (c : Nat) (a : Word) : Word := BitVec.ofNat 64 (normAddr c a.toNat)

/-- The checksum after a release or fill of a context (R384). -/
def checkNext (c s v : Word) : Word :=
  (c.rotateLeft 1) ^^^ ((s ^^^ v.rotateLeft 17) * 0x9E37_79B9_7F4A_7C15)

/-- Updates a context's checksum in RECORD and REPLAY (R384; log 80). -/
def State.checksum (s : State) (c k : Nat) (a v : Word) : State :=
  if (s.part (s.core c).partid).replay.mode = .off then s
  else s.modCtx c k (fun x => { x with checksum := checkNext x.checksum a v })

end Sys2Proof.Machine
end

