-- ==== Sys2Proof/Machine/Ops.lean ====
section
/-! DEFINITION. What every instruction shares: the thread monad, events, taking an exception (R386 to R391) and returning
from one (R392), retiring (R72, R137, R374), issuing with guard, side effects and breakpoints (R66, R80, R110, R373). -/

namespace Sys2Proof.Machine

/-! Events to contexts and service cores. -/

/-- An event of two words enters a context's event queue; a full queue drops its oldest (R298, R377). -/
def State.postEvent (s : State) (c k : Nat) (w : Word × Word) : State :=
  let x := s.ctx c k
  let full := 8 ≤ x.events.length
  let s := s.setCtx c k { x with events := (if full then x.events.drop 1 else x.events) ++ [w] }
  s.modCore c (fun y => { y with recv := y.recv + 1, drops := if full then y.drops + 1 else y.drops })

/-- The event of a stopped context: to the keeper, or a stop report to the service core (R391, R418). -/
def State.stopEvent (s : State) (c k who : Nat) (code : Nat) (tval : Word) : State :=
  let w0 : Word := BitVec.ofNat 64 (0x41 + code * 2 ^ 8 + (s.ctx c who).vctx * 2 ^ 16)
  if (s.ctx c k).vctx ≠ 0 then s.postEvent c (s.keeper c) (w0, tval)
  else { s with sreq := true, net := s.net ++ [.stop (quadOf (s.core c).home) c (s.core c).partid w0 tval] }

/-- The thread stops: it leaves the rotation until it is released; a reply under way still comes (R374, R222). -/
def State.stopThread (s : State) (c k : Nat) : State :=
  s.modCtx c k (fun x => { x with dbc := { x.dbc with stop := true } })

/-- The exit word of a context (R281, R292, R391). -/
def exitWordOf (vctx : Nat) (low : Nat) : Word := BitVec.ofNat 64 (vctx % 16 * 2 ^ 60 + low % 2 ^ 60)

/-- A context is terminated as QRST terminates one (R292): its frames go, its crew is vacant, its exit word is posted. -/
def State.terminate (s : State) (c k : Nat) (w : Word) : State :=
  let drop (s : State) (f : Fin 2) : State :=
    if (s.fr c f).st != .free && (s.fr c f).opener == k then s.abortLoop c f else s
  let s := drop (drop s 0) 1
  let s := (((s.resetTrace c k).dropWork c k).vacate c k).modCtx c k (fun x =>
    { x with replies := x.replies.map (fun r => if r = .pending then .empty else r) })
  s.modCore c (fun y => { y with exitq := y.exitq ++ [w], pinned := y.pinned.filter (fun p => p.1 != k) })

/-! Taking an exception. -/

/-- The code of a fault (R386). -/
def FaultCode.num : FaultCode → Nat
  | .illegal => 0x01 | .slot => 0x02 | .place => 0x03 | .priv => 0x04 | .fmt => 0x05 | .align => 0x06 | .page => 0x07
  | .prot => 0x08 | .seg => 0x09 | .space => 0x0A | .vread0 => 0x0B | .fnest => 0x0C | .frame => 0x0D | .queue => 0x0E
  | .futpool => 0x0F | .notag => 0x10 | .bind => 0x11 | .stream => 0x12 | .lateframe => 0x13 | .bkpt => 0x14
  | .watch => 0x15 | .step => 0x16 | .ue => 0x17 | .trap => 0x18

/-- The number of an access kind (R389). -/
def Acc.num : Acc → Nat
  | .read => 0 | .write => 1 | .fetch => 2 | .none => 3

/-- TCAUSE of a fault, with DF and NCODE zero (R389). -/
def Cause.word (f : Cause) : Word :=
  BitVec.ofNat 64 (f.code.num + f.acc.num * 2 ^ 14 + f.kind.val * 2 ^ 16 + f.level.val * 2 ^ 18 +
    match f.ctag with
    | none => 0
    | some t => 2 ^ 23 + t.val * 2 ^ 24)

/-- TCAUSE after a fault taken with H = 1 (R391). -/
def doubleFault (t : Word) (code : Nat) : Word :=
  BitVec.ofNat 64 (t.toNat % 2 ^ 40 + code * 2 ^ 40 + 2 ^ 48)

/-- Trap entry of a context with a handler (R390). -/
def trapEntry (x : Ctx) (f : Cause) : Ctx :=
  { x with
    tcause := f.word, tpc := x.pc, tval := f.tval, trap := x.live, live := {}, h := true
    pc := x.tvec &&& ~~~3#64, wait := none, pend := none, walks := [], fetched := [] }

/-- The cause registers as at entry (R391). -/
def trapRegs (x : Ctx) (f : Cause) (pc : Word) : Ctx :=
  { x with tcause := f.word, tpc := pc, tval := f.tval, wait := none, pend := none }

/-- The loop of which a context is a member but not the opener (R391). -/
def State.memberOf (s : State) (c k : Nat) : Option (Fin 2) :=
  let m (f : Fin 2) : Bool := (s.fr c f).st == .run && (s.fr c f).members.contains k && (s.fr c f).opener != k
  if m 0 then some 0 else if m 1 then some 1 else none

/-- The outcome of R391's table without a handler, for a context that is not a crew member. -/
def State.noHandler (s : State) (c k who : Nat) (f : Cause) : State :=
  let v := (s.ctx c k).vctx
  if v ≠ 0 then s.terminate c k (exitWordOf v (0x0FFF_FFFF_FFFF_FF00 + f.code.num))
  else (s.stopThread c k).stopEvent c k who f.code.num f.tval

/-- An exception is taken: trap entry (R390), or the outcome of R391 where no handler runs. The context's PC is the one
TPC is to hold (R386). -/
def State.enterTrap (s : State) (c k : Nat) (f : Cause) : State :=
  let s := s.count c k 0x12 1
  let s := if f.code = .page then s.annotate (s.core c).partid c k 1 f.tval else s
  let x := s.ctx c k
  if x.h then
    let s := s.setCtx c k { x with tcause := doubleFault x.tcause f.code.num, wait := none, pend := none }
    (s.stopThread c k).stopEvent c k k f.code.num x.tval
  else if x.tvec.getLsbD 0 then
    (s.setCtx c k (trapEntry x f)).trace c k 0x0B (f.pc.getD x.pc)
      (BitVec.ofNat 64 (f.code.num + f.tval.toNat % 2 ^ 56 * 2 ^ 8))
  else
    match s.memberOf c k with
    | some fx =>
      let op := (s.fr c fx).opener
      let s := (s.abortLoop c fx).modCtx c op (fun y => trapRegs y f x.pc)
      s.noHandler c op k f
    | none => (s.setCtx c k (trapRegs x f x.pc)).noHandler c k k f

/-- The fault of the oldest iteration is delivered (R116 steps 2 and 3; log 68): its versions and held stores go, the younger
iterations are squashed, its member takes the trap. -/
def State.deliver (s : State) (c : Nat) (f : Fin 2) (t : Iter) (cause : Cause) : State :=
  let s := s.squashFrom c f (t.i + 1)
  let s := s.modFr c f (fun F => { (F.modIt t.i (fun u => { u with fault := none, squashed := true, retired := false }))
    with rst := true, vers := F.vers.filter (fun v => v.iter < t.i), held := F.held.filter (fun h => h.iter != t.i) })
  (s.modCtx c t.ctx (fun x => { x with wait := none })).enterTrap c t.ctx cause

/-- A fault is taken: instruction-precise outside an uncommitted iteration, else held with its iteration until that is
the oldest (R116, R387). -/
def State.takeFault (s : State) (c k : Nat) (f : Cause) : State :=
  match s.curIter c k with
  | none => s.enterTrap c k f
  | some (fx, t) =>
    if t.committed || (s.fr c fx).rst then s.enterTrap c k f
    else if t.i = (s.fr c fx).setl then s.deliver c fx t f
    else
      (s.modFr c fx (fun F => F.modIt t.i (fun u => { u with fault := some f }))).modCtx c k
        (fun x => { x with wait := some (.wver, .held), pend := none })

/-- Settling, and the fault that the new oldest iteration holds (R109, R116). -/
def State.settleLoop (s : State) (c : Nat) (f : Fin 2) : State :=
  let s := s.settle c f ((s.fr c f).its.length + 1)
  let F := s.fr c f
  match (if F.st = .run && !F.rst then F.it? F.setl else none) with
  | none => s
  | some t =>
    match t.fault with
    | none => s
    | some cause => s.deliver c f t cause

/-- Return from an exception (R392): H clears, the live control block comes back, and the PC, unless an iteration restarts.
A footprint copy that faulted is repeated (R287; log 68). -/
def State.trapReturn (s : State) (c k : Nat) : State :=
  let s := s.modCtx c k (fun x => { x with
    h := false, live := x.trap, trap := {}, fetched := []
    pend := if x.foot.isEmpty then none else some { kind := .footprint, len := 0 } })
  match s.curIter c k with
  | some (f, t) =>
    if (s.fr c f).rst && t.squashed then s.restart c f else s.modCtx c k (fun x => { x with pc := x.tpc })
  | none => s.modCtx c k (fun x => { x with pc := x.tpc })

/-! The thread monad. -/

/-- How an instruction ends without completing: a fault; one that is instruction-precise wherever it is raised (R91, R116; log 119);
a breakpoint or watchpoint with the action of the highest match (R373); a wait; a translation to wait for; or a state of its own. -/
inductive Stop where
  | fault (c : Cause)
  | trap (c : Cause)
  | hit (code : FaultCode) (act : Nat) (tval : Word)
  | wait (cls : SlotClass) (cond : WaitCond)
  | miss (page : Nat)
  | done (s : State)

/-- A piece of an instruction of the acting context. A fault or wait leaves the state it began with. -/
abbrev M (α : Type) := StateT State (Except Stop) α

/-- Raises a fault. -/
def raise {α : Type} (c : Cause) : M α := throw (.fault c)
/-- Raises a fault with a TVAL. -/
def raiseV {α : Type} (code : FaultCode) (tval : Word := 0) : M α := throw (.fault { code, tval })
/-- Waits. -/
def waitFor {α : Type} (cls : SlotClass) (cond : WaitCond) : M α := throw (.wait cls cond)
/-- Makes the faults of a piece that have one of the codes instruction-precise (R91, R116; log 119). -/
def preciseOn {α : Type} (codes : List FaultCode) (m : M α) : M α := fun s =>
  match m s with
  | .error (.fault c) => .error (if codes.contains c.code then .trap c else .fault c)
  | r => r
/-- A condition that must hold, else a fault. -/
def ensure (b : Bool) (code : FaultCode) (tval : Word := 0) : M Unit := if b then pure () else raiseV code tval

/-! Retiring. -/

/-- The next PC and live control block after an instruction of a length (R72, R137). -/
def nextPc (x : Ctx) (len : Nat) : Word × CtlBlock :=
  let b := x.live
  let n := x.pc + BitVec.ofNat 64 len
  if 0 < b.left then
    if b.left = 1 then
      (if b.taken then b.target else n, { b with left := 0, taken := false, target := 0 })
    else (n, { b with left := b.left - 1 })
  else if b.active then
    if b.pos + 1 = b.blen then
      if 1 < b.passes.toNat then (b.start, { b with passes := b.passes - 1, pos := 0 })
      else (n, { b with active := false, start := 0, passes := 0, blen := 0, pos := 0 })
    else (n, { b with pos := b.pos + 1 })
  else (n, b)

/-- One instruction fewer until the step expires (R374). -/
def stepDown (x : Ctx) : Ctx :=
  if x.dbc.steps = 0 || x.dbc.steps = 0xFFFF then x
  else { x with dbc := { x.dbc with steps := x.dbc.steps - 1 }, stepDue := x.stepDue || x.dbc.steps = 1 }

/-- A context's instruction completes and the next one is due. -/
def retireCtx (x : Ctx) (len : Nat) : Ctx :=
  let (pc, live) := nextPc x len
  stepDown { x with pc, live, wait := none, pend := none, walks := [], woke := false }

/-- The acting context's instruction of that length completes (R13, R363). -/
def State.retire (s : State) (len : Nat) : State :=
  (s.count s.cc s.ck 0x08 1).modMe (fun x => retireCtx x len)

/-! Guards and the issue of an instruction. -/

/-- A guard register; g0 reads all ones (R82). -/
def Ctx.gReg (x : Ctx) (n : Fin 8) : Lane := if h : n.val = 0 then allOn else x.g.get ⟨n.val - 1, by omega⟩

/-- Writes a guard register; g0 is never a destination (R63). -/
def Ctx.setG (x : Ctx) (n : Fin 8) (v : Lane) : Ctx :=
  if h : n.val = 0 then x else { x with g := x.g.set (n.val - 1) v (by omega) }

/-- The guard bits of an instruction, after the negation (R7, R66). -/
def Ctx.guardBits (x : Ctx) (g : Guard) : Lane := if g.neg then ~~~(x.gReg g.g) else x.gReg g.g

/-- What the issue of an instruction needs to know: its guard and length; the lanes whose guard bits it obeys (R66,
R186); whether it is a side-effect instruction (R110), one that raises SLOT (R73, R138), one that raises PRIV at decode
(R80), one that takes a store-queue entry whatever its guard (R107); the queue names it pops (R65) and the loop names it writes
(R101). -/
structure Info where
  g : Guard
  len : Nat := 8
  lanes : Lane := 1
  side : Bool := false
  bar : Bool := false
  priv : Bool := false
  store : Bool := false
  pops : List (Fin 4) := []
  lds : List Nat := []
  deriving DecidableEq, Repr, Inhabited

/-- The instruction is guarded on (R66). -/
def Info.on (i : Info) (x : Ctx) : Bool :=
  (x.guardBits i.g &&& i.lanes) != 0

/-- The hardware queue a queue name maps to, when its mapping is enabled (R86). -/
def Ctx.hwq (x : Ctx) (n : Fin 4) : Option (Fin 8) :=
  if x.qmap.getLsbD (4 * n.val + 3) then some (Fin.ofNat 8 (x.qmap.toNat / 2 ^ (4 * n.val) % 8)) else none

/-- A unit of the context's watch group that is enabled (R371 to R373). -/
def unitArmed (d : Dbc) (ctl : Word) : Bool :=
  ctl.getLsbD 6 && d.wgv && (ctl.toNat % 16 == d.wg.toNat)

/-- The action of a unit (R371). -/
def unitAct (ctl : Word) : Nat := ctl.toNat / 2 ^ 4 % 4

/-- The highest action among matching units, with the TVAL of the lowest unit that traps (R373). -/
def topAct : List (Nat × Word) → Option (Nat × Word)
  | [] => none
  | (a, t) :: r =>
    match topAct r with
    | none => some (a, t)
    | some (b, u) => if b ≤ a then some (a, t) else some (b, u)

/-- What a match does to the machine: the matched instruction has no effect (R373 to R377). -/
def State.matched (s : State) (code : FaultCode) (act : Nat) (tval : Word) : State :=
  match act with
  | 0 => { s.takeFault s.cc s.ck { code, tval } with acct := .iss }
  | 1 => { s.stopThread s.cc s.ck with acct := .wmsg }
  | 2 => s.modCluster (s.clusterOf s.cc) (fun c => { c with frozen := true })
  | _ => s.soundFoghorn s.myPart

/-- The breakpoints of the acting context's cluster against its PC (R373; log 66). -/
def breakCheck : M Unit := fun s =>
  let x := s.me
  let hits := (s.cluster (s.clusterOf s.cc)).bps.filterMap (fun b =>
    if b.1 < 16 && unitArmed x.dbc b.2.2 && b.2.1 == x.pc then some (unitAct b.2.2, x.pc) else none)
  match topAct hits with
  | none => .ok ((), s)
  | some (a, t) => .error (.hit .bkpt a t)

/-- The first of the addresses that lies in a watchpoint's range (R371). -/
def watchHit (base ctl : Word) (as : List Nat) : Option Nat :=
  let n := 2 ^ (ctl.toNat / 2 ^ 16 % 2 ^ 6)
  as.find? (fun a => base.toNat ≤ a && a < base.toNat + n)

/-- The watchpoints against the bytes an instruction loads or stores (R373; log 66): `kind` is 1 for loads, 2 for stores, 3 for both. -/
def watchCheck (kind : Nat) (as : List Nat) : M Unit := fun s =>
  let x := s.me
  let hits := (s.cluster (s.clusterOf s.cc)).bps.filterMap (fun b =>
    if 16 ≤ b.1 && unitArmed x.dbc b.2.2 && (b.2.2.toNat / 2 ^ 7 % 4) &&& kind != 0 then
      (watchHit b.2.1 b.2.2 as).map (fun a => (unitAct b.2.2, BitVec.ofNat 64 a))
    else none)
  match topAct hits with
  | none => .ok ((), s)
  | some (a, t) => .error (.hit .watch a t)

/-- The version-depth limit (R106). -/
def depthCheck (lds : List Nat) : M Unit := fun s =>
  match lds, s.writeIter s.cc s.ck with
  | _ :: _, some (f, t) =>
    if (s.fr s.cc f).freed ((t.i : Int) - 8) then .ok ((), s)
    else .error (.wait .wver (.freed s.cc f.val ((t.i : Int) - 8)))
  | _, _ => .ok ((), s)

/-- A guarded-off write carries its loop names (R101). -/
def carryNames (lds : List Nat) : M Unit := fun s =>
  match s.writeIter s.cc s.ck with
  | some (f, t) => .ok ((), s.modFr s.cc f (fun F => lds.foldl (fun F n => F.carry n t.i) F))
  | none => .ok ((), s)

/-- A side-effect instruction waits until its iteration is the oldest, drains it and commits it (R110). DESIGN CHOICE: one of a
handler that runs with RST = 1 commits the iteration too, and TRET restarts it all the same (R116; log 120). -/
def sideEffect : M Unit := fun s =>
  match s.curIter s.cc s.ck with
  | none => .ok ((), s)
  | some (f, t) =>
    if t.committed then .ok ((), s)
    else if t.i = (s.fr s.cc f).setl then .ok ((), s.commit s.cc s.ck)
    else .error (.wait .wver (.oldest s.cc f.val t.i))

/-- What an instruction that is guarded on waits for: the depth limit and its iteration's turn (R106, R110). -/
def turnCheck (i : Info) : M Unit := do
  depthCheck i.lds
  if i.side then sideEffect

/-- The issue of an instruction: decode faults, breakpoints, the guard, the depth limit, side effects. It answers whether
the instruction is guarded on. -/
def prologue (i : Info) : M Bool := do
  let x := (← get).me
  ensure (!(i.bar && (0 < x.live.left || x.live.active))) .slot
  ensure (!i.priv) .priv
  if i.on x then
    breakCheck
    turnCheck i
    pure true
  else
    depthCheck i.lds
    carryNames i.lds
    pure false

/-- The entries that an instruction's queue sources pop, in order, from the queues as they stood (R65). -/
def poppedOf (s : State) (x : Ctx) (pops : List (Fin 4)) : List (Nat × QEntry) :=
  (List.range 8).flatMap (fun q =>
    let n := pops.countP (fun p => x.hwq p == some (Fin.ofNat 8 q))
    ((s.myCore.hwq.get (Fin.ofNat 8 q)).entries.take n).map (fun e => (q, e)))

/-- One page of some size may contain the addresses of both pages of 512 KiB (R213, R216). -/
def samePage (p q : Nat) : Bool := p / 2 ^ 12 == q / 2 ^ 12

/-- A request joins the pending page that could contain its address, or enters the miss queue while that holds fewer than 256
(R216); none where it must wait. -/
def State.enterMiss (s : State) (cl part page c k : Nat) : Option State :=
  let q := (s.cluster cl).misses
  let mine (m : Miss) : Bool := m.part == part && samePage m.page page
  if q.any mine then
    some (s.modCluster cl (fun y => { y with
      misses := q.map (fun m => if mine m then { m with joined := m.joined ++ [(c, k, page)] } else m) }))
  else if q.length < 256 then
    some ((s.modCluster cl (fun y => { y with misses := q ++ [{ part, page, joined := [(c, k, page)] }] })).modDie (dieOfCl cl)
      (fun d => { d with walkq := d.walkq ++ [(cl, part, page)] }))
  else none

/-- The requests that wait for room in a miss queue enter it in their order of arrival, as far as they can (R216). -/
def State.admitMisses (s : State) (cl : Nat) : Nat → State
  | 0 => s
  | n + 1 =>
    match (s.cluster cl).missWait with
    | [] => s
    | (p, page, c, k) :: r =>
      match s.enterMiss cl p page c k with
      | none => s
      | some t => (t.modCluster cl (fun y => { y with missWait := r })).admitMisses cl n

/-- A page that a request waits for enters the cluster's miss queue, joins its entry, or waits for room there (R216). -/
def State.joinMiss (s : State) (page : Nat) : State :=
  let cl := s.clusterOf s.cc
  let s := s.count s.cc s.ck 0x0C 1
  (s.enterMiss cl s.myPart page s.cc s.ck).getD
    (s.modCluster cl (fun y => { y with missWait := y.missWait ++ [(s.myPart, page, s.cc, s.ck)] }))

/-- How many entries of its queue a waiting pop needs (R65). -/
def WaitCond.needed (s : State) (pops : List (Fin 4)) : WaitCond → WaitCond
  | .qHas c q _ => .qHas c q (pops.countP (fun p => s.me.hwq p == some (Fin.ofNat 8 q)))
  | w => w

/-- An instruction that stops: its state is the one it began with, but for the stop itself. -/
def State.stopped (s : State) (pops : List (Fin 4)) : Stop → State
  | .fault c => { s.takeFault s.cc s.ck c with acct := .iss }
  | .trap c => { s.enterTrap s.cc s.ck c with acct := .iss }
  | .hit code act tval => s.matched code act tval
  | .wait cls w =>
    let s := match w with
      | .farWindow n need => s.farEnter (.ctx s.cc s.ck) n need
      | _ => s
    { s.modMe (fun x => { x with wait := some (cls, w.needed s pops), woke := false }) with acct := cls }
  | .miss page =>
    { (s.joinMiss page).modMe (fun x =>
        { x with wait := some (.wmem, .walked (s.clusterOf s.cc) s.myPart page), woke := false }) with acct := .wmem }
  | .done s' => s'

/-- The outcome of a machine step. -/
abbrev Out := Host.Outcome State Fault Refusal

/-- What stops an instruction at its issue: where a breakpoint matches and a watchpoint would too, the higher action (R373). -/
def Stop.orWatch (i : Info) (body : M Unit) (s : State) : Stop → Stop
  | .hit code act tval =>
    match (do turnCheck i; body : M Unit) s with
    | .error (.hit .watch a v) => if act < a then .hit .watch a v else .hit code act tval
    | _ => .hit code act tval
  | e => e

/-- The state that a stop in an instruction's body finds: a fault of a side-effect instruction finds its iteration committed (R91,
R110, R253), and else the instruction has done nothing. -/
def Stop.base (s t : State) : Stop → State
  | .fault _ | .trap _ => t
  | _ => s

/-- Runs an instruction: its issue, then its body where it is guarded on, else what it does guarded off. The body ends
with the state after the instruction, retired or awaiting a reply. -/
def runWith (i : Info) (off body : M Unit) (s : State) : Out :=
  let s := { s with acct := .iss }
  match prologue i s with
  | .error e => .next (s.stopped i.pops (e.orWatch i body s))
  | .ok (true, t) =>
    match body t with
    | .ok (_, u) => .next (if i.pops.isEmpty then u else u.modMe (fun x =>
        { x with pend := x.pend.map (fun p => { p with popped := poppedOf s s.me i.pops }) }))
    | .error e => .next ((e.base s t).stopped i.pops e)
  | .ok (false, t) =>
    match off t with
    | .ok (_, u) => .next u
    | .error e => .next (s.stopped i.pops e)

/-- The store queue has room for `n` more entries, or the iteration waits, or as the oldest commits (R107). -/
def storeRoom (n : Nat) : M Unit := fun s =>
  match s.curIter s.cc s.ck with
  | none => .ok ((), s)
  | some (f, t) =>
    let F := s.fr s.cc f
    if t.committed || F.held.length + n ≤ 64 then .ok ((), s)
    else if t.i = F.setl then .ok ((), s.commit s.cc s.ck)
    else .error (.wait .wmem (.storeRoom s.cc f.val n))

/-- The entry of a guarded-off store: it holds no byte (R107). -/
def State.holdNone (s : State) : State :=
  match s.curIter s.cc s.ck with
  | some (f, t) =>
    if t.committed then s
    else s.modFr s.cc f (fun F => { F with held := F.held ++ [{ iter := t.i, units := [] }] })
  | none => s

/-- A guarded-off store of an iteration takes its entry (R107). -/
def offEntry : M Unit := do
  storeRoom 1
  modify State.holdNone

/-- A guarded-off instruction only counts and retires (R66). -/
def offRetire (len : Nat) : M Unit := modify (fun t => (t.count t.cc t.ck 0x09 1).retire len)

/-- What an instruction does guarded off (R66, R107). -/
def Info.off (i : Info) : M Unit := do
  if i.store then offEntry
  offRetire i.len

/-- Runs an instruction that guarded off only retires, a store with its entry. -/
def run (i : Info) (body : M Unit) (s : State) : Out := runWith i i.off body s

end Sys2Proof.Machine
end

