-- ==== Sys2Proof/WellFormed.lean ====
section
/-! DEFINITION. Which terms of the syntax are instructions of the machine: the conditions on operands that R59 to R79 and
the entries put on an encoding and that the types of the syntax do not carry already. -/

namespace Sys2Proof

/-- The sign extension of a field of `w` bits to 64 bits. -/
def sextField (w n : Nat) : Word := (BitVec.ofNat w n).signExtend 64

namespace Imm

/-- A class I immediate that is sign-extended (R67). -/
def fitsS (i : Imm) : Bool :=
  match i.form with
  | .h64 => sextField 20 i.val.toNat == i.val
  | .h96 => sextField 32 i.val.toNat == i.val
  | .h128 => true

/-- A class I immediate that is zero-extended (R67). -/
def fitsU (i : Imm) : Bool :=
  match i.form with
  | .h64 => decide (i.val.toNat < 2 ^ 20)
  | .h96 => decide (i.val.toNat < 2 ^ 32)
  | .h128 => true

/-- A class F operand: absent, so 0, in the 64-bit form (R130). -/
def fitsF (i : Imm) : Bool :=
  match i.form with
  | .h64 => i.val == 0
  | .h96 => sextField 32 i.val.toNat == i.val
  | .h128 => true

end Imm

/-- A literal of a form: none, 32 bits, 64 bits (R59). -/
def litFits (f : Form) (lit : Word) : Bool :=
  match f with
  | .h64 => lit == 0
  | .h96 => decide (lit.toNat < 2 ^ 32)
  | .h128 => true

/-- POS + LEN ≤ 64, with LEN - 1 in the field (R129). -/
def fieldFits (pos len : Fin 64) : Bool := decide (pos.val + len.val + 1 ≤ 64)

/-- The space codes of PGA (R130). -/
def pgaSpace (s : BitVec 4) : Bool := s == 0 || s == 8 || s == 9 || s == 10 || s == 11 || s == 12

/-- The condition codes of CMP and CMPI (R78). -/
def CC.scalar : CC → Bool
  | .un => false
  | .ord => false
  | _ => true

/-- The tags of ZCLR and ZLD (R199, R200). -/
def Tag.acc : Tag → Bool
  | .raw => true
  | .fp32 => true
  | .int32 => true
  | _ => false

/-- The target tags of VCVT (R178). -/
def cvtTarget : Tag → Bool
  | .int32 => true
  | .fp32 => true
  | .fp16 => true
  | .bf16 => true
  | .int16 => true
  | _ => false

/-- The target tags of VPACK (R179). -/
def packTarget : Tag → Bool
  | .bf16 => true
  | .fp16 => true
  | .int16 => true
  | .int8 => true
  | _ => false

/-- The target tags of VUNPK (R180). -/
def unpkTarget : Tag → Bool
  | .fp32 => true
  | .int32 => true
  | .int16 => true
  | .bf16 => true
  | .fp16 => true
  | _ => false

/-- The register selectors of CPW (R236). -/
def cpwSel (k : Fin 8) : Bool := k == 0 || k == 2 || k == 4

/-- A tag source that FMTG accepts: no queue name (R92). -/
def TagSrc.ok : TagSrc → Bool
  | .v (.q _) => false
  | _ => true

/-- A tag destination that FMTS accepts: no queue name (R92). -/
def TagDst.ok : TagDst → Bool
  | .v (.q _) => false
  | _ => true

/-- VSEED: a vector name takes a vector source and has no literal form (R97). -/
def vseedOk (k : Fin 8) : SeedName → SeedSrc → Bool
  | .l _, .s _ => k != 0
  | .l _, .lit i => k != 0 && i.form != .h64 && i.fitsS
  | .w _, .v _ => k != 0
  | _, _ => false

/-- LOOP: the body starts after the LOOP (R97). -/
def loopOk (count : LoopCount) (ofs : BitVec 12) : Bool :=
  match count with
  | .reg _ => decide (8 ≤ 4 * ofs.toNat)
  | .lit _ => decide (12 ≤ 4 * ofs.toNat)

/-- The guard of an instruction that may stand in a half. -/
def Instr.halfGuard : Instr → Option Guard
  | .nop g f lit => if f == .h64 && lit == 0 then some g else none
  | .add g _ _ _ _ => some g | .sub g _ _ _ _ => some g | .mul g _ _ _ _ => some g | .mulh g _ _ _ _ => some g
  | .mulhu g _ _ _ _ => some g | .div g _ _ _ _ => some g | .divu g _ _ _ _ => some g | .rem g _ _ _ _ => some g
  | .remu g _ _ _ _ => some g | .and g _ _ _ => some g | .or g _ _ _ => some g | .xor g _ _ _ => some g
  | .andn g _ _ _ => some g | .orn g _ _ _ => some g | .shl g _ _ _ _ => some g | .shr g _ _ _ _ => some g
  | .sar g _ _ _ _ => some g | .rol g _ _ _ _ => some g | .clz g _ _ _ => some g | .ctz g _ _ _ => some g
  | .popc g _ _ _ => some g | .min g _ _ _ _ => some g | .max g _ _ _ _ => some g | .minu g _ _ _ _ => some g
  | .maxu g _ _ _ _ => some g | .sel g _ _ _ _ => some g | .mov g _ _ => some g
  | .addi g _ _ _ i => if i.form == .h64 then some g else none
  | .li g _ i => if i.form == .h64 then some g else none
  | .extf g _ _ _ _ _ => some g | .insf g _ _ _ _ _ => some g
  | .cmp g _ _ _ _ _ => some g
  | .cmpi g _ _ _ _ i => if i.form == .h64 then some g else none
  | .gand g _ _ _ => some g | .gor g _ _ _ => some g | .gnot g _ _ => some g
  | .ld g _ _ i => if i.form == .h64 then some g else none
  | .ldW g _ _ i => if i.form == .h64 then some g else none
  | .ldWu g _ _ i => if i.form == .h64 then some g else none
  | .ldH g _ _ i => if i.form == .h64 then some g else none
  | .ldHu g _ _ i => if i.form == .h64 then some g else none
  | .ldB g _ _ i => if i.form == .h64 then some g else none
  | .ldBu g _ _ i => if i.form == .h64 then some g else none
  | .st g _ _ i => if i.form == .h64 then some g else none
  | .stW g _ _ i => if i.form == .h64 then some g else none
  | .stH g _ _ i => if i.form == .h64 then some g else none
  | .stB g _ _ i => if i.form == .h64 then some g else none
  | .vadd g _ _ _ => some g | .vsub g _ _ _ => some g | .vmul g _ _ _ => some g | .vfma g _ _ _ _ => some g
  | .vfms g _ _ _ _ => some g | .vmin g _ _ _ => some g | .vmax g _ _ _ => some g | .vabs g _ _ => some g
  | .vneg g _ _ => some g | .vcps g _ _ _ => some g | .vcmp g _ _ _ _ => some g | .vsel g _ _ _ _ => some g
  | .vrnd g _ _ => some g | .vfexp g _ _ => some g | .vexpi g _ _ _ => some g | .vlogb g _ _ => some g
  | .vrcp g _ _ => some g | .vrsq g _ _ => some g | .vcvt g _ _ _ _ _ => some g | .vpack g _ _ _ _ _ _ => some g
  | .vunpk g _ _ _ _ _ => some g | .viadd g _ _ _ _ => some g | .visub g _ _ _ _ => some g | .vimul g _ _ _ => some g
  | .vimad g _ _ _ _ => some g | .vand g _ _ _ => some g | .vor g _ _ _ => some g | .vxor g _ _ _ => some g
  | .vshl g _ _ _ => some g | .vshr g _ _ _ => some g | .vsar g _ _ _ => some g | .vdot4 g _ _ _ _ => some g
  | .vbcast g _ _ _ i => if i.form == .h64 then some g else none
  | .vperm g _ _ _ => some g | .vrot g _ _ _ => some g | .vmovs g _ _ _ _ => some g | .vins g _ _ _ _ => some g
  | .vreda g _ _ => some g | .vredm g _ _ => some g | .vscan g _ _ => some g
  | _ => none

/-- The instruction belongs to the vector half: majors 0x08 to 0x0B (R69). -/
def Instr.isVecHalf : Instr → Bool
  | .vadd .. => true | .vsub .. => true | .vmul .. => true | .vfma .. => true | .vfms .. => true | .vmin .. => true
  | .vmax .. => true | .vabs .. => true | .vneg .. => true | .vcps .. => true | .vcmp .. => true | .vsel .. => true
  | .vrnd .. => true | .vfexp .. => true | .vexpi .. => true | .vlogb .. => true | .vrcp .. => true | .vrsq .. => true
  | .vcvt .. => true | .vpack .. => true | .vunpk .. => true | .viadd .. => true | .visub .. => true | .vimul .. => true
  | .vimad .. => true | .vand .. => true | .vor .. => true | .vxor .. => true | .vshl .. => true | .vshr .. => true
  | .vsar .. => true | .vdot4 .. => true | .vbcast .. => true | .vperm .. => true | .vrot .. => true | .vmovs .. => true
  | .vins .. => true | .vreda .. => true | .vredm .. => true | .vscan .. => true
  | _ => false

/-- May stand in the scalar half under guard `g` (R69). -/
def Instr.scalarHalf (g : Guard) (i : Instr) : Bool := i.halfGuard == some g && !i.isVecHalf

/-- May stand in the vector half under guard `g` (R69). -/
def Instr.vectorHalf (g : Guard) : Instr → Bool
  | .nop g' f lit => Instr.halfGuard (.nop g' f lit) == some g
  | i => i.halfGuard == some g && i.isVecHalf

/-- The queue a scalar source names. -/
def SSrc.queue : SSrc → List (Fin 4)
  | .q n => [n]
  | _ => []
/-- The queue a scalar destination names. -/
def SDst.queue : SDst → List (Fin 4)
  | .q n => [n]
  | _ => []
/-- The queue a vector source names. -/
def VSrc.queue : VSrc → List (Fin 4)
  | .q n => [n]
  | _ => []
/-- The queue a vector destination names. -/
def VDst.queue : VDst → List (Fin 4)
  | .q n => [n]
  | _ => []

/-- What the fields of a half name: queues in any field, the guard and the scalar destination it writes (R70, R164). -/
structure HalfNames where
  queues : List (Fin 4) := []
  guard : Option (Fin 8) := none
  dest : SDst := .zero

/-- The names of an instruction of a half. -/
def Instr.halfNames : Instr → HalfNames
  | .add _ _ d a b | .sub _ _ d a b | .mul _ _ d a b | .mulh _ _ d a b | .mulhu _ _ d a b | .div _ _ d a b
  | .divu _ _ d a b | .rem _ _ d a b | .remu _ _ d a b | .and _ d a b | .or _ d a b | .xor _ d a b | .andn _ d a b
  | .orn _ d a b | .shl _ _ d a b | .shr _ _ d a b | .sar _ _ d a b | .rol _ _ d a b | .min _ _ d a b | .max _ _ d a b
  | .minu _ _ d a b | .maxu _ _ d a b | .sel _ d _ a b | .insf _ d a b _ _ =>
    { queues := d.queue ++ a.queue ++ b.queue, dest := d }
  | .clz _ _ d a | .ctz _ _ d a | .popc _ _ d a | .mov _ d a | .addi _ _ d a _ | .extf _ _ d a _ _
  | .ld _ d a _ | .ldW _ d a _ | .ldWu _ d a _ | .ldH _ d a _ | .ldHu _ d a _ | .ldB _ d a _ | .ldBu _ d a _ =>
    { queues := d.queue ++ a.queue, dest := d }
  | .li _ d _ => { queues := d.queue, dest := d }
  | .cmp _ _ _ gd a b => { queues := a.queue ++ b.queue, guard := some gd }
  | .cmpi _ _ _ gd a _ => { queues := a.queue, guard := some gd }
  | .gand _ gd _ _ | .gor _ gd _ _ | .gnot _ gd _ => { guard := some gd }
  | .st _ s a _ | .stW _ s a _ | .stH _ s a _ | .stB _ s a _ => { queues := s.queue ++ a.queue }
  | .vadd _ d a b | .vsub _ d a b | .vmul _ d a b | .vmin _ d a b | .vmax _ d a b | .vcps _ d a b | .vsel _ d _ a b
  | .vexpi _ d a b | .vpack _ _ _ _ d a b | .viadd _ _ d a b | .visub _ _ d a b | .vimul _ d a b | .vand _ d a b
  | .vor _ d a b | .vxor _ d a b | .vshl _ d a b | .vshr _ d a b | .vsar _ d a b | .vperm _ d a b =>
    { queues := d.queue ++ a.queue ++ b.queue }
  | .vfma _ d a b c | .vfms _ d a b c | .vimad _ d a b c | .vdot4 _ d a b c =>
    { queues := d.queue ++ a.queue ++ b.queue ++ c.queue }
  | .vabs _ d a | .vneg _ d a | .vrnd _ d a | .vfexp _ d a | .vlogb _ d a | .vrcp _ d a | .vrsq _ d a | .vcvt _ _ _ _ d a
  | .vunpk _ _ _ _ d a | .vrot _ d a _ | .vreda _ d a | .vredm _ d a | .vscan _ d a =>
    { queues := d.queue ++ a.queue }
  | .vcmp _ _ gd a b => { queues := a.queue ++ b.queue, guard := some gd }
  | .vbcast _ d a _ _ | .vins _ d a _ _ => { queues := d.queue ++ a.queue }
  | .vmovs _ _ d a _ => { queues := d.queue ++ a.queue, dest := d }
  | _ => {}

/-- Both name the same scalar register or loop name (R164). -/
def SDst.clash : SDst → SDst → Bool
  | .x r, .x r' => r == r'
  | .l r, .l r' => r == r'
  | _, _ => false

/-- The pair is not one that R70 or R164 reserves. -/
def pairOk (sh vh : Instr) : Bool :=
  let a := sh.halfNames
  let b := vh.halfNames
  !(a.queues.any (b.queues.contains ·)) && !(a.guard.isSome && a.guard == b.guard) && !a.dest.clash b.dest

/-- The conditions of the encoding of an instruction that is no pair word (R63, R67, R78, R79 and the entries). -/
def Instr.wfPlain : Instr → Bool
  | .nop _ f lit => litFits f lit
  | .br _ i => i.fitsS
  | .bra _ i => i.fitsU
  | .jal _ _ i => i.fitsS
  | .rep _ _ n i => n != 0 && i.fitsU
  | .loop c _ _ _ ofs => loopOk c ofs
  | .loopOpen _ _ _ ofs => decide (8 ≤ 4 * ofs.toNat)
  | .vseed _ d k s => vseedOk k d s
  | .fmtg _ _ s => s.ok
  | .fmts _ d _ => d.ok
  | .addi _ _ _ _ i => i.fitsS
  | .li _ _ i => i.fitsS
  | .extf _ _ _ _ p l => fieldFits p l
  | .insf _ _ _ _ p l => fieldFits p l
  | .pga _ _ _ _ _ sp d => pgaSpace sp && d.fitsF
  | .cmp _ _ cc gd _ _ => cc.scalar && gd != 0
  | .cmpi _ _ cc gd _ i => cc.scalar && gd != 0 && i.fitsS
  | .gand _ gd _ _ => gd != 0
  | .gor _ gd _ _ => gd != 0
  | .gnot _ gd _ => gd != 0
  | .vcmp _ _ gd _ _ => gd != 0
  | .vcvt _ _ _ t _ _ => cvtTarget t
  | .vpack _ _ _ t _ _ _ => packTarget t
  | .vunpk _ _ t _ _ _ => unpkTarget t
  | .vbcast _ _ _ _ i => i.fitsS
  | .vins _ d _ _ _ => d.queue.isEmpty
  | .zclr _ _ t => t.acc
  | .zld _ _ _ t i => t.acc && i.fitsS
  | .zst _ _ _ i => i.fitsS
  | .wbld _ _ _ i => i.fitsS
  | .ldt _ _ _ i => i.fitsS
  | .ld _ _ _ i => i.fitsS
  | .ldW _ _ _ i => i.fitsS
  | .ldWu _ _ _ i => i.fitsS
  | .ldH _ _ _ i => i.fitsS
  | .ldHu _ _ _ i => i.fitsS
  | .ldB _ _ _ i => i.fitsS
  | .ldBu _ _ _ i => i.fitsS
  | .st _ _ _ i => i.fitsS
  | .stW _ _ _ i => i.fitsS
  | .stH _ _ _ i => i.fitsS
  | .stB _ _ _ i => i.fitsS
  | .ldv _ _ _ i => i.fitsS
  | .stv _ _ _ i => i.fitsS
  | .pref _ _ i => i.fitsS
  | .lde _ _ _ i => i.fitsS
  | .stf _ _ _ i => i.fitsS
  | .ldf _ _ _ i => i.fitsS
  | .fempty _ _ i => i.fitsS
  | .futr _ _ _ i => i.fitsS
  | .futw _ _ _ _ i => i.fitsS
  | .cpw _ k _ _ => cpwSel k
  | .spawn _ gd _ _ b => gd != 0 && decide (b.val ≤ 28)
  | .taskq _ gd _ _ => gd != 0
  | .taskqDeque _ gd _ => gd != 0
  | .take _ _ gd => gd != 0
  | .steal _ _ gd _ => gd != 0
  | .mrecv _ rd _ => rd.val % 2 == 0
  | .sframe _ gd _ _ => gd != 0
  | .semit _ gd _ _ _ => gd != 0
  | .tmark _ _ i => i.fitsS
  | .tmarkO _ _ i => i.fitsS
  | .rmark _ _ i => i.fitsS
  | _ => true

/-- Well-formed: the encoding the assembler would emit exists. The pair word holds two such halves under one guard. -/
def Instr.wf : Instr → Bool
  | .pairWord g sh vh => sh.scalarHalf g && vh.vectorHalf g && sh.wfPlain && vh.wfPlain && pairOk sh vh
  | i => i.wfPlain

end Sys2Proof
end

