-- ==== Sys2Proof/Machine/Operands.lean ====
section
/-! DEFINITION. Operand forms: reading every name of R62 and R63 (R82, R83, R65, R102), writing every destination
(R63, R65, R89, R101), and the frame of a register-only instruction. -/

namespace Sys2Proof.Machine

/-- The number of a tag (R88). -/
def tagNum : Tag → Nat
  | .raw => 0 | .fp32 => 1 | .bf16 => 2 | .fp16 => 3 | .int32 => 4 | .int16 => 5 | .int8 => 6 | .dyad8 => 7

/-! Reading. -/

/-- The iteration number `it` reads (R83). -/
def State.itOf (s : State) (c k : Nat) : Nat :=
  match s.curIter c k with
  | some (_, t) => t.i
  | none => 0

/-- The value `cid` reads (R11): 0 on a service core. -/
def State.cidOf (s : State) (c k : Nat) : Nat := if c < 8192 then (s.ctx c k).vcid else 0
/-- The value `ctx` reads (R11): 0 on a service core. -/
def State.ctxOf (s : State) (c k : Nat) : Nat := if c < 8192 then (s.ctx c k).vctx else 0

/-- The operand code TVAL names for a loop name (R102). -/
def loopTval (name : Nat) : Word := if name < 16 then BitVec.ofNat 64 (32 + name) else BitVec.ofNat 64 (32 + (name - 16) + 64)

/-- Reads a loop name at a distance (R95, R102; log 60). Names 0 to 15 are l, 16 to 23 are w. -/
def readLoop (name d : Nat) : M (BitVec 1024 × Tag) := fun s =>
  match s.curFrame s.cc s.ck with
  | none => .error (.fault { code := .frame })
  | some (f, it) =>
    let F := s.fr s.cc f
    if F.w < d then .error (.fault { code := .illegal })
    else
      match it with
      | none => .ok ((F.val? name (F.last - d)).getD (0, .raw), s)
      | some t =>
        if d = 0 && (F.ver? name t.i).isNone then
          .error (.fault { code := .vread0, tval := loopTval name })
        else if 0 < d && t.retired then .error (.fault { code := .illegal })
        else
          match F.val? name ((t.i : Int) - d) with
          | some v => .ok (v, s)
          | none => .error (.wait .wver (.version s.cc f.val name ((t.i : Int) - d)))

/-- The acting core's queue images are in place, or the access waits (R276; log 63). -/
def queueImage : M Unit := fun s =>
  if s.foldReady s.cc then .ok ((), s) else .error (.wait .wmsg (.fold s.myCore.home s.cc))

/-- The hardware queue of a queue name in a scalar or vector field (R86, R277). -/
def queueOf (n : Fin 4) (vec : Bool) : M (Fin 8) := do
  let s ← get
  match s.me.hwq n with
  | none => raiseV .queue
  | some q =>
    if (s.myCore.hwq.get q).vec = vec then do queueImage; pure q
    else raiseV .queue (BitVec.ofNat 64 (q.val + 8 * n.val))

/-- Changes a hardware queue of the acting core. -/
def State.modQueue (s : State) (c : Nat) (q : Fin 8) (f : HwQueue → HwQueue) : State :=
  s.modCore c (fun x => { x with hwq := x.hwq.set q.val (f (x.hwq.get q)) q.isLt })

/-- Pops one entry of a queue (R65). -/
def popQueue (n : Fin 4) (vec : Bool) : M QEntry := do
  let q ← queueOf n vec
  let s ← get
  match (s.myCore.hwq.get q).entries with
  | [] => waitFor .wmsg (.qHas s.cc q.val 1)
  | e :: r => do
    set (s.modQueue s.cc q (fun h => { h with entries := r }))
    pure e

/-- Reads a scalar operand (R62, R83). -/
def readS : SSrc → M Word
  | .x r => fun s => .ok (s.me.x.get r, s)
  | .l r d => do let v ← readLoop r.val d.val; pure (v.1.setWidth 64)
  | .q n => do
    match ← popQueue n false with
    | .s v => pure v
    | .v r => pure (r.bits.setWidth 64)
  | .zero => pure 0
  | .it => fun s => .ok (BitVec.ofNat 64 (s.itOf s.cc s.ck), s)
  | .lane => pure 0
  | .cid => fun s => .ok (BitVec.ofNat 64 (s.cidOf s.cc s.ck), s)
  | .ctx => fun s => .ok (BitVec.ofNat 64 (s.ctxOf s.cc s.ck), s)

/-- Reads a vector operand with its tag (R63, R83, R160). -/
def readV : VSrc → M VReg
  | .v r => fun s => .ok (s.me.v.get r, s)
  | .w r d => do let v ← readLoop (16 + r.val) d.val; pure { bits := v.1, tag := v.2 }
  | .q n => do
    match ← popQueue n true with
    | .v r => pure r
    | .s v => pure { bits := v.setWidth 1024 }
  | .zero => pure {}
  | .it => fun s => .ok ({ bits := ofLanes (fun _ => BitVec.ofNat 32 (s.itOf s.cc s.ck)), tag := .int32 }, s)
  | .lane => pure { bits := ofLanes (fun n => BitVec.ofNat 32 n), tag := .int32 }

/-- Reads an accumulator. -/
def readZ (n : Fin 2) : M ZReg := fun s => .ok (s.me.z.get n, s)

/-! Writing. -/

/-- A write of a loop name has a current iteration with its version unwritten (R95, R101; log 67). -/
def checkLoop (name : Nat) : M Unit := fun s =>
  match s.curFrame s.cc s.ck with
  | some (f, some t) =>
    if ((s.fr s.cc f).ver? name t.i).isSome then .error (.fault { code := .illegal }) else .ok ((), s)
  | _ => .error (.fault { code := .frame })

/-- A push has room (R65, R277). -/
def checkPush (n : Fin 4) (vec : Bool) : M Unit := do
  let q ← queueOf n vec
  let s ← get
  let h := s.myCore.hwq.get q
  if 16 ≤ h.entries.length + h.reserved then waitFor .wmsg (.qRoom s.cc q.val 1)
  else if s.turn s.myPart 2 (queueKey s.cc q.val) s.cc s.me.vctx then pure ()
  else waitFor .wmsg (.replayTurn s.myPart 2 (queueKey s.cc q.val) s.cc s.me.vctx)

/-- A destination takes a scalar value. -/
def checkS : SDst → M Unit
  | .x _ => pure ()
  | .zero => pure ()
  | .l r => checkLoop r.val
  | .q n => checkPush n false

/-- A destination takes a vector value. -/
def checkV : VDst → M Unit
  | .v _ => pure ()
  | .zero => pure ()
  | .w r => checkLoop (16 + r.val)
  | .q n => checkPush n true

/-- What a put needs of its destination. -/
def checkPut : Put → M Unit
  | .s d _ => checkS d
  | .v d _ _ _ => checkV d
  | _ => pure ()

/-- Writes a loop name in the current iteration (R101). -/
def State.writeLoop (s : State) (name : Nat) (mask : Lane) (bits : BitVec 1024) (t : Tag) : State :=
  match s.writeIter s.cc s.ck with
  | some (f, i) => s.modFr s.cc f (fun F => F.write name i.i mask bits t)
  | none => s

/-- Pushes an entry (R65). -/
def State.push (s : State) (n : Fin 4) (e : QEntry) : State :=
  match s.me.hwq n with
  | some q => (s.modQueue s.cc q (fun h => { h with entries := h.entries ++ [e] })).logged s.myPart 2
      (queueKey s.cc q.val) s.cc s.me.vctx
  | none => s

/-- A context's x register takes a value. -/
def Ctx.setX (x : Ctx) (r : Fin 32) (v : Word) : Ctx := { x with x := x.x.set r.val v r.isLt }
/-- A context's v register takes the guarded-on lanes and the tag (R89, R161). -/
def Ctx.setV (x : Ctx) (r : Fin 16) (mask : Lane) (bits : BitVec 1024) (t : Tag) : Ctx :=
  { x with v := x.v.set r.val { bits := mergeLanes mask bits (x.v.get r).bits, tag := t } r.isLt }
/-- A context's accumulator takes a value and a tag. -/
def Ctx.setZ (x : Ctx) (n : Fin 2) (bits : BitVec 8192) (t : Tag) : Ctx :=
  { x with z := x.z.set n.val { bits, tag := t } n.isLt }

/-- Writes a scalar destination (R62, R65, R101). -/
def State.putS (s : State) (d : SDst) (v : Word) : State :=
  match d with
  | .x r => s.modMe (fun x => x.setX r v)
  | .l r => s.writeLoop r.val allOn (v.setWidth 1024) .raw
  | .q n => s.push n (.s v)
  | .zero => s

/-- Writes the guarded-on lanes of a vector destination (R89, R101, R161). -/
def State.putV (s : State) (d : VDst) (mask : Lane) (bits : BitVec 1024) (t : Tag) : State :=
  match d with
  | .v r => s.modMe (fun x => x.setV r mask bits t)
  | .w r => s.writeLoop (16 + r.val) mask bits t
  | .q n => s.push n (.v { bits := mergeLanes mask bits 0, tag := t })
  | .zero => s

/-- A store of the acting context: held in an uncommitted iteration (R107), else a write of its agent (R222, R247).
DESIGN CHOICE: the stores of a handler that runs with RST = 1 are held with its iteration, and TRET's restart discards them
(R116; log 120). -/
def State.putMem (s : State) (units : List (List Host.Cell)) (ext : Option KvExt) : State :=
  match s.curIter s.cc s.ck with
  | some (f, t) =>
    if t.committed then s.storeUnits (s.agentOf s.cc s.ck) units ext
    else
      s.modFr s.cc f (fun F => { F with held := F.held ++ [{ iter := t.i, units, ext, made := s.mem.next }] })
  | none => s.storeUnits (s.agentOf s.cc s.ck) units ext

/-- Makes an effect. -/
def State.put (s : State) : Put → State
  | .s d v => s.putS d v
  | .v d mask bits t => s.putV d mask bits t
  | .g n mask bits => s.modMe (fun x => x.setG n ((bits &&& mask) ||| (x.gReg n &&& ~~~mask)))
  | .z n bits t => s.modMe (fun x => x.setZ n bits t)
  | .ff f => s.modMe (fun x => { x with ff := x.ff ||| f })
  | .mem units last ext =>
    let s := s.putMem units ext
    if last then s.count s.cc s.ck 0x0B 1 else s

/-- Makes effects in order. -/
def State.puts (s : State) (ps : List Put) : State := ps.foldl State.put s

/-- Checks the destinations of effects in order. -/
def checkPuts : List Put → M Unit
  | [] => pure ()
  | p :: r => do checkPut p; checkPuts r

/-- The end of an instruction that completes in its slot: its effects, then the next instruction is due. -/
def finish (len : Nat) (ps : List Put) : M Unit := do
  checkPuts ps
  modify (fun s => (s.puts ps).retire len)

/-! What an instruction's operands tell its issue. -/

/-- The loop names of a scalar destination. -/
def SDst.loops : SDst → List Nat
  | .l r => [r.val]
  | _ => []
/-- The loop names of a vector destination. -/
def VDst.loops : VDst → List Nat
  | .w r => [16 + r.val]
  | _ => []

/-- The issue of an instruction with those operands: naming a queue makes it a side-effect instruction (R110). -/
def infoOf (g : Guard) (len : Nat) (lanes : Lane) (ss : List SSrc) (vs : List VSrc) (sd : List SDst) (vd : List VDst) :
    Info :=
  let pops := ss.flatMap SSrc.queue ++ vs.flatMap VSrc.queue
  { g, len, lanes, pops
    side := !(pops ++ sd.flatMap SDst.queue ++ vd.flatMap VDst.queue).isEmpty
    lds := sd.flatMap SDst.loops ++ vd.flatMap VDst.loops }

/-- Runs an instruction whose whole effect is a list of effects decided from its operands. -/
def runPuts (i : Info) (body : M (List Put)) (s : State) : Out := run i (body >>= finish i.len) s

/-- What may stand in a pair word or alone (R69): the issue and the effects of an instruction. -/
abbrev Half := Info × M (List Put)

/-- Runs a half as an instruction of its own. -/
def runHalf (h : Half) (s : State) : Out := runPuts h.1 h.2 s

/-- The length of a form (R59). -/
def formLen : Form → Nat
  | .h64 => 8
  | .h96 => 12
  | .h128 => 16

/-- A value's low `n` bits, sign-extended (R122). -/
def sextW (v : Word) (n : Nat) : Word := BitVec.signExtend 64 (v.setWidth n)
/-- A value's low `n` bits, zero-extended (R122). -/
def zextW (v : Word) (n : Nat) : Word := (v.setWidth n).setWidth 64

end Sys2Proof.Machine
end

