-- ==== Sys2Proof/Machine/Fetch.lean ====
section
/-! DEFINITION. Instruction fetch: the checks of a fetch and the M4 load of a fetch block (R59, R206, R417), and loads made
inside another step. -/

namespace Sys2Proof.Machine

/-- More than one write may be returned for a location (M4). -/
def MemSys.open? (m : MemSys) (a : Agent) (l : Nat) : Bool :=
  (m.candidates a l).any (fun h => h.stamp != (m.view a l).stamp)

/-- A load of one unit made inside another step: the machine chooses where it has a choice (log 6). -/
def State.loadNow (s : State) (a : Agent) (unit : List Nat) : List Byte × State :=
  let (cut, s) := if unit.any (s.mem.open? a) then s.drawCut else (0, s)
  let (bs, m) := s.mem.load a cut unit
  (bs, { s with mem := m })

/-- Loads of several units, in order. -/
def State.loadUnits (s : State) (a : Agent) : List (List Nat) → List Byte × State
  | [] => ([], s)
  | u :: r =>
    let (x, s1) := s.loadNow a u
    let (y, s2) := s1.loadUnits a r
    (x ++ y, s2)

/-- The spaces an instruction is fetched from (R206). -/
def fetchSpaces : List Nat := [0x0, 0x8]

/-- The 32-byte fetch block of an address (R71). -/
def blockOf (a : Nat) : Nat := a / 32 * 32

/-- The bytes of the block that lie in the segment; the others are never read (R207). -/
def State.blockLocs (s : State) (via : Via) (b : Nat) : List (Option Nat) :=
  match s.locate via { x := true } fetchSpaces b 32 1 with
  | .at ls => ls.map some
  | _ => (List.range 32).map (fun i =>
      match s.locate via { x := true } fetchSpaces (b + i) 1 1 with
      | .at ls => ls.head?
      | _ => none)

/-- The block's bytes as the fetching agent reads them: a block is no unit (R417). -/
def State.readBlock (s : State) (a : Agent) (via : Via) (b : Nat) : List Byte × State :=
  let ls := s.blockLocs via b
  let (cut, s) := if (ls.filterMap id).any (s.mem.open? a) then s.drawCut else (0, s)
  let (bs, m) := s.mem.loadEach a cut (ls.filterMap id) 0
  ((ls.foldl (fun (acc : List Byte × List Byte) l =>
      match l with
      | none => (acc.1 ++ [0], acc.2)
      | some _ => (acc.1 ++ acc.2.take 1, acc.2.drop 1)) ([], bs)).1, { s with mem := m })

/-- What the fetch of a block leaves in the TLBs and L2s (R214, R215). -/
def State.usedBlock (s : State) (via : Via) (k b : Nat) : State := s.used via k b ((s.blockLocs via b).filterMap id)

/-- The `n` bytes at an address within one block, for the acting context: the block is read unless it is held (R417). -/
def fetchBytes (a n : Nat) : M (List Byte) := do
  let s ← get
  let via := s.viaThread s.cc s.ck
  let b := blockOf a
  let held := s.me.fetched.find? (fun f => f.1.toNat == b)
  let cut (bs : List Byte) : List Byte := (bs.drop (a - b)).take n
  match held with
  | some f =>
    if spaceOf a = 0x8 then
      match s.locate via { x := true } fetchSpaces a n 1 with
      | .at _ => pure (cut f.2)
      | .fault c => raise c
      | .miss p => throw (.miss p)
    else pure (cut f.2)
  | none =>
    match s.locate via { x := true } fetchSpaces a n 1 with
    | .fault c => raise c
    | .miss p => throw (.miss p)
    | .at _ => do
      let (bs, s1) := s.readBlock (s.agentOf s.cc s.ck) via b
      set ((s1.usedBlock via s.ck b).modMe (fun x => { x with fetched := x.fetched ++ [(BitVec.ofNat 64 b, bs)] }))
      pure (cut bs)

/-- The length of the instruction at an address (R59, R72, R137). -/
def lengthAt (a : Word) : M Nat := do
  let bs ← fetchBytes a.toNat 1
  pure (lengthOf' (bs.headD 0))
where
  lengthOf' (b : Byte) : Nat :=
    match b.toNat % 4 with
    | 0 => 8
    | 1 => 12
    | _ => 16

/-- The address after `n` instructions from an address on (R72, R137). -/
def afterInstrs (a : Word) : Nat → M Word
  | 0 => pure a
  | n + 1 => do
    let l ← lengthAt a
    afterInstrs (a + BitVec.ofNat 64 l) n

/-- The fetched blocks are let go: the next fetch of each is a new load (R417). -/
def Ctx.refetch (x : Ctx) : Ctx := { x with fetched := [] }

end Sys2Proof.Machine
end

