-- ==== Sys2Proof/Machine/MemOps.lean ====
section
/-! DEFINITION. What the accesses of a thread share: checks with TLBs, throttle and folding (R208, R215, R221, R269), stores
held and made (R107, R222), loads sent and completed (R108, R222). -/

namespace Sys2Proof.Machine

/-! Checks. -/

/-- The far-tier lines of a load, by the addresses and locations of its accesses: their dies' windows admit them, or the thread waits
(R269; log 71). -/
def farCheck (acc : List (Nat × List Nat)) : M Unit := fun s =>
  match farLines acc with
  | [] => .ok ((), s)
  | l :: r =>
    match s.farAsk (.ctx s.cc s.ck) l.2 (farNeed (l :: r)) with
    | (true, t) => .ok ((), t)
    | (false, _) => .error (.wait .wmem (.farWindow l.2 (farNeed (l :: r))))

/-- An uncorrectable error among the words of an access (R219, R413). -/
def MemSys.badAt (m : MemSys) (ls : List Nat) : Option Nat :=
  if m.bad.isEmpty then none else ls.findIdx? (fun l => m.bad.contains (l / 8 * 8))

/-- A KV store of an iteration that is not the oldest and fails a check of its slot is checked again when it is: an older iteration may
change the slot before the store's own move (R268; log 129). -/
def laterStore : M Unit := fun s =>
  match s.curIter s.cc s.ck with
  | some (f, t) =>
    if !t.committed && decide ((s.fr s.cc f).setl < t.i) then .error (.wait .wver (.oldest s.cc f.val t.i)) else .ok ((), s)
  | none => .ok ((), s)

/-- The checks of an access of the acting context, with UE last; it answers the locations (R221). -/
def locM (need : Need) (spaces : List Nat) (a n align : Nat) : M (List Nat) := do
  let s ← get
  let via := s.viaThread s.cc s.ck
  match s.locate via need spaces a n align with
  | .fault c => do
    if need.w && spaceOf a = 0xC && (c.code = .space || c.code = .prot) then laterStore
    raise c
  | .miss p => throw (.miss p)
  | .at ls => do
    if spaceOf a = 0x9 && !s.foldReady s.cc then waitFor .wmem (.fold s.myCore.home s.cc)
    match s.mem.badAt ls with
    | some i => raise { code := .ue, tval := BitVec.ofNat 64 ((a + i) / 8 * 8), acc := need.acc }
    | none => do
      modify (fun s => s.used via s.ck a ls)
      pure ls

/-- The word is empty and its deferred-read list is not (R233; log 74). DESIGN CHOICE: emptiness of the list is bit 32 of the data
bits, which R233 makes the list's head, so a plain store that R221 lets write them can make the word read as waited (log 134). -/
def MemSys.waited (m : MemSys) (w : Nat) : Bool := m.empty.contains w && (m.wordNow w).testBit 32

/-- A write that covers a byte of an empty word with waiters raises PROT (R221; log 74). -/
def checkWaiters (a : Nat) (ls : List Nat) : M Unit := fun s =>
  if s.mem.empty.isEmpty then .ok ((), s)
  else
    match ls.findIdx? (fun l => s.mem.waited (l / 8 * 8)) with
    | none => .ok ((), s)
    | some i => .error (.fault { code := .prot, tval := BitVec.ofNat 64 (a + i), acc := .write, kind := 2 })

/-! Stores. -/

/-- A plain store of bytes at an address: the watchpoints, the checks, the effect (R221, R222, R225, R373). -/
def storeAt (a : Word) (bs : List Byte) (align : Nat) : M (List Put) := do
  let n := bs.length
  watchCheck 2 ((List.range n).map (fun i => (a.toNat + i)))
  let ls ← locM { w := true } allSpaces a.toNat n align
  checkWaiters a.toNat ls
  storeRoom 1
  let s ← get
  pure [.mem [ls.zip bs] true (s.kvExt [a.toNat] n)]

/-! Loads. -/

/-- The newest held byte of an iteration at a location among the stores made after the write of stamp `after` (R108). -/
def heldByte (F : LFrame) (i l after : Nat) : Option Byte :=
  ((F.held.filter (fun h => h.iter == i && decide (after ≤ h.made))).flatMap (fun h => h.units.flatten)).reverse.findSome?
    (fun c => if c.1 = l then some c.2 else none)

/-- The byte of a location among the held stores of the context's own iteration, where no write of its loop's agent that has
reached memory since is newer (R108; log 14). -/
def State.ownByte (s : State) (c k l : Nat) : Option Byte :=
  match s.curIter c k with
  | none => none
  | some (f, t) => heldByte (s.fr c f) t.i l (tgetD ((aget s.mem.own (s.agentOf c k)).getD []) l 0)

/-- A unit of a load of the acting context. -/
def State.unitOf (s : State) (ls : List Nat) : LUnit := { locs := ls, own := ls.map (s.ownByte s.cc s.ck) }

/-- A load in a loop declared .om waits until every older iteration has settled (R108). -/
def omCheck : M Unit := fun s =>
  match s.curIter s.cc s.ck with
  | none => .ok ((), s)
  | some (f, t) =>
    let F := s.fr s.cc f
    if F.om && decide (F.setl < t.i) then .error (.wait .wver (.oldest s.cc f.val t.i)) else .ok ((), s)

/-- The queue name that a put pushes on. -/
def Put.queue : Put → Option (Fin 4)
  | .s (.q n) _ => some n
  | .v (.q n) _ _ _ => some n
  | _ => none

/-- Reserves the entry that a push at a reply takes (R277). -/
def State.reserveFor (s : State) : List Put → List Nat × State
  | [] => ([], s)
  | p :: r =>
    match p.queue.bind s.me.hwq with
    | none => s.reserveFor r
    | some h =>
      let (qs, s1) := (s.modQueue s.cc h (fun w => { w with reserved := w.reserved + 1 })).reserveFor r
      (h.val :: qs, s1)

/-- The request of the acting instruction is sent: it leaves the rotation until its reply (R222; log 61). `ps` stands for the
destinations, checked now and written at the reply. -/
def sendRequest (kind : PendKind) (cls : SlotClass) (len : Nat) (ps : List Put) : M Unit := do
  checkPuts ps
  modify (fun s =>
    let (qs, s1) := s.reserveFor ps
    s1.modMe (fun x => { x with pend := some { kind, cls, len, reserve := qs }, wait := none }))

/-- A load is sent (R222, R363). -/
def sendLoad (units : List LUnit) (fin : LoadFin) (dst : Put) (len : Nat) (puts : List Put) : M Unit := do
  modify (fun s => s.count s.cc s.ck 0x0A 1)
  sendRequest (.load units fin puts) .wmem len (dst :: puts)

/-- What a half of a pair word or a memory instruction decides: its effects, and the load it sends. -/
structure Eff where
  puts : List Put := []
  load : Option (List LUnit × LoadFin × Put) := none

/-- The end of an instruction that may send a load: its other effects are made at the reply (R70, R222). -/
def finishEff (len : Nat) (e : Eff) : M Unit :=
  match e.load with
  | none => finish len e.puts
  | some (u, fin, dst) => sendLoad u fin dst len e.puts

/-- The bytes of a unit of a load: held bytes first, then memory (M4). -/
def State.readUnit (s : State) (a : Agent) (cut : Nat) (u : LUnit) : List Byte × State :=
  let pairs := u.locs.zip u.own
  let (bs, m) := s.mem.load a cut (pairs.filterMap (fun p => if p.2.isNone then some p.1 else none))
  ((pairs.foldl (fun (acc : List Byte × List Byte) p =>
      match p.2 with
      | some b => (acc.1 ++ [b], acc.2)
      | none => (acc.1 ++ acc.2.take 1, acc.2.drop 1)) ([], bs)).1, { s with mem := m })

/-- The bytes of the units of a load, a cut for each (log 6). -/
def State.readUnits (s : State) (a : Agent) (cuts : List Nat) : List LUnit → List (List Byte) × State
  | [] => ([], s)
  | u :: r =>
    let (x, s1) := s.readUnit a (cuts.headD 0) u
    let (y, s2) := s1.readUnits a (cuts.drop 1) r
    (x :: y, s2)

/-- Lane values from the units of a vector load, in order of its lanes. -/
def spreadLanes (mask : Lane) (vals : List Lane) : BitVec 1024 :=
  let at_ (n : Nat) : Nat := (List.range n).countP (fun m => mask.getLsbD m)
  ofLanes (fun n => if mask.getLsbD n then vals.getD (at_ n) 0 else 0)

/-- What the bytes of a load become (R225 to R228). -/
def finPut (fin : LoadFin) (bs : List (List Byte)) : Put :=
  match fin with
  | .scalar d n sx =>
    let v : Word := ofBytes 64 bs.flatten
    .s d (if sx then sextW v (8 * n) else v)
  | .lanes d mask => .v d mask (spreadLanes mask (bs.map (ofBytes 32))) .raw
  | .gather d mask _ => .v d mask (spreadLanes mask (bs.map (ofBytes 32))) .raw
  | .acc z t => .z z (ofBytes 8192 bs.flatten) t
  | .counters _ _ => .ff 0

/-- The reserved queue entries are released as they are filled (R277). -/
def State.unreserve (s : State) (c : Nat) (qs : List Nat) : State :=
  qs.foldl (fun s q => s.modQueue c (Fin.ofNat 8 q) (fun w => { w with reserved := w.reserved - 1 })) s

/-- The popped entries go back to the heads of their queues (R65). -/
def State.unpop (s : State) (c : Nat) (es : List (Nat × QEntry)) : State :=
  es.reverse.foldl (fun s e => s.modQueue c (Fin.ofNat 8 e.1) (fun w => { w with entries := e.2 :: w.entries })) s

/-- A request's reply ends the instruction with effects (R222). -/
def State.replyPuts (s : State) (p : Pend) (ps : List Put) : State :=
  ((s.unreserve s.cc p.reserve).puts ps).retire p.len

/-- A request's reply ends the instruction with a fault: it has no effect (R65, R222). -/
def State.replyFault (s : State) (p : Pend) (f : Cause) : State :=
  let s := ((s.unreserve s.cc p.reserve).unpop s.cc p.popped).modMe (fun x => { x with pend := none, wait := none })
  s.takeFault s.cc s.ck f

end Sys2Proof.Machine
end

