-- ==== Sys2Proof/Machine/Flags.lean ====
section
/-! DEFINITION. Condition codes and the results of scalar arithmetic (R78, R123, R125, R126). Arithmetic wraps and sets no
flag (R122); the flags of floating point are in Float. -/

namespace Sys2Proof.Machine

/-- A condition code holds of two integers of one width (R78, R132): 0 to 9; the float codes hold of none. -/
def ccHolds {n : Nat} (cc : CC) (a b : BitVec n) : Bool :=
  match cc with
  | .eq => a == b
  | .ne => a != b
  | .lt => a.slt b
  | .ge => !(a.slt b)
  | .ltu => a.ult b
  | .geu => !(a.ult b)
  | .le => a.sle b
  | .gt => !(a.sle b)
  | .leu => a.ule b
  | .gtu => !(a.ule b)
  | .un => false
  | .ord => false

/-- An operation on words of any width. -/
abbrev BinOp := ∀ {n : Nat}, BitVec n → BitVec n → BitVec n
/-- An operation on one word of any width. -/
abbrev UnOp := ∀ {n : Nat}, BitVec n → BitVec n

/-- The .w form computes on the low 32 bits and sign-extends (R123). -/
def aluW (w : Bool) (f : BinOp) (a b : Word) : Word :=
  if w then (f (a.setWidth 32) (b.setWidth 32)).signExtend 64 else f a b
/-- The .w form of an operation on one word (R123). -/
def aluW1 (w : Bool) (f : UnOp) (a : Word) : Word :=
  if w then (f (a.setWidth 32)).signExtend 64 else f a

/-- ADD -/
def opAdd : BinOp := fun a b => a + b
/-- SUB -/
def opSub : BinOp := fun a b => a - b
/-- MUL: the low half of the product. -/
def opMul : BinOp := fun a b => a * b
/-- MULH: the high half of the signed product. -/
def opMulh : BinOp := fun {n} a b => BitVec.ofInt n (a.toInt * b.toInt / 2 ^ n)
/-- MULHU: the high half of the unsigned product. -/
def opMulhu : BinOp := fun {n} a b => BitVec.ofNat n (a.toNat * b.toNat / 2 ^ n)
/-- DIV: signed, toward zero; by zero −1; the most negative value by −1 is itself (R126). -/
def opDiv : BinOp := fun {n} a b => if b = 0 then BitVec.allOnes n else BitVec.ofInt n (a.toInt.tdiv b.toInt)
/-- DIVU: by zero all ones (R126). -/
def opDivu : BinOp := fun {n} a b => if b = 0 then BitVec.allOnes n else BitVec.ofNat n (a.toNat / b.toNat)
/-- REM: by zero a (R126). -/
def opRem : BinOp := fun {n} a b => if b = 0 then a else BitVec.ofInt n (a.toInt.tmod b.toInt)
/-- REMU: by zero a (R126). -/
def opRemu : BinOp := fun {n} a b => if b = 0 then a else BitVec.ofNat n (a.toNat % b.toNat)
/-- AND -/
def opAnd : BinOp := fun a b => a &&& b
/-- OR -/
def opOr : BinOp := fun a b => a ||| b
/-- XOR -/
def opXor : BinOp := fun a b => a ^^^ b
/-- ANDN -/
def opAndn : BinOp := fun a b => a &&& ~~~b
/-- ORN -/
def opOrn : BinOp := fun a b => a ||| ~~~b
/-- SHL: the count is b modulo the width. -/
def opShl : BinOp := fun {n} a b => a <<< (b.toNat % n)
/-- SHR -/
def opShr : BinOp := fun {n} a b => a >>> (b.toNat % n)
/-- SAR -/
def opSar : BinOp := fun {n} a b => a.sshiftRight (b.toNat % n)
/-- ROL -/
def opRol : BinOp := fun {n} a b => a.rotateLeft (b.toNat % n)
/-- MIN -/
def opMin : BinOp := fun a b => if b.slt a then b else a
/-- MAX -/
def opMax : BinOp := fun a b => if a.slt b then b else a
/-- MINU -/
def opMinu : BinOp := fun a b => if b.ult a then b else a
/-- MAXU -/
def opMaxu : BinOp := fun a b => if a.ult b then b else a

/-- Leading zero bits among the `k` low bits of a number. -/
def clzN (v : Nat) : Nat → Nat
  | 0 => 0
  | k + 1 => if v.testBit k then 0 else clzN v k + 1
/-- Trailing zero bits of a number from bit `i` on, `k` bits. -/
def ctzN (v i : Nat) : Nat → Nat
  | 0 => 0
  | k + 1 => if v.testBit i then 0 else ctzN v (i + 1) k + 1
/-- One bits among the `k` low bits of a number. -/
def popN (v : Nat) : Nat → Nat
  | 0 => 0
  | k + 1 => popN v k + (if v.testBit k then 1 else 0)

/-- CLZ: the width when there is no one bit. -/
def opClz : UnOp := fun {n} a => BitVec.ofNat n (clzN a.toNat n)
/-- CTZ -/
def opCtz : UnOp := fun {n} a => BitVec.ofNat n (ctzN a.toNat 0 n)
/-- POPC -/
def opPopc : UnOp := fun {n} a => BitVec.ofNat n (popN a.toNat n)

end Sys2Proof.Machine
end

