-- ==== Sys2Proof/Machine/Float.lean ====
section
/-! DEFINITION. Number formats and rounding (R143 to R154): values are exact, and every operation rounds once. Results are
bit patterns as numbers, with the flags of CTXST.FF (R85, R151). -/

namespace Sys2Proof.Machine

/-- The flags invalid, divide-by-zero, overflow, underflow, inexact (R85). -/
abbrev FF := BitVec 5
/-- No flag. -/
def ffNone : FF := 0
/-- invalid -/
def ffNV : FF := 0b10000
/-- divide-by-zero -/
def ffDZ : FF := 0b01000
/-- overflow, with inexact (R150) -/
def ffOF : FF := 0b00101
/-- underflow -/
def ffUF : FF := 0b00010
/-- inexact -/
def ffNX : FF := 0b00001

/-- The invalid flag, when it is raised. -/
def nvIf (b : Bool) : FF := if b then ffNV else ffNone

/-- A binary format: exponent and fraction bits (R143). -/
structure Fmt where
  eb : Nat
  fb : Nat
  deriving DecidableEq, Repr, Inhabited

/-- FP32 -/
def fp32 : Fmt := ⟨8, 23⟩
/-- BF16 -/
def bf16 : Fmt := ⟨8, 7⟩
/-- FP16 -/
def fp16 : Fmt := ⟨5, 10⟩

/-- The bias (R143). -/
def Fmt.bias (f : Fmt) : Nat := 2 ^ (f.eb - 1) - 1
/-- The greatest exponent field: infinities and NaNs. -/
def Fmt.top (f : Fmt) : Nat := 2 ^ f.eb - 1
/-- The sign bit's weight. -/
def Fmt.sign (f : Fmt) : Nat := 2 ^ (f.eb + f.fb)
/-- A value's sign bit set. -/
def Fmt.withSign (f : Fmt) (neg : Bool) (mag : Nat) : Nat := if neg then mag + f.sign else mag
/-- The canonical NaN (R143). -/
def Fmt.nan (f : Fmt) : Nat := f.top * 2 ^ f.fb + 2 ^ (f.fb - 1)
/-- An infinity. -/
def Fmt.inf (f : Fmt) (neg : Bool) : Nat := f.withSign neg (f.top * 2 ^ f.fb)
/-- A zero. -/
def Fmt.zero (f : Fmt) (neg : Bool) : Nat := f.withSign neg 0
/-- The largest finite value. -/
def Fmt.maxFin (f : Fmt) (neg : Bool) : Nat := f.withSign neg (f.top * 2 ^ f.fb - 1)

/-- A floating-point datum: a NaN, an infinity, or (−1)^neg · m · 2^e. -/
inductive Num where
  | nan (sig : Bool)
  | inf (neg : Bool)
  | fin (neg : Bool) (m : Nat) (e : Int)
  deriving DecidableEq, Repr, Inhabited

/-- The datum of a bit pattern (R143). -/
def Fmt.num (f : Fmt) (b : Nat) : Num :=
  let neg := b / f.sign % 2 == 1
  let ex := b / 2 ^ f.fb % 2 ^ f.eb
  let fr := b % 2 ^ f.fb
  if ex = f.top then (if fr = 0 then .inf neg else .nan (fr < 2 ^ (f.fb - 1)))
  else if ex = 0 then .fin neg fr (1 - f.bias - f.fb)
  else .fin neg (fr + 2 ^ f.fb) ((ex : Int) - f.bias - f.fb)

/-- A signalling NaN. -/
def Num.sig : Num → Bool
  | .nan s => s
  | _ => false
/-- A NaN. -/
def Num.isNan : Num → Bool
  | .nan _ => true
  | _ => false
/-- The sign changed. -/
def Num.negate : Num → Num
  | .nan s => .nan s
  | .inf n => .inf !n
  | .fin n m e => .fin (!n) m e

/-- Rounding modes in the order of CTXST.RM (R148). -/
inductive RMd where
  | ne | tz | up | dn
  deriving DecidableEq, Repr, Inhabited

/-- The mode CTXST.RM names (R85, R148). -/
def rmOf (b : BitVec 2) : RMd :=
  match b.toNat with
  | 0 => .ne
  | 1 => .tz
  | 2 => .up
  | _ => .dn

/-- Whether a truncated magnitude rounds up, from the rest against one half. -/
def roundsUp (md : RMd) (neg odd : Bool) (rest half : Nat) : Bool :=
  match md with
  | .ne => half < rest || (rest == half && odd)
  | .tz => false
  | .up => !neg && rest != 0
  | .dn => neg && rest != 0

/-- m · 2^e rounded to a multiple of 2^q: the multiple, and whether it is inexact. -/
def roundAt (md : RMd) (neg : Bool) (m : Nat) (e q : Int) : Nat × Bool :=
  if q ≤ e then (m * 2 ^ (e - q).toNat, false)
  else
    let d := (q - e).toNat
    let n := m / 2 ^ d
    let r := m % 2 ^ d
    ((if roundsUp md neg (n % 2 == 1) r (2 ^ (d - 1)) then n + 1 else n), r != 0)

/-- The number of bits of a number. -/
def bitLen (m : Nat) : Nat := if m = 0 then 0 else Nat.log2 m + 1

/-- The mode drops what a magnitude of a sign has beyond the last place (R148). -/
def RMd.cuts (md : RMd) (neg : Bool) : Bool :=
  match md with
  | .ne => false
  | .tz => true
  | .up => neg
  | .dn => !neg

/-- Round(±m · 2^e, fmt, mode) for m > 0 (R148 to R151). A magnitude above the largest finite value that the mode cuts down to it raises
overflow (R150). -/
def Fmt.round (f : Fmt) (md : RMd) (neg : Bool) (m : Nat) (e : Int) : Nat × FF :=
  let top : Int := e + bitLen m - 1
  let emin : Int := 1 - f.bias
  let q := max (top - f.fb) (emin - f.fb)
  let (n, nx) := roundAt md neg m e q
  let (n0, _) := roundAt md neg m e (top - f.fb)
  let tiny := decide (top < emin) && !(top == emin - 1 && n0 == 2 ^ (f.fb + 1))
  let ffs : FF := (if nx then ffNX else 0) ||| (if tiny && nx then ffUF else 0)
  if n < 2 ^ f.fb then (f.withSign neg n, ffs)
  else
    let ex : Int := q + f.fb + f.bias + (if n = 2 ^ (f.fb + 1) then 1 else 0)
    if (f.top : Int) ≤ ex then
      let big := match md with
        | .ne => true
        | .tz => false
        | .up => !neg
        | .dn => neg
      ((if big then f.inf neg else f.maxFin neg), ffOF)
    else
      let fr := if n = 2 ^ (f.fb + 1) then 0 else n - 2 ^ f.fb
      let cutOff := md.cuts neg && nx && ex + 1 == (f.top : Int) && fr + 1 == 2 ^ f.fb
      (f.withSign neg (ex.toNat * 2 ^ f.fb + fr), if cutOff then ffOF else ffs)

/-- A datum without NaN, rounded to a format; a zero keeps its sign. -/
def Fmt.ofNum (f : Fmt) (md : RMd) : Num → Nat × FF
  | .nan s => (f.nan, nvIf s)
  | .inf n => (f.inf n, 0)
  | .fin n m e => if m = 0 then (f.zero n, 0) else f.round md n m e

/-- The sign of an exact zero sum of operands of opposite signs (R148). -/
def zeroSign (md : RMd) : Bool := md == .dn

/-- The exact sum of two data; its NaN signals when the operation is invalid. -/
def Num.add (md : RMd) (a b : Num) : Num :=
  match a, b with
  | .nan s, .nan t => .nan (s || t)
  | .nan s, _ => .nan s
  | _, .nan t => .nan t
  | .inf n, .inf k => if n = k then .inf n else .nan true
  | .inf n, _ => .inf n
  | _, .inf k => .inf k
  | .fin n m e, .fin k l d =>
    let q := min e d
    let x : Int := (if n then -1 else 1) * (m * 2 ^ (e - q).toNat : Nat)
    let y : Int := (if k then -1 else 1) * (l * 2 ^ (d - q).toNat : Nat)
    let z := x + y
    if z = 0 then .fin (if m = 0 ∧ l = 0 ∧ n = k then n else zeroSign md) 0 0
    else .fin (z < 0) z.natAbs q

/-- The exact product of two data; its NaN signals when the operation is invalid. -/
def Num.mul (a b : Num) : Num :=
  match a, b with
  | .nan s, .nan t => .nan (s || t)
  | .nan s, _ => .nan s
  | _, .nan t => .nan t
  | .inf n, .inf k => .inf (n != k)
  | .inf n, .fin k l _ => if l = 0 then .nan true else .inf (n != k)
  | .fin n m _, .inf k => if m = 0 then .nan true else .inf (n != k)
  | .fin n m e, .fin k l d => .fin (n != k) (m * l) (e + d)

/-- a + b (R166). -/
def Fmt.add (f : Fmt) (md : RMd) (a b : Nat) : Nat × FF := f.ofNum md ((f.num a).add md (f.num b))
/-- a − b (R166). -/
def Fmt.sub (f : Fmt) (md : RMd) (a b : Nat) : Nat × FF := f.ofNum md ((f.num a).add md (f.num b).negate)
/-- a · b (R166). -/
def Fmt.mul (f : Fmt) (md : RMd) (a b : Nat) : Nat × FF := f.ofNum md ((f.num a).mul (f.num b))
/-- a · b ± c with one rounding (R166). -/
def Fmt.fma (f : Fmt) (md : RMd) (minus : Bool) (a b c : Nat) : Nat × FF :=
  let z := if minus then (f.num c).negate else f.num c
  f.ofNum md (((f.num a).mul (f.num b)).add md z)

/-- The order key of a pattern that is no NaN, with −0 below +0 (R167). -/
def Fmt.key (f : Fmt) (b : Nat) : Int :=
  let mag : Int := (b % f.sign : Nat)
  if b / f.sign % 2 = 1 then -mag - 1 else mag
/-- The order key of a pattern that is no NaN, with −0 equal to +0 (R145). -/
def Fmt.keyEq (f : Fmt) (b : Nat) : Int :=
  let mag : Int := (b % f.sign : Nat)
  if b / f.sign % 2 = 1 then -mag else mag

/-- VMIN and VMAX of two patterns (R167). -/
def Fmt.minMax (f : Fmt) (mx : Bool) (a b : Nat) : Nat × FF :=
  let x := f.num a
  let y := f.num b
  let fl := nvIf (x.sig || y.sig)
  if x.isNan && y.isNan then (f.nan, fl)
  else if x.isNan then (b, fl)
  else if y.isNan then (a, fl)
  else if mx then ((if f.key a < f.key b then b else a), fl)
  else ((if f.key b < f.key a then b else a), fl)

/-- VABS, VNEG and VCPS: the new sign of a (R168). -/
def Fmt.sign' (f : Fmt) (neg : Bool) (a : Nat) : Nat × FF :=
  match f.num a with
  | .nan s => (f.nan, nvIf s)
  | _ => (f.withSign neg (a % f.sign), 0)
/-- The sign bit of a pattern. -/
def Fmt.isNeg (f : Fmt) (a : Nat) : Bool := a / f.sign % 2 == 1

/-- A condition on two patterns (R145, R169). -/
def Fmt.cmp (f : Fmt) (cc : CC) (a b : Nat) : Bool × FF :=
  let x := f.num a
  let y := f.num b
  let un := x.isNan || y.isNan
  let ka := f.keyEq a
  let kb := f.keyEq b
  ((match cc with
    | .eq => !un && ka == kb
    | .ne => un || ka != kb
    | .lt | .ltu => !un && decide (ka < kb)
    | .ge | .geu => !un && decide (kb ≤ ka)
    | .le | .leu => !un && decide (ka ≤ kb)
    | .gt | .gtu => !un && decide (kb < ka)
    | .un => un
    | .ord => !un), nvIf (x.sig || y.sig))

/-- A rounded integer value of a datum, and whether it is inexact; the sign counts in the rounding (R152, R172). -/
def roundInt (md : RMd) (neg : Bool) (m : Nat) (e : Int) : Int × Bool :=
  let (n, nx) := roundAt md neg m e 0
  ((if neg then -(n : Int) else n), nx)

/-- VRND (R172). -/
def Fmt.rnd (f : Fmt) (a : Nat) : Nat × FF :=
  match f.num a with
  | .nan s => (f.nan, nvIf s)
  | .inf _ => (a, 0)
  | .fin n m e =>
    let (v, _) := roundInt .ne n m e
    if v = 0 then (f.zero n, 0) else ((f.round .ne n v.natAbs 0).1, 0)

/-- Clamps an exact integer to a target (R146): the value, and whether it was outside. -/
def satInt (uns : Bool) (n : Nat) (v : Int) : Int × Bool :=
  let lo : Int := if uns then 0 else -(2 ^ (n - 1))
  let hi : Int := if uns then 2 ^ n - 1 else 2 ^ (n - 1) - 1
  if v < lo then (lo, true) else if hi < v then (hi, true) else (v, false)

/-- An integer's pattern of `n` bits. -/
def wrapInt (n : Nat) (v : Int) : Nat := (v % (2 ^ n : Int)).toNat
/-- The integer a pattern of `n` bits stands for. -/
def intOf (uns : Bool) (n b : Nat) : Int := if uns || b < 2 ^ (n - 1) then b else (b : Int) - 2 ^ n

/-- float → integer (R152). -/
def Fmt.toInt (f : Fmt) (md : RMd) (uns : Bool) (n : Nat) (a : Nat) : Nat × FF :=
  match f.num a with
  | .nan _ => (0, ffNV)
  | .inf s => (wrapInt n (satInt uns n (if s then -(2 ^ 64) else 2 ^ 64)).1, ffNV)
  | .fin s m e =>
    let (v, nx) := roundInt md s m e
    let (w, out) := satInt uns n v
    (wrapInt n w, if out then ffNV else if nx then ffNX else 0)

/-- integer → float (R152). DESIGN CHOICE: an unsigned INT16 of 65,520 or more rounds to an infinity of FP16 with overflow, as Round
has it, though R152 names only INT32 there (R150; log 127). -/
def Fmt.ofInt (f : Fmt) (md : RMd) (v : Int) : Nat × FF :=
  if v = 0 then (f.zero false, 0) else f.round md (decide (v < 0)) v.natAbs 0

/-- float → float (R152). -/
def Fmt.cvt (f t : Fmt) (md : RMd) (a : Nat) : Nat × FF := t.ofNum md (f.num a)

/-- ln 2 · 2^128, rounded down. -/
def ln2Fix : Int := 0xB17217F7D1CF79ABC9E3B39803F2F6AF

/-- The terms of the exponential series from term `k` on, in units of 2^−128. -/
def expTerms (x term : Int) (k : Nat) : Nat → Int
  | 0 => 0
  | n + 1 => term + expTerms x (term * x / 2 ^ 128 / (k + 1)) (k + 1) n

/-- 2^f · 2^128 for |f| ≤ 1, f = ±m · 2^e, with an error below 2^−120: far less than what separates 2^f of an FP32 value
from a tie. -/
def exp2Fix (neg : Bool) (m : Nat) (e : Int) : Nat :=
  let y : Int := m * ln2Fix
  let x : Int := if e < 0 then y / 2 ^ (-e).toNat else y * 2 ^ e.toNat
  (expTerms (if neg then -x else x) (2 ^ 128) 0 48).toNat

/-- VFEXP (R173). -/
def fexp32 (a : Nat) : Nat × FF :=
  match fp32.num a with
  | .nan s => (fp32.nan, nvIf s)
  | .inf _ => (fp32.nan, ffNV)
  | .fin n m e =>
    if m = 0 then (0x3F80_0000, 0)
    else if fp32.keyEq a = 0x3F80_0000 then (0x4000_0000, 0)
    else if fp32.keyEq a = -0x3F80_0000 then (0x3F00_0000, 0)
    else if 0x3F80_0000 < fp32.keyEq a || fp32.keyEq a < -0x3F80_0000 then (fp32.nan, ffNV)
    else ((fp32.round .ne false (2 * exp2Fix n m e + 1) (-129)).1, ffNX)

/-- VEXPI (R174): m · 2^n. -/
def expi32 (a b : Nat) : Nat × FF :=
  let m := fp32.num a
  let n := fp32.num b
  let sg := fp32.isNeg a
  match n with
  | .nan s => (fp32.nan, nvIf (s || m.sig))
  | .inf neg =>
    match m with
    | .nan s => ((if neg then fp32.zero false else fp32.inf false), nvIf s)
    | .fin _ mm _ =>
      if !neg && mm = 0 then (fp32.nan, ffNV)
      else ((if neg then fp32.zero sg else fp32.inf sg), 0)
    | .inf _ => if neg then (fp32.nan, ffNV) else (fp32.inf sg, 0)
  | .fin nn nm ne =>
    let (v, nx) := roundInt .tz nn nm ne
    if nx then (fp32.nan, ffNV)
    else
      match m with
      | .nan s => (fp32.nan, nvIf s)
      | .inf k => (fp32.inf k, 0)
      | .fin k mm me =>
        if mm = 0 then (fp32.zero k, 0)
        else fp32.round .ne k mm (me + max (-100000) (min 100000 v))

/-- VLOGB (R176). -/
def logb32 (a : Nat) : Nat × FF :=
  match fp32.num a with
  | .nan s => (fp32.nan, nvIf s)
  | .inf _ => (fp32.inf false, 0)
  | .fin _ m e => if m = 0 then (fp32.inf true, ffDZ) else fp32.ofInt .ne (e + bitLen m - 1)

/-- VRCP (R176): the quotient with 64 more bits and a sticky bit. -/
def rcp32 (a : Nat) : Nat × FF :=
  match fp32.num a with
  | .nan s => (fp32.nan, nvIf s)
  | .inf n => (fp32.zero n, 0)
  | .fin n m e =>
    if m = 0 then (fp32.inf n, ffDZ)
    else
      let k := bitLen m + 64
      let q := 2 ^ k / m
      fp32.round .ne n (2 * q + (if 2 ^ k % m = 0 then 0 else 1)) (-e - k - 1)

/-- The integer square root, bit by bit from bit `i - 1` down. -/
def isqrtFrom (v r : Nat) : Nat → Nat
  | 0 => r
  | i + 1 => if (r + 2 ^ i) * (r + 2 ^ i) ≤ v then isqrtFrom v (r + 2 ^ i) i else isqrtFrom v r i

/-- VRSQ (R176): the integer square root of a scaled quotient and a sticky bit. -/
def rsq32 (a : Nat) : Nat × FF :=
  match fp32.num a with
  | .nan s => (fp32.nan, nvIf s)
  | .inf n => if n then (fp32.nan, ffNV) else (fp32.zero false, 0)
  | .fin n m e =>
    if m = 0 then (fp32.inf n, ffDZ)
    else if n then (fp32.nan, ffNV)
    else
      let m' := if e % 2 = 0 then m else 2 * m
      let e' := if e % 2 = 0 then e else e - 1
      let k := 80
      let r := isqrtFrom (2 ^ (2 * k) / m') 0 (k + 1)
      fp32.round .ne false (2 * r + (if r * r * m' = 2 ^ (2 * k) then 0 else 1)) (-(e' / 2) - k - 1)

/-- The scaled value D(d) of a dyad8 (R153, R154). -/
def dyadInt (b : Nat) : Int :=
  let t (s k : Nat) : Int := if k = 7 then 0 else (if s = 1 then -1 else 1) * (2 ^ (6 - k) : Nat)
  t (b / 128 % 2) (b / 16 % 8) + t (b / 8 % 2) (b % 8)

/-- dyad8 → float: exact, a zero is +0 (R152, R153). -/
def Fmt.ofDyad (f : Fmt) (b : Nat) : Nat :=
  let v := dyadInt b
  if v = 0 then 0 else (f.round .ne (decide (v < 0)) v.natAbs (-6)).1

end Sys2Proof.Machine
end

