-- ==== Sys2Proof/Machine/Vector.lean ====
section
/-! DEFINITION. Vector instructions: majors 0x08 to 0x0B (R158 to R187). -/

namespace Sys2Proof.Machine

/-! Tags and elements. -/

/-- The set F (R162). -/
def inF : Tag → Bool
  | .fp32 | .bf16 | .fp16 => true
  | _ => false
/-- The set I (R162). -/
def inI : Tag → Bool
  | .int32 | .int16 | .int8 | .raw => true
  | _ => false
/-- The set S (R162). -/
def inS : Tag → Bool
  | .fp32 | .int32 | .raw => true
  | _ => false
/-- The sets F and I together (R167). -/
def inFI (t : Tag) : Bool := inF t || inI t

/-- FMT of a source at a position (R88). -/
def fmtFault {α : Type} (t : Tag) (pos : Nat) : M α := raiseV .fmt (BitVec.ofNat 64 (tagNum t + 16 * pos))

/-- Elements of a lane (R147). -/
def elemsOf : Tag → Nat
  | .bf16 | .fp16 | .int16 => 2
  | .int8 | .dyad8 => 4
  | _ => 1
/-- The width of an element. -/
def widthOf (t : Tag) : Nat := 32 / elemsOf t

/-- The float format of a tag; FP32 for the others. -/
def fmtOf : Tag → Fmt
  | .bf16 => bf16
  | .fp16 => fp16
  | _ => fp32

/-- Element `k` of width `w` of a lane. -/
def elem (l : Lane) (w k : Nat) : Nat := l.toNat / 2 ^ (w * k) % 2 ^ w

/-- A lane from `n` elements of width `w`, with their flags. -/
def laneOf (w : Nat) (f : Nat → Nat × FF) (n : Nat) : Lane × FF :=
  (List.range n).foldl (fun a k => (a.1 ||| BitVec.ofNat 32 ((f k).1 * 2 ^ (w * k)), a.2 ||| (f k).2)) (0, 0)

/-- A vector source with its tag checked against a set and against the format so far (R161, R162). -/
def readTag (ok : Tag → Bool) (pos : Nat) (e : Option Tag) (a : VSrc) : M (VReg × Option Tag) := do
  let v ← readV a
  if !ok v.tag then fmtFault v.tag pos
  else if v.tag = .raw then pure (v, e)
  else
    match e with
    | none => pure (v, some v.tag)
    | some t => if v.tag = t then pure (v, e) else fmtFault v.tag pos

/-- One source and its operation format (R162). -/
def read1 (ok : Tag → Bool) (a : VSrc) : M (VReg × Tag) := do
  let (u, e) ← readTag ok 1 none a
  pure (u, e.getD .int32)
/-- Two sources and their operation format; `dflt` is the format when all are RAW (R162). -/
def read2 (ok : Tag → Bool) (a b : VSrc) (dflt : Tag := .int32) : M (VReg × VReg × Tag) := do
  let (u, e) ← readTag ok 1 none a
  let (v, e) ← readTag ok 2 e b
  pure (u, v, e.getD dflt)
/-- Three sources and their operation format (R162). -/
def read3 (ok : Tag → Bool) (a b c : VSrc) : M (VReg × VReg × VReg × Tag) := do
  let (u, e) ← readTag ok 1 none a
  let (v, e) ← readTag ok 2 e b
  let (w, e) ← readTag ok 3 e c
  pure (u, v, w, e.getD .int32)

/-- The flags of the guarded-on lanes (R85). -/
def flagsOf (mask : Lane) (f : Nat → Lane × FF) : FF :=
  (List.range 32).foldl (fun a n => if mask.getLsbD n then a ||| (f n).2 else a) 0

/-- The effects of a vector instruction with those lanes (R161). -/
def vecPuts (mask : Lane) (vd : VDst) (t : Tag) (f : Nat → Lane × FF) : List Put :=
  [.v vd mask (ofLanes (fun n => (f n).1)) t, .ff (flagsOf mask f)]

/-- The guard bits of an instruction. -/
def maskOf (g : Guard) : M Lane := fun s => .ok (s.me.guardBits g, s)
/-- The rounding mode in CTXST.RM. -/
def modeOf : M RMd := fun s => .ok (rmOf s.me.rm, s)

/-- The issue of a vector instruction with vector operands only. -/
def vecInfo (g : Guard) (vs : List VSrc) (vd : List VDst) : Info := infoOf g 8 allOn [] vs [] vd

/-- Elementwise on one vector. -/
def map1 (t : Tag) (f : Nat → Nat × FF) (u : VReg) (n : Nat) : Lane × FF :=
  laneOf (widthOf t) (fun k => f (elem (getLane u.bits n) (widthOf t) k)) (elemsOf t)
/-- Elementwise on two vectors. -/
def map2 (t : Tag) (f : Nat → Nat → Nat × FF) (u v : VReg) (n : Nat) : Lane × FF :=
  laneOf (widthOf t) (fun k => f (elem (getLane u.bits n) (widthOf t) k) (elem (getLane v.bits n) (widthOf t) k)) (elemsOf t)
/-- Elementwise on three vectors. -/
def map3 (t : Tag) (f : Nat → Nat → Nat → Nat × FF) (u v w : VReg) (n : Nat) : Lane × FF :=
  laneOf (widthOf t) (fun k => f (elem (getLane u.bits n) (widthOf t) k) (elem (getLane v.bits n) (widthOf t) k)
    (elem (getLane w.bits n) (widthOf t) k)) (elemsOf t)

/-! Major 0x08. -/

/-- A float operation on two sources, rounded per RM (R166). -/
def float2 (g : Guard) (vd : VDst) (a b : VSrc) (f : Fmt → RMd → Nat → Nat → Nat × FF) : M (List Put) := do
  let (u, v, t) ← read2 inF a b
  pure (vecPuts (← maskOf g) vd t (map2 t (f (fmtOf t) (← modeOf)) u v))
/-- A fused operation on three sources, rounded per RM (R166). -/
def float3 (g : Guard) (vd : VDst) (a b c : VSrc) (minus : Bool) : M (List Put) := do
  let (u, v, w, t) ← read3 inF a b c
  pure (vecPuts (← maskOf g) vd t (map3 t ((fmtOf t).fma (← modeOf) minus) u v w))

/-- The lesser or greater of two elements of a format (R167). -/
def elemMinMax (t : Tag) (mx : Bool) (x y : Nat) : Nat × FF :=
  if inF t then (fmtOf t).minMax mx x y
  else
    let w := widthOf t
    let i := intOf false w x
    let j := intOf false w y
    ((if mx then (if i < j then y else x) else (if j < i then y else x)), 0)
/-- VMIN and VMAX (R167). -/
def minMaxBody (g : Guard) (vd : VDst) (a b : VSrc) (mx : Bool) : M (List Put) := do
  let (u, v, t) ← read2 inFI a b
  pure (vecPuts (← maskOf g) vd t (map2 t (elemMinMax t mx) u v))
/-- VABS and VNEG (R168): the new sign from the old. -/
def signBody (g : Guard) (vd : VDst) (a : VSrc) (f : Bool → Bool) : M (List Put) := do
  let (u, t) ← read1 inF a
  pure (vecPuts (← maskOf g) vd t (map1 t (fun x => (fmtOf t).sign' (f ((fmtOf t).isNeg x)) x) u))
/-- VCPS (R168). -/
def cpsBody (g : Guard) (vd : VDst) (a b : VSrc) : M (List Put) := do
  let (u, v, t) ← read2 inF a b
  pure (vecPuts (← maskOf g) vd t (map2 t (fun x y => (fmtOf t).sign' ((fmtOf t).isNeg y) x) u v))

/-- The conditions VCMP accepts of a format (R169). -/
def vcmpOk (t : Tag) : CC → Bool
  | .eq | .ne | .lt | .ge | .le | .gt => true
  | .ltu | .geu | .leu | .gtu => t != .fp32
  | .un | .ord => t == .fp32
/-- A lane's comparison (R169). -/
def laneCmp (t : Tag) (cc : CC) (x y : Lane) : Bool × FF :=
  if t = .fp32 then fp32.cmp cc x.toNat y.toNat else (ccHolds cc x y, 0)
/-- VCMP (R169). DESIGN CHOICE: src2 is read and its tag checked before the code is checked against E, so where both fail the FMT
names src2 (log 125). -/
def vcmpBody (g : Guard) (cc : CC) (gd : Fin 8) (a b : VSrc) : M (List Put) := do
  let (u, v, t) ← read2 inS a b
  let m ← maskOf g
  if vcmpOk t cc then
    let f (n : Nat) : Bool × FF := laneCmp t cc (getLane u.bits n) (getLane v.bits n)
    pure [.g gd m (ofBits (fun n => (f n).1)), .ff (flagsOf m (fun n => (0, (f n).2)))]
  else fmtFault u.tag 1
/-- VSEL (R170). -/
def vselBody (g : Guard) (vd : VDst) (n : Fin 8) (a b : VSrc) : M (List Put) := do
  let sel := (← get).me.gReg n
  let u ← readV a
  let v ← readV b
  if v.tag = u.tag then
    pure [.v vd (← maskOf g) (mergeLanes sel u.bits v.bits) u.tag]
  else fmtFault v.tag 2

/-! Major 0x09. -/

/-- A function helper on FP32 elements (R171 to R176). -/
def helper1 (g : Guard) (vd : VDst) (a : VSrc) (f : Nat → Nat × FF) : M (List Put) := do
  let (u, t) ← read1 (fun t => t == .fp32) a
  pure (vecPuts (← maskOf g) vd t (map1 t f u))
/-- VEXPI (R174). -/
def expiBody (g : Guard) (vd : VDst) (a b : VSrc) : M (List Put) := do
  let (u, v, t) ← read2 (fun t => t == .fp32) a b
  pure (vecPuts (← maskOf g) vd t (map2 t expi32 u v))

/-- An element's conversion between the formats of a row of R178 to R180; none where no table has the row. -/
def cvtElem (src dst : Tag) (md : RMd) (uns : Bool) : Option (Nat → Nat × FF) :=
  match src, dst with
  | .fp32, .int32 => some (fp32.toInt md uns 32)
  | .int32, .fp32 => some (fun x => fp32.ofInt md (intOf uns 32 x))
  | .bf16, .fp16 => some (bf16.cvt fp16 md)
  | .fp16, .bf16 => some (fp16.cvt bf16 md)
  | .bf16, .int16 => some (bf16.toInt md uns 16)
  | .fp16, .int16 => some (fp16.toInt md uns 16)
  | .int16, .bf16 => some (fun x => bf16.ofInt md (intOf uns 16 x))
  | .int16, .fp16 => some (fun x => fp16.ofInt md (intOf uns 16 x))
  | _, _ => none
/-- A row of VPACK (R179). -/
def packElem (src dst : Tag) (md : RMd) (uns : Bool) : Option (Nat → Nat × FF) :=
  match src, dst with
  | .fp32, .bf16 => some (fp32.cvt bf16 md)
  | .fp32, .fp16 => some (fp32.cvt fp16 md)
  | .int32, .int16 => some (fun x => (wrapInt 16 (satInt uns 16 (intOf uns 32 x)).1, 0))
  | .int16, .int8 => some (fun x => (wrapInt 8 (satInt uns 8 (intOf uns 16 x)).1, 0))
  | _, _ => none
/-- A row of VUNPK (R180). -/
def unpkElem (src dst : Tag) (uns : Bool) : Option (Nat → Nat × FF) :=
  match src, dst with
  | .bf16, .fp32 => some (bf16.cvt fp32 .ne)
  | .fp16, .fp32 => some (fp16.cvt fp32 .ne)
  | .int16, .int32 => some (fun x => (wrapInt 32 (intOf uns 16 x), 0))
  | .int8, .int16 => some (fun x => (wrapInt 16 (intOf uns 8 x), 0))
  | .dyad8, .bf16 => some (fun x => (bf16.ofDyad x, 0))
  | .dyad8, .fp16 => some (fun x => (fp16.ofDyad x, 0))
  | _, _ => none

/-- The mode of a conversion (R177). -/
def cvtMode (m : Bool) : M RMd := do if m then modeOf else pure .ne

/-- VCVT (R178). -/
def cvtBody (g : Guard) (uns m : Bool) (t : Tag) (vd : VDst) (a : VSrc) : M (List Put) := do
  let u ← readV a
  match cvtElem u.tag t (← cvtMode m) uns with
  | none => fmtFault u.tag 1
  | some f => pure (vecPuts (← maskOf g) vd t (map1 t f u))
/-- VPACK (R179). -/
def packBody (g : Guard) (uns m : Bool) (t : Tag) (vd : VDst) (a b : VSrc) : M (List Put) := do
  let u ← readV a
  match packElem u.tag t (← cvtMode m) uns with
  | none => fmtFault u.tag 1
  | some f => do
    let v ← readV b
    if v.tag = u.tag then
      let e := elemsOf u.tag
      let w := widthOf u.tag
      pure (vecPuts (← maskOf g) vd t (fun n => laneOf (widthOf t) (fun k =>
        if k < e then f (elem (getLane u.bits n) w k) else f (elem (getLane v.bits n) w (k - e))) (elemsOf t)))
    else fmtFault v.tag 2
/-- VUNPK (R180). -/
def unpkBody (g : Guard) (uns : Bool) (t : Tag) (h : Bool) (vd : VDst) (a : VSrc) : M (List Put) := do
  let u ← readV a
  match unpkElem u.tag t uns with
  | none => fmtFault u.tag 1
  | some f =>
    let e := elemsOf t
    let w := widthOf u.tag
    pure (vecPuts (← maskOf g) vd t (fun n =>
      laneOf (widthOf t) (fun k => f (elem (getLane u.bits n) w ((if h then e else 0) + k))) e))

/-! Major 0x0A. -/

/-- An integer operation on two sources (R182); `dflt` is its format on RAW alone (R162). -/
def int2 (g : Guard) (vd : VDst) (a b : VSrc) (dflt : Tag) (f : Nat → Nat → Nat → Nat) : M (List Put) := do
  let (u, v, t) ← read2 inI a b dflt
  pure (vecPuts (← maskOf g) vd t (map2 t (fun x y => (f (widthOf t) x y, 0)) u v))
/-- An exact integer result narrowed by the mode (R146, R181, R182). -/
def satMode (md : SatMode) (w : Nat) (f : Int → Int → Int) (x y : Nat) : Nat :=
  match md with
  | .wrap => wrapInt w (f x y)
  | .s => wrapInt w (satInt false w (f (intOf false w x) (intOf false w y))).1
  | .us => wrapInt w (satInt true w (f x y)).1
/-- VIMAD (R182). -/
def imadBody (g : Guard) (vd : VDst) (a b c : VSrc) : M (List Put) := do
  let (u, v, w, t) ← read3 inI a b c
  pure (vecPuts (← maskOf g) vd t (map3 t (fun x y z => ((x * y + z) % 2 ^ widthOf t, 0)) u v w))
/-- Shift right with the sign (R182). -/
def sarElem (w x y : Nat) : Nat := wrapInt w (intOf false w x / 2 ^ (y % w))
/-- VDOT4 (R182). -/
def dot4Body (g : Guard) (vd : VDst) (a b c : VSrc) : M (List Put) := do
  let u ← readV a
  if !(u.tag == .int8 || u.tag == .raw) then fmtFault u.tag 1
  let v ← readV b
  if !(v.tag == .int8 || v.tag == .raw) then fmtFault v.tag 2
  let w ← readV c
  if !(w.tag == .int32 || w.tag == .raw) then fmtFault w.tag 3
  let dot (n : Nat) : Int := (List.range 4).foldl (fun (z : Int) k =>
    z + intOf false 8 (elem (getLane u.bits n) 8 k) * intOf false 8 (elem (getLane v.bits n) 8 k)) 0
  pure (vecPuts (← maskOf g) vd .int32 (fun n => (BitVec.ofInt 32 (intOf false 32 (getLane w.bits n).toNat + dot n), 0)))

/-! Major 0x0B. -/

/-- VBCAST (R184). -/
def bcastBody (g : Guard) (vd : VDst) (a : SSrc) (t : Tag) (imm : Word) : M (List Put) := do
  let v := (← readS a) + imm
  pure [.v vd (← maskOf g) (ofLanes (fun _ => v.setWidth 32)) t]
/-- VPERM (R185). -/
def permBody (g : Guard) (vd : VDst) (a b : VSrc) : M (List Put) := do
  let u ← readV a
  let v ← readV b
  if v.tag == .int32 || v.tag == .raw then
    pure [.v vd (← maskOf g) (ofLanes (fun n => getLane u.bits ((getLane v.bits n).toNat % 32))) u.tag]
  else fmtFault v.tag 2
/-- VROT (R185). -/
def rotBody (g : Guard) (vd : VDst) (a : VSrc) (k : Fin 32) : M (List Put) := do
  let u ← readV a
  pure [.v vd (← maskOf g) (ofLanes (fun n => getLane u.bits ((n + k.val) % 32))) u.tag]
/-- VMOVS (R186). -/
def movsBody (sx : Bool) (rd : SDst) (a : VSrc) (k : Fin 32) : M (List Put) := do
  let u ← readV a
  let l := getLane u.bits k.val
  pure [.s rd (if sx then l.signExtend 64 else l.setWidth 64)]
/-- VINS (R186). -/
def insBody (vd : VDst) (a : SSrc) (k : Fin 32) (t : Tag) : M (List Put) := do
  let v ← readS a
  let m : Lane := BitVec.ofNat 32 (2 ^ k.val)
  pure [.v vd m (ofLanes (fun _ => v.setWidth 32)) t]

/-- A sum of two lanes of a format (R158, R187). -/
def sumLane (t : Tag) (x y : Lane) : Lane × FF :=
  if t = .fp32 then
    let (r, f) := fp32.add .ne x.toNat y.toNat
    (BitVec.ofNat 32 r, f)
  else (x + y, 0)
/-- What a guarded-off lane enters a sum as (R158). -/
def sumUnit (t : Tag) : Lane := if t = .fp32 then 0x8000_0000 else 0
/-- One level of the tree (R158). -/
def treeLevel (t : Tag) : List Lane → List Lane × FF
  | x :: y :: r =>
    let (z, f) := sumLane t x y
    let (zs, fs) := treeLevel t r
    (z :: zs, f ||| fs)
  | l => (l, 0)
/-- The tree-order sum, `n` levels (R158). -/
def treeSum (t : Tag) (l : List Lane) : Nat → Lane × FF
  | 0 => (l.headD 0, 0)
  | n + 1 =>
    let (m, f) := treeLevel t l
    let (z, fs) := treeSum t m n
    (z, f ||| fs)
/-- The running sums with their flags, in lane order (R158). -/
def scanSums (t : Tag) (acc : Lane) : List Lane → List (Lane × FF)
  | [] => []
  | x :: r =>
    let z := sumLane t acc x
    z :: scanSums t z.1 r
/-- The lanes that enter a sum (R158). -/
def sumLanes (t : Tag) (m : Lane) (u : VReg) : List Lane :=
  (List.range 32).map (fun n => if m.getLsbD n then getLane u.bits n else sumUnit t)
/-- VREDA (R187). -/
def redaBody (g : Guard) (vd : VDst) (a : VSrc) : M (List Put) := do
  let (u, t) ← read1 inS a
  let m ← maskOf g
  let (z, f) := treeSum t (sumLanes t m u) 5
  pure [.v vd m (ofLanes (fun _ => z)) t, .ff f]
/-- VREDM (R187). -/
def redmBody (g : Guard) (vd : VDst) (a : VSrc) : M (List Put) := do
  let (u, t) ← read1 inS a
  let m ← maskOf g
  let on := ((List.range 32).filter (fun n => m.getLsbD n)).map (fun n => (getLane u.bits n).toNat)
  let sigs := t == .fp32 && on.any (fun x => (fp32.num x).sig)
  let z := match on with
    | [] => 0
    | x :: r => (r.foldl (fun a y => (elemMinMax t true a y).1) (if t == .fp32 && (fp32.num x).isNan then fp32.nan else x))
  pure [.v vd m (ofLanes (fun _ => BitVec.ofNat 32 z)) t, .ff (nvIf sigs)]
/-- VSCAN (R187). -/
def scanBody (g : Guard) (vd : VDst) (a : VSrc) : M (List Put) := do
  let (u, t) ← read1 inS a
  let m ← maskOf g
  let zs := scanSums t (sumUnit t) (sumLanes t m u)
  pure (vecPuts m vd t (fun n => zs.getD n (0, 0)))

/-- VADD (R166). -/
def halfVadd (g : Guard) (vd : VDst) (a b : VSrc) : Half :=
  (vecInfo g [a, b] [vd], float2 g vd a b Fmt.add)
/-- The instruction of `halfVadd`. -/
def execVadd (g : Guard) (vd : VDst) (a b : VSrc) (s : State) : Out := runHalf (halfVadd g vd a b) s
/-- VSUB (R166). -/
def halfVsub (g : Guard) (vd : VDst) (a b : VSrc) : Half :=
  (vecInfo g [a, b] [vd], float2 g vd a b Fmt.sub)
/-- The instruction of `halfVsub`. -/
def execVsub (g : Guard) (vd : VDst) (a b : VSrc) (s : State) : Out := runHalf (halfVsub g vd a b) s
/-- VMUL (R166). -/
def halfVmul (g : Guard) (vd : VDst) (a b : VSrc) : Half :=
  (vecInfo g [a, b] [vd], float2 g vd a b Fmt.mul)
/-- The instruction of `halfVmul`. -/
def execVmul (g : Guard) (vd : VDst) (a b : VSrc) (s : State) : Out := runHalf (halfVmul g vd a b) s
/-- VFMA (R166). -/
def halfVfma (g : Guard) (vd : VDst) (a b c : VSrc) : Half :=
  (vecInfo g [a, b, c] [vd], float3 g vd a b c false)
/-- The instruction of `halfVfma`. -/
def execVfma (g : Guard) (vd : VDst) (a b c : VSrc) (s : State) : Out := runHalf (halfVfma g vd a b c) s
/-- VFMS (R166). -/
def halfVfms (g : Guard) (vd : VDst) (a b c : VSrc) : Half :=
  (vecInfo g [a, b, c] [vd], float3 g vd a b c true)
/-- The instruction of `halfVfms`. -/
def execVfms (g : Guard) (vd : VDst) (a b c : VSrc) (s : State) : Out := runHalf (halfVfms g vd a b c) s
/-- VMIN (R167). -/
def halfVmin (g : Guard) (vd : VDst) (a b : VSrc) : Half :=
  (vecInfo g [a, b] [vd], minMaxBody g vd a b false)
/-- The instruction of `halfVmin`. -/
def execVmin (g : Guard) (vd : VDst) (a b : VSrc) (s : State) : Out := runHalf (halfVmin g vd a b) s
/-- VMAX (R167). -/
def halfVmax (g : Guard) (vd : VDst) (a b : VSrc) : Half :=
  (vecInfo g [a, b] [vd], minMaxBody g vd a b true)
/-- The instruction of `halfVmax`. -/
def execVmax (g : Guard) (vd : VDst) (a b : VSrc) (s : State) : Out := runHalf (halfVmax g vd a b) s
/-- VABS (R168). -/
def halfVabs (g : Guard) (vd : VDst) (a : VSrc) : Half :=
  (vecInfo g [a] [vd], signBody g vd a (fun _ => false))
/-- The instruction of `halfVabs`. -/
def execVabs (g : Guard) (vd : VDst) (a : VSrc) (s : State) : Out := runHalf (halfVabs g vd a) s
/-- VNEG (R168). -/
def halfVneg (g : Guard) (vd : VDst) (a : VSrc) : Half :=
  (vecInfo g [a] [vd], signBody g vd a not)
/-- The instruction of `halfVneg`. -/
def execVneg (g : Guard) (vd : VDst) (a : VSrc) (s : State) : Out := runHalf (halfVneg g vd a) s
/-- VCPS (R168). -/
def halfVcps (g : Guard) (vd : VDst) (a b : VSrc) : Half :=
  (vecInfo g [a, b] [vd], cpsBody g vd a b)
/-- The instruction of `halfVcps`. -/
def execVcps (g : Guard) (vd : VDst) (a b : VSrc) (s : State) : Out := runHalf (halfVcps g vd a b) s
/-- VCMP (R169). -/
def halfVcmp (g : Guard) (cc : CC) (gd : Fin 8) (a b : VSrc) : Half :=
  (vecInfo g [a, b] [], vcmpBody g cc gd a b)
/-- The instruction of `halfVcmp`. -/
def execVcmp (g : Guard) (cc : CC) (gd : Fin 8) (a b : VSrc) (s : State) : Out := runHalf (halfVcmp g cc gd a b) s
/-- VSEL (R170). -/
def halfVsel (g : Guard) (vd : VDst) (n : Fin 8) (a b : VSrc) : Half :=
  (vecInfo g [a, b] [vd], vselBody g vd n a b)
/-- The instruction of `halfVsel`. -/
def execVsel (g : Guard) (vd : VDst) (n : Fin 8) (a b : VSrc) (s : State) : Out := runHalf (halfVsel g vd n a b) s
/-- VRND (R172). -/
def halfVrnd (g : Guard) (vd : VDst) (a : VSrc) : Half :=
  (vecInfo g [a] [vd], helper1 g vd a fp32.rnd)
/-- The instruction of `halfVrnd`. -/
def execVrnd (g : Guard) (vd : VDst) (a : VSrc) (s : State) : Out := runHalf (halfVrnd g vd a) s
/-- VFEXP (R173). -/
def halfVfexp (g : Guard) (vd : VDst) (a : VSrc) : Half :=
  (vecInfo g [a] [vd], helper1 g vd a fexp32)
/-- The instruction of `halfVfexp`. -/
def execVfexp (g : Guard) (vd : VDst) (a : VSrc) (s : State) : Out := runHalf (halfVfexp g vd a) s
/-- VEXPI (R174). -/
def halfVexpi (g : Guard) (vd : VDst) (a b : VSrc) : Half :=
  (vecInfo g [a, b] [vd], expiBody g vd a b)
/-- The instruction of `halfVexpi`. -/
def execVexpi (g : Guard) (vd : VDst) (a b : VSrc) (s : State) : Out := runHalf (halfVexpi g vd a b) s
/-- VLOGB (R176). -/
def halfVlogb (g : Guard) (vd : VDst) (a : VSrc) : Half :=
  (vecInfo g [a] [vd], helper1 g vd a logb32)
/-- The instruction of `halfVlogb`. -/
def execVlogb (g : Guard) (vd : VDst) (a : VSrc) (s : State) : Out := runHalf (halfVlogb g vd a) s
/-- VRCP (R176). -/
def halfVrcp (g : Guard) (vd : VDst) (a : VSrc) : Half :=
  (vecInfo g [a] [vd], helper1 g vd a rcp32)
/-- The instruction of `halfVrcp`. -/
def execVrcp (g : Guard) (vd : VDst) (a : VSrc) (s : State) : Out := runHalf (halfVrcp g vd a) s
/-- VRSQ (R176). -/
def halfVrsq (g : Guard) (vd : VDst) (a : VSrc) : Half :=
  (vecInfo g [a] [vd], helper1 g vd a rsq32)
/-- The instruction of `halfVrsq`. -/
def execVrsq (g : Guard) (vd : VDst) (a : VSrc) (s : State) : Out := runHalf (halfVrsq g vd a) s
/-- VCVT (R178). -/
def halfVcvt (g : Guard) (u m : Bool) (t : Tag) (vd : VDst) (a : VSrc) : Half :=
  (vecInfo g [a] [vd], cvtBody g u m t vd a)
/-- The instruction of `halfVcvt`. -/
def execVcvt (g : Guard) (u m : Bool) (t : Tag) (vd : VDst) (a : VSrc) (s : State) : Out := runHalf (halfVcvt g u m t vd a) s
/-- VPACK (R179). -/
def halfVpack (g : Guard) (u m : Bool) (t : Tag) (vd : VDst) (a b : VSrc) : Half :=
  (vecInfo g [a, b] [vd], packBody g u m t vd a b)
/-- The instruction of `halfVpack`. -/
def execVpack (g : Guard) (u m : Bool) (t : Tag) (vd : VDst) (a b : VSrc) (s : State) : Out := runHalf (halfVpack g u m t vd a b) s
/-- VUNPK (R180). -/
def halfVunpk (g : Guard) (u : Bool) (t : Tag) (h : Bool) (vd : VDst) (a : VSrc) : Half :=
  (vecInfo g [a] [vd], unpkBody g u t h vd a)
/-- The instruction of `halfVunpk`. -/
def execVunpk (g : Guard) (u : Bool) (t : Tag) (h : Bool) (vd : VDst) (a : VSrc) (s : State) : Out := runHalf (halfVunpk g u t h vd a) s
/-- VIADD (R182). -/
def halfViadd (g : Guard) (mode : SatMode) (vd : VDst) (a b : VSrc) : Half :=
  (vecInfo g [a, b] [vd], int2 g vd a b .int32 (fun w => satMode mode w (fun x y => x + y)))
/-- The instruction of `halfViadd`. -/
def execViadd (g : Guard) (mode : SatMode) (vd : VDst) (a b : VSrc) (s : State) : Out := runHalf (halfViadd g mode vd a b) s
/-- VISUB (R182). -/
def halfVisub (g : Guard) (mode : SatMode) (vd : VDst) (a b : VSrc) : Half :=
  (vecInfo g [a, b] [vd], int2 g vd a b .int32 (fun w => satMode mode w (fun x y => x - y)))
/-- The instruction of `halfVisub`. -/
def execVisub (g : Guard) (mode : SatMode) (vd : VDst) (a b : VSrc) (s : State) : Out := runHalf (halfVisub g mode vd a b) s
/-- VIMUL (R182). -/
def halfVimul (g : Guard) (vd : VDst) (a b : VSrc) : Half :=
  (vecInfo g [a, b] [vd], int2 g vd a b .int32 (fun w x y => x * y % 2 ^ w))
/-- The instruction of `halfVimul`. -/
def execVimul (g : Guard) (vd : VDst) (a b : VSrc) (s : State) : Out := runHalf (halfVimul g vd a b) s
/-- VIMAD (R182). -/
def halfVimad (g : Guard) (vd : VDst) (a b c : VSrc) : Half :=
  (vecInfo g [a, b, c] [vd], imadBody g vd a b c)
/-- The instruction of `halfVimad`. -/
def execVimad (g : Guard) (vd : VDst) (a b c : VSrc) (s : State) : Out := runHalf (halfVimad g vd a b c) s
/-- VAND (R182). -/
def halfVand (g : Guard) (vd : VDst) (a b : VSrc) : Half :=
  (vecInfo g [a, b] [vd], int2 g vd a b .raw (fun _ x y => x &&& y))
/-- The instruction of `halfVand`. -/
def execVand (g : Guard) (vd : VDst) (a b : VSrc) (s : State) : Out := runHalf (halfVand g vd a b) s
/-- VOR (R182). -/
def halfVor (g : Guard) (vd : VDst) (a b : VSrc) : Half :=
  (vecInfo g [a, b] [vd], int2 g vd a b .raw (fun _ x y => x ||| y))
/-- The instruction of `halfVor`. -/
def execVor (g : Guard) (vd : VDst) (a b : VSrc) (s : State) : Out := runHalf (halfVor g vd a b) s
/-- VXOR (R182). -/
def halfVxor (g : Guard) (vd : VDst) (a b : VSrc) : Half :=
  (vecInfo g [a, b] [vd], int2 g vd a b .raw (fun _ x y => x ^^^ y))
/-- The instruction of `halfVxor`. -/
def execVxor (g : Guard) (vd : VDst) (a b : VSrc) (s : State) : Out := runHalf (halfVxor g vd a b) s
/-- VSHL (R182). -/
def halfVshl (g : Guard) (vd : VDst) (a b : VSrc) : Half :=
  (vecInfo g [a, b] [vd], int2 g vd a b .int32 (fun w x y => x * 2 ^ (y % w) % 2 ^ w))
/-- The instruction of `halfVshl`. -/
def execVshl (g : Guard) (vd : VDst) (a b : VSrc) (s : State) : Out := runHalf (halfVshl g vd a b) s
/-- VSHR (R182). -/
def halfVshr (g : Guard) (vd : VDst) (a b : VSrc) : Half :=
  (vecInfo g [a, b] [vd], int2 g vd a b .int32 (fun w x y => x / 2 ^ (y % w)))
/-- The instruction of `halfVshr`. -/
def execVshr (g : Guard) (vd : VDst) (a b : VSrc) (s : State) : Out := runHalf (halfVshr g vd a b) s
/-- VSAR (R182). -/
def halfVsar (g : Guard) (vd : VDst) (a b : VSrc) : Half :=
  (vecInfo g [a, b] [vd], int2 g vd a b .int32 sarElem)
/-- The instruction of `halfVsar`. -/
def execVsar (g : Guard) (vd : VDst) (a b : VSrc) (s : State) : Out := runHalf (halfVsar g vd a b) s
/-- VDOT4 (R182). -/
def halfVdot4 (g : Guard) (vd : VDst) (a b c : VSrc) : Half :=
  (vecInfo g [a, b, c] [vd], dot4Body g vd a b c)
/-- The instruction of `halfVdot4`. -/
def execVdot4 (g : Guard) (vd : VDst) (a b c : VSrc) (s : State) : Out := runHalf (halfVdot4 g vd a b c) s
/-- VBCAST (R184). -/
def halfVbcast (g : Guard) (vd : VDst) (a : SSrc) (t : Tag) (imm : Imm) : Half :=
  (infoOf g (formLen imm.form) allOn [a] [] [] [vd], bcastBody g vd a t imm.val)
/-- The instruction of `halfVbcast`. -/
def execVbcast (g : Guard) (vd : VDst) (a : SSrc) (t : Tag) (imm : Imm) (s : State) : Out := runHalf (halfVbcast g vd a t imm) s
/-- VPERM (R185). -/
def halfVperm (g : Guard) (vd : VDst) (a b : VSrc) : Half :=
  (vecInfo g [a, b] [vd], permBody g vd a b)
/-- The instruction of `halfVperm`. -/
def execVperm (g : Guard) (vd : VDst) (a b : VSrc) (s : State) : Out := runHalf (halfVperm g vd a b) s
/-- VROT (R185). -/
def halfVrot (g : Guard) (vd : VDst) (a : VSrc) (k : Fin 32) : Half :=
  (vecInfo g [a] [vd], rotBody g vd a k)
/-- The instruction of `halfVrot`. -/
def execVrot (g : Guard) (vd : VDst) (a : VSrc) (k : Fin 32) (s : State) : Out := runHalf (halfVrot g vd a k) s
/-- VMOVS (R186). -/
def halfVmovs (g : Guard) (sx : Bool) (rd : SDst) (a : VSrc) (k : Fin 32) : Half :=
  (infoOf g 8 (BitVec.ofNat 32 (2 ^ k.val)) [] [a] [rd] [], movsBody sx rd a k)
/-- The instruction of `halfVmovs`. -/
def execVmovs (g : Guard) (sx : Bool) (rd : SDst) (a : VSrc) (k : Fin 32) (s : State) : Out := runHalf (halfVmovs g sx rd a k) s
/-- VINS (R186). -/
def halfVins (g : Guard) (vd : VDst) (a : SSrc) (k : Fin 32) (t : Tag) : Half :=
  (infoOf g 8 (BitVec.ofNat 32 (2 ^ k.val)) [a] [] [] [vd], insBody vd a k t)
/-- The instruction of `halfVins`. -/
def execVins (g : Guard) (vd : VDst) (a : SSrc) (k : Fin 32) (t : Tag) (s : State) : Out := runHalf (halfVins g vd a k t) s
/-- VREDA (R187). -/
def halfVreda (g : Guard) (vd : VDst) (a : VSrc) : Half :=
  (vecInfo g [a] [vd], redaBody g vd a)
/-- The instruction of `halfVreda`. -/
def execVreda (g : Guard) (vd : VDst) (a : VSrc) (s : State) : Out := runHalf (halfVreda g vd a) s
/-- VREDM (R187). -/
def halfVredm (g : Guard) (vd : VDst) (a : VSrc) : Half :=
  (vecInfo g [a] [vd], redmBody g vd a)
/-- The instruction of `halfVredm`. -/
def execVredm (g : Guard) (vd : VDst) (a : VSrc) (s : State) : Out := runHalf (halfVredm g vd a) s
/-- VSCAN (R187). -/
def halfVscan (g : Guard) (vd : VDst) (a : VSrc) : Half :=
  (vecInfo g [a] [vd], scanBody g vd a)
/-- The instruction of `halfVscan`. -/
def execVscan (g : Guard) (vd : VDst) (a : VSrc) (s : State) : Out := runHalf (halfVscan g vd a) s

end Sys2Proof.Machine
end

