-- ==== Sys2Proof/Machine/Mem.lean ====
section
/-! DEFINITION. Major 0x10: scalar, vector, gather, scatter and lane-slice accesses, and PREF (R224 to R229). -/

namespace Sys2Proof.Machine

/-! Scalar accesses. -/

/-- The address of a class I access (R225). -/
def addrOf (xb : SSrc) (disp : Word) : M Word := do pure ((← readS xb) + disp)

/-- A scalar load of `n` bytes (R225). -/
def loadBody (rd : SDst) (xb : SSrc) (disp : Word) (n : Nat) (sx : Bool) : M Eff := do
  let a ← addrOf xb disp
  watchCheck 1 ((List.range n).map (fun i => a.toNat + i))
  omCheck
  let ls ← locM { r := true } allSpaces a.toNat n n
  farCheck [(a.toNat, ls)]
  let u := (← get).unitOf ls
  pure { load := some ([u], .scalar rd n sx, .s rd 0) }

/-- A scalar store of the low `n` bytes (R225). -/
def storeBody (rs xb : SSrc) (disp : Word) (n : Nat) : M Eff := do
  let a ← addrOf xb disp
  let v ← readS rs
  pure { puts := ← storeAt a (bytesOf n v) n }

/-- The issue of a scalar load. -/
def loadInfo (g : Guard) (rd : SDst) (xb : SSrc) (imm : Imm) : Info := infoOf g (formLen imm.form) 1 [xb] [] [rd] []
/-- The issue of a scalar store. -/
def storeInfo (g : Guard) (rs xb : SSrc) (imm : Imm) : Info :=
  { infoOf g (formLen imm.form) 1 [xb, rs] [] [] [] with store := true }

/-- Runs an instruction that may send a load (R222). -/
def runEff (i : Info) (body : M Eff) (s : State) : Out := run i (body >>= finishEff i.len) s

/-- Runs a half that may send a load as an instruction of its own. -/
def runEffHalf (h : Info × M Eff) (s : State) : Out := runEff h.1 h.2 s

/-- LD (R225). -/
def halfLd (g : Guard) (rd : SDst) (xb : SSrc) (imm : Imm) : Info × M Eff :=
  (loadInfo g rd xb imm, loadBody rd xb imm.val 8 false)
/-- The instruction of `halfLd`. -/
def execLd (g : Guard) (rd : SDst) (xb : SSrc) (imm : Imm) (s : State) : Out := runEffHalf (halfLd g rd xb imm) s
/-- LD.w (R225). -/
def halfLdW (g : Guard) (rd : SDst) (xb : SSrc) (imm : Imm) : Info × M Eff :=
  (loadInfo g rd xb imm, loadBody rd xb imm.val 4 true)
/-- The instruction of `halfLdW`. -/
def execLdW (g : Guard) (rd : SDst) (xb : SSrc) (imm : Imm) (s : State) : Out := runEffHalf (halfLdW g rd xb imm) s
/-- LD.wu (R225). -/
def halfLdWu (g : Guard) (rd : SDst) (xb : SSrc) (imm : Imm) : Info × M Eff :=
  (loadInfo g rd xb imm, loadBody rd xb imm.val 4 false)
/-- The instruction of `halfLdWu`. -/
def execLdWu (g : Guard) (rd : SDst) (xb : SSrc) (imm : Imm) (s : State) : Out := runEffHalf (halfLdWu g rd xb imm) s
/-- LD.h (R225). -/
def halfLdH (g : Guard) (rd : SDst) (xb : SSrc) (imm : Imm) : Info × M Eff :=
  (loadInfo g rd xb imm, loadBody rd xb imm.val 2 true)
/-- The instruction of `halfLdH`. -/
def execLdH (g : Guard) (rd : SDst) (xb : SSrc) (imm : Imm) (s : State) : Out := runEffHalf (halfLdH g rd xb imm) s
/-- LD.hu (R225). -/
def halfLdHu (g : Guard) (rd : SDst) (xb : SSrc) (imm : Imm) : Info × M Eff :=
  (loadInfo g rd xb imm, loadBody rd xb imm.val 2 false)
/-- The instruction of `halfLdHu`. -/
def execLdHu (g : Guard) (rd : SDst) (xb : SSrc) (imm : Imm) (s : State) : Out := runEffHalf (halfLdHu g rd xb imm) s
/-- LD.b (R225). -/
def halfLdB (g : Guard) (rd : SDst) (xb : SSrc) (imm : Imm) : Info × M Eff :=
  (loadInfo g rd xb imm, loadBody rd xb imm.val 1 true)
/-- The instruction of `halfLdB`. -/
def execLdB (g : Guard) (rd : SDst) (xb : SSrc) (imm : Imm) (s : State) : Out := runEffHalf (halfLdB g rd xb imm) s
/-- LD.bu (R225). -/
def halfLdBu (g : Guard) (rd : SDst) (xb : SSrc) (imm : Imm) : Info × M Eff :=
  (loadInfo g rd xb imm, loadBody rd xb imm.val 1 false)
/-- The instruction of `halfLdBu`. -/
def execLdBu (g : Guard) (rd : SDst) (xb : SSrc) (imm : Imm) (s : State) : Out := runEffHalf (halfLdBu g rd xb imm) s
/-- ST (R225). -/
def halfSt (g : Guard) (rs xb : SSrc) (imm : Imm) : Info × M Eff :=
  (storeInfo g rs xb imm, storeBody rs xb imm.val 8)
/-- The instruction of `halfSt`. -/
def execSt (g : Guard) (rs xb : SSrc) (imm : Imm) (s : State) : Out := runEffHalf (halfSt g rs xb imm) s
/-- ST.w (R225). -/
def halfStW (g : Guard) (rs xb : SSrc) (imm : Imm) : Info × M Eff :=
  (storeInfo g rs xb imm, storeBody rs xb imm.val 4)
/-- The instruction of `halfStW`. -/
def execStW (g : Guard) (rs xb : SSrc) (imm : Imm) (s : State) : Out := runEffHalf (halfStW g rs xb imm) s
/-- ST.h (R225). -/
def halfStH (g : Guard) (rs xb : SSrc) (imm : Imm) : Info × M Eff :=
  (storeInfo g rs xb imm, storeBody rs xb imm.val 2)
/-- The instruction of `halfStH`. -/
def execStH (g : Guard) (rs xb : SSrc) (imm : Imm) (s : State) : Out := runEffHalf (halfStH g rs xb imm) s
/-- ST.b (R225). -/
def halfStB (g : Guard) (rs xb : SSrc) (imm : Imm) : Info × M Eff :=
  (storeInfo g rs xb imm, storeBody rs xb imm.val 1)
/-- The instruction of `halfStB`. -/
def execStB (g : Guard) (rs xb : SSrc) (imm : Imm) (s : State) : Out := runEffHalf (halfStB g rs xb imm) s

/-! Lane by lane. -/

/-- The guarded-on lanes in increasing order. -/
def onLanes (mask : Lane) : List Nat := (List.range 32).filter (fun n => mask.getLsbD n)

/-- The mask of some lanes. -/
def maskUpTo (mask : Lane) (k : Nat) : Lane := mask &&& BitVec.ofNat 32 (2 ^ k - 1)

/-- The check of one lane's access of 4 bytes (R221, R227; log 75). -/
def laneLoc (need : Need) (a : Word) : M (List Nat) := do
  let ls ← locM need allSpaces a.toNat 4 4
  if need.w then checkWaiters a.toNat ls
  pure ls

/-- The locations of lanes in order, up to the first that faults (log 75). -/
def laneLocs (need : Need) (addr : Nat → Word) : List Nat → M (List (Nat × List Nat) × Option (Nat × Cause))
  | [] => pure ([], none)
  | n :: r => fun s =>
    match laneLoc need (addr n) s with
    | .error (.fault c) => .ok (([], some (n, c)), s)
    | .error e => .error e
    | .ok (ls, s1) =>
      match laneLocs need addr r s1 with
      | .error e => .error e
      | .ok ((u, f), s2) => .ok (((n, ls) :: u, f), s2)

/-- The bytes of the lanes that a watchpoint sees (R373). -/
def laneBytes (addr : Nat → Word) (lanes : List Nat) : List Nat :=
  lanes.flatMap (fun n => (List.range 4).map (fun i => (addr n).toNat + i))

/-- The units of a store: one for each lane (R244). -/
def laneCells (bits : BitVec 1024) (ls : List (Nat × List Nat)) : List (List Host.Cell) :=
  ls.map (fun l => l.2.zip (bytesOf 4 (getLane bits l.1)))

/-- A load of the guarded-on lanes: no effect when a lane faults (R226, R228). -/
def laneLoad (g : Guard) (vd : VDst) (addr : Nat → Word) : M Eff := do
  let m ← maskOf g
  watchCheck 1 (laneBytes addr (onLanes m))
  omCheck
  let (ls, f) ← laneLocs { r := true } addr (onLanes m)
  match f with
  | some (_, c) => raise c
  | none => do
    farCheck (ls.map (fun l => ((addr l.1).toNat, l.2)))
    let s ← get
    pure { load := some (ls.map (fun l => s.unitOf l.2), .lanes vd m, .v vd 0 0 .raw) }

/-- A store of the guarded-on lanes as one store-queue entry: no effect when a lane faults (R107, R226, R228). -/
def laneStore (g : Guard) (vs : VSrc) (addr : Nat → Word) : M Eff := do
  let m ← maskOf g
  let v ← readV vs
  watchCheck 2 (laneBytes addr (onLanes m))
  let (ls, f) ← laneLocs { w := true } addr (onLanes m)
  match f with
  | some (_, c) => raise c
  | none => do
    storeRoom 1
    let s ← get
    pure { puts := [.mem (laneCells v.bits ls) true (s.kvExt (ls.map (fun l => (addr l.1).toNat)) 4)] }

/-- The address of lane n of LDV and STV (R226). -/
def rowAddr (a : Word) (n : Nat) : Word := a + BitVec.ofNat 64 (4 * n)

/-- LDV (R226). -/
def execLdv (g : Guard) (vd : VDst) (xb : SSrc) (imm : Imm) (s : State) : Out :=
  runEff (infoOf g (formLen imm.form) allOn [xb] [] [] [vd]) (do
    let a ← addrOf xb imm.val
    laneLoad g vd (rowAddr a)) s
/-- STV (R226). -/
def execStv (g : Guard) (vs : VSrc) (xb : SSrc) (imm : Imm) (s : State) : Out :=
  runEff { infoOf g (formLen imm.form) allOn [xb] [vs] [] [] with store := true } (do
    let a ← addrOf xb imm.val
    laneStore g vs (rowAddr a)) s

/-- The lane addresses of LDL and STL (R228). -/
def sliceAddr (xo : SSrc) (off : BitVec 11) : M (Nat → Word) := do
  let o := (← readS xo) + off.setWidth 64
  let base : Word := 0x9000_0000_0000_0000 ||| o
  ensure (o.toNat + 4 ≤ 2048) .space base
  ensure (o.toNat % 4 == 0) .align base
  pure (fun n => base ||| BitVec.ofNat 64 (n * 2 ^ 16))

/-- A fault of LDL and STL names its access kind (R389). -/
def withAcc {α : Type} (acc : Acc) (m : M α) : M α := fun s =>
  match m s with
  | .error (.fault c) =>
    .error (.fault (if c.code = .space ∨ c.code = .align then { c with acc } else c))
  | r => r

/-- LDL (R228). -/
def execLdl (g : Guard) (vd : VDst) (xo : SSrc) (off : BitVec 11) (s : State) : Out :=
  runEff (infoOf g 8 allOn [xo] [] [] [vd]) (do
    let a ← withAcc .read (sliceAddr xo off)
    laneLoad g vd a) s
/-- STL (R228). -/
def execStl (g : Guard) (vs : VSrc) (xo : SSrc) (off : BitVec 11) (s : State) : Out :=
  runEff { infoOf g 8 allOn [xo] [vs] [] [] with store := true } (do
    let a ← withAcc .write (sliceAddr xo off)
    laneStore g vs a) s

/-! Gather and scatter. -/

/-- The addresses of a gather's or scatter's lanes; the index must carry INT32 or RAW (R227). -/
def gatherAddrs (xb : Word) (vi : VReg) : M (Nat → Word) := do
  if vi.tag != .int32 && vi.tag != .raw then fmtFault vi.tag 2
  else pure (fun n => xb + (getLane vi.bits n).signExtend 64)

/-- The fault of lane k, with the mask of the completed lanes in TVAL (R227; log 75). -/
def laneCause (c : Cause) (done_ : Lane) (k : Nat) : Cause :=
  { c with tval := BitVec.ofNat 64 (done_.toNat + k * 2 ^ 32) }

/-- An instruction that has made part of its effect takes a fault (R227): its queue entries stay. -/
def faultAfter (s0 : State) (ps : List Put) (c : Cause) : M Unit := fun s =>
  let s := (s.puts ps).modMyCore (fun y => { y with hwq := s0.myCore.hwq })
  .error (.done { (s.takeFault s.cc s.ck c) with acct := .iss })

/-- LDG (R227). -/
def execLdg (g : Guard) (vd : VDst) (xb : SSrc) (vi : VSrc) (s : State) : Out :=
  runEff (infoOf g 8 allOn [xb] [vi] [] [vd]) (do
    let s0 ← get
    let m ← maskOf g
    let a ← readS xb
    let addr ← gatherAddrs a (← readV vi)
    watchCheck 1 (laneBytes addr (onLanes m))
    omCheck
    let (ls, f) ← laneLocs { r := true } addr (onLanes m)
    farCheck (ls.map (fun l => ((addr l.1).toNat, l.2)))
    let s ← get
    let units := ls.map (fun l => s.unitOf l.2)
    match f with
    | none => pure { load := some (units, .lanes vd m, .v vd 0 0 .raw) }
    | some (k, c) => do
      let fin : LoadFin := .gather vd (maskUpTo m k) (laneCause c (maskUpTo m k) k)
      if units.isEmpty then
        checkV vd
        faultAfter s0 [.v vd 0 0 .raw] (laneCause c 0 k)
      pure { load := some (units, fin, .v vd 0 0 .raw) }) s

/-- STS (R227). -/
def execSts (g : Guard) (vs : VSrc) (xb : SSrc) (vi : VSrc) (s : State) : Out :=
  runEff (infoOf g 8 allOn [xb] [vi, vs] [] []) (do
    let s0 ← get
    let m ← maskOf g
    let a ← readS xb
    let i ← readV vi
    let v ← readV vs
    let addr ← gatherAddrs a i
    watchCheck 2 (laneBytes addr (onLanes m))
    let (ls, f) ← laneLocs { w := true } addr (onLanes m)
    storeRoom ls.length
    let s ← get
    let last := if f.isNone then (onLanes m).getLastD 0 else 32
    let ps : List Put := ls.map (fun l =>
      .mem [l.2.zip (bytesOf 4 (getLane v.bits l.1))] (l.1 == last) (s.kvExt [(addr l.1).toNat] 4))
    match f with
    | none => pure { puts := ps }
    | some (k, c) => do
      faultAfter s0 ps (laneCause c (maskUpTo m k) k)
      pure {}) s

/-! Prefetch. -/

/-- PREF (R229; log 72): it may do nothing, and no fault or wait of its address shows. -/
def execPref (g : Guard) (xb : SSrc) (imm : Imm) (s : State) : Out :=
  runPuts (infoOf g (formLen imm.form) 1 [xb] [] [] []) (fun s =>
    match readS xb s with
    | .ok (_, s1) => .ok ([], s1)
    | .error _ => .ok ([], s)) s

end Sys2Proof.Machine
end

