-- ==== Sys2Proof/Machine/FullEmpty.lean ====
section
/-! DEFINITION. Full/empty words, futures and atomics: majors 0x11 and 0x12, and their indivisible moves (R219, R221, R222,
R230 to R234, R252). -/

namespace Sys2Proof.Machine

/-! Requests. -/

/-- What an operation of major 0x11 needs of its word (R230, R231). -/
def FeOp.need : FeOp → Need
  | .ldf | .futr => { r := true }
  | .lde => { r := true, w := true }
  | _ => { w := true }
/-- The accesses a watchpoint sees: 1 loads, 2 stores, 3 both (R373). -/
def Need.kinds (n : Need) : Nat := (if n.r then 1 else 0) + (if n.w then 2 else 0)

/-- An operation of major 0x11 is checked and sent (R222, R230). -/
def feBody (op : FeOp) (rd : SDst) (xb : SSrc) (disp : Word) (rs : SSrc) (len : Nat) : M Unit := do
  let a ← addrOf xb disp
  let b ← readS rs
  watchCheck op.need.kinds ((List.range 8).map (fun i => a.toNat + i))
  let ls ← locM op.need feSpaces a.toNat 8 8
  sendRequest (.fe op (ls.headD 0) a b rd) .wmem len [.s rd 0]

/-- Runs an operation of major 0x11. -/
def runFe (g : Guard) (op : FeOp) (rd : SDst) (xb : SSrc) (imm : Imm) (rs : SSrc) (s : State) : Out :=
  run { infoOf g (formLen imm.form) 1 [xb, rs] [] [rd] [] with side := true }
    (feBody op rd xb imm.val rs (formLen imm.form)) s

/-- LDE (R231). -/
def execLde (g : Guard) (rd : SDst) (xb : SSrc) (imm : Imm) (s : State) : Out := runFe g .lde rd xb imm .zero s
/-- STF (R231). -/
def execStf (g : Guard) (rs xb : SSrc) (imm : Imm) (s : State) : Out := runFe g .stf .zero xb imm rs s
/-- LDF (R231). -/
def execLdf (g : Guard) (rd : SDst) (xb : SSrc) (imm : Imm) (s : State) : Out := runFe g .ldf rd xb imm .zero s
/-- FEMPTY (R231). -/
def execFempty (g : Guard) (xb : SSrc) (imm : Imm) (s : State) : Out := runFe g .fempty .zero xb imm .zero s
/-- FUTR (R231). -/
def execFutr (g : Guard) (rd : SDst) (xb : SSrc) (imm : Imm) (s : State) : Out := runFe g .futr rd xb imm .zero s
/-- FUTW (R231). -/
def execFutw (g : Guard) (rd : SDst) (rs xb : SSrc) (imm : Imm) (s : State) : Out := runFe g .futw rd xb imm rs s

/-- An atomic is checked and sent (R222, R234). -/
def atomBody (op : AtomOp) (w : Bool) (rd : SDst) (xb rs rc : SSrc) : M Unit := do
  let a ← readS xb
  let b ← readS rs
  let c ← readS rc
  let n := if w then 4 else 8
  watchCheck 3 ((List.range n).map (fun i => a.toNat + i))
  let ls ← locM { r := true, w := true } [0x0, 0x8, 0x9, 0xA, 0xB] a.toNat n n
  sendRequest (.atom op w (ls.headD 0) a.toNat b c rd) .wmem 8 [.s rd 0]

/-- Runs an atomic. -/
def runAtom (g : Guard) (op : AtomOp) (w : Bool) (rd : SDst) (xb rs rc : SSrc) (s : State) : Out :=
  run { infoOf g 8 1 [xb, rs, rc] [] [rd] [] with side := true } (atomBody op w rd xb rs rc) s

/-- AADD (R234). -/
def execAadd (g : Guard) (w : Bool) (rd : SDst) (xb rs : SSrc) (s : State) : Out := runAtom g .add w rd xb rs .zero s
/-- AMIN (R234). -/
def execAmin (g : Guard) (w : Bool) (rd : SDst) (xb rs : SSrc) (s : State) : Out := runAtom g .min w rd xb rs .zero s
/-- AMAX (R234). -/
def execAmax (g : Guard) (w : Bool) (rd : SDst) (xb rs : SSrc) (s : State) : Out := runAtom g .max w rd xb rs .zero s
/-- AXCH (R234). -/
def execAxch (g : Guard) (w : Bool) (rd : SDst) (xb rs : SSrc) (s : State) : Out := runAtom g .xch w rd xb rs .zero s
/-- ACAS (R234). -/
def execAcas (g : Guard) (w : Bool) (rd : SDst) (xb rs rc : SSrc) (s : State) : Out := runAtom g .cas w rd xb rs rc s
/-- AAND (R234). -/
def execAand (g : Guard) (w : Bool) (rd : SDst) (xb rs : SSrc) (s : State) : Out := runAtom g .and w rd xb rs .zero s
/-- AOR (R234). -/
def execAor (g : Guard) (w : Bool) (rd : SDst) (xb rs : SSrc) (s : State) : Out := runAtom g .or w rd xb rs .zero s

/-! The moves. -/

/-- The word an atomic writes over `old`; none where it writes nothing (R234). -/
def AtomOp.new {n : Nat} (op : AtomOp) (old b c : BitVec n) : Option (BitVec n) :=
  match op with
  | .add => some (old + b)
  | .min => some (if b.slt old then b else old)
  | .max => some (if old.slt b then b else old)
  | .xch => some b
  | .and => some (old &&& b)
  | .or => some (old ||| b)
  | .cas => if old = c then some b else none

/-- The result and the written number of an atomic of a width (R234). -/
def AtomOp.apply (op : AtomOp) (w : Bool) (old : Nat) (b c : Word) : Word × Option Nat :=
  if w then
    let o : Lane := BitVec.ofNat 32 old
    (o.signExtend 64, (op.new o (b.setWidth 32) (c.setWidth 32)).map BitVec.toNat)
  else
    let o : Word := BitVec.ofNat 64 old
    (o, (op.new o b c).map BitVec.toNat)

/-- One move on a word (R252): it is read at its newest write, and written when `f` answers a number of `n` bytes. -/
def MemSys.move (m : MemSys) (a : Agent) (loc n : Nat) (f : Nat → Option Nat) : Nat × MemSys :=
  let ls := locsFrom loc n
  let (bs, m1) := m.atomRead a ls
  match f (leVal bs) with
  | none => (leVal bs, m1)
  | some v => (leVal bs, m1.atomWrite a (ls.zip (leCut n v)))

/-- The bits of a word that name the head of its list (R233). -/
def headWord : Option (Nat × Nat) → Nat
  | none => 0
  | some (c, i) => 2 ^ 32 + c % 8192 * 2 ^ 8 + i % 256
/-- The head record of an empty word (R233). -/
def headOf (w : Nat) : Option (Nat × Nat) :=
  if w.testBit 32 then some (w / 2 ^ 8 % 2 ^ 13, w % 2 ^ 8) else none

/-- A waiter record. -/
def State.wrec (s : State) (r : Nat × Nat) : Option WRec := tget (s.core r.1).pool r.2

/-- The lowest free index of a core's waiter pool (R231). -/
def State.freeRec (s : State) (c : Nat) : Option Nat :=
  (List.range 256).find? (fun i => (tget (s.core c).pool i).isNone)

/-- The last record of a list. -/
def State.tailRec (s : State) (r : Nat × Nat) : Nat → Nat × Nat
  | 0 => r
  | n + 1 =>
    match (s.wrec r).bind WRec.link with
    | some q => s.tailRec q n
    | none => r

/-- The number of waiter records in use. -/
def State.recCount (s : State) : Nat := s.cores.foldl (fun n c => n + c.2.pool.length) 0

/-- Links a record of a core at the tail of an empty word's list (R231, R233). -/
def State.linkRec (s : State) (a : Agent) (loc c i : Nat) (r : WRec) : State :=
  let s := s.modCore c (fun k => { k with pool := tset k.pool i r })
  match headOf (s.mem.wordNow loc) with
  | none => s.modMem (fun m => (m.move a loc 8 (fun _ => some (headWord (some (c, i))))).2)
  | some h =>
    let q := s.tailRec h s.recCount
    match s.wrec q with
    | none => s
    | some e => s.modCore q.1 (fun k => { k with pool := tset k.pool q.2 { e with link := some (c, i) } })

/-- A status word of a tensor (R355). -/
def Tensor.stat (sel : Nat) (e : Tensor) : Word :=
  match sel with
  | 0 => BitVec.ofNat 64 (e.sn.toNat + (if e.run then 2 ^ 32 else 0) + if e.cont then 2 ^ 33 else 0)
  | 1 => BitVec.ofNat 64 (e.pos.getD (2 ^ 64 - 1))
  | 2 => BitVec.ofNat 64 e.pend
  | _ => BitVec.ofNat 64 (e.loss.toNat + e.ovr.toNat * 2 ^ 32)

/-- The address of the buoy of an element (R342). -/
def Tensor.buoyAt (e : Tensor) (i : Nat) : Nat := (e.base.toNat + i * e.stride + e.boff) % 2 ^ 64

/-- The spaces that a sweep accesses (R350, R351). -/
def sweepSpaces : List Nat := [0x0, 0xA, 0xB, 0xC]

/-- The buffered writes of an agent that meet some locations drain, with those that must go before them (M2, R252) (log 98). -/
def MemSys.drainFor (m : MemSys) (a : Agent) (g : Nat) (ls : List Nat) : Nat → MemSys
  | 0 => m
  | n + 1 =>
    match m.bufs.findIdx? (fun w => w.agent == a && w.cells.any (fun c => ls.contains c.1)) with
    | none => m
    | some i =>
      if m.drainable i then (m.drain i g).drainFor a g ls n
      else m.drainFor a g (ls ++ (((m.bufs[i]?).map (fun w => w.cells.map Prod.fst)).getD [])) n

/-- Where the byte of W0 that holds the flags of a wake lies, when it can be written (R221, R342). -/
def State.flagLoc (s : State) (cl j : Nat) (e : Tensor) : Option Nat :=
  match s.locate (s.viaCluster cl e.home e.part) { r := true, w := true } sweepSpaces (e.buoyAt j + 2) 1 1 with
  | .at [l] => if (s.mem.badAt [l]).isSome || s.mem.waited (l / 8 * 8) then none else some l
  | _ => none

/-- The flags of a wake are set in W0 of the element's buoy, in one indivisible move; those that come during its visit wait for the
visit's end, and those that cannot be written for its next visit (R342, R346; log 99). -/
def State.flagBuoy (s : State) (cl t j : Nat) (e : Tensor) (flag : BitVec 12) : State :=
  if flag = 0 then s
  else
    match (if (tget e.flags j).isSome then none else s.flagLoc cl j e) with
    | none => s.modCluster cl (fun k => { k with
        tensors := tset k.tensors t { e with flags := tset e.flags j (tgetD e.flags j 0 ||| flag) } })
    | some l =>
      let ag : Agent := .sweep cl t e.sn.toNat
      (s.used (s.viaCluster cl e.home e.part) 16 (e.buoyAt j + 2) [l]).modMem (fun m =>
        ((m.drainFor ag cl [l] (2 * m.bufs.length + 1)).move ag l 1 (fun b => some (b ||| flag.toNat * 16 % 256))).2)

/-- Sets an element's awake bit, with a flag (R346). -/
def State.setAwake (s : State) (cl t j : Nat) (flag : BitVec 12) : State :=
  match tget (s.cluster cl).tensors t with
  | none => s
  | some e =>
    let e := { e with awake := if e.awake.contains j then e.awake else e.awake ++ [j] }
    (s.modCluster cl (fun k => { k with tensors := tset k.tensors t e })).flagBuoy cl t j e flag

/-- The place of an outside wake as the log holds it: POS, or all ones, and the sweep with the element (R347, R382; log 40). -/
def Tensor.place (e : Tensor) (j : Nat) : Word × Word :=
  (match e.pos with
   | some p => BitVec.ofNat 64 p
   | none => BitVec.allOnes 64, BitVec.ofNat 64 (e.sn.toNat + j % 2 ^ 24 * 2 ^ 32 + (if e.run then 2 ^ 63 else 0)))

/-- The key of a tensor in the log (R382; log 40). -/
def tensorKey (cl t : Nat) : Word := BitVec.ofNat 64 (cl * 32 + t)

/-- The place and element of the next logged wake of a tensor (R383). -/
def State.nextWake (s : State) (part cl t : Nat) : Option (Word × Word) :=
  if (s.part part).replay.mode != .replay then none
  else (s.logNext part 6 (tensorKey cl t)).map (fun l =>
    (BitVec.ofNat 64 ((l.headD []).getD 2 0), BitVec.ofNat 64 ((l.headD []).getD 3 0)))

/-- Held-back wakes whose logged place is reached take effect, in their logged order (R347, R383). -/
def State.settleWakes (s : State) (cl t : Nat) : Nat → State
  | 0 => s
  | n + 1 =>
    match tget (s.cluster cl).tensors t with
    | none => s
    | some e =>
      match s.nextWake e.part cl t, e.late.find? (fun w => s.nextWake e.part cl t == some (e.place w.1)) with
      | some _, some w =>
        let s := s.modCluster cl (fun k => { k with tensors := tset k.tensors t { e with late := e.late.erase w } })
        ((s.setAwake cl t w.1 w.2).logged e.part 6 (tensorKey cl t) e.home 0).settleWakes cl t n
      | _, _ => s

/-- A wake of an element from outside its sweep (R346, R347, R382): recorded with the place it met, or made at its logged
place. -/
def State.wake (s : State) (cl t j : Nat) (flag : BitVec 12) : State :=
  match tget (s.cluster cl).tensors t with
  | none => s
  | some e =>
    if (s.part e.part).replay.mode = .replay then
      let s := s.modCluster cl (fun k => { k with tensors := tset k.tensors t { e with late := e.late ++ [(j, flag)] } })
      s.settleWakes cl t (e.late.length + 1)
    else
      (s.setAwake cl t j flag).logged e.part 6 (tensorKey cl t) e.home 0 (e.place j).1 (e.place j).2

/-- The flag that the fill of a word sets (R342, R346). -/
def flagFut : BitVec 12 := 4

/-- A record delivers a value (R232): to its waiting context, to itself when that context is pre-empted, to a buoy as a
wake, to nobody when its context was terminated. -/
def State.deliverRec (s : State) (c i : Nat) (r : WRec) (loc stamp : Nat) (v : Word) : State :=
  let free (s : State) : State := s.modCore c (fun k => { k with pool := tdel k.pool i })
  if r.dead then free s
  else
  match r.kind with
  | .buoy cl t j => (free s).wake cl t j flagFut
  | _ =>
    if (s.ctx c r.ctx).stopped then
      s.modCore c (fun k => { k with pool := tset k.pool i { r with delivered := true, val := v, link := none } })
    else
      let s := (free s).modMem (fun m =>
        (locsFrom loc 8).foldl (fun m l => m.raiseView (s.agentOf c r.ctx) l ⟨stamp, (m.newest l).byte⟩) m)
      s.modCtx c r.ctx (fun x => { x with pend := x.pend.map (fun p => { p with kind := .value [.s r.rd v] }) })

/-- The walk of a fill (R232): the records it delivers to, and the record after a consuming one. -/
def State.fillWalk (s : State) (r : Option (Nat × Nat)) : Nat → List (Nat × Nat × WRec) × Option (Option (Nat × Nat))
  | 0 => ([], none)
  | n + 1 =>
    match r.bind (fun k => (s.wrec k).map (fun w => (k, w))) with
    | none => ([], none)
    | some (k, w) =>
      if w.kind = .consume && !w.dead then ([(k.1, k.2, w)], some w.link)
      else
        let (l, e) := s.fillWalk w.link n
        ((k.1, k.2, w) :: l, e)

/-- An empty word is filled with a value by an agent, and its waiters are served in one move (R232, R252). -/
def State.fill (s : State) (a : Agent) (loc : Nat) (v : Word) : State :=
  let (l, rest) := s.fillWalk (headOf (s.mem.wordNow loc)) (s.recCount + 1)
  let new := match rest with
    | some h => headWord h
    | none => v.toNat
  let s := s.modMem (fun m => (m.move a loc 8 (fun _ => some new)).2)
  let s := if rest.isNone then s.modMem (fun m => { m with empty := m.empty.filter (· != loc) }) else s
  l.foldl (fun s r => s.deliverRec r.1 r.2.1 r.2.2 loc (s.mem.next - 1) v) s

/-- What an operation of major 0x11 answers at its move, and the state after it (R231). -/
def State.feMove (s : State) (c k : Nat) (op : FeOp) (loc : Nat) (addr b : Word) (rd : SDst) : PendKind × State :=
  let a := s.agentOf c k
  let write (s : State) (f : Nat → Option Nat) : Nat × State :=
    let (v, m) := s.mem.move a loc 8 f
    (v, { s with mem := m })
  let full := !s.mem.empty.contains loc
  let setEmpty (s : State) : State := s.modMem (fun m => { m with empty := m.empty ++ [loc] })
  let out (v : Word) : PendKind := .value [.s rd v]
  match op, full with
  | .ldf, f =>
    let (_, s) := write s (fun _ => none)
    (out (if f then 1 else 0), s)
  | .futr, true =>
    let (v, s) := write s (fun _ => none)
    (out (BitVec.ofNat 64 v), s)
  | .lde, true =>
    let (v, s) := write s (fun _ => some 0)
    (out (BitVec.ofNat 64 v), setEmpty s)
  | .stf, true => (out 0, ((write s (fun _ => some b.toNat)).2))
  | .futw, true => (out 0, (write s (fun _ => none)).2)
  | .fempty, true => (out 0, setEmpty (write s (fun _ => some 0)).2)
  | .fempty, false => (out 0, (write s (fun _ => none)).2)
  | .stf, false => (out 0, (s.fill a loc b).checksum c k addr b)
  | .futw, false => (out 1, (s.fill a loc b).checksum c k addr b)
  | .futr, false | .lde, false =>
    match s.freeRec c with
    | none => (.fault { code := .futpool, tval := addr }, s)
    | some i =>
      let r : WRec := { ctx := k, rd, kind := if op = .lde then .consume else .read, addr }
      (.future i rd, (write s (fun _ => none)).2.linkRec a loc c i r)

/-- What an atomic answers at its move, and the state after it (R221, R234; log 74). -/
def State.atomMove (s : State) (c k : Nat) (op : AtomOp) (w : Bool) (loc addr : Nat) (b d : Word) (rd : SDst) :
    PendKind × State :=
  if s.mem.waited (loc / 8 * 8) then
    (.fault { code := .prot, tval := BitVec.ofNat 64 addr, acc := .write, kind := 2 }, s)
  else
    let n := if w then 4 else 8
    let (old, m) := s.mem.move (s.agentOf c k) loc n (fun v => (op.apply w v b d).2)
    (.value [.s rd (op.apply w old b d).1], { s with mem := m })

/-- Changes what a context's request awaits (log 61). -/
def State.setPend (s : State) (c k : Nat) (kind : PendKind) : State :=
  s.modCtx c k (fun x => { x with pend := x.pend.map (fun p => { p with kind }) })

/-- The move of an operation on a word, once its agent's buffered writes of it have drained and replay grants its turn
(R252, R382, R383). -/
def State.wordMove (s : State) (c k loc n : Nat) (addr : Word) (move : State → PendKind × State) : State :=
  let p := (s.core c).partid
  let key := wordKey c addr
  if !s.runs c || !s.mem.clearOf (s.agentOf c k) (locsFrom loc n) then s
  else if !s.turn p 1 key c (s.vOf c k) then s.checkVacant p 1 key
  else
    let (kind, t) := move s
    (t.setPend c k kind).logged p 1 key c (s.vOf c k)

/-- ATOMIC_MOVE (R252). -/
def execAtomicMove (core ctx : Nat) (s : State) : Out :=
  match (s.ctx core ctx).pend.map Pend.kind with
  | some (.atom op w loc addr b c rd) =>
    .next (s.wordMove core ctx loc (if w then 4 else 8) (BitVec.ofNat 64 addr)
      (fun s => s.atomMove core ctx op w loc addr b c rd))
  | some (.fe op loc addr b rd) => .next (s.wordMove core ctx loc 8 addr (fun s => s.feMove core ctx op loc addr b rd))
  | _ => .next s

end Sys2Proof.Machine
end

