-- ==== Sys2Proof/Machine/Ordering.lean ====
section
/-! DEFINITION. Bindings, acquire, release and fence: major 0x13 and its moves (R245, R249 to R254), and the moves M2 and
M3 of R247. -/

namespace Sys2Proof.Machine

/-! Bindings. -/

/-- The physical intervals of a virtual range of a partition, leaf by leaf (R336; log 20). -/
def State.pageSegs (s : State) (part v n : Nat) : Nat → List (Nat × Nat)
  | 0 => []
  | fuel + 1 =>
    match s.walk part v with
    | .leaf l =>
      let m := min n (l.base + l.size - v)
      (locPA (l.pa + (v - l.base)), m) :: if n ≤ m then [] else s.pageSegs part (v + m) (n - m) fuel
    | .fault lv _ =>
      let m := pageSize lv.val - v % pageSize lv.val
      if n ≤ m then [] else s.pageSegs part (v + m) (n - m) fuel

/-- The physical intervals of a bound range (R336; log 20). -/
def State.rangeSegs (s : State) (part : Nat) (b : Binding) : List (Nat × Nat) :=
  let a := b.base.toNat
  match spaceOf a with
  | 0x0 => s.pageSegs part (a % 2 ^ 56) b.len (b.len / 2 ^ 19 + 2)
  | 0xA =>
    let k := s.core (targetCore a)
    [(locStore k.home (k.segb.toNat + a % 2 ^ 20), b.len)]
  | _ => [(locPad (bitsOf a 48 5) (a % 2 ^ 26), b.len)]

/-- A location lies in one of some intervals. -/
def inSegs (g : List (Nat × Nat)) (l : Nat) : Bool := g.any (fun r => r.1 ≤ l && l < r.1 + r.2)

/-- The locations bound to a sync word, as the table stands (R245; log 20). -/
def State.boundTo (s : State) (part : Nat) (y : Word) : Nat → Bool :=
  inSegs (((s.part part).binds.filter (fun b => b.2.sync == y)).flatMap (fun b => s.rangeSegs part b.2))

/-- The locations of the open binding (R245). -/
def State.openBinding (s : State) (part : Nat) : Nat → Bool :=
  let g := (s.part part).binds.flatMap (fun b => s.rangeSegs part b.2)
  fun l => !inSegs g l

/-! The instructions. -/

/-- ACQ at a scope (R254). -/
def acqBody (sc : Scope) (rd : SDst) (xs : SSrc) : M Unit := do
  let a ← readS xs
  watchCheck 1 ((List.range 8).map (fun i => a.toNat + i))
  let ls ← locM { r := true } syncSpaces a.toNat 8 8
  sendRequest (.acq sc a (ls.headD 0) rd) .wmem 8 [.s rd 0]
/-- REL at a scope (R254). -/
def relBody (sc : Scope) (xs rv : SSrc) : M Unit := do
  let a ← readS xs
  let v ← readS rv
  watchCheck 2 ((List.range 8).map (fun i => a.toNat + i))
  let ls ← locM { w := true } syncSpaces a.toNat 8 8
  checkWaiters a.toNat ls
  sendRequest (.rel sc a (ls.headD 0) v) .wmem 8 []

/-- Runs ACQ. -/
def runAcq (g : Guard) (sc : Scope) (rd : SDst) (xs : SSrc) (s : State) : Out :=
  run { infoOf g 8 1 [xs] [] [rd] [] with side := true } (acqBody sc rd xs) s
/-- Runs REL. -/
def runRel (g : Guard) (sc : Scope) (xs rv : SSrc) (s : State) : Out :=
  run { infoOf g 8 1 [xs, rv] [] [] [] with side := true } (relBody sc xs rv) s
/-- Runs FENCE. -/
def runFence (g : Guard) (sc : Scope) (s : State) : Out := run { g, side := true } (sendRequest (.fence sc) .wmem 8 []) s

/-- ACQ.group (R254). -/
def execAcqGroup (g : Guard) (rd : SDst) (xs : SSrc) (s : State) : Out := runAcq g .group rd xs s
/-- ACQ.device (R254). -/
def execAcqDevice (g : Guard) (rd : SDst) (xs : SSrc) (s : State) : Out := runAcq g .device rd xs s
/-- ACQ.system (R254). -/
def execAcqSystem (g : Guard) (rd : SDst) (xs : SSrc) (s : State) : Out := runAcq g .system rd xs s
/-- REL.group (R254). -/
def execRelGroup (g : Guard) (xs rv : SSrc) (s : State) : Out := runRel g .group xs rv s
/-- REL.device (R254). -/
def execRelDevice (g : Guard) (xs rv : SSrc) (s : State) : Out := runRel g .device xs rv s
/-- REL.system (R254). -/
def execRelSystem (g : Guard) (xs rv : SSrc) (s : State) : Out := runRel g .system xs rv s
/-- FENCE.group (R254). -/
def execFenceGroup (g : Guard) (s : State) : Out := runFence g .group s
/-- FENCE.device (R254). -/
def execFenceDevice (g : Guard) (s : State) : Out := runFence g .device s
/-- FENCE.system (R254). -/
def execFenceSystem (g : Guard) (s : State) : Out := runFence g .system s

/-! The moves. -/

/-- The acquire move of an agent (R249): the value of the sync word. -/
def State.acquireBy (s : State) (a : Agent) (sc : Scope) (part loc : Nat) (y : Word) : Word × State :=
  let (bs, m) := s.mem.acquire a sc (s.groupOf a) (locsFrom loc 8) (s.boundTo part y)
  (ofBytes 64 bs, { s with mem := m })

/-- The acquire of an agent may be made: its writes of the sync word have reached the scope's store (R249). -/
def State.acquireReady (s : State) (a : Agent) (sc : Scope) (loc : Nat) : Bool :=
  s.mem.reached a sc (s.groupOf a) (fun l => loc ≤ l && l < loc + 8)

/-- The release of an agent may be made (R250). -/
def State.releaseReady (s : State) (a : Agent) (sc : Scope) (part : Nat) (y : Word) : Bool :=
  s.mem.reached a sc (s.groupOf a) (s.boundTo part y)

/-- The release move of an agent (R250). -/
def State.releaseBy (s : State) (a : Agent) (sc : Scope) (loc : Nat) (v : Word) : State :=
  s.modMem (fun m => m.release a sc (s.groupOf a) ((locsFrom loc 8).zip (bytesOf 8 v)))

/-- ACQUIRE_MOVE (R249). -/
def execAcquireMove (core ctx : Nat) (s : State) : Out :=
  match (s.ctx core ctx).pend.map Pend.kind with
  | some (.acq sc addr loc rd) =>
    let a := s.agentOf core ctx
    let p := (s.core core).partid
    let key := wordKey core addr
    if !s.runs core || !s.acquireReady a sc loc then .next s
    else if !s.turn p 1 key core (s.vOf core ctx) then .next (s.checkVacant p 1 key)
    else
      let (v, t) := s.acquireBy a sc p loc key
      .next (((t.setPend core ctx (.value [.s rd v])).modCtx core ctx Ctx.refetch).logged p 1 key core (s.vOf core ctx))
  | _ => .next s

/-- RELEASE_MOVE (R250). -/
def execReleaseMove (core ctx : Nat) (s : State) : Out :=
  match (s.ctx core ctx).pend.map Pend.kind with
  | some (.rel sc addr loc v) =>
    let a := s.agentOf core ctx
    let p := (s.core core).partid
    let key := wordKey core addr
    if !s.runs core || !s.releaseReady a sc p key then .next s
    else if !s.turn p 1 key core (s.vOf core ctx) then .next (s.checkVacant p 1 key)
    else
      let t := ((s.releaseBy a sc loc v).checksum core ctx addr v).setPend core ctx (.value [])
      .next (t.logged p 1 key core (s.vOf core ctx))
  | _ => .next s

/-- FENCE_MOVE (R251). -/
def execFenceMove (core ctx : Nat) (s : State) : Out :=
  match (s.ctx core ctx).pend.map Pend.kind with
  | some (.fence sc) =>
    let a := s.agentOf core ctx
    let p := s.openBinding (s.core core).partid
    if !s.runs core || !s.mem.reached a sc (s.groupOf a) p then .next s
    else
      let t := s.modMem (fun m => m.refresh a sc (s.groupOf a) p)
      .next ((t.setPend core ctx (.value [])).modCtx core ctx Ctx.refetch)
  | _ => .next s

/-- DRAIN: M2 (R247). -/
def execDrain (i : Nat) (s : State) : Out :=
  match s.mem.bufs[i]? with
  | none => .next s
  | some w =>
    if s.power = .on ∧ s.mem.drainable i then .next (s.modMem (fun m => m.drain i (s.groupOf w.agent))) else .next s

/-- The number of group stores; a store of that number or above is the device store. -/
def nGroups : Nat := 1024

/-- LIFT: M3 (R247). -/
def execLift (store stamp : Nat) (s : State) : Out :=
  if s.power != .on then .next s
  else .next (s.modMem (fun m => if store < nGroups then m.liftG store stamp else m.liftD stamp))

end Sys2Proof.Machine
end

