-- ==== Sys2Proof/Machine/Barrier.lean ====
section
/-! DEFINITION. Barrier sets and region bindings: minors 0x00 to 0x05 of major 0x1A (R329 to R339). -/

namespace Sys2Proof.Machine

/-- The context whose memberships an instruction uses: the opener's inside a loop (R331). -/
def State.joiner (s : State) : Nat :=
  match s.curIter s.cc s.ck with
  | some (f, _) => (s.fr s.cc f).opener
  | none => s.ck

/-- The issue of an instruction of major 0x1A. -/
def tableInfo (g : Guard) (ss : List SSrc) (sd : List SDst) : Info := { infoOf g 8 1 ss [] sd [] with side := true }

/-! Barrier sets. -/

/-- The scope a code names (R330). -/
def scopeOf : Nat → Scope
  | 0 => .group
  | 1 => .device
  | _ => .system

/-- Joining a set (R333). -/
def joinSet (n : Nat) (c : Word) : M Unit := do
  let s ← get
  let p := s.myPart
  let k := s.joiner
  let x := s.ctx s.cc k
  let sv : Word := BitVec.ofNat 64 n
  let num := bitsOf c.toNat 0 18
  let sc := bitsOf c.toNat 20 2
  ensure (c &&& ~~~0x33_FFFF == 0 && num != 0 && num ≤ 131072 && sc != 3) .illegal c
  ensure ((bsmFind x.bsm n).isNone && (bsmFree x.bsm).isSome) .illegal sv
  let b := (s.barSet p n).getD { n := num, scope := scopeOf sc, cl := s.clusterOf s.cc }
  ensure ((s.barSet p n).isNone || (b.n == num && b.scope == scopeOf sc && b.members.length != b.n)) .illegal sv
  ensure (!(b.scope == .group && b.cl != s.clusterOf s.cc)) .prot sv
  let b := { b with members := tset b.members (ctxKey s.cc x.vctx) (false, 0) }
  set ((s.putSet p n (some b)).modCtx s.cc k (fun x =>
    { x with bsm := bsmPut x.bsm ((bsmFree x.bsm).getD 0) (some n) }))

/-- BSDEF.j (R333). -/
def execBsdefJ (g : Guard) (xs xc : SSrc) (s : State) : Out :=
  run (tableInfo g [xs, xc] []) (do
    let n ← readS xs
    ensure (n.toNat < 128) .illegal n
    let c ← readS xc
    joinSet n.toNat c
    modify (fun s => s.retire 8)) s

/-- BSDEF.l (R333). -/
def execBsdefL (g : Guard) (xs : SSrc) (s : State) : Out :=
  run (tableInfo g [xs] []) (do
    let n ← readS xs
    ensure (n.toNat < 128) .illegal n
    modify (fun s => (s.leaveSet s.cc s.joiner n.toNat).retire 8)) s

/-- The set a slot names, with its number (R335). -/
def slotSet (k : Fin 4) : M (Nat × BarSet) := do
  let s ← get
  match bsmSlot (s.ctx s.cc s.joiner).bsm k.val with
  | none => raiseV .illegal (BitVec.ofNat 64 k.val)
  | some n =>
    match s.barSet s.myPart n with
    | none => raiseV .illegal (BitVec.ofNat 64 k.val)
    | some b => pure (n, b)

/-- An arrival (R334, R335): it waits for its phase and for its agent's writes, then arrives. It answers the phase. -/
def arriveAt (n : Nat) (b : BarSet) : M (BitVec 32) := do
  let s ← get
  let a := s.agentOf s.cc s.ck
  let m := ctxKey s.cc (s.vOf s.cc s.joiner)
  if b.arrived m then waitFor .wmsg (.phase s.myPart n b.ph)
  if !s.mem.reached a b.scope (s.groupOf a) (fun _ => true) then waitFor .wmem (.drained a b.scope)
  set ((s.putSet s.myPart n (some (b.arrive m))).trace s.cc s.ck 0x06 s.me.pc
    (BitVec.ofNat 64 (n + b.ph.toNat * 2 ^ 32)))
  pure b.ph

/-- The wait move for a phase that has completed (R334). -/
def State.waitMove (s : State) (n : Nat) (b : BarSet) : State :=
  let a := s.agentOf s.cc s.ck
  ((s.modMem (fun m => m.refresh a b.scope (s.groupOf a) (fun _ => true))).modMe Ctx.refetch).trace s.cc s.ck 0x07
    s.me.pc (BitVec.ofNat 64 (n + b.ph.toNat * 2 ^ 32))

/-- BARV (R335). -/
def execBarv (g : Guard) (rd : SDst) (k : Fin 4) (s : State) : Out :=
  run (tableInfo g [] [rd]) (do
    let (n, b) ← slotSet k
    checkS rd
    let p ← arriveAt n b
    finish 8 [.s rd (p.setWidth 64)]) s

/-- BWAIT (R335). -/
def execBwait (g : Guard) (xp : SSrc) (k : Fin 4) (s : State) : Out :=
  run (tableInfo g [xp] []) (do
    let (n, b) ← slotSet k
    let p := (← readS xp).setWidth 32
    if !b.past p then waitFor .wmsg (.phase (← get).myPart n p)
    modify (fun s => (s.waitMove n b).retire 8)) s

/-- BARW after its arrival: the wait for its phase, which its control block holds (R335; log 105). -/
def barwWait (rd : SDst) (k : Fin 4) : M Unit := do
  let (n, b) ← slotSet k
  let s ← get
  let p := s.me.live.phase
  if !b.past p then waitFor .wmsg (.phase s.myPart n p)
  checkS rd
  modify (fun s => (((s.waitMove n b).modMe (fun x => { x with live := { x.live with barw := false, phase := 0 } })).putS
    rd (p.setWidth 64)).retire 8)

/-- BARW (R335; log 105). -/
def execBarw (g : Guard) (rd : SDst) (k : Fin 4) (s : State) : Out :=
  run (tableInfo g [] [rd]) (do
    if (← get).me.live.barw then barwWait rd k
    else
      let (n, b) ← slotSet k
      checkS rd
      let p ← arriveAt n b
      modify (fun s => s.modMe (fun x => { x with live := { x.live with barw := true, phase := p } }))
      let s ← get
      match barwWait rd k s with
      | .ok (_, t) => set t
      | .error (.wait cls w) =>
        throw (.done { (s.modMe (fun x => { x with wait := some (cls, w), woke := false })) with acct := cls })
      | .error e => throw e) s

/-! Region bindings. -/

/-- The core or granule that an address names is the partition's (R206, R209). -/
def State.namesOwn (s : State) (a : Nat) : Bool :=
  let p := s.myPart
  match spaceOf a with
  | 0xA => s.holdsCore p (targetCore a)
  | 0xB =>
    let g := s.granuleOf (bitsOf a 48 5) (a % 2 ^ 26)
    g.valid && g.part == p
  | _ => true

/-- The checks of RBIND and the normalised entry (R336, R338). -/
def bindCheck (b l y : Word) : M Binding := do
  let s ← get
  let fieldOk (a : Word) : Bool := syncSpaces.contains (spaceOf a.toNat) && strayBits (spaceOf a.toNat) a.toNat == 0
  ensure (fieldOk b) .space b
  ensure (b.toNat % 64 == 0 && l.toNat % 64 == 0 && l != 0) .align b
  ensure (spaceOk syncSpaces b.toNat l.toNat) .space b
  ensure (spaceOk syncSpaces y.toNat 8) .space y
  ensure (y.toNat % 8 == 0) .align y
  let nb := normAddr s.cc b.toNat
  let ny := normAddr s.cc y.toNat
  if !s.namesOwn nb then raise { code := .prot, tval := b, kind := 1 }
  if !s.namesOwn ny then raise { code := .prot, tval := y, kind := 1 }
  pure { base := BitVec.ofNat 64 nb, len := l.toNat, sync := BitVec.ofNat 64 ny }

/-- A change of the binding table is sent (R338; log 61). -/
def sendBind (e : Option Binding) (i : Nat) (rd : SDst) : M Unit := do
  sendRequest (.bind rd) .wmem 8 [.s rd 0]
  modify (fun s => s.modPart s.myPart (fun q =>
    { q with bindNew := q.bindNew ++ [{ core := s.cc, ctx := s.ck, entry := e, idx := i }] }))

/-- RBIND (R338). -/
def execRbind (g : Guard) (rd : SDst) (xb xl xs : SSrc) (s : State) : Out :=
  run (tableInfo g [xb, xl, xs] [rd]) (do
    let b ← readS xb
    let l ← readS xl
    let y ← readS xs
    let e ← bindCheck b l y
    sendBind (some e) 0 rd) s

/-- RUNBND (R338). -/
def execRunbnd (g : Guard) (xi : SSrc) (s : State) : Out :=
  run (tableInfo g [xi] []) (do
    let i ← readS xi
    ensure (i.toNat < 256) .illegal i
    sendBind none i.toNat .zero) s

/-- Two ranges share a byte. -/
def Binding.overlaps (a b : Binding) : Bool :=
  decide (a.base.toNat < b.base.toNat + b.len) && decide (b.base.toNat < a.base.toNat + a.len)

/-- The lowest invalid entry (R338). -/
def freeBinding (t : Tbl Binding) : Option Nat := (List.range 256).find? (fun i => (tget t i).isNone)

/-- A change of the binding table of a partition (R338, R339): what its request answers, and the table. -/
def bindChange (t : Tbl Binding) (b : BindChange) (rd : SDst) : PendKind × Tbl Binding :=
  match b.entry with
  | none => (.value [], tdel t b.idx)
  | some e =>
    if t.any (fun o => o.2.overlaps e) then (.fault { code := .bind, tval := e.base }, t)
    else
      match freeBinding t with
      | none => (.value [.s rd (BitVec.allOnes 64)], t)
      | some i => (.value [.s rd (BitVec.ofNat 64 i)], tset t i e)

/-- BINDING_CHANGE (R339). -/
def execBindingChange (part i : Nat) (s : State) : Out :=
  match (s.part part).bindNew[i]? with
  | none => .next s
  | some b =>
    let rest := ldel (s.part part).bindNew i
    let rd := match (s.ctx b.core b.ctx).pend.map Pend.kind with
      | some (.bind rd) => rd
      | _ => .zero
    let (kind, t) := bindChange (s.part part).binds b rd
    let s := s.modPart part (fun q => { q with binds := t, bindNew := rest })
    .next (if b.live then s.setPend b.core b.ctx kind else s)

end Sys2Proof.Machine
end

