-- ==== Sys2Proof/Machine/Control.lean ====
section
/-! DEFINITION. Major 0x01: NOP, the control transfers with their delay slots, REP and TRAP (R72 to R75, R134 to R140),
and reserved encodings (R79). -/

namespace Sys2Proof.Machine

/-- NOP (R75). -/
def execNop (g : Guard) (form : Form) (_lit : Word) (s : State) : Out :=
  runPuts { g, len := formLen form } (pure []) s

/-- A reserved encoding raises ILLEGAL whatever its guard (R79, R80; log 65). -/
def execReservedEncoding (s : State) : Out :=
  .next ({ s with acct := .iss }.stopped [] (.fault { code := .illegal }))

/-- After a transfer the two delay slots are due (R72). -/
def State.startDelay (s : State) (len : Nat) (taken : Bool) (t : Word) : State :=
  (s.retire len).modMe (fun x => { x with live := { x.live with left := 2, taken, target := t } })

/-- A guarded-off transfer still has its two delay slots (R66, R72). -/
def offTransfer (len : Nat) : M Unit := modify (fun s => (s.count s.cc s.ck 0x09 1).startDelay len false 0)

/-- A control transfer: `target` from the address of the transfer, the link to `rd` (R135). No field of its trace record holds the mark
of a call or a return: the instruction at the record's PC tells it (R378; log 132). -/
def runTransfer (i : Info) (rd : SDst) (target : Word → M Word) (s : State) : Out :=
  runWith { i with bar := true } (offTransfer i.len) (do
    let pc := (← get).me.pc
    let t ← target pc
    let link ← afterInstrs (pc + BitVec.ofNat 64 i.len) 2
    checkS rd
    ensure (t.toNat % 4 = 0) .align t
    modify (fun s => ((s.putS rd link).trace s.cc s.ck 0x01 pc t).startDelay i.len true t)) s

/-- BR (R135). -/
def execBr (g : Guard) (imm : Imm) (s : State) : Out :=
  runTransfer (infoOf g (formLen imm.form) 1 [] [] [] []) .zero (fun pc => pure (pc + 4 * imm.val)) s
/-- BRA (R135). -/
def execBra (g : Guard) (imm : Imm) (s : State) : Out :=
  runTransfer (infoOf g (formLen imm.form) 1 [] [] [] []) .zero (fun _ => pure imm.val) s
/-- JAL (R135). -/
def execJal (g : Guard) (rd : SDst) (imm : Imm) (s : State) : Out :=
  runTransfer (infoOf g (formLen imm.form) 1 [] [] [rd] []) rd (fun pc => pure (pc + 4 * imm.val)) s
/-- JALR (R135). -/
def execJalr (g : Guard) (rd : SDst) (a : SSrc) (s : State) : Out :=
  runTransfer (infoOf g 8 1 [a] [] [rd] []) rd (fun _ => readS a) s
/-- RET (R135). -/
def execRet (g : Guard) (a : SSrc) (s : State) : Out :=
  runTransfer (infoOf g 8 1 [a] [] [] []) .zero (fun _ => readS a) s

/-- REP (R137). -/
def execRep (g : Guard) (a : SSrc) (blen : Fin 64) (imm : Imm) (s : State) : Out :=
  let i := infoOf g (formLen imm.form) 1 [a] [] [] []
  run { i with bar := true } (do
    let n := (← readS a) + imm.val
    let start := (← get).me.pc + BitVec.ofNat 64 i.len
    if n = 0 then
      let t ← afterInstrs start blen.val
      modify (fun s => (s.retire i.len).modMe (fun x => { x with pc := t }))
    else
      modify (fun s => (s.retire i.len).modMe (fun x =>
        { x with live := { x.live with active := true, start, blen := blen.val, pos := 0, passes := n } }))) s

/-- An exception whose TPC is the next instruction: the instruction completes, then the fault is taken (R140, R386, R387). A STEP due
at the same instruction gives way to it; a stop that is due still comes (R374, R387). -/
def State.completeThenFault (s : State) (len : Nat) (c : Cause) : State :=
  let c := { c with pc := some s.me.pc }
  let s := (s.retire len).modMe (fun x => { x with stepDue := x.stepDue && !x.dbc.stt })
  s.takeFault s.cc s.ck c

/-- TRAP (R140). -/
def execTrap (g : Guard) (n : BitVec 20) (s : State) : Out :=
  run { g, side := true } (modify (fun s => s.completeThenFault 8 { code := .trap, tval := n.setWidth 64 })) s

end Sys2Proof.Machine
end

