-- ==== Sys2Proof/Machine/Slots.lean ====
section
/-! DEFINITION. The KV slot table: SLOTW, SLOTRD, the changes of a slot and the far-read window (R264 to R273). -/

namespace Sys2Proof.Machine

/-- The fields of a place value (R270). -/
def placeMask : Word := 0x1FFF_00FF_1FFF

/-- The core, slot and list index of a place value. -/
def placeCore (p : Word) : Nat := coreAt (bitsOf p.toNat 8 5) (bitsOf p.toNat 0 8)
/-- The slot of a place value. -/
def placeSlot (p : Word) : Nat := bitsOf p.toNat 16 8
/-- The list index of a place value. -/
def placeIndex (p : Word) : Nat := bitsOf p.toNat 32 13
/-- The place value of a core, slot and list index (R270). -/
def placeOf (c i n : Nat) : Word :=
  BitVec.ofNat 64 (n % 2 ^ 13 * 2 ^ 32 + i % 256 * 2 ^ 16 + c / 256 % 32 * 2 ^ 8 + c % 256)

/-- The location of a list entry of a slot (R265). -/
def State.listLoc (s : State) (c i n : Nat) : Nat :=
  locPad (c / 256) ((bitsOf (s.slot c i).b.toNat 0 26 + 8 * n) % 2 ^ 26)

/-- A list's bytes, of which an empty list has none, lie in LST granules of the partition (R271). -/
def State.listOwn (s : State) (c p lptr nblk : Nat) : Bool :=
  nblk == 0 || decide (lptr + 8 * nblk ≤ 2 ^ 26) &&
  (List.range 16).all (fun g =>
    let lo := g * 2 ^ 22
    if lptr < lo + 2 ^ 22 && lo < lptr + 8 * nblk then
      let e := s.granuleOf (c / 256) lo
      e.valid && e.lst && e.part == p
    else true)

/-- The reserved bits of word A: they take no write (R6, R265). -/
def wordARes : Word := 0x7FE0_C000

/-- SLOTW.a may write the word (R271). -/
def State.wordAOk (s : State) (c i p : Nat) (v : Word) : Bool :=
  let e : Slot := { a := v }
  let nblk := bitsOf v.toNat 0 14
  let bppl := bitsOf v.toNat 16 5
  !v.getLsbD 31 ||
    ((v &&& wordARes) == 0 && 6 ≤ bppl && bppl ≤ 19 && nblk ≤ 8192 && e.len * e.bpp ≤ nblk * 2 ^ 19 &&
      s.listOwn c p (bitsOf (s.slot c i).b.toNat 0 26) nblk)

/-- SLOTW.e may write the entry (R266, R271). -/
def entryOk (v : Word) : Bool :=
  let pa := bitsOf v.toNat 19 29 * 2 ^ 19
  !v.getLsbD 0 ||
    ((v &&& 0x00FF_0000_0007_FFF8) == 0 && populated pa && v.getLsbD 2 == decide (2 ^ 40 ≤ pa))

/-- SLOTW of a word may make its change, as the slot stands (R271). -/
def State.slotOk (s : State) (sel c i p : Nat) (v : Word) : Bool :=
  match sel with
  | 0 => s.wordAOk c i p v
  | 1 => !((s.slot c i).a.getLsbD 31 || v.toNat / 2 ^ 26 != 0 || v.toNat % 8 != 0)
  | 2 => entryOk v
  | _ => v.toNat / 2 ^ 16 == 0

/-- The checks of SLOTW and SLOTRD on the place value (R271, R272). -/
def placeCheck (p : Word) (whole : Bool) : M Unit := do
  let s ← get
  ensure ((p &&& ~~~placeMask) == 0) .illegal p
  if whole && !s.holdsCore s.myPart (placeCore p) then raise { code := .prot, tval := p, kind := 1 }

/-- The issuing core is the allocator of its partition on its own die (R271). -/
def State.isAllocator (s : State) : Bool :=
  decide (s.cc < 8192) &&
  (((s.die (s.cc / 256)).alloc.toList[s.myPart]?).getD none) == some (s.cc % 256)

/-- SLOTW of a word (R271). -/
def slotwBody (sel : Nat) (xp xv : SSrc) : M Unit := do
  let p ← readS xp
  let v ← readS xv
  ensure ((p &&& ~~~placeMask) == 0) .illegal p
  let s ← get
  ensure (s.isAllocator && bitsOf p.toNat 8 5 == s.cc / 256) .priv
  placeCheck p (sel != 3)
  let c := placeCore p
  let i := placeSlot p
  ensure (s.slotOk sel c i s.myPart v) .illegal v
  sendRequest .slotw .wmem 8 []
  modify (fun s => { s with slotNew := s.slotNew ++ [{ core := s.cc, ctx := s.ck, place := p, sel, v }] })

/-- SLOTW.a (R271). -/
def execSlotwA (g : Guard) (xp xv : SSrc) (s : State) : Out := run (tableInfo g [xp, xv] []) (slotwBody 0 xp xv) s
/-- SLOTW.b (R271). -/
def execSlotwB (g : Guard) (xp xv : SSrc) (s : State) : Out := run (tableInfo g [xp, xv] []) (slotwBody 1 xp xv) s
/-- SLOTW.e (R271). -/
def execSlotwE (g : Guard) (xp xv : SSrc) (s : State) : Out := run (tableInfo g [xp, xv] []) (slotwBody 2 xp xv) s
/-- SLOTW.t (R271). -/
def execSlotwT (g : Guard) (xp xv : SSrc) (s : State) : Out := run (tableInfo g [xp, xv] []) (slotwBody 3 xp xv) s

/-- What SLOTRD reads (R272). -/
def State.slotWord (s : State) (sel : Nat) (p : Word) : Word :=
  let c := placeCore p
  let i := placeSlot p
  match sel with
  | 0 => (s.slot c i).a
  | 1 => (s.slot c i).b
  | 2 => BitVec.ofNat 64 (leVal (s.mem.readD (locsFrom (s.listLoc c i (placeIndex p)) 8)))
  | _ => (s.die (bitsOf p.toNat 8 5)).frt

/-- SLOTRD of a word (R272): its reply brings what it read. -/
def slotrdBody (sel : Nat) (rd : SDst) (xp : SSrc) : M Unit := do
  let p ← readS xp
  placeCheck p (sel != 3)
  let s ← get
  sendRequest (.value [.s rd (s.slotWord sel p)]) .wmem 8 [.s rd 0]

/-- SLOTRD.a (R272). -/
def execSlotrdA (g : Guard) (rd : SDst) (xp : SSrc) (s : State) : Out := run (tableInfo g [xp] [rd]) (slotrdBody 0 rd xp) s
/-- SLOTRD.b (R272). -/
def execSlotrdB (g : Guard) (rd : SDst) (xp : SSrc) (s : State) : Out := run (tableInfo g [xp] [rd]) (slotrdBody 1 rd xp) s
/-- SLOTRD.e (R272). -/
def execSlotrdE (g : Guard) (rd : SDst) (xp : SSrc) (s : State) : Out := run (tableInfo g [xp] [rd]) (slotrdBody 2 rd xp) s
/-- SLOTRD.t (R272). -/
def execSlotrdT (g : Guard) (rd : SDst) (xp : SSrc) (s : State) : Out := run (tableInfo g [xp] [rd]) (slotrdBody 3 rd xp) s

/-! Changes at the home core. -/

/-- Changes a slot. -/
def State.setSlot (s : State) (c i : Nat) (e : Slot) : State := s.modCore c (fun k => { k with slots := tset k.slots i e })

/-- The destination of a message to the allocator of a partition on a die, whoever that is at its entry (R273). -/
def allocDst (die part : Nat) : Nat := 2 ^ 20 + die * 16 + part

/-- Truncation of a slot to P positions (R273; log 76). -/
def State.truncate (s : State) (c i p : Nat) : State :=
  let e := s.slot c i
  let len := min e.len p
  let nblk := bitsOf e.a.toNat 0 14
  let k := (p * e.bpp + 2 ^ 19 - 1) / 2 ^ 19
  let cut := min nblk k
  let a := BitVec.ofNat 64 (len * 2 ^ 32 + (e.a.toNat % 2 ^ 32 - nblk) + cut)
  let s := s.setSlot c i { e with a }
  { s with net := s.net ++ [.msg { part := (s.core c).partid, src := c, sctx := 0, dst := allocDst (c / 256) (s.core c).partid, box := 255
                                   w0 := placeOf c i k, w1 := BitVec.ofNat 64 (nblk - cut), sent := 0 }] }

/-- One write of 8 bytes at the device store (R271). -/
def MemSys.writeD (m : MemSys) (loc : Nat) (v : Word) : MemSys :=
  ((locsFrom loc 8).zip (bytesOf 8 v)).foldl (fun m c => m.offerD c.1 ⟨m.next - 1, c.2⟩) { m with next := m.next + 1 }

/-- A change of a slot or of FRT (R271, R273); 4 is a truncation to `v` positions. -/
def State.applySlot (s : State) (b : SlotChange) : State :=
  let c := placeCore b.place
  let i := placeSlot b.place
  match b.sel with
  | 0 => s.setSlot c i { s.slot c i with a := b.v &&& ~~~wordARes }
  | 1 => s.setSlot c i { s.slot c i with b := b.v }
  | 2 => s.modMem (fun m => m.writeD (s.listLoc c i (placeIndex b.place)) b.v)
  | 3 => s.modDie (bitsOf b.place.toNat 8 5) (fun d => { d with frt := b.v })
  | _ => s.truncate c i b.v.toNat

/-- The physical intervals of a slot's blocks. -/
def State.slotSegs (s : State) (c i : Nat) : List (Nat × Nat) :=
  (List.range (bitsOf (s.slot c i).a.toNat 0 14)).map (fun b =>
    (locPA (bitsOf (s.listEntry c i b) 19 29 * 2 ^ 19), 2 ^ 19))

/-- Some request of a partition that has translated to locations of `g` has not been answered (R218, R268). -/
def State.pendIn (s : State) (part : Nat) (g : List (Nat × Nat)) : Bool :=
  s.ctxs.any (fun x =>
    (s.core (x.1 / 16)).partid == part &&
    match x.2.pend.map Pend.kind with
    | some (.load us _ _) => us.any (fun u => u.locs.any (inSegs g))
    | some (.atom _ _ loc _ _ _ _) => inSegs g loc
    | some (.fe _ loc _ _ _) => inSegs g loc
    | some (.acq _ _ loc _) => inSegs g loc
    | some (.rel _ _ loc _) => inSegs g loc
    | _ => false)

/-- Some access of a partition that has translated to locations of `g` has not completed, held stores among them (R218); a held store of
the KV space has not translated (R268; log 129). -/
def State.accessIn (s : State) (part : Nat) (g : List (Nat × Nat)) : Bool :=
  s.pendIn part g || s.cores.any (fun k => k.2.partid == part && k.2.frames.toList.any (fun F =>
    F.held.any (fun h => h.ext.isNone && h.units.any (fun u => u.any (fun c => inSegs g c.1)))))

/-- Some access that translated through the slot has not completed (R268). -/
def State.slotBusy (s : State) (b : SlotChange) : Bool :=
  if b.sel = 3 then false
  else s.pendIn (s.core b.core).partid (s.slotSegs (placeCore b.place) (placeSlot b.place))

/-- SLOT_CHANGE (R268, R271; log 76): a SLOTW whose check fails on the slot as it now stands changes nothing and raises ILLEGAL. -/
def execSlotChange (i : Nat) (s : State) : Out :=
  match s.slotNew[i]? with
  | none => .next s
  | some b =>
    if s.slotBusy b then .next s
    else if decide (b.sel < 2) && !s.slotOk b.sel (placeCore b.place) (placeSlot b.place) (s.core b.core).partid b.v then
      let t := { s with slotNew := ldel s.slotNew i }
      .next (if b.live then t.setPend b.core b.ctx (.fault { code := .illegal, tval := b.v }) else t)
    else
      let kind : PendKind := match (s.ctx b.core b.ctx).pend.map Pend.kind with
        | some (.trunc rd v none) => .value [.s rd v]
        | some (.trunc _ _ (some p)) => .late p
        | _ => .value []
      let t := ({ s with slotNew := ldel s.slotNew i }).applySlot b
      .next (if b.live then t.setPend b.core b.ctx kind else t)

/-- A read that asked for far-tier lines still wants them: its thread waits for them, or it is an engine's (R269). -/
def State.farLive (s : State) (q : Agent × Nat × Nat) : Bool :=
  match q.1 with
  | .ctx c k => decide (2 ^ 48 ≤ q.2.1) || (match (s.ctx c k).wait with
    | some (_, .farWindow n _) => n == q.2.1
    | _ => false)
  | .sweep cl t n => match tget (s.cluster cl).tensors t with
    | some e => e.run && e.sn.toNat == n && e.awake.contains q.2.1
    | none => false
  | _ => true

/-- FRT_WINDOW: the counts begin again under the LIMIT that stands, and the lines that wait come first (R269; log 71). -/
def execFrtWindow (die : Nat) (s : State) : Out :=
  let y := s.die die
  let limit := bitsOf y.frt.toNat 0 16
  let (q, n) := farServe limit limit (y.farq.filter s.farLive)
  .next (s.modDie die (fun d => { d with admitted := n, limit, farq := q }))

end Sys2Proof.Machine
end

