-- ==== Sys2Proof/Machine/System.lean ====
section
/-! DEFINITION. Major 0x03: system registers and format tags (R84 to R92). -/

namespace Sys2Proof.Machine

/-- The number of a frame's state in FRM (R96). -/
def FrameState.num : FrameState → Nat
  | .free => 0 | .seed => 1 | .run => 2 | .exit => 3

/-- A flag as a number. -/
def bitN (b : Bool) (at_ : Nat) : Nat := if b then 2 ^ at_ else 0

/-- FRM of a frame (R96). -/
def frmOf (f : Fin 2) (F : LFrame) : Word :=
  BitVec.ofNat 64 (F.setl % 2 ^ 32 * 2 ^ 32 + bitN F.rst 28 + bitN F.brkd 27 + F.st.num * 2 ^ 25 +
    bitN (F.level = 2) 24 + f.val * 2 ^ 23 + bitN F.om 22 + bitN F.opn 21 +
    (if F.st = .seed then 0 else F.a % 16 * 2 ^ 17) + F.w % 8 * 2 ^ 14)

/-- FRM of a context: its current frame, or its seed frame when it has none (R96). -/
def State.frm (s : State) (c k : Nat) : Word :=
  match s.curFrame c k with
  | some (f, _) => frmOf f (s.fr c f)
  | none =>
    let seed (f : Fin 2) : Bool := (s.fr c f).st == .seed && (s.fr c f).opener == k
    if seed 0 then frmOf 0 (s.fr c 0) else if seed 1 then frmOf 1 (s.fr c 1) else 0

/-- CTXST of a context (R85). -/
def State.ctxst (s : State) (c k : Nat) : Word :=
  let x := s.ctx c k
  BitVec.ofNat 64 (x.crew % 16 * 2 ^ 20 + bitN x.cm 19 + s.heldCount c k * 2 ^ 17 + bitN (x.vctx = 0) 16 + bitN x.h 12 +
    x.rm.toNat * 2 ^ 8 + x.ff.toNat)

/-- The fields of CPSZ (R235). -/
def cpszMask : Word := 0x0000_FFFF_FFFF_FFFF
/-- The fields of CPFL (R235). -/
def cpflMask : Word := 0x0000_00FF_0133_FFFF

/-- The value of a system register (R84); none for a reserved number. The reserved fields of CPSZ and CPFL, which CPW can set, read as
zero (R6, R235, R237). -/
def State.sysReg (s : State) (c k : Nat) (n : Nat) : Option Word :=
  let x := s.ctx c k
  match n with
  | 0x00 => some (s.ctxst c k)
  | 0x01 => some x.tcause
  | 0x02 => some x.tpc
  | 0x03 => some x.tval
  | 0x04 => some x.tvec
  | 0x05 => some ((s.core c).segb.setWidth 64)
  | 0x06 => some ((s.core c).segl.setWidth 64)
  | 0x07 => some (BitVec.ofNat 64 ((s.core c).partid % 16))
  | 0x08 => some x.ydl
  | 0x09 => some (s.core (s.core c).home).cyc
  | 0x0A => some (x.qmap.setWidth 64)
  | 0x0B => some (x.bsm.setWidth 64)
  | 0x0C => some (s.frm c k)
  | 0x10 => some x.cps
  | 0x11 => some x.cpd
  | 0x12 => some x.cpxs
  | 0x13 => some x.cpys
  | 0x14 => some (x.cpsz &&& cpszMask)
  | 0x15 => some (x.cpfl &&& cpflMask)
  | 0x17 => some (s.core c).cpdone
  | _ => none

/-- The faults of SYSRD: they are instruction-precise in an uncommitted iteration too (R91; log 119). -/
def sysFaults : List FaultCode := [.illegal, .priv, .queue, .frame, .vread0]

/-- SYSRD (R90, R91; log 64). -/
def execSysrd (g : Guard) (rd : SDst) (n : Byte) (s : State) : Out :=
  run (infoOf g 8 1 [] [] [rd] []) (preciseOn sysFaults (do
    let s ← get
    match s.sysReg s.cc s.ck n.toNat with
    | none => raiseV .illegal
    | some v => finish 8 [.s rd v])) s

/-- The fields of TCAUSE (R389). -/
def tcauseMask : Word := 0x0001_FF00_3F8F_C0FF
/-- A value keeps the bits outside a mask (R90). -/
def maskIn (old v m : Word) : Word := (v &&& m) ||| (old &&& ~~~m)

/-- A write that changes a field needs its level (R81, R90). -/
def needLevel (held : Bool) (old v m : Word) : M Unit := ensure (held || (old &&& m) == (v &&& m)) .priv

/-- SYSWR's effect on register `n` (R84, R90): `x.h` says that level H is held, `lv` level S. DESIGN CHOICE: a thread of a
service core is firmware and holds level S for its own registers (R81; log 121). -/
def writeSys (n : Nat) (v : Word) : M Unit := do
  let s ← get
  let x := s.me
  let lv := decide (8192 ≤ s.cc)
  let setMe (f : Ctx → Ctx) : M Unit := modify (fun s => s.modMe f)
  match n with
  | 0x00 =>
    needLevel (x.h || lv) (BitVec.ofNat 64 (bitN x.h 12)) v (BitVec.ofNat 64 (2 ^ 12))
    setMe (fun x => { x with h := v.getLsbD 12, rm := (v >>> 8).setWidth 2, ff := v.setWidth 5 })
  | 0x01 =>
    needLevel x.h x.tcause v tcauseMask
    setMe (fun x => { x with tcause := v &&& tcauseMask })
  | 0x02 =>
    needLevel x.h x.tpc v (BitVec.allOnes 64)
    setMe (fun x => { x with tpc := v })
  | 0x03 =>
    needLevel x.h x.tval v (BitVec.allOnes 64)
    setMe (fun x => { x with tval := v })
  | 0x04 => setMe (fun x => { x with tvec := v &&& ~~~2#64 })
  | 0x05 =>
    needLevel lv (s.myCore.segb.setWidth 64) v 0xF_FFFF
    modify (fun s => s.modMyCore (fun y => { y with segb := v.setWidth 20 }))
  | 0x06 =>
    needLevel lv (s.myCore.segl.setWidth 64) v 0x1F_FFFF
    modify (fun s => s.modMyCore (fun y => { y with segl := v.setWidth 21 }))
  | 0x07 =>
    needLevel lv (BitVec.ofNat 64 (s.myPart % 16)) v 0xF
    modify (fun s => s.modMyCore (fun y => { y with partid := v.toNat % 16 }))
  | 0x08 =>
    needLevel lv x.ydl v (BitVec.allOnes 64)
    setMe (fun x => { x with ydl := v })
  | 0x0A => setMe (fun x => { x with qmap := v.setWidth 16 })
  | 0x10 => setMe (fun x => { x with cps := v })
  | 0x11 => setMe (fun x => { x with cpd := v })
  | 0x12 => setMe (fun x => { x with cpxs := v })
  | 0x13 => setMe (fun x => { x with cpys := v })
  | 0x14 => setMe (fun x => { x with cpsz := maskIn x.cpsz v cpszMask })
  | 0x15 => setMe (fun x => { x with cpfl := maskIn x.cpfl v cpflMask })
  | 0x09 | 0x0B | 0x0C | 0x17 => pure ()
  | _ => raiseV .illegal

/-- The numbers SYSWR accepts (R84, R90; log 64). -/
def sysKnown (n : Nat) : Bool := n ≤ 0x0C || (0x10 ≤ n && n ≤ 0x15) || n == 0x17

/-- SYSWR (R90, R91). -/
def execSyswr (g : Guard) (n : Byte) (a : SSrc) (s : State) : Out :=
  run { infoOf g 8 1 [a] [] [] [] with side := true } (do
    ensure (sysKnown n.toNat) .illegal
    let v ← readS a
    writeSys n.toNat v
    modify (fun s => s.retire 8)) s

/-- FMTG (R92). -/
def execFmtg (g : Guard) (rd : SDst) (src : TagSrc) (s : State) : Out :=
  let vs : List VSrc := match src with
    | .v a => [a]
    | .z _ => []
  runPuts (infoOf g 8 1 [] vs [rd] []) (do
    let t ← match src with
      | .v a => do pure (← readV a).tag
      | .z n => do pure (← readZ n).tag
    pure [.s rd (BitVec.ofNat 64 (tagNum t))]) s

/-- FMTS of the current iteration's version of a w name (R92). -/
def retagLoop (name : Nat) (t : Tag) : M Unit := do
  let v ← readLoop name 0
  let s ← get
  match s.curFrame s.cc s.ck with
  | some (f, some i) =>
    set (s.modFr s.cc f (fun F => F.putVer
      { name, iter := i.i, carried := false, need := 0, bits := v.1, tag := t }))
  | _ => raiseV .frame

/-- FMTS's effect (R92). -/
def fmtsBody (dst : TagDst) (t : Tag) : M Unit := do
  match dst with
  | .v (.v r) => modify (fun s => s.modMe (fun x => x.setV r 0 0 t))
  | .v (.w r) => retagLoop (16 + r.val) t
  | .v .zero => pure ()
  | .v (.q _) => raiseV .illegal
  | .z n => modify (fun s => s.modMe (fun x => x.setZ n (x.z.get n).bits t))

/-- FMTS (R92): it is no write under R101, so the depth limit does not hold it back; guarded off it carries. -/
def execFmts (g : Guard) (dst : TagDst) (t : Tag) (s : State) : Out :=
  let i := match dst with
    | .v d => infoOf g 8 1 [] [] [] [d]
    | .z _ => infoOf g 8 1 [] [] [] []
  run (if i.on s.me then { i with lds := [] } else i) (do
    fmtsBody dst t
    modify (fun s => s.retire 8)) s

end Sys2Proof.Machine
end

