-- ==== Sys2Proof/Machine/Copy.lean ====
section
/-! DEFINITION. The copy engine: major 0x14, the landing of chunks, completion and the free-back (R235 to R242). -/

namespace Sys2Proof.Machine

/-! The description of a copy. -/

/-- Bytes per row (R235). -/
def rowB (cpsz : Word) : Nat := bitsOf cpsz.toNat 0 32
/-- Rows (R235). -/
def nRow (cpsz : Word) : Nat := bitsOf cpsz.toNat 32 16 + 1
/-- The size of a copy (R235). -/
def copySize (cpsz : Word) : Nat := rowB cpsz * nRow cpsz
/-- The chunk size of a copy (R235). -/
def chunkSize (size : Nat) : Nat := max 512 ((size + 63) / 64)
/-- The map of a copy at launch: ones above its chunks (R237). -/
def startMap (size : Nat) : Word :=
  let n := (size + chunkSize size - 1) / chunkSize size
  BitVec.ofNat 64 (2 ^ 64 - 2 ^ n)

/-- The pieces of a copy from byte `b` on, `n` bytes: source, destination and length, row by row (R235). -/
def copyPieces (t : CopyTag) (b n : Nat) : Nat → List (Word × Word × Nat)
  | 0 => []
  | fuel + 1 =>
    if n = 0 then []
    else
      let w := rowB t.cpsz
      let j := b / w
      let o := b % w
      let m := min n (w - o)
      let at_ (a st : Word) : Word := a + BitVec.ofNat 64 j * st + BitVec.ofNat 64 o
      (at_ t.cps t.cpxs, at_ t.cpd t.cpys, m) :: copyPieces t (b + m) (n - m) fuel

/-- The copy is a multicast (R241). -/
def isMc (cpfl : Word) : Bool := cpfl.getLsbD 24

/-- The core that bit `q` of a receiver mask names: its place in the quadrant of the launching core (R241). -/
def receiverCore (c q : Nat) : Nat :=
  let k := c % 256
  coreAt (c / 256) ((k / 128 * 8 + q / 8) * 16 + (k % 16 / 8 * 8 + q % 8))

/-- The bit by which a launching core's quadrant names a core; none outside it. -/
def receiverBit (c r : Nat) : Option Nat := (List.range 64).find? (fun q => receiverCore c q == r)

/-! The instructions. -/

/-- The issue of an instruction of major 0x14; CPW, CPGO and CPCLR are side-effect instructions (R223). -/
def copyInfo (g : Guard) (ss : List SSrc) (sd : List SDst) (side : Bool) : Info :=
  let i := infoOf g 8 1 ss [] sd []
  { i with side := i.side || side }

/-- CPW (R236; log 135). -/
def execCpw (g : Guard) (k : Fin 8) (a b : SSrc) (s : State) : Out :=
  run (copyInfo g [a, b] [] true) (do
    let u ← readS a
    let v ← readS b
    let set2 (x : Ctx) : Ctx :=
      match k.val with
      | 0 => { x with cps := u, cpd := v }
      | 2 => { x with cpxs := u, cpys := v }
      | _ => { x with cpsz := u, cpfl := v }
    modify (fun s => (s.modMe set2).retire 8)) s

/-- The scope of a copy's acquire and release (R235). -/
def copyScope (cpfl : Word) : Scope := scopeOf (bitsOf cpfl.toNat 20 2)

/-- A copy register set that CPGO refuses (R237). -/
def copyBad (x : Ctx) : Bool :=
  (x.cpsz &&& ~~~cpszMask) != 0 || (x.cpfl &&& ~~~cpflMask) != 0 || bitsOf x.cpfl.toNat 20 2 == 3 ||
  (isMc x.cpfl && (nRow x.cpsz != 1 || spaceOf x.cpd.toNat != 0x8))

/-- The sync word of a bound entry (R237; log 41). -/
def entrySync (i : Nat) : M Word := do
  match tget ((← get).part (← get).myPart).binds i with
  | none => raiseV .bind
  | some b => pure b.sync

/-- The first byte of a copy's rows in a watchpoint's range, for the rows' addresses and length (R373). -/
def rowHit (base ctl : Word) (w : Nat) (rows : List Nat) : Option Nat :=
  let n := 2 ^ (ctl.toNat / 2 ^ 16 % 2 ^ 6)
  rows.findSome? (fun a => if a < base.toNat + n ∧ base.toNat < a + w then some (max a base.toNat) else none)

/-- The watchpoints against the bytes of a copy (R373; log 66). -/
def copyWatch : M Unit := fun s =>
  let x := s.me
  let w := rowB x.cpsz
  let rows (a st : Word) : List Nat := (List.range (nRow x.cpsz)).map (fun j => (a + BitVec.ofNat 64 j * st).toNat)
  let hits := (s.cluster (s.clusterOf s.cc)).bps.filterMap (fun b =>
    let kind := b.2.2.toNat / 2 ^ 7 % 4
    if b.1 < 16 || !unitArmed x.dbc b.2.2 || w = 0 then none
    else
      let src := if kind.testBit 0 then rowHit b.2.1 b.2.2 w (rows x.cps x.cpxs) else none
      let dst := if kind.testBit 1 then rowHit b.2.1 b.2.2 w (rows x.cpd x.cpys) else none
      (src.orElse (fun _ => dst)).map (fun a => (unitAct b.2.2, BitVec.ofNat 64 a)))
  match topAct hits with
  | none => .ok ((), s)
  | some (a, t) => .error (.hit .watch a t)

/-- The agent of a context's loop or its own, as a context number (R109). -/
def State.agentCtx (s : State) (c k : Nat) : Nat :=
  match s.curIter c k with
  | some (f, _) => (s.fr c f).opener
  | none => k

/-- The launched tag enters the core (R237, R238, R241; log 41). -/
def State.launchCopy (s : State) (t : Nat) (aq rl : Option Word) : State :=
  let x := s.me
  let c := s.cc
  let size := copySize x.cpsz
  let k := s.agentCtx c s.ck
  let empty := size = 0 && rl.isNone
  let e : CopyTag := {
    st := if empty then .done else .flight
    map := if isMc x.cpfl && x.cpxs == 0 then BitVec.allOnes 64 else startMap size, rmap := if size = 0 then x.cpxs else 0, ctx := k, part := s.myPart
    cps := x.cps, cpd := x.cpd, cpxs := x.cpxs, cpys := x.cpys, cpsz := x.cpsz, cpfl := x.cpfl, aq, rl }
  let s := s.modMyCore (fun y => { y with
    tags := tset y.tags t e
    cpdone := if empty then y.cpdone ||| BitVec.ofNat 64 (2 ^ t) else y.cpdone
    trees := if isMc x.cpfl then
        let old := tgetD y.trees t { mask := x.cpxs, fbox := 0 }
        let fbox := bitsOf x.cpfl.toNat 32 8
        tset y.trees t (if old.mask = x.cpxs then { old with fbox } else { mask := x.cpxs, fbox })
      else y.trees })
  let s := s.modMem (fun m => { m with views := aset m.views (.copy c t) ((aget m.views (.ctx c k)).getD []) })
  let pay := BitVec.ofNat 64 (t + size % 2 ^ 31 * 2 ^ 8)
  let s := s.trace c s.ck 0x04 x.pc pay
  if empty then s.trace c k 0x05 0 pay else s

/-- CPGO (R237). -/
def execCpgo (g : Guard) (rd : SDst) (s : State) : Out :=
  run (copyInfo g [] [rd] true) (do
    let x := (← get).me
    copyWatch
    ensure (!copyBad x) .illegal x.cpfl
    let aq ← if x.cpfl.getLsbD 16 then do
        pure (some (← entrySync (bitsOf x.cpfl.toNat 0 8)))
      else pure none
    let rl ← if x.cpfl.getLsbD 17 then do
        pure (some (← entrySync (bitsOf x.cpfl.toNat 8 8)))
      else pure none
    let s ← get
    match (List.range 64).find? (fun i => (tget s.myCore.tags i).isNone) with
    | none =>
      if s.myCore.tags.any (fun t => t.2.st == .flight) then waitFor .wmem (.tagFree s.cc) else raiseV .notag
    | some t => do
      checkS rd
      modify (fun s => s.launchCopy t aq rl)
      finish 8 [.s rd (BitVec.ofNat 64 t)]) s

/-- The fault of the lowest faulted tag of a set of bits (R239). -/
def State.tagFault (s : State) (m : Word) : Option Cause :=
  s.myCore.tags.findSome? (fun t => if m.getLsbD t.1 && t.2.st == .faulted then t.2.fault else none)

/-- A copy fault is raised at a wait instruction (R239). -/
def raiseTag (m : Word) : M Unit := fun s =>
  match s.tagFault m with
  | some c => .error (.fault c)
  | none => .ok ((), s)

/-- CPWANY (R239). -/
def execCpwany (g : Guard) (rd : SDst) (a : SSrc) (s : State) : Out :=
  run (copyInfo g [a] [rd] false) (do
    let m ← readS a
    let s ← get
    if m != 0 && (s.myCore.cpdone &&& m) == 0 then waitFor .wmem (.cpAny s.cc m)
    raiseTag (s.myCore.cpdone &&& m)
    finish 8 [.s rd (s.myCore.cpdone &&& m)]) s

/-- CPWALL (R239). -/
def execCpwall (g : Guard) (rd : SDst) (a : SSrc) (s : State) : Out :=
  run (copyInfo g [a] [rd] false) (do
    let m ← readS a
    let s ← get
    if (s.myCore.cpdone &&& m) != m then waitFor .wmem (.cpAll s.cc m)
    raiseTag m
    finish 8 [.s rd (s.myCore.cpdone &&& m)]) s

/-- CPFF (R239). -/
def execCpff (g : Guard) (rd : SDst) (a : SSrc) (s : State) : Out :=
  run (copyInfo g [a] [rd] false) (do
    let m ← readS a
    let s ← get
    match (List.range 64).find? (fun t => (s.myCore.cpdone &&& m).getLsbD t) with
    | none => finish 8 [.s rd 64]
    | some t => do
      raiseTag (BitVec.ofNat 64 (2 ^ t))
      finish 8 [.s rd (BitVec.ofNat 64 t)]) s

/-- CPCLR (R239). -/
def execCpclr (g : Guard) (a : SSrc) (s : State) : Out :=
  run (copyInfo g [a] [] true) (do
    let m ← readS a
    modify (fun s => (s.modMyCore (fun y =>
      let gone := y.cpdone &&& m
      { y with cpdone := y.cpdone &&& ~~~m, tags := y.tags.filter (fun t => !gone.getLsbD t.1) })).retire 8)) s

/-- A free of a multicast tile by a core, with a token (R241; log 118). -/
def State.freeTile (s : State) (c : Nat) (token : Word) : State :=
  let snd := bitsOf token.toNat 0 13
  let t := bitsOf token.toNat 16 6
  let drop : State := s.modCore c (fun y => { y with drops := y.drops + 1 })
  match tget (s.core snd).trees t, receiverBit snd c with
  | some e, some q =>
    if token &&& ~~~0x3F_1FFF != 0 || !e.mask.getLsbD q then drop
    else
      let e := { e with frees := tset e.frees q (tgetD e.frees q 0 + 1) }
      s.modCore snd (fun y => { y with trees := tset y.trees t e })
  | _, _ => drop

/-- CPCLR.f (R239, R241). -/
def execCpclrF (g : Guard) (a : SSrc) (s : State) : Out :=
  run (copyInfo g [a] [] true) (do
    let t ← readS a
    modify (fun s => (s.freeTile s.cc t).retire 8)) s

/-- CPCHK (R239). -/
def execCpchk (g : Guard) (rd : SDst) (a : SSrc) (s : State) : Out :=
  runPuts (copyInfo g [a] [rd] false) (do
    let m ← readS a
    ensure (m.toNat / 64 == 0) .illegal
    let s ← get
    let v : Word := match tget s.myCore.tags (m.toNat % 64) with
      | none => 0
      | some t => if isMc t.cpfl then t.rmap else t.map
    pure [.s rd v]) s

/-! The engine. -/

/-- The locations of a piece's source (R221, R238). -/
def State.pieceSrc (s : State) (c part : Nat) (a : Word) (n : Nat) : Except Cause (List Nat) :=
  let via := s.viaCore c part
  match s.locate via { r := true } allSpaces a.toNat n 1 with
  | .fault f => .error (s.firstFault via { r := true } allSpaces a.toNat f n)
  | .miss _ => .error { code := .page, tval := a }
  | .at src =>
    match s.mem.badAt src with
    | some i => .error { code := .ue, tval := BitVec.ofNat 64 ((a.toNat + i) / 8 * 8), acc := .read }
    | none => .ok src

/-- The locations of a piece's destination (R221, R238); `tgt` is the core whose store a destination in space 0x8 names. -/
def State.pieceDst (s : State) (tgt part : Nat) (b : Word) (n : Nat) : Except Cause (List Nat) :=
  let via := s.viaCore tgt part
  match s.locate via { w := true } allSpaces b.toNat n 1 with
  | .fault f => .error (s.firstFault via { w := true } allSpaces b.toNat f n)
  | .miss _ => .error { code := .page, tval := b }
  | .at dst =>
    if spaceOf b.toNat = 0x8 && !s.holdsCore part tgt then .error { code := .prot, tval := b, acc := .write, kind := 1 }
    else
      match s.mem.badAt dst, dst.findIdx? (fun l => s.mem.waited (l / 8 * 8)) with
      | _, some i => .error { code := .prot, tval := b + BitVec.ofNat 64 i, acc := .write, kind := 2 }
      | some i, none => .error { code := .ue, tval := BitVec.ofNat 64 ((b.toNat + i) / 8 * 8), acc := .write }
      | none, none => .ok dst

/-- Where the pieces of a chunk lie: source and destination locations, with their KV sides (R221, R238). -/
def State.chunkWhere (s : State) (c part : Nat) : List (Word × Word × Nat) →
    Except Cause (List (List Nat × List Nat × Option KvExt))
  | [] => .ok []
  | (a, b, n) :: r =>
    match s.pieceSrc c part a n with
    | .error f => .error f
    | .ok src =>
      match s.pieceDst c part b n with
      | .error f => .error f
      | .ok dst =>
        match s.chunkWhere c part r with
        | .error f => .error f
        | .ok l => .ok ((src, dst, s.kvExt [b.toNat] n) :: l)

/-- The bytes of a piece move one by one (R244). -/
def State.moveBytes (s : State) (reader writer : Agent) : List Nat → List Nat → State
  | a :: r, b :: q =>
    let (bs, s) := s.loadNow reader [a]
    (s.storeUnits writer [[(b, bs.headD 0)]] none).moveBytes reader writer r q
  | _, _ => s

/-- The tag becomes faulted (R239). -/
def State.faultTag (s : State) (c t : Nat) (e : CopyTag) (f : Cause) : State :=
  s.modCore c (fun y => { y with
    cpdone := y.cpdone ||| BitVec.ofNat 64 (2 ^ t)
    tags := tset y.tags t { e with st := .faulted, fault := some { f with ctag := some (Fin.ofNat 64 t) } } })

/-- A chunk has landed: at one receiver for a multicast copy (R238, R241). -/
def CopyTag.landed (e : CopyTag) (chunk : Nat) (q : Option Nat) : CopyTag :=
  match q with
  | none => { e with map := e.map ||| BitVec.ofNat 64 (2 ^ chunk) }
  | some q =>
    let bit := BitVec.ofNat 64 (2 ^ chunk)
    let m := tgetD e.rcv q (startMap (copySize e.cpsz)) ||| bit
    let rcv := tset e.rcv q m
    let all := (List.range 64).all (fun p => !e.cpxs.getLsbD p ||
      (tgetD rcv p 0).getLsbD chunk)
    { e with
      got := if all then e.got.filter (fun g => g.1 != chunk) else e.got
      rcv, rmap := if m = BitVec.allOnes 64 then e.rmap ||| BitVec.ofNat 64 (2 ^ q) else e.rmap
      map := if all then e.map ||| bit else e.map }

/-- A chunk of a copy, at a receiver for a multicast copy, may be begun and has not landed (R238, R240). -/
def CopyTag.wants (e : CopyTag) (chunk : Nat) (q : Option Nat) : Bool :=
  decide (chunk < 64) && e.st == .flight &&
  match q with
  | none => !e.map.getLsbD chunk
  | some q => e.cpxs.getLsbD q && !(tgetD e.rcv q (startMap (copySize e.cpsz))).getLsbD chunk

/-- The engine of a core may begin a chunk (R240, R375). -/
def State.engineRuns (s : State) (c part : Nat) : Bool :=
  s.runs c && !(s.part part).stopping && !(s.part part).preempted

/-- A chunk has landed: its tag and its count (R363). -/
def State.chunkDone (s : State) (c t chunk : Nat) (q : Option Nat) (e : CopyTag) : State :=
  (s.modCore c (fun y => { y with tags := tset y.tags t (e.landed chunk q) })).count c e.ctx 0x0F 1

/-- The bytes of a chunk move, or the chunk faults (R238, R239; log 71). -/
def State.moveChunk (s : State) (c t chunk : Nat) (e : CopyTag) (pieces : List (Word × Word × Nat)) : State :=
  match s.chunkWhere c e.part pieces with
  | .error f => s.faultTag c t e f
  | .ok ws =>
    let far := farNeed (farLines ((pieces.zip ws).map (fun p => (p.1.1.toNat, p.2.1))))
    let (ok, s) := s.farAsk (.copy c t) chunk far
    if !ok then s
    else
      let via := s.viaCore c e.part
      let s := (pieces.zip ws).foldl (fun s p => (s.used via e.ctx p.1.1.toNat p.2.1).used via e.ctx p.1.2.1.toNat p.2.2.1) s
      (ws.foldl (fun s w => (s.moveBytes (.copy c t) (.ctx c e.ctx) w.1 w.2.1).extend w.2.2) s).chunkDone c t chunk none e

/-- A chunk of a multicast copy is read once, and its bytes go to each receiver (R241): this landing is that at receiver `q`. -/
def State.castChunk (s : State) (c t chunk q : Nat) (e : CopyTag) (a b : Word) (n : Nat) : State :=
  let via := s.viaCore c e.part
  let put (s : State) (bs : List Byte) (e : CopyTag) : State :=
    match s.pieceDst (receiverCore c q) e.part b n with
    | .error f => s.faultTag c t e f
    | .ok dst => (s.storeUnits (.ctx c e.ctx) ((dst.zip bs).map (fun x => [x])) none).chunkDone c t chunk (some q) e
  match tget e.got chunk with
  | some bs => put s bs e
  | none =>
    match s.pieceSrc c e.part a n with
    | .error f => s.faultTag c t e f
    | .ok src =>
      let (ok, s) := s.farAsk (.copy c t) chunk (farNeed (farLines [(a.toNat, src)]))
      if !ok then s
      else
        let (bs, s) := (s.used via e.ctx a.toNat src).loadUnits (.copy c t) (src.map (fun l => [l]))
        put s bs { e with got := tset e.got chunk bs }

/-- A chunk lands, where its core's image is in place (R208, R238, R241). -/
def State.landChunk (s : State) (c t chunk : Nat) (q : Option Nat) (e : CopyTag) : State :=
  let size := copySize e.cpsz
  let n := chunkSize size
  let pieces := copyPieces e (chunk * n) (min n (size - chunk * n)) (n + 1)
  let lanes := pieces.any (fun p => spaceOf p.1.toNat == 0x9 || spaceOf p.2.1.toNat == 0x9)
  if lanes && !s.foldReady c then s
  else
    match q with
    | none => s.moveChunk c t chunk e pieces
    | some q =>
      match pieces with
      | (a, b, m) :: _ => s.castChunk c t chunk q e a b m
      | [] => s

/-- Where a sync word of a copy lies at its acquire or release (R218, R254), or the fault of it (R239). -/
def State.copySync (s : State) (c : Nat) (e : CopyTag) (need : Need) (y : Word) : Except Cause Nat :=
  match s.locate (s.viaCore c e.part) need syncSpaces y.toNat 8 8 with
  | .fault f => .error f
  | .miss _ => .error { code := .page, tval := y, acc := need.acc }
  | .at ls =>
    if need.w && ls.any (fun l => s.mem.waited (l / 8 * 8)) then .error { code := .prot, tval := y, acc := .write, kind := 2 }
    else if (s.mem.badAt ls).isSome then .error { code := .ue, tval := y, acc := need.acc }
    else .ok (ls.headD 0)

/-- The acquire of a copy, before its first read (R238). -/
def State.copyAcquire (s : State) (c t : Nat) (e : CopyTag) (y : Word) : State :=
  if s.turn e.part 1 y c (s.vOf c e.ctx) then
    match s.copySync c e { r := true } y with
    | .error f => s.faultTag c t e f
    | .ok loc =>
      let (_, s) := (s.used (s.viaCore c e.part) e.ctx y.toNat (locsFrom loc 8)).acquireBy (.copy c t) (copyScope e.cpfl) e.part loc y
      (s.modCore c (fun k => { k with tags := tset k.tags t { e with acquired := true } })).logged e.part 1 y c (s.vOf c e.ctx)
  else s.checkVacant e.part 1 y

/-- COPY_CHUNK_LAND (R238, R239): for a multicast copy, `chunk` names chunk `chunk mod 64` at receiver `chunk / 64`. A copy
that is to acquire does so in a step of its own. -/
def execCopyChunkLand (core tag chunk : Nat) (s : State) : Out :=
  match tget (s.core core).tags tag with
  | none => .next s
  | some e =>
    let mc := isMc e.cpfl
    let q : Option Nat := if mc then some (chunk / 64) else none
    let k := if mc then chunk % 64 else chunk
    if !s.engineRuns core e.part || e.st != .flight then .next s
    else
      match (if e.acquired then none else e.aq) with
      | some y => .next (s.copyAcquire core tag e y)
      | none => if e.wants k q then .next (s.landChunk core tag k q e) else .next s

/-- Every byte of a copy has been written, at every receiver. -/
def CopyTag.whole (e : CopyTag) : Bool := e.map == BitVec.allOnes 64 && (!isMc e.cpfl || (e.cpxs &&& ~~~e.rmap) == 0)

/-- A copy is done (R238). -/
def State.copyDone (s : State) (c t : Nat) (e : CopyTag) : State :=
  (s.modCore c (fun y => { y with
    cpdone := y.cpdone ||| BitVec.ofNat 64 (2 ^ t), tags := tset y.tags t { e with st := .done } })).trace c e.ctx 0x05 0
    (BitVec.ofNat 64 (t + copySize e.cpsz % 2 ^ 31 * 2 ^ 8))

/-- COPY_COMPLETE (R238): the value its release writes is free (log 42). -/
def execCopyComplete (core tag : Nat) (s : State) : Out :=
  match tget (s.core core).tags tag with
  | none => .next s
  | some e =>
    if !s.engineRuns core e.part || e.st != .flight || !e.whole then .next s
    else
      match e.rl with
      | none => .next (s.copyDone core tag e)
      | some y =>
        let a : Agent := .ctx core e.ctx
        if !s.releaseReady a (copyScope e.cpfl) e.part y then .next s
        else if !s.turn e.part 1 y core (s.vOf core e.ctx) then .next (s.checkVacant e.part 1 y)
        else
          match s.copySync core e { w := true } y with
          | .error f => .next (s.faultTag core tag e f)
          | .ok loc =>
          let v := Config.releaseValue s.fresh
          .next ((({ s with fresh := s.fresh + 1 }.releaseBy a (copyScope e.cpfl) loc v).copyDone core tag e).logged e.part 1 y core (s.vOf core e.ctx))

/-- FREEBACK_COMBINE (R241; log 118). -/
def execFreebackCombine (core tag : Nat) (s : State) : Out :=
  match tget (s.core core).trees tag with
  | none => .next s
  | some e =>
    let ok := e.mask != 0 && (List.range 64).all (fun q => !e.mask.getLsbD q || e.forwarded < tgetD e.frees q 0)
    if !ok || !s.runs core then .next s
    else
      .next (s.modCore core (fun y =>
        let b := tgetD y.mbox e.fbox {}
        { y with
          trees := tset y.trees tag { e with forwarded := e.forwarded + 1 }
          mbox := tset y.mbox e.fbox { b with count := b.count + 1 }
          recv := y.recv + 1 }))

end Sys2Proof.Machine
end

