-- ==== Sys2Proof/Machine/LoopInstr.lean ====
section
/-! DEFINITION. Major 0x02: LOOP, ENDL, BRK, IRET, VSEED and LFREE (R97 to R120). -/

namespace Sys2Proof.Machine

/-- A context that runs an iteration of a loop with a crew may not open or free frames (R98, R115, R119); FNEST is
instruction-precise (R116; log 119). -/
def checkNest : M Unit := fun s =>
  match s.curIter s.cc s.ck with
  | some (f, _) => if 1 < (s.fr s.cc f).a then .error (.trap { code := .fnest }) else .ok ((), s)
  | none => .ok ((), s)

/-- The faults of LOOP and VSEED that are instruction-precise in an uncommitted iteration too (R116; log 119). -/
def openFaults : List FaultCode := [.fnest, .frame, .illegal]

/-- Contexts with a lower number that wait for a frame of the core (R98). -/
def State.frameWaiters (s : State) (c k : Nat) : Nat :=
  (List.range k).countP (fun j => match (s.ctx c j).wait with | some (_, .frameFree _) => true | _ => false)

/-- The frame of the context's level: the one it holds, or the lowest free one (R98, R115). A context that holds no frame gives way to
lower-numbered ones that wait; one that holds a frame at the other level never waits. DESIGN CHOICE: in an iteration of a
level-2 loop with A = 1 the held level-2 frame is the one of R98, though it runs (R115; log 122). -/
def claimFrame : M (Fin 2) := fun s =>
  let l := s.levelOf s.cc s.ck
  match s.heldFrame s.cc s.ck l with
  | some f => .ok (f, s)
  | none =>
    let free := ([0, 1] : List (Fin 2)).filter (fun f => (s.fr s.cc f).st == .free)
    let other := (s.heldFrame s.cc s.ck (3 - l)).isSome
    match free with
    | f :: _ =>
      if other || s.frameWaiters s.cc s.ck < free.length then
        .ok (f, s.setFr s.cc f { st := .seed, level := l, opener := s.ck })
      else .error (.wait .wver (.frameFree s.cc))
    | [] =>
      if other then .error (.trap { code := .frame })
      else .error (.wait .wver (.frameFree s.cc))

/-- A vacant context that a crew may claim: neither the keeper nor another virtual core's (R19, R99, R404). -/
def State.claimable (s : State) (c k : Nat) : Bool :=
  (s.core c).mask.getLsbD k && (s.ctx c k).vctx != 0 && (s.ctx c k).run == .vacant && !(s.ctx c k).stopped

/-- A member's registers at join: x and g are the opener's, v and z are free (R82, R87, R372; log 4). DESIGN CHOICE: TCAUSE, TPC,
TVAL, BSM and CTXST.H, which R82 and R87 do not list, take their reset values (log 123). -/
def joinCtx (op x : Ctx) (idx tick : Nat) : Ctx :=
  { x := op.x, g := op.g
    v := Vector.ofFn (fun (i : Fin 16) =>
      { bits := (Config.joinBits (tick * 18 + i.val)).setWidth 1024, tag := Config.joinTag (tick * 18 + i.val) })
    z := Vector.ofFn (fun (i : Fin 2) =>
      { bits := Config.joinBits (tick * 18 + 16 + i.val), tag := Config.joinTag (tick * 18 + 16 + i.val) })
    rm := op.rm, crew := idx, cm := true, tvec := op.tvec, ydl := op.ydl, qmap := op.qmap
    cps := op.cps, cpd := op.cpd, cpxs := op.cpxs, cpys := op.cpys, cpsz := op.cpsz, cpfl := op.cpfl
    dbc := { op.dbc with stop := false, steps := 0 }
    counts := x.counts, vcid := x.vcid, vctx := x.vctx, run := .held }

/-- Claims the crew of a loop (R99): each member takes its registers and begins its first iteration. -/
def State.joinCrew (s : State) (c : Nat) (f : Fin 2) (op : Ctx) : List Nat → Nat → State
  | [], _ => s
  | k :: r, idx =>
    let s := { (s.setCtx c k (joinCtx op (s.ctx c k) idx s.fresh)) with fresh := s.fresh + 1 }
    (s.beginIter c f idx k).joinCrew c f op r (idx + 1)

/-- LOOP and LOOP.open with the trip count `count` (R98). -/
def loopBody (count : M Nat) (len : Nat) (w c : Fin 8) (om opn : Bool) (ofs : BitVec 12) : M Unit := do
  let fin := (← get).me.pc + BitVec.ofNat 64 (4 * ofs.toNat)
  checkNest
  let n ← count
  if n = 0 then
    modify (fun s =>
      let s := match s.heldFrame s.cc s.ck (s.levelOf s.cc s.ck) with
        | some f => s.freeFrame s.cc f
        | none => s
      (s.retire len).modMe (fun x => { x with pc := fin + 8 }))
  else
    let f ← claimFrame
    modify (fun s =>
      let F := s.fr s.cc f
      let op := s.me
      let crew := ((List.range 16).filter (s.claimable s.cc)).take (min (c.val + 1) n - 1)
      let s := s.setFr s.cc f { F with
        st := .run, trip := n, w := w.val, c := c.val + 1, om, opn, body := op.pc + BitVec.ofNat 64 len, fin
        setl := 0, brkd := false, rst := false, last := -1, members := s.ck :: crew, virt := [], its := [], held := []
        vers := if F.st = .exit then [] else F.vers.filter (fun v => decide (v.iter < 0)) }
      let s := s.retire len
      (s.beginIter s.cc f 0 s.ck).joinCrew s.cc f op crew 1)

/-- The trip count of LOOP (R97, R98). -/
def LoopCount.read : LoopCount → M Nat
  | .lit n => pure n.toNat
  | .reg a => do
    let v ← readS a
    pure (min v.toNat (2 ^ 32 - 1))

/-- The instruction's length with a trip count (R97). -/
def LoopCount.len : LoopCount → Nat
  | .lit _ => 12
  | .reg _ => 8

/-- The scalar name a trip count reads. -/
def LoopCount.srcs : LoopCount → List SSrc
  | .lit _ => []
  | .reg a => [a]

/-- The guard of LOOP and ENDL: always on (R97). -/
def noGuard : Guard := ⟨false, 0⟩

/-- LOOP (R98). -/
def execLoop (count : LoopCount) (w c : Fin 8) (om : Bool) (ofs : BitVec 12) (s : State) : Out :=
  run { infoOf noGuard (LoopCount.len count) 1 (LoopCount.srcs count) [] [] [] with bar := true }
    (preciseOn openFaults (loopBody (LoopCount.read count) (LoopCount.len count) w c om false ofs)) s

/-- LOOP.open (R98). -/
def execLoopOpen (w c : Fin 8) (om : Bool) (ofs : BitVec 12) (s : State) : Out :=
  run { g := noGuard, bar := true } (preciseOn openFaults (loopBody (pure (2 ^ 32)) 8 w c om true ofs)) s

/-- The first iteration from `n` on that member `j` of `a` runs (R99, R117). -/
def nextOf (n a j : Nat) : Nat := n + (j + a - n % a) % a

/-- After its iteration has completed a member begins its next one, parks or waits for the exit (R111); while the oldest
iteration's fault is handled its next one waits for the restart (R116). -/
def State.nextIter (s : State) (c : Nat) (f : Fin 2) (i k : Nat) : State :=
  let F := s.fr c f
  let next := nextOf (i + 1) F.a (F.members.idxOf k)
  if F.st != .run then s
  else if F.trip ≤ next then
    if k = F.opener then s.modCtx c k (fun x => { x with wait := some (.wver, .held) })
    else s.modCtx c k (fun x => { x with run := .parked })
  else if F.rst then
    ((s.beginIter c f next k).modFr c f (fun F => F.modIt next (fun t => { t with squashed := true }))).modCtx c k
      (fun x => { x with wait := some (.wver, .held) })
  else s.beginIter c f next k

/-- An iteration retires, carries what it has not written and completes (R104, R105, R111). -/
def State.completeIter (s : State) (c : Nat) (f : Fin 2) (i : Nat) : State :=
  s.modFr c f (fun F => (F.carryAll i).modIt i (fun t => { t with retired := true, completed := true }))

/-- ENDL (R111). -/
def execEndl (s : State) : Out :=
  run { g := noGuard, bar := true } (do
    let s ← get
    match s.curIter s.cc s.ck with
    | none => raiseV .illegal
    | some (f, t) =>
      ensure (s.me.pc == (s.fr s.cc f).fin) .illegal
      modify (fun s =>
        let c := s.cc
        let k := s.ck
        (((s.retire 8).completeIter c f t.i).settleLoop c f).nextIter c f t.i k)) s

/-- A break of the oldest iteration: it completes and settles, the younger are squashed, the loop exits (R113). -/
def State.breakLoop (s : State) (c : Nat) (f : Fin 2) (i k : Nat) : State :=
  let s := (s.completeIter c f i).drainHeld c f i
  let s := (s.count c (s.fr c f).opener 0x10 1).trace c k 0x03 (s.fr c f).fin
    (BitVec.ofNat 64 (i % 2 ^ 32 + f.val * 2 ^ 32))
  (s.squashFrom c f (i + 1)).exitLoop c f i true

/-- BRK (R113). -/
def execBrk (g : Guard) (s : State) : Out :=
  run { g, side := true, bar := true } (do
    let s ← get
    match s.curIter s.cc s.ck with
    | none => raiseV .illegal
    | some (f, t) => modify (fun s => (s.retire 8).breakLoop s.cc f t.i s.ck)) s

/-- The acting context runs an iteration of a level-2 loop. -/
def State.innerLoop (s : State) : Bool := (s.curIter s.cc s.ck).any (fun p => (s.fr s.cc p.1).level == 2)

/-- BRK.o (R113): ILLEGAL comes before the wait for the iteration's turn. -/
def execBrkO (g : Guard) (s : State) : Out :=
  run { g, side := s.innerLoop, bar := true } (do
    let s ← get
    match s.curIter s.cc s.ck with
    | none => raiseV .illegal
    | some (f, t) =>
      ensure ((s.fr s.cc f).level == 2) .illegal
      modify (fun s =>
        let c := s.cc
        let k := (s.fr c f).opener
        let s := (((s.retire 8).breakLoop c f t.i s.ck)).freeFrame c f
        match s.curIter c k with
        | some (o, u) => s.breakLoop c o u.i k
        | none => s)) s

/-- IRET (R105). -/
def execIret (g : Guard) (s : State) : Out :=
  run { g } (do
    let s ← get
    match s.curIter s.cc s.ck with
    | none => raiseV .illegal
    | some (f, t) =>
      modify (fun s => (s.modFr s.cc f (fun F => F.modIt t.i (fun u => { u with retired := true }))).retire 8)) s

/-- The name of a seed in the frame. -/
def SeedName.num : SeedName → Nat
  | .l r => r.val
  | .w r => 16 + r.val

/-- The value of VSEED's source (R119). -/
def SeedSrc.read : SeedSrc → M (BitVec 1024 × Tag)
  | .s a => do let v ← readS a; pure (v.setWidth 1024, .raw)
  | .v a => do let v ← readV a; pure (v.bits, v.tag)
  | .lit i => pure (i.val.setWidth 1024, .raw)

/-- The issue of VSEED. -/
def seedInfo (g : Guard) : SeedSrc → Info
  | .s a => infoOf g 8 1 [a] [] [] []
  | .v a => infoOf g 8 1 [] [a] [] []
  | .lit i => infoOf g (formLen i.form) 1 [] [] [] []

/-- VSEED (R119; log 69). DESIGN CHOICE: SETL, BRKD, OM, OPEN and W of a frame that goes from exit to seed state stay those of the
ended loop until LOOP sets them (R96; log 124). -/
def execVseed (g : Guard) (dst : SeedName) (k : Fin 8) (src : SeedSrc) (s : State) : Out :=
  let i := seedInfo g src
  run i (preciseOn openFaults (do
    checkNest
    let f ← claimFrame
    modify (fun s => s.modFr s.cc f (fun F => { F with st := .seed, vers := if F.st = .exit then [] else F.vers }))
    let v ← SeedSrc.read src
    modify (fun s => (s.modFr s.cc f (fun F => F.setVer
      { name := SeedName.num dst, iter := -(k.val : Int), carried := false, need := 0, bits := v.1, tag := v.2 })).retire
        i.len))) s

/-- LFREE (R120). -/
def execLfree (g : Guard) (s : State) : Out :=
  run { g } (do
    checkNest
    modify (fun (s : State) =>
      let s := match s.heldFrame s.cc s.ck (s.levelOf s.cc s.ck) with
        | some f => if (s.fr s.cc f).st = FrameState.seed ∨ (s.fr s.cc f).st = FrameState.exit then s.freeFrame s.cc f else s
        | none => s
      s.retire 8)) s

end Sys2Proof.Machine
end

