-- ==== Sys2Proof/Machine/Matrix.lean ====
section
/-! DEFINITION. Accumulators, the weight buffer and the array: majors 0x0C and 0x0D (R154 to R157, R190 to R202). -/

namespace Sys2Proof.Machine

/-! Accumulators. -/

/-- The issue of an instruction of major 0x0C on an accumulator as a whole. -/
def zInfo (g : Guard) (ss : List SSrc) (vs : List VSrc) : Info := infoOf g 8 1 ss vs [] []

/-- ZCLR (R199). -/
def execZclr (g : Guard) (z : Fin 2) (t : Tag) (s : State) : Out := runPuts (zInfo g [] []) (pure [.z z 0 t]) s

/-- The elements of a scaled accumulator, and the flags (R199). -/
def scaleElems (z : BitVec 8192) (v : BitVec 1024) (n : Nat) : Nat × FF :=
  fp32.mul .ne (getElem z n).toNat (getLane v (n % 16)).toNat

/-- ZSCALE (R199). -/
def execZscale (g : Guard) (z : Fin 2) (a : VSrc) (s : State) : Out :=
  runPuts (zInfo g [] [a]) (do
    let v ← readV a
    if v.tag != .fp32 then fmtFault v.tag 1
    let x ← readZ z
    if x.tag != .fp32 && x.tag != .raw then fmtFault x.tag 0
    pure [.z z (ofElems (fun n => BitVec.ofNat 32 (scaleElems x.bits v.bits n).1)) .fp32
      , .ff ((List.range 256).foldl (fun f n => f ||| (scaleElems x.bits v.bits n).2) 0)]) s

/-- ZRD (R191, R199). -/
def execZrd (g : Guard) (vd : VDst) (z : Fin 2) (p : Fin 8) (s : State) : Out :=
  runPuts (infoOf g 8 allOn [] [] [] [vd]) (do
    let x ← readZ z
    pure [.v vd (← maskOf g) (ofLanes (fun n => getElem x.bits (32 * p.val + n))) x.tag]) s

/-- ZWR (R191, R199). -/
def execZwr (g : Guard) (z : Fin 2) (a : VSrc) (p : Fin 8) (s : State) : Out :=
  runPuts (infoOf g 8 allOn [] [a] [] []) (do
    let v ← readV a
    if v.tag != .fp32 && v.tag != .int32 && v.tag != .raw then fmtFault v.tag 1
    let x ← readZ z
    let m ← maskOf g
    pure [.z z (ofElems (fun n =>
      if n / 32 = p.val && m.getLsbD (n % 32) then getLane v.bits (n % 32) else getElem x.bits n)) v.tag]) s

/-- ZLD (R200). -/
def execZld (g : Guard) (z : Fin 2) (xb : SSrc) (t : Tag) (imm : Imm) (s : State) : Out :=
  runEff (infoOf g (formLen imm.form) 1 [xb] [] [] []) (do
    let a ← addrOf xb imm.val
    watchCheck 1 ((List.range 1024).map (fun i => a.toNat + i))
    omCheck
    let ls ← locM { r := true } allSpaces a.toNat 1024 64
    farCheck [(a.toNat, ls)]
    let s ← get
    let units := (List.range 256).map (fun n => s.unitOf ((ls.drop (4 * n)).take 4))
    pure { load := some (units, .acc z t, .z z 0 t) }) s

/-- ZST (R200): eight store-queue entries of 128 bytes. -/
def execZst (g : Guard) (z : Fin 2) (xb : SSrc) (imm : Imm) (s : State) : Out :=
  runEff (infoOf g (formLen imm.form) 1 [xb] [] [] []) (do
    let a ← addrOf xb imm.val
    let x ← readZ z
    watchCheck 2 ((List.range 1024).map (fun i => a.toNat + i))
    let ls ← locM { w := true } allSpaces a.toNat 1024 64
    checkWaiters a.toNat ls
    storeRoom 8
    let s ← get
    let cells := ls.zip (bytesOf 1024 x.bits)
    let unit (n : Nat) : List Host.Cell := (cells.drop (4 * n)).take 4
    pure { puts := (List.range 8).map (fun j =>
      .mem ((List.range 32).map (fun n => unit (32 * j + n))) (j == 7)
        (s.kvExt ((List.range 32).map (fun n => a.toNat + 128 * j + 4 * n)) 4)) }) s

/-! Weight descriptors. -/

/-- Bytes per element of a descriptor (R192). -/
def descEs (d : Word) : Nat := bitsOf d.toNat 34 2 + 1
/-- Rows of the tile (R192). -/
def descCnt (d : Word) : Nat := bitsOf d.toNat 18 14 + 1
/-- The weight-buffer offset (R192). -/
def descOff (d : Word) : Nat := bitsOf d.toNat 0 18
/-- A compressed source (R192). -/
def descC (d : Word) : Bool := d.getLsbD 32
/-- The end of the tile in the weight buffer. -/
def descEnd (d : Word) : Nat := descOff d + 16 * descEs d * descCnt d
/-- A valid descriptor, without the instruction's own conditions (R192). -/
def descOk (d : Word) : Bool :=
  bitsOf d.toNat 36 28 == 0 && !d.getLsbD 33 && bitsOf d.toNat 34 2 < 2 && descOff d % 16 == 0 &&
  decide (descEnd d ≤ 0x4_0000)

/-- An access joins the order of the weight buffer (R195). -/
def State.joinArray (s : State) (w : WAcc) : State := s.modMyCore (fun y => { y with wq := y.wq ++ [w] })

/-- The images of the lane slices and the weight buffer are those of the acting core, or it waits (R202; log 63). -/
def imageCheck : M Unit := fun s =>
  if s.foldReady s.cc then .ok ((), s) else .error (.wait .wmem (.fold s.myCore.home s.cc))

/-! The source of a weight load. -/

/-- Bytes that a context's loads read now, each on its own (R194, R108). -/
def State.readFor (s : State) (c k : Nat) : List Nat → List Byte × State
  | [] => ([], s)
  | l :: r =>
    match s.ownByte c k l with
    | some b =>
      let (bs, s1) := s.readFor c k r
      (b :: bs, s1)
    | none =>
      let (b, s1) := s.loadNow (s.agentOf c k) [l]
      let (bs, s2) := s1.readFor c k r
      (b.headD 0 :: bs, s2)

/-- A read of `n` bytes at an address for a context by the array's path (R194; log 7). -/
def State.fetchFor (s : State) (c k : Nat) (a : Word) (n : Nat) : Except Cause (List Byte × State) :=
  let via := s.viaCore c (s.core c).partid
  match s.locate via { r := true } allSpaces a.toNat n 1 with
  | .fault f => .error (s.firstFault via { r := true } allSpaces a.toNat f n)
  | .miss _ => .error { code := .page, tval := a }
  | .at ls =>
    match s.mem.badAt ls with
    | some i => .error { code := .ue, tval := BitVec.ofNat 64 ((a.toNat + i) / 8 * 8), acc := .read }
    | none => .ok ((s.used via k a.toNat ls).readFor c k ls)

/-- Reads of several addresses, joined. -/
def State.fetchAll (s : State) (c k n : Nat) : List Word → Except Cause (List Byte × State)
  | [] => .ok ([], s)
  | a :: r =>
    match s.fetchFor c k a n with
    | .error f => .error f
    | .ok (b, s1) =>
      match s1.fetchAll c k n r with
      | .error f => .error f
      | .ok (bs, s2) => .ok (b ++ bs, s2)

/-- A decompressed group (R155): `n` positions from `i` on, of a mask and its stored bytes. -/
def unpackGroup (mask : Nat) (bs : List Byte) (i : Nat) : Nat → List Byte
  | 0 => []
  | n + 1 =>
    if mask.testBit i then bs.headD 0x77 :: unpackGroup mask (bs.drop 1) (i + 1) n
    else (0x77 : Byte) :: unpackGroup mask bs (i + 1) n

/-- One row of a tile: its bytes and the address of the next row's source (R193). -/
def State.weightRow (s : State) (c k : Nat) (d : Word) (tr : Bool) (src : Word) (row : Nat) (p : Word) :
    Except Cause (List Byte × Word × State) :=
  let es := descEs d
  if tr then
    match s.fetchAll c k es ((List.range 16).map (fun i => src + BitVec.ofNat 64 (es * (descCnt d * i + row)))) with
    | .error f => .error f
    | .ok (bs, s1) => .ok (bs, p, s1)
  else if descC d then
    match s.fetchFor c k p 2 with
    | .error f => .error f
    | .ok (mb, s1) =>
      let mask := leVal mb
      let n := (List.range 16).countP (fun i => mask.testBit i)
      if n = 0 then .ok (unpackGroup mask [] 0 16, p + 2, s1)
      else
        match s1.fetchFor c k (p + 2) n with
        | .error f => .error f
        | .ok (bs, s2) => .ok (unpackGroup mask bs 0 16, p + 2 + BitVec.ofNat 64 n, s2)
  else
    match s.fetchFor c k p (16 * es) with
    | .error f => .error f
    | .ok (bs, s1) => .ok (bs, p + BitVec.ofNat 64 (16 * es), s1)

/-- The address after a compressed tile's rows, as their masks read now; a row that cannot be read ends it (R155, R193). -/
def State.weightEnd (s : State) (c k : Nat) (d : Word) (row : Nat) (p : Word) : Nat → Word
  | 0 => p
  | n + 1 =>
    match s.weightRow c k d false p row p with
    | .error _ => p
    | .ok (_, q, s1) => s1.weightEnd c k d (row + 1) q n

/-- How many bytes a WBLD or LDT loads from its address on (R193). -/
def State.weightBytes (s : State) (c k : Nat) (d a : Word) : Nat :=
  if descC d then ((s.weightEnd c k d 0 a (descCnt d)) - a).toNat else 16 * descEs d * descCnt d

/-- The bytes that the watchpoints see of a WBLD or LDT (R373). -/
def State.weightSpan (s : State) (c k : Nat) (d a : Word) : Nat :=
  if (s.cluster (s.clusterOf c)).bps.isEmpty then 0 else s.weightBytes c k d a

/-- The far-tier lines that a WBLD or LDT reads of the KV space (R194, R269). -/
def State.weightLines (s : State) (c k : Nat) (d a : Word) : List (Nat × Nat) :=
  if spaceOf a.toNat = 0xC then
    let acc := (List.range (s.weightBytes c k d a)).map (fun i =>
      match s.locate (s.viaCore c (s.core c).partid) { r := true } allSpaces (a.toNat + i) 1 1 with
      | .at ls => (a.toNat + i, ls)
      | _ => (a.toNat + i, []))
    farLines acc
  else []

/-! WBLD and LDT. -/

/-- WBLD and LDT at issue (R193): the source is read when the write is performed (R194). -/
def weightBody (xd xb : SSrc) (imm : Imm) (tr : Bool) : M Unit := do
  let a ← addrOf xb imm.val
  let d ← readS xd
  let s ← get
  watchCheck 1 ((List.range (s.weightSpan s.cc s.ck d a)).map (fun i => a.toNat + i))
  ensure (descOk d && !(tr && descC d) && !(descC d && descEs d != 1)) .illegal d
  if !descC d && a.toNat % 16 != 0 then raise { code := .align, tval := a, acc := .read }
  imageCheck
  sendRequest .weight .wmem (formLen imm.form) []
  modify (fun s => s.joinArray { ctx := s.ck, lo := descOff d, hi := descEnd d, load := some (d, a, tr) })

/-- The issue of WBLD and LDT: side-effect instructions (R200). -/
def weightInfo (g : Guard) (xd xb : SSrc) (imm : Imm) : Info :=
  { infoOf g (formLen imm.form) 1 [xb, xd] [] [] [] with side := true }

/-- WBLD (R193). -/
def execWbld (g : Guard) (xd xb : SSrc) (imm : Imm) (s : State) : Out :=
  run (weightInfo g xd xb imm) (weightBody xd xb imm false) s
/-- LDT (R193). -/
def execLdt (g : Guard) (xd xb : SSrc) (imm : Imm) (s : State) : Out :=
  run (weightInfo g xd xb imm) (weightBody xd xb imm true) s

/-- Bytes of the weight buffer from an offset on take values. -/
def wbufPut (w : List Host.Cell) (off : Nat) : List Byte → List Host.Cell
  | [] => w
  | b :: r => wbufPut (Memory.set w off b) (off + 1) r

/-- The rows of a tile from one on are written; a fault ends with the rows before it written (R194). -/
def State.weightRows (s : State) (c k : Nat) (d : Word) (tr : Bool) (src : Word) (row : Nat) (p : Word) :
    Nat → Option Cause × State
  | 0 => (none, s)
  | n + 1 =>
    match s.weightRow c k d tr src row p with
    | .error f => (some f, s)
    | .ok (bs, q, s1) =>
      (s1.modCore c (fun y => { y with wbuf := wbufPut y.wbuf (descOff d + 16 * descEs d * row) bs })).weightRows
        c k d tr src (row + 1) q n

/-- An access comes after an earlier one that it conflicts with (R195): they overlap and one of them writes. -/
def WAcc.after (w v : WAcc) : Bool :=
  decide (v.lo < w.hi) && decide (w.lo < v.hi) && (w.load.isSome || v.load.isSome)

/-- The earlier accesses of an access in the order. -/
def earlier (q : List WAcc) (i : Nat) : List WAcc := q.take i

/-- An access may take effect now (R195). -/
def mayRun (q : List WAcc) (i : Nat) : Bool :=
  match q[i]? with
  | none => false
  | some w => (earlier q i).all (fun v => !w.after v)

/-- The weight load of a context that may take effect now, oldest first, with its place in the order (R195). -/
def State.loadDue (s : State) (core ctx : Nat) : Option (Nat × WAcc × Word × Word × Bool) :=
  let q := (s.core core).wq
  match (List.range q.length).find? (fun i => mayRun q i && (q[i]?).any (fun w => w.ctx == ctx && w.load.isSome)) with
  | none => none
  | some i => (q[i]?).bind (fun w => w.load.map (fun l => (i, w, l)))

/-- WEIGHT_LOAD_COMPLETE (R194): once the far-read windows admit its source (R269), the rows are written; the instruction of a context that
has ended gets no reply (R292). -/
def execWeightLoadComplete (core ctx : Nat) (s : State) : Out :=
  match s.loadDue core ctx with
  | none => .next s
  | some (i, w, d, src, tr) =>
    if !s.runs core then .next s
    else
      let (ok, s) := s.farAsk (.ctx core ctx) (2 ^ 48 + i) (farNeed (s.weightLines core ctx d src))
      if !ok then .next s
      else
      let (f, t) := s.weightRows core ctx d tr src 0 src (descCnt d)
      let t := { (t.modCore core (fun y => { y with wq := ldel y.wq i })) with cur := (core, ctx) }
      match (if w.dropped then none else (s.ctx core ctx).pend), f with
      | none, _ => .next t
      | some p, none => .next (t.replyPuts p [])
      | some p, some c => .next (t.replyFault p c)

/-! The array. -/

/-- The three matrix operations by rows a cycle: 1 MMAB, 2 MMAI, 4 MMAD (R196). -/
def mmaElem (e : Nat) : Nat := if e = 1 then 2 else 1
/-- The largest K of an operation (R197). -/
def mmaMax (e : Nat) : Nat := if e = 1 then 512 else if e = 2 then 1024 else 2048
/-- The result tag of an operation (R197). -/
def mmaTag (e : Nat) : Tag := if e = 2 then .int32 else .fp32

/-- A matrix operation at issue (R197): the scales' address is read after the checks of the descriptor and of zd. DESIGN CHOICE:
the activation's address is checked wholly before that of the scales (log 126). -/
def mmaBody (e : Nat) (z : Fin 2) (xa xw xs : SSrc) : M Unit := do
  let a ← readS xa
  let d ← readS xw
  let k := descCnt d
  ensure (descOk d && !descC d && descEs d == mmaElem e && k % 16 == 0 && k ≤ mmaMax e) .illegal d
  let x ← readZ z
  if x.tag != mmaTag e && x.tag != .raw then fmtFault x.tag 0
  let sc ← readS xs
  let n := 16 * k * mmaElem e
  watchCheck 1 ((List.range n).map (fun i => a.toNat + i) ++
    if e = 4 then (List.range (k / 8)).map (fun i => sc.toNat + i) else [])
  omCheck
  let _ ← locM { r := true } [0x8] a.toNat n 32
  if e = 4 then
    let _ ← locM { r := true } [0x8] sc.toNat (k / 8) 2
  imageCheck
  sendRequest .array .wmem 8 []
  modify (fun s => s.joinArray
    { ctx := s.ck, lo := descOff d, hi := descEnd d, e, desc := d, z, xa := a, xs := sc })

/-- MMAB (R197). -/
def execMmab (g : Guard) (z : Fin 2) (xa xw : SSrc) (s : State) : Out := run (zInfo g [xa, xw] []) (mmaBody 1 z xa xw .zero) s
/-- MMAI (R197). -/
def execMmai (g : Guard) (z : Fin 2) (xa xw : SSrc) (s : State) : Out := run (zInfo g [xa, xw] []) (mmaBody 2 z xa xw .zero) s
/-- MMAD (R197). -/
def execMmad (g : Guard) (z : Fin 2) (xa xw xs : SSrc) (s : State) : Out :=
  run (zInfo g [xa, xw, xs] []) (mmaBody 4 z xa xw xs) s

/-- A little-endian 16-bit element of bytes. -/
def half16 (bs : List Byte) (i : Nat) : Nat := (bs.getD (2 * i) 0).toNat + 256 * (bs.getD (2 * i + 1) 0).toNat
/-- A signed byte. -/
def sbyte (b : Byte) : Int := b.toInt

/-- The exact sum of products, with its NaN and infinity cases (R157). -/
def sumNums (ps : List Num) : Num :=
  let pos := ps.any (fun p => p == .inf false)
  let neg := ps.any (fun p => p == .inf true)
  if ps.any Num.isNan || (pos && neg) then .nan (ps.any Num.sig || (pos && neg))
  else if pos then .inf false
  else if neg then .inf true
  else
    match ps with
    | [] => .fin false 0 0
    | p :: r => r.foldl (Num.add .ne) p

/-- An element of MMAB (R157). -/
def mmabElem (z : Lane) (row col : List Nat) : Lane × FF :=
  let p := sumNums ((row.zip col).map (fun x => (bf16.num x.1).mul (bf16.num x.2)))
  let (r, f) := fp32.ofNum .ne ((fp32.num z.toNat).add .ne p)
  (BitVec.ofNat 32 r, f)

/-- An element of MMAI (R157). -/
def mmaiElem (z : Lane) (row col : List Byte) : Lane × FF :=
  (BitVec.ofInt 32 (z.toInt + ((row.zip col).map (fun x => sbyte x.1 * sbyte x.2)).sum), 0)

/-- An element of MMAD, slice by slice (R157). -/
def mmadElem (z : Lane) (scale : Nat → Nat) (b : Nat) (row col : List Byte) : Nat → Lane × FF
  | 0 => (z, 0)
  | n + 1 =>
    let sum : Int := (((row.take 16).zip (col.take 16)).map (fun x => sbyte x.1 * dyadInt x.2.toNat)).sum
    let (f, f1) := if sum = 0 then (0, 0) else fp32.round .ne (decide (sum < 0)) sum.natAbs (-6)
    let (p, f2) := fp32.mul .ne f (scale b * 2 ^ 16)
    let (r, f3) := fp32.add .ne z.toNat p
    let (out, f4) := mmadElem (BitVec.ofNat 32 r) scale (b + 1) (row.drop 16) (col.drop 16) n
    (out, f1 ||| f2 ||| f3 ||| f4)

/-- An element for which invalid is raised raises no other flag (R151). -/
def onlyInvalid (f : FF) : FF := if f &&& ffNV != 0 then ffNV else f

/-- The element and flags of place `n` of a matrix operation (R157, R197). -/
def mmaElemAt (w : WAcc) (act scales : List Byte) (wb : List Host.Cell) (z : BitVec 8192) (n : Nat) : Lane × FF :=
  let k := descCnt w.desc
  let i := n / 16
  let j := n % 16
  let wbyte (x : Nat) : Byte := Memory.get wb (descOff w.desc + x)
  if w.e = 1 then
    mmabElem (getElem z n) ((List.range k).map (fun t => half16 act (k * i + t)))
      ((List.range k).map (fun t => (wbyte (32 * t + 2 * j)).toNat + 256 * (wbyte (32 * t + 2 * j + 1)).toNat))
  else
    let row := (act.drop (k * i)).take k
    let col := (List.range k).map (fun t => wbyte (16 * t + j))
    if w.e = 2 then mmaiElem (getElem z n) row col
    else
      let (r, f) := mmadElem (getElem z n) (half16 scales) 0 row col (k / 16)
      (r, onlyInvalid f)

/-- The effects of a matrix operation. -/
def mmaPuts (w : WAcc) (act scales : List Byte) (wb : List Host.Cell) (z : ZReg) : List Put :=
  let elems := (List.range 256).map (mmaElemAt w act scales wb z.bits)
  [.z w.z (ofElems (fun n => (elems.getD n (0, 0)).1)) (mmaTag w.e), .ff (elems.foldl (fun f x => f ||| x.2) 0)]

/-- The first matrix operation in the order. -/
def firstMma (q : List WAcc) : Option (Nat × WAcc) :=
  match q.findIdx? (fun w => w.e != 0) with
  | none => none
  | some i => (q[i]?).map (fun w => (i, w))

/-- The array starts its next operation when it may (R196, R197): the activations are read then. -/
def State.arrayStart (s : State) (c : Nat) : State :=
  let y := s.core c
  match firstMma y.wq with
  | none => s
  | some (i, w) =>
    let cyc := (s.core y.home).cyc.toNat
    let stop := (s.part y.partid).stopping
    if w.started.isSome || !mayRun y.wq i || stop || (y.arrayFree != 0 && cyc ≤ y.arrayFree) then s
    else
      let locs (a : Word) (n : Nat) : List Nat := (s.segLocs c (a.toNat % 2 ^ 20) n).getD []
      let k := descCnt w.desc
      let (act, s) := s.readFor c w.ctx (locs w.xa (16 * k * mmaElem w.e))
      let (sc, s) := if w.e = 4 then s.readFor c w.ctx (locs w.xs (k / 8)) else ([], s)
      s.modCore c (fun y => { y with wq := lset y.wq i { w with started := some (cyc, act, sc) } })

/-- The operation whose last cycle comes before cycle `now` (R196). -/
def State.arrayDue (s : State) (c now : Nat) : Option (Nat × WAcc × List Byte × List Byte) :=
  let y := s.core c
  match firstMma y.wq with
  | none => none
  | some (i, w) =>
    match w.started with
    | none => none
    | some (st, act, sc) =>
      if st + descCnt w.desc / w.e - 1 < now then some (i, w, act, sc) else none

/-- A core's cycle (R12). -/
def State.cycOf (s : State) (c : Nat) : Nat := (s.core (s.core c).home).cyc.toNat

/-- The array completes the operation whose last cycle comes before cycle `now` (R196, R198, R363). -/
def State.arrayComplete (s : State) (c now : Nat) : State :=
  match s.arrayDue c now with
  | none => s
  | some (i, w, act, sc) =>
    let t := ((s.modCore c (fun y => { y with wq := ldel y.wq i, arrayFree := now - 1 })).count c w.ctx 0x0D 1).count c 0 0x0E 1
    if w.dropped then t
    else
      match (s.ctx c w.ctx).pend with
      | some p =>
        if p.kind = .array then
          { (({ t with cur := (c, w.ctx) }).replyPuts p
              (mmaPuts w act sc (s.core c).wbuf ((s.ctx c w.ctx).z.get w.z))) with cur := s.cur }
        else t
      | none => t

/-- MATRIX_COMPLETE (R196): an operation whose last cycle has ended. -/
def execMatrixComplete (core : Nat) (s : State) : Out :=
  if s.runs core then .next (s.arrayComplete core (s.cycOf core)) else .next s

/-! SWAPT. -/

/-- The partner of a core (R201). -/
def partnerOf (c : Nat) : Nat := c / 4 * 4 + (3 - c % 4)

/-- The partner context: the one with the same context number on the partner core (R201, R404). -/
def State.mateOf (s : State) (c k : Nat) : Nat := (s.physOf (partnerOf c) (s.vOf c k)).getD k

/-- The transpose of an accumulator. -/
def transposeZ (z : BitVec 8192) : BitVec 8192 := ofElems (fun n => getElem z (n % 16 * 16 + n / 16))

/-- The exchange slot of a context is filled with a match (R201). -/
def State.matchExch (s : State) (c k : Nat) (e : Exch) (z : ZReg) : State :=
  s.modCtx c k (fun x => { x with exch := some { e with matched := some ((s.core (s.core c).home).cyc.toNat, z) } })

/-- A SWAPT of a context ends with a fault (R201). -/
def State.exchFault (s : State) (c k : Nat) (other : Byte) : State :=
  (s.modCtx c k (fun x => { x with exch := none, pend := none, wait := none })).takeFault c k
    { code := .illegal, tval := other.setWidth 64 }

/-- SWAPT (R201). -/
def execSwapt (g : Guard) (t : Bool) (zd zs : Fin 2) (key : Byte) (s : State) : Out :=
  run { g, side := true } (do
    sendRequest .swapt .wmsg 8 []
    let s ← get
    let c := s.cc
    let k := s.ck
    let p := partnerOf c
    let j := s.mateOf c k
    let mine : Exch := { key, t, zd, zs }
    match (s.ctx p j).exch with
    | none => set (s.modMe (fun x => { x with exch := some mine }))
    | some o =>
      if o.matched.isSome then set (s.modMe (fun x => { x with exch := some mine }))
      else if o.key = key then
        set ((s.matchExch c k mine ((s.ctx p j).z.get o.zs)).matchExch p j o (s.me.z.get zs))
      else
        throw (.done { ((s.exchFault p j key).exchFault c k o.key) with acct := .iss })) s

/-- The write of a context's matched exchange. -/
def State.exchWrite (s : State) (c k : Nat) : State :=
  match (s.ctx c k).exch, (s.ctx c k).pend with
  | some e, some p =>
    match e.matched with
    | none => s
    | some (_, z) =>
      let bits := if e.t then transposeZ z.bits else z.bits
      let t := { (s.modCtx c k (fun x => { x with exch := none })) with cur := (c, k) }
      { (t.replyPuts p [.z e.zd bits z.tag]) with cur := s.cur }
  | _, _ => s

/-- Cycle M + 15 of a matched exchange of a context comes before cycle `now` of its core (R201). -/
def State.exchDue (s : State) (c k now : Nat) : Bool :=
  match ((s.ctx c k).exch).bind Exch.matched with
  | some (m, _) => decide (m + 15 < now)
  | none => false

/-- Both writes of a matched exchange take effect together, at the end of cycle M + 15 of both cores; a side whose partner's context
has ended writes alone (R201). -/
def State.exchComplete (s : State) (c k now : Nat) : State :=
  if s.exchDue c k now then
    let p := partnerOf c
    let j := s.mateOf c k
    if (((s.ctx p j).exch).bind Exch.matched).isNone then s.exchWrite c k
    else if s.exchDue p j (s.cycOf p) then (s.exchWrite c k).exchWrite p j
    else s
  else s

/-- SWAPT_COMPLETE (R201): an exchange whose cycle M + 15 has ended. -/
def execSwaptComplete (core ctx : Nat) (s : State) : Out :=
  if s.runs core then .next (s.exchComplete core ctx (s.cycOf core)) else .next s

/-- The array has started an operation that it has not completed (R196). -/
def State.arrayRuns (s : State) (c : Nat) : Bool := (s.core c).wq.any (fun w => w.started.isSome)

/-- The array and the exchanges at the end of a core's cycle. -/
def State.unitsEnd (s : State) (c : Nat) : State :=
  let now := s.cycOf c + 1
  let s := (s.arrayStart c).arrayComplete c now
  let s := if s.arrayRuns c then s.count c 0 0x0E 1 else s
  (List.range 16).foldl (fun s k => if (s.ctx c k).exch.isSome then s.exchComplete c k now else s) s

/-- A copy under way of a core reads or writes its lane slices (R208, R238). -/
def State.copyAsks (s : State) (v : Nat) : Bool :=
  (s.core v).tags.any (fun t => t.2.st == .flight && s.engineRuns v t.2.part && t.2.map != BitVec.allOnes 64 &&
    (copyPieces t.2 0 (copySize t.2.cpsz) (nRow t.2.cpsz)).any (fun p => spaceOf p.1.toNat == 0x9 || spaceOf p.2.1.toNat == 0x9))

/-- A request of a core that has been sent and not answered names its lane slices (R208). -/
def State.laneBusy (s : State) (v : Nat) : Bool :=
  let mine (l : Nat) : Bool := l / 2 ^ 16 == locLane v 0 0 / 2 ^ 16
  (s.ctxsOf v).any (fun k => match (s.ctx v k).pend.map Pend.kind with
    | some (.load us _ _) => us.any (fun u => u.locs.any mine)
    | some (.atom _ _ loc _ _ _ _) => mine loc
    | _ => false)

/-- FOLD_SWAP (R202, R208, R276; log 63): the held image's accesses are complete, and the image that some access waits for comes in. -/
def execFoldSwap (phys virt : Nat) (s : State) : Out :=
  let held := (s.core phys).image.getD phys
  let asks := s.copyAsks virt || s.ctxs.any (fun x => match x.2.wait with
    | some (_, .fold p v) => p == phys && v == virt
    | _ => false)
  if !s.runs phys || (s.core virt).home != phys || held = virt || !(s.core held).wq.isEmpty || s.laneBusy held || !asks then .next s
  else .next (s.modCore phys (fun y => { y with image := some virt }))

end Sys2Proof.Machine
end

