-- ==== Sys2Proof/Machine/Scalar.lean ====
section
/-! DEFINITION. Scalar arithmetic, immediates, compares and guards: majors 0x04, 0x05 and 0x06 (R122 to R133). -/

namespace Sys2Proof.Machine

/-- The effects of a scalar operation on two sources (R125). -/
def binBody (rd : SDst) (a b : SSrc) (f : Word → Word → Word) : M (List Put) := do
  let u ← readS a
  let v ← readS b
  pure [.s rd (f u v)]
/-- The effects of a scalar operation on one source (R125, R128, R129). -/
def unBody (rd : SDst) (a : SSrc) (f : Word → Word) : M (List Put) := do
  let u ← readS a
  pure [.s rd (f u)]
/-- The issue of a scalar operation on two sources. -/
def binInfo (g : Guard) (rd : SDst) (a b : SSrc) : Info := infoOf g 8 1 [a, b] [] [rd] []
/-- The issue of a scalar operation on one source. -/
def unInfo (g : Guard) (len : Nat) (rd : SDst) (a : SSrc) : Info := infoOf g len 1 [a] [] [rd] []

/-- SEL takes a when bit 0 of gN is 1 (R125, R127). -/
def selBody (rd : SDst) (n : Fin 8) (a b : SSrc) : M (List Put) := do
  let t := (← get).me.gReg n
  binBody rd a b (fun u v => if t.getLsbD 0 then u else v)

/-- EXTF (R129); `len` is LEN − 1. -/
def extField (s : Bool) (pos len : Fin 64) (a : Word) : Word :=
  let f := a >>> pos.val
  if s then sextW f (len.val + 1) else zextW f (len.val + 1)
/-- INSF (R129). -/
def insField (pos len : Fin 64) (a b : Word) : Word :=
  let m : Word := BitVec.ofNat 64 ((2 ^ (len.val + 1) - 1) * 2 ^ pos.val)
  (a &&& ~~~m) ||| ((b <<< pos.val) &&& m)

/-- The address PGA composes (R131). -/
def pgaAddr (space : BitVec 4) (p o : Word) : Word :=
  let f (v : Word) (lo n at_ : Nat) : Nat := v.toNat / 2 ^ lo % 2 ^ n * 2 ^ at_
  let base := space.toNat * 2 ^ 60
  BitVec.ofNat 64 (match space.toNat with
    | 0x0 => f o 0 56 0
    | 0x8 => base + f o 0 20 0
    | 0x9 => base + f p 0 5 16 + f o 0 11 0
    | 0xA => base + f p 8 5 48 + f p 0 8 40 + f o 0 20 0
    | 0xB => base + f p 8 5 48 + f o 0 26 0
    | _ => base + f p 8 5 48 + f p 0 8 40 + f p 16 8 32 + f o 0 32 0)
/-- The bits of the place operand that PGA uses, and the width of the offset (R131). -/
def pgaUsed (space : BitVec 4) : Word × Nat :=
  match space.toNat with
  | 0x0 => (0, 56)
  | 0x8 => (0, 20)
  | 0x9 => (0x1F, 11)
  | 0xA => (0x1FFF, 20)
  | 0xB => (0x1F00, 26)
  | _ => (0xFF_1FFF, 32)
/-- The operands of PGA: src2 is read first (R131), but two queues pop in the order of their fields (R65). -/
def pgaReads (place off : SSrc) : M (Word × Word) := do
  match place, off with
  | .q _, .q _ =>
    let p ← readS place
    let o ← readS off
    pure (p, o)
  | _, _ =>
    let o ← readS off
    let p ← readS place
    pure (p, o)
/-- The effects of PGA (R131). -/
def pgaBody (c : Bool) (rd : SDst) (place off : SSrc) (space : BitVec 4) (disp : Word) : M (List Put) := do
  let (p, o') ← pgaReads place off
  let o := o' + disp
  let (used, w) := pgaUsed space
  ensure (!(c && (o.toNat / 2 ^ w != 0 || (p &&& ~~~used) != 0))) .space o
  pure [.s rd (pgaAddr space p o)]

/-- The guard value of a compare (R132). -/
def cmpVal (w : Bool) (cc : CC) (a b : Word) : Lane :=
  if (if w then ccHolds cc (a.setWidth 32) (b.setWidth 32) else ccHolds cc a b) then allOn else 0
/-- The effects of CMP. -/
def cmpBody (w : Bool) (cc : CC) (gd : Fin 8) (a b : SSrc) : M (List Put) := do
  let u ← readS a
  let v ← readS b
  pure [.g gd allOn (cmpVal w cc u v)]
/-- The effects of CMPI. -/
def cmpiBody (w : Bool) (cc : CC) (gd : Fin 8) (a : SSrc) (imm : Word) : M (List Put) := do
  let u ← readS a
  pure [.g gd allOn (cmpVal w cc u imm)]

/-- The effects of GAND, GOR and GNOT: the lanes that the guard `g` turns on (R133). -/
def guardBody (g : Guard) (gd ga gb : Fin 8) (f : Lane → Lane → Lane) : M (List Put) := fun s =>
  .ok ([.g gd (s.me.guardBits g) (f (s.me.gReg ga) (s.me.gReg gb))], s)
/-- The issue of an instruction that obeys its guard lane by lane and names no register. -/
def guardInfo (g : Guard) : Info := infoOf g 8 allOn [] [] [] []

/-- ADD (R125). -/
def halfAdd (g : Guard) (w : Bool) (rd : SDst) (a b : SSrc) : Half :=
  (binInfo g rd a b, binBody rd a b (aluW w opAdd))
/-- The instruction of `halfAdd`. -/
def execAdd (g : Guard) (w : Bool) (rd : SDst) (a b : SSrc) (s : State) : Out := runHalf (halfAdd g w rd a b) s
/-- SUB (R125). -/
def halfSub (g : Guard) (w : Bool) (rd : SDst) (a b : SSrc) : Half :=
  (binInfo g rd a b, binBody rd a b (aluW w opSub))
/-- The instruction of `halfSub`. -/
def execSub (g : Guard) (w : Bool) (rd : SDst) (a b : SSrc) (s : State) : Out := runHalf (halfSub g w rd a b) s
/-- MUL (R125). -/
def halfMul (g : Guard) (w : Bool) (rd : SDst) (a b : SSrc) : Half :=
  (binInfo g rd a b, binBody rd a b (aluW w opMul))
/-- The instruction of `halfMul`. -/
def execMul (g : Guard) (w : Bool) (rd : SDst) (a b : SSrc) (s : State) : Out := runHalf (halfMul g w rd a b) s
/-- MULH (R125). -/
def halfMulh (g : Guard) (w : Bool) (rd : SDst) (a b : SSrc) : Half :=
  (binInfo g rd a b, binBody rd a b (aluW w opMulh))
/-- The instruction of `halfMulh`. -/
def execMulh (g : Guard) (w : Bool) (rd : SDst) (a b : SSrc) (s : State) : Out := runHalf (halfMulh g w rd a b) s
/-- MULHU (R125). -/
def halfMulhu (g : Guard) (w : Bool) (rd : SDst) (a b : SSrc) : Half :=
  (binInfo g rd a b, binBody rd a b (aluW w opMulhu))
/-- The instruction of `halfMulhu`. -/
def execMulhu (g : Guard) (w : Bool) (rd : SDst) (a b : SSrc) (s : State) : Out := runHalf (halfMulhu g w rd a b) s
/-- DIV (R125, R126). -/
def halfDiv (g : Guard) (w : Bool) (rd : SDst) (a b : SSrc) : Half :=
  (binInfo g rd a b, binBody rd a b (aluW w opDiv))
/-- The instruction of `halfDiv`. -/
def execDiv (g : Guard) (w : Bool) (rd : SDst) (a b : SSrc) (s : State) : Out := runHalf (halfDiv g w rd a b) s
/-- DIVU (R125, R126). -/
def halfDivu (g : Guard) (w : Bool) (rd : SDst) (a b : SSrc) : Half :=
  (binInfo g rd a b, binBody rd a b (aluW w opDivu))
/-- The instruction of `halfDivu`. -/
def execDivu (g : Guard) (w : Bool) (rd : SDst) (a b : SSrc) (s : State) : Out := runHalf (halfDivu g w rd a b) s
/-- REM (R125, R126). -/
def halfRem (g : Guard) (w : Bool) (rd : SDst) (a b : SSrc) : Half :=
  (binInfo g rd a b, binBody rd a b (aluW w opRem))
/-- The instruction of `halfRem`. -/
def execRem (g : Guard) (w : Bool) (rd : SDst) (a b : SSrc) (s : State) : Out := runHalf (halfRem g w rd a b) s
/-- REMU (R125, R126). -/
def halfRemu (g : Guard) (w : Bool) (rd : SDst) (a b : SSrc) : Half :=
  (binInfo g rd a b, binBody rd a b (aluW w opRemu))
/-- The instruction of `halfRemu`. -/
def execRemu (g : Guard) (w : Bool) (rd : SDst) (a b : SSrc) (s : State) : Out := runHalf (halfRemu g w rd a b) s
/-- SHL (R125). -/
def halfShl (g : Guard) (w : Bool) (rd : SDst) (a b : SSrc) : Half :=
  (binInfo g rd a b, binBody rd a b (aluW w opShl))
/-- The instruction of `halfShl`. -/
def execShl (g : Guard) (w : Bool) (rd : SDst) (a b : SSrc) (s : State) : Out := runHalf (halfShl g w rd a b) s
/-- SHR (R125). -/
def halfShr (g : Guard) (w : Bool) (rd : SDst) (a b : SSrc) : Half :=
  (binInfo g rd a b, binBody rd a b (aluW w opShr))
/-- The instruction of `halfShr`. -/
def execShr (g : Guard) (w : Bool) (rd : SDst) (a b : SSrc) (s : State) : Out := runHalf (halfShr g w rd a b) s
/-- SAR (R125). -/
def halfSar (g : Guard) (w : Bool) (rd : SDst) (a b : SSrc) : Half :=
  (binInfo g rd a b, binBody rd a b (aluW w opSar))
/-- The instruction of `halfSar`. -/
def execSar (g : Guard) (w : Bool) (rd : SDst) (a b : SSrc) (s : State) : Out := runHalf (halfSar g w rd a b) s
/-- ROL (R125). -/
def halfRol (g : Guard) (w : Bool) (rd : SDst) (a b : SSrc) : Half :=
  (binInfo g rd a b, binBody rd a b (aluW w opRol))
/-- The instruction of `halfRol`. -/
def execRol (g : Guard) (w : Bool) (rd : SDst) (a b : SSrc) (s : State) : Out := runHalf (halfRol g w rd a b) s
/-- MIN (R125). -/
def halfMin (g : Guard) (w : Bool) (rd : SDst) (a b : SSrc) : Half :=
  (binInfo g rd a b, binBody rd a b (aluW w opMin))
/-- The instruction of `halfMin`. -/
def execMin (g : Guard) (w : Bool) (rd : SDst) (a b : SSrc) (s : State) : Out := runHalf (halfMin g w rd a b) s
/-- MAX (R125). -/
def halfMax (g : Guard) (w : Bool) (rd : SDst) (a b : SSrc) : Half :=
  (binInfo g rd a b, binBody rd a b (aluW w opMax))
/-- The instruction of `halfMax`. -/
def execMax (g : Guard) (w : Bool) (rd : SDst) (a b : SSrc) (s : State) : Out := runHalf (halfMax g w rd a b) s
/-- MINU (R125). -/
def halfMinu (g : Guard) (w : Bool) (rd : SDst) (a b : SSrc) : Half :=
  (binInfo g rd a b, binBody rd a b (aluW w opMinu))
/-- The instruction of `halfMinu`. -/
def execMinu (g : Guard) (w : Bool) (rd : SDst) (a b : SSrc) (s : State) : Out := runHalf (halfMinu g w rd a b) s
/-- MAXU (R125). -/
def halfMaxu (g : Guard) (w : Bool) (rd : SDst) (a b : SSrc) : Half :=
  (binInfo g rd a b, binBody rd a b (aluW w opMaxu))
/-- The instruction of `halfMaxu`. -/
def execMaxu (g : Guard) (w : Bool) (rd : SDst) (a b : SSrc) (s : State) : Out := runHalf (halfMaxu g w rd a b) s
/-- AND (R125). -/
def halfAnd (g : Guard) (rd : SDst) (a b : SSrc) : Half :=
  (binInfo g rd a b, binBody rd a b opAnd)
/-- The instruction of `halfAnd`. -/
def execAnd (g : Guard) (rd : SDst) (a b : SSrc) (s : State) : Out := runHalf (halfAnd g rd a b) s
/-- OR (R125). -/
def halfOr (g : Guard) (rd : SDst) (a b : SSrc) : Half :=
  (binInfo g rd a b, binBody rd a b opOr)
/-- The instruction of `halfOr`. -/
def execOr (g : Guard) (rd : SDst) (a b : SSrc) (s : State) : Out := runHalf (halfOr g rd a b) s
/-- XOR (R125). -/
def halfXor (g : Guard) (rd : SDst) (a b : SSrc) : Half :=
  (binInfo g rd a b, binBody rd a b opXor)
/-- The instruction of `halfXor`. -/
def execXor (g : Guard) (rd : SDst) (a b : SSrc) (s : State) : Out := runHalf (halfXor g rd a b) s
/-- ANDN (R125). -/
def halfAndn (g : Guard) (rd : SDst) (a b : SSrc) : Half :=
  (binInfo g rd a b, binBody rd a b opAndn)
/-- The instruction of `halfAndn`. -/
def execAndn (g : Guard) (rd : SDst) (a b : SSrc) (s : State) : Out := runHalf (halfAndn g rd a b) s
/-- ORN (R125). -/
def halfOrn (g : Guard) (rd : SDst) (a b : SSrc) : Half :=
  (binInfo g rd a b, binBody rd a b opOrn)
/-- The instruction of `halfOrn`. -/
def execOrn (g : Guard) (rd : SDst) (a b : SSrc) (s : State) : Out := runHalf (halfOrn g rd a b) s
/-- CLZ (R125). -/
def halfClz (g : Guard) (w : Bool) (rd : SDst) (a : SSrc) : Half :=
  (unInfo g 8 rd a, unBody rd a (aluW1 w opClz))
/-- The instruction of `halfClz`. -/
def execClz (g : Guard) (w : Bool) (rd : SDst) (a : SSrc) (s : State) : Out := runHalf (halfClz g w rd a) s
/-- CTZ (R125). -/
def halfCtz (g : Guard) (w : Bool) (rd : SDst) (a : SSrc) : Half :=
  (unInfo g 8 rd a, unBody rd a (aluW1 w opCtz))
/-- The instruction of `halfCtz`. -/
def execCtz (g : Guard) (w : Bool) (rd : SDst) (a : SSrc) (s : State) : Out := runHalf (halfCtz g w rd a) s
/-- POPC (R125). -/
def halfPopc (g : Guard) (w : Bool) (rd : SDst) (a : SSrc) : Half :=
  (unInfo g 8 rd a, unBody rd a (aluW1 w opPopc))
/-- The instruction of `halfPopc`. -/
def execPopc (g : Guard) (w : Bool) (rd : SDst) (a : SSrc) (s : State) : Out := runHalf (halfPopc g w rd a) s
/-- SEL (R127). -/
def halfSel (g : Guard) (rd : SDst) (n : Fin 8) (a b : SSrc) : Half :=
  (binInfo g rd a b, selBody rd n a b)
/-- The instruction of `halfSel`. -/
def execSel (g : Guard) (rd : SDst) (n : Fin 8) (a b : SSrc) (s : State) : Out := runHalf (halfSel g rd n a b) s
/-- MOV (R125). -/
def halfMov (g : Guard) (rd : SDst) (a : SSrc) : Half :=
  (unInfo g 8 rd a, unBody rd a id)
/-- The instruction of `halfMov`. -/
def execMov (g : Guard) (rd : SDst) (a : SSrc) (s : State) : Out := runHalf (halfMov g rd a) s
/-- ADDI (R128). -/
def halfAddi (g : Guard) (w : Bool) (rd : SDst) (a : SSrc) (imm : Imm) : Half :=
  (unInfo g (formLen imm.form) rd a, unBody rd a (fun u => aluW w opAdd u imm.val))
/-- The instruction of `halfAddi`. -/
def execAddi (g : Guard) (w : Bool) (rd : SDst) (a : SSrc) (imm : Imm) (s : State) : Out := runHalf (halfAddi g w rd a imm) s
/-- LI (R128). -/
def halfLi (g : Guard) (rd : SDst) (imm : Imm) : Half :=
  (infoOf g (formLen imm.form) 1 [] [] [rd] [], pure [.s rd imm.val])
/-- The instruction of `halfLi`. -/
def execLi (g : Guard) (rd : SDst) (imm : Imm) (s : State) : Out := runHalf (halfLi g rd imm) s
/-- EXTF (R129). -/
def halfExtf (g : Guard) (sx : Bool) (rd : SDst) (a : SSrc) (pos len : Fin 64) : Half :=
  (unInfo g 8 rd a, unBody rd a (extField sx pos len))
/-- The instruction of `halfExtf`. -/
def execExtf (g : Guard) (sx : Bool) (rd : SDst) (a : SSrc) (pos len : Fin 64) (s : State) : Out := runHalf (halfExtf g sx rd a pos len) s
/-- INSF (R129). -/
def halfInsf (g : Guard) (rd : SDst) (a b : SSrc) (pos len : Fin 64) : Half :=
  (binInfo g rd a b, binBody rd a b (insField pos len))
/-- The instruction of `halfInsf`. -/
def execInsf (g : Guard) (rd : SDst) (a b : SSrc) (pos len : Fin 64) (s : State) : Out := runHalf (halfInsf g rd a b pos len) s
/-- PGA (R131). -/
def execPga (g : Guard) (c : Bool) (rd : SDst) (place off : SSrc) (space : BitVec 4) (disp : Imm) (s : State) : Out :=
  runPuts (infoOf g (formLen disp.form) 1 [off, place] [] [rd] [])
    (pgaBody c rd place off space (if disp.form = .h64 then 0 else disp.val)) s
/-- CMP (R132). -/
def halfCmp (g : Guard) (w : Bool) (cc : CC) (gd : Fin 8) (a b : SSrc) : Half :=
  (infoOf g 8 1 [a, b] [] [] [], cmpBody w cc gd a b)
/-- The instruction of `halfCmp`. -/
def execCmp (g : Guard) (w : Bool) (cc : CC) (gd : Fin 8) (a b : SSrc) (s : State) : Out := runHalf (halfCmp g w cc gd a b) s
/-- CMPI (R132). -/
def halfCmpi (g : Guard) (w : Bool) (cc : CC) (gd : Fin 8) (a : SSrc) (imm : Imm) : Half :=
  (infoOf g (formLen imm.form) 1 [a] [] [] [], cmpiBody w cc gd a imm.val)
/-- The instruction of `halfCmpi`. -/
def execCmpi (g : Guard) (w : Bool) (cc : CC) (gd : Fin 8) (a : SSrc) (imm : Imm) (s : State) : Out := runHalf (halfCmpi g w cc gd a imm) s
/-- GAND (R133). -/
def halfGand (g : Guard) (gd ga gb : Fin 8) : Half :=
  (guardInfo g, guardBody g gd ga gb (fun a b => a &&& b))
/-- The instruction of `halfGand`. -/
def execGand (g : Guard) (gd ga gb : Fin 8) (s : State) : Out := runHalf (halfGand g gd ga gb) s
/-- GOR (R133). -/
def halfGor (g : Guard) (gd ga gb : Fin 8) : Half :=
  (guardInfo g, guardBody g gd ga gb (fun a b => a ||| b))
/-- The instruction of `halfGor`. -/
def execGor (g : Guard) (gd ga gb : Fin 8) (s : State) : Out := runHalf (halfGor g gd ga gb) s
/-- GNOT (R133). -/
def halfGnot (g : Guard) (gd ga : Fin 8) : Half :=
  (guardInfo g, guardBody g gd ga ga (fun a _ => ~~~a))
/-- The instruction of `halfGnot`. -/
def execGnot (g : Guard) (gd ga : Fin 8) (s : State) : Out := runHalf (halfGnot g gd ga) s

end Sys2Proof.Machine
end

