-- ==== Sys2Proof/Machine/Pair.lean ====
section
/-! DEFINITION. The pair word: two halves under one guard, with one effect (R68 to R70). -/

namespace Sys2Proof.Machine

/-- A half without a load. -/
def Half.plain (h : Half) : Info × M Eff := (h.1, do pure { puts := ← h.2 })

/-- What an instruction does as a half (R69); none for one that may not stand in a pair word. -/
def halfOf : Instr → Option (Info × M Eff)
  | .nop g _ _ => some ({ g }, pure {})
  | .add g w rd a b => some (halfAdd g w rd a b).plain
  | .sub g w rd a b => some (halfSub g w rd a b).plain
  | .mul g w rd a b => some (halfMul g w rd a b).plain
  | .mulh g w rd a b => some (halfMulh g w rd a b).plain
  | .mulhu g w rd a b => some (halfMulhu g w rd a b).plain
  | .div g w rd a b => some (halfDiv g w rd a b).plain
  | .divu g w rd a b => some (halfDivu g w rd a b).plain
  | .rem g w rd a b => some (halfRem g w rd a b).plain
  | .remu g w rd a b => some (halfRemu g w rd a b).plain
  | .shl g w rd a b => some (halfShl g w rd a b).plain
  | .shr g w rd a b => some (halfShr g w rd a b).plain
  | .sar g w rd a b => some (halfSar g w rd a b).plain
  | .rol g w rd a b => some (halfRol g w rd a b).plain
  | .min g w rd a b => some (halfMin g w rd a b).plain
  | .max g w rd a b => some (halfMax g w rd a b).plain
  | .minu g w rd a b => some (halfMinu g w rd a b).plain
  | .maxu g w rd a b => some (halfMaxu g w rd a b).plain
  | .and g rd a b => some (halfAnd g rd a b).plain
  | .or g rd a b => some (halfOr g rd a b).plain
  | .xor g rd a b => some (halfXor g rd a b).plain
  | .andn g rd a b => some (halfAndn g rd a b).plain
  | .orn g rd a b => some (halfOrn g rd a b).plain
  | .clz g w rd a => some (halfClz g w rd a).plain
  | .ctz g w rd a => some (halfCtz g w rd a).plain
  | .popc g w rd a => some (halfPopc g w rd a).plain
  | .sel g rd n a b => some (halfSel g rd n a b).plain
  | .mov g rd a => some (halfMov g rd a).plain
  | .addi g w rd a imm => some (halfAddi g w rd a imm).plain
  | .li g rd imm => some (halfLi g rd imm).plain
  | .extf g sx rd a pos len => some (halfExtf g sx rd a pos len).plain
  | .insf g rd a b pos len => some (halfInsf g rd a b pos len).plain
  | .cmp g w cc gd a b => some (halfCmp g w cc gd a b).plain
  | .cmpi g w cc gd a imm => some (halfCmpi g w cc gd a imm).plain
  | .gand g gd ga gb => some (halfGand g gd ga gb).plain
  | .gor g gd ga gb => some (halfGor g gd ga gb).plain
  | .gnot g gd ga => some (halfGnot g gd ga).plain
  | .vadd g vd a b => some (halfVadd g vd a b).plain
  | .vsub g vd a b => some (halfVsub g vd a b).plain
  | .vmul g vd a b => some (halfVmul g vd a b).plain
  | .vfma g vd a b c => some (halfVfma g vd a b c).plain
  | .vfms g vd a b c => some (halfVfms g vd a b c).plain
  | .vmin g vd a b => some (halfVmin g vd a b).plain
  | .vmax g vd a b => some (halfVmax g vd a b).plain
  | .vabs g vd a => some (halfVabs g vd a).plain
  | .vneg g vd a => some (halfVneg g vd a).plain
  | .vcps g vd a b => some (halfVcps g vd a b).plain
  | .vcmp g cc gd a b => some (halfVcmp g cc gd a b).plain
  | .vsel g vd n a b => some (halfVsel g vd n a b).plain
  | .vrnd g vd a => some (halfVrnd g vd a).plain
  | .vfexp g vd a => some (halfVfexp g vd a).plain
  | .vexpi g vd a b => some (halfVexpi g vd a b).plain
  | .vlogb g vd a => some (halfVlogb g vd a).plain
  | .vrcp g vd a => some (halfVrcp g vd a).plain
  | .vrsq g vd a => some (halfVrsq g vd a).plain
  | .vcvt g u m t vd a => some (halfVcvt g u m t vd a).plain
  | .vpack g u m t vd a b => some (halfVpack g u m t vd a b).plain
  | .vunpk g u t h vd a => some (halfVunpk g u t h vd a).plain
  | .viadd g mode vd a b => some (halfViadd g mode vd a b).plain
  | .visub g mode vd a b => some (halfVisub g mode vd a b).plain
  | .vimul g vd a b => some (halfVimul g vd a b).plain
  | .vimad g vd a b c => some (halfVimad g vd a b c).plain
  | .vand g vd a b => some (halfVand g vd a b).plain
  | .vor g vd a b => some (halfVor g vd a b).plain
  | .vxor g vd a b => some (halfVxor g vd a b).plain
  | .vshl g vd a b => some (halfVshl g vd a b).plain
  | .vshr g vd a b => some (halfVshr g vd a b).plain
  | .vsar g vd a b => some (halfVsar g vd a b).plain
  | .vdot4 g vd a b c => some (halfVdot4 g vd a b c).plain
  | .vbcast g vd a t imm => some (halfVbcast g vd a t imm).plain
  | .vperm g vd a b => some (halfVperm g vd a b).plain
  | .vrot g vd a k => some (halfVrot g vd a k).plain
  | .vmovs g sx rd a k => some (halfVmovs g sx rd a k).plain
  | .vins g vd a k t => some (halfVins g vd a k t).plain
  | .vreda g vd a => some (halfVreda g vd a).plain
  | .vredm g vd a => some (halfVredm g vd a).plain
  | .vscan g vd a => some (halfVscan g vd a).plain
  | .ld g rd xb imm => some (halfLd g rd xb imm)
  | .ldW g rd xb imm => some (halfLdW g rd xb imm)
  | .ldWu g rd xb imm => some (halfLdWu g rd xb imm)
  | .ldH g rd xb imm => some (halfLdH g rd xb imm)
  | .ldHu g rd xb imm => some (halfLdHu g rd xb imm)
  | .ldB g rd xb imm => some (halfLdB g rd xb imm)
  | .ldBu g rd xb imm => some (halfLdBu g rd xb imm)
  | .st g rs xb imm => some (halfSt g rs xb imm)
  | .stW g rs xb imm => some (halfStW g rs xb imm)
  | .stH g rs xb imm => some (halfStH g rs xb imm)
  | .stB g rs xb imm => some (halfStB g rs xb imm)
  | _ => none

/-- The issue of a pair word: its halves obey their guards each, and one that is off pops nothing and has no side effect (R66,
R70). -/
def pairInfo (g : Guard) (x : Ctx) (a b : Info) : Info :=
  { g, len := 16, lanes := a.lanes ||| b.lanes, lds := a.lds ++ b.lds, store := a.store || b.store
    pops := (if a.on x then a.pops else []) ++ if b.on x then b.pops else []
    side := (a.on x && a.side) || (b.on x && b.side) }

/-- A half's effects, when it is on, with its destinations checked. -/
def halfEff (on : Bool) (h : M Eff) : M Eff := do
  if on then
    let e ← h
    checkPuts (match e.load with
      | some (_, _, d) => d :: e.puts
      | none => e.puts)
    pure e
  else pure {}

/-- The body of a pair word: the scalar half decides before the vector half, both take effect together, and the loop names
of a half that is off are carried (R70, R101). -/
def pairBody (a b : Info × M Eff) : M Unit := do
  let x := (← get).me
  let onA := a.1.on x
  let onB := b.1.on x
  let e ← halfEff onA a.2
  let f ← halfEff onB b.2
  if (a.1.store && !onA) || (b.1.store && !onB) then offEntry
  carryNames ((if onA then [] else a.1.lds) ++ if onB then [] else b.1.lds)
  finishEff 16 { puts := e.puts ++ f.puts, load := e.load }

/-- PAIR_WORD (R68 to R70). -/
def execPairWord (g : Guard) (sh vh : Instr) (s : State) : Out :=
  match halfOf sh, halfOf vh with
  | some a, some b => run (pairInfo g s.me a.1 b.1) (pairBody a b) s
  | _, _ => .next ({ s with acct := .iss }.stopped [] (.fault { code := .illegal }))

end Sys2Proof.Machine
end

