-- ==== Sys2Proof/Machine/Wake.lean ====
section
/-! DEFINITION. When a waiting thread is ready: the conditions of R14 and R16, and who holds a core's slots (R12, R404). -/

namespace Sys2Proof.Machine

/-- The queue a condition names. -/
def State.hq (s : State) (c q : Nat) : HwQueue := (s.core c).hwq.get (Fin.ofNat 8 q)

/-- The condition a thread waits for holds (R14). -/
def State.condHolds (s : State) (c k : Nat) : WaitCond → Bool
  | .held => false
  | .qHas d q n => decide (n ≤ (s.hq d q).entries.length)
  | .qRoom d q n => decide ((s.hq d q).entries.length + (s.hq d q).reserved + n ≤ 16)
  | .qIdle d q => (s.hq d q).reserved == 0
  | .version d f name i => ((s.fr d (Fin.ofNat 2 f)).val? name i).isSome
  | .freed d f i => (s.fr d (Fin.ofNat 2 f)).freed i
  | .oldest d f i => decide (i ≤ (s.fr d (Fin.ofNat 2 f)).setl)
  | .frameFree d => (s.fr d 0).st == .free || (s.fr d 1).st == .free
  | .storeRoom d f n =>
    let F := s.fr d (Fin.ofNat 2 f)
    decide (F.held.length + n ≤ 64) || ((F.iterOf k).map Iter.i == some F.setl)
  | .walked cl p page => !(s.cluster cl).misses.any (fun m => m.part == p && m.joined.contains (c, k, page)) &&
    !(s.cluster cl).missWait.contains (p, page, c, k)
  | .tagFree d => decide ((s.core d).tags.length < 64) || !(s.core d).tags.any (fun t => t.2.st == .flight)
  | .cpAny d m => ((s.core d).cpdone &&& m) != 0
  | .cpAll d m => ((s.core d).cpdone &&& m) == m
  | .mail d box => !(tgetD (s.core d).mbox box {}).msgs.isEmpty
  | .event d j => !(s.ctx d j).events.isEmpty
  | .exitWord d => !(s.core d).exitq.isEmpty
  | .exitRoom d => decide ((s.core d).exitq.length < 16)
  | .sendRoom d => decide ((s.core d).sendq.length < 16)
  | .reply d j n => (s.ctx d j).replies.get n != .pending
  | .phase p n ph => match s.barSet p n with
    | some b => b.past ph
    | none => true
  | .drained a sc => s.mem.reached a sc (s.groupOf a) (fun _ => true)
  | .swept cl t => match tget (s.cluster cl).tensors t with
    | some e => !e.run
    | none => true
  | .wakePlace cl t j => match tget (s.cluster cl).tensors t with
    | some e => (s.nextWake e.part cl t).all (fun w => w == e.place j)
    | none => true
  | .farWindow n need => s.farGranted (.ctx c k) n need
  | .fold phys virt => (s.core phys).image.getD phys == virt
  | .replayTurn p kind key d j => s.turn p kind key d j

/-- A request that pre-emption abandons: one before its move, and a queued matrix operation (R202, R254, R396; log 88). -/
def State.abandons (s : State) (c k : Nat) : PendKind → Bool
  | .acq _ _ _ _ | .rel _ _ _ _ | .fence _ => true
  | .array => !(s.core c).wq.any (fun w => w.ctx == k && w.e != 0 && w.started.isSome && !w.dropped)
  | .swapt => (((s.ctx c k).exch).bind Exch.matched).isNone
  | _ => false

/-- A request that stays with the stopped context: a linked future (R232, R396). -/
def PendKind.stays : PendKind → Bool
  | .future _ _ => true
  | _ => false

/-- The context has reached an instruction boundary where pre-emption may stop it (R396; log 88). -/
def State.atBoundary (s : State) (c k : Nat) : Bool :=
  match (s.ctx c k).pend with
  | none => true
  | some p => p.kind.stays || s.abandons c k p.kind

/-- The deadline of a context has expired in an earlier cycle (R393; log 90). -/
def State.expired (s : State) (c k : Nat) : Bool :=
  let x := s.ctx c k
  x.run == .held && !x.stopped && x.ydl != 0 && decide (x.ydl.toNat < (s.core (s.core c).home).cyc.toNat)

/-- A held context would issue if the slot were its own (R13, R14, R362; log 90). A context whose deadline has passed issues nothing
more: it is at its boundary when no request is under way (R393). -/
def State.ready (s : State) (c k : Nat) : Bool :=
  let x := s.ctx c k
  x.run == .held && !x.stopped && !x.dbc.stop && x.pend.isNone && !s.expired c k &&
  match x.wait with
  | none => true
  | some (_, .held) => false
  | some (_, w) => x.woke || s.condHolds c k w

/-- The class of a slot whose context does not issue (R15). -/
def idleClass (x : Ctx) : SlotClass :=
  if x.run != .held then .vac
  else if x.stopped || x.dbc.stop then .wmsg
  else
    match x.pend, x.wait with
    | some p, _ => p.cls
    | none, some w => w.1
    | none, none => .vac

/-- The class of a slot whose context does not issue: one whose deadline has passed waits for its save from its boundary on
(R15, R394). -/
def State.slotClass (s : State) (c k : Nat) : SlotClass :=
  if s.expired c k && s.atBoundary c k then .wmsg else idleClass (s.ctx c k)

/-- The cores, virtual ones under folding, whose contexts a barrel core runs (R404). -/
def State.coresOn (s : State) (phys : Nat) : List Nat :=
  let l := s.cores.filterMap (fun v => if v.2.home = phys ∧ v.2.mask ≠ 0 then some v.1 else none)
  if l.isEmpty then [phys] else l

/-- The core whose physical context `k` it is (R404). -/
def State.ownerOn (s : State) (phys k : Nat) : Nat :=
  ((s.coresOn phys).find? (fun v => (s.core v).mask.getLsbD k)).getD phys

/-- A waiting thread whose condition has come to hold is ready from then on (R16). -/
def State.wakeOn (s : State) (c k : Nat) : State :=
  match (s.ctx c k).wait with
  | none => s
  | some (_, w) => if !(s.ctx c k).woke && s.condHolds c k w then s.modCtx c k (fun x => { x with woke := true }) else s

end Sys2Proof.Machine
end

