-- ==== Sys2Proof/Machine/Counters.lean ====
section
/-! DEFINITION. Counters and the sampler: major 0x1D, counting in a cycle, overflow events and samples (R359 to R369,
R405). -/

namespace Sys2Proof.Machine

/-! Counter ids. -/

/-- What a counter id names (R359). -/
inductive CntId where
  | cls (v k : Nat)
  | hist (n : Nat)
  | prog (n : Nat)
  | l2 (n : Nat)
  | fabric (n : Nat)
  | sampCfg
  | sampBase
  | sampIndex
  deriving DecidableEq, Repr, Inhabited

/-- The counter of an id; none for a reserved id (R359; log 64). -/
def cntId (n : Nat) : Option CntId :=
  if n < 0x80 then (if n % 8 < 5 then some (.cls (n / 8) (n % 8)) else none)
  else if n < 0x91 then some (.hist (n - 0x80))
  else if 0xA0 ≤ n ∧ n < 0xA8 then some (.prog (n - 0xA0))
  else if 0xC0 ≤ n ∧ n < 0xC4 then some (.l2 (n - 0xC0))
  else if 0xD0 ≤ n ∧ n < 0xD8 then some (.fabric (n - 0xD0))
  else if n = 0xF0 then some .sampCfg
  else if n = 0xF1 then some .sampBase
  else if n = 0xF2 then some .sampIndex
  else none

/-- The bank the acting context names (R364). -/
def State.myBank (s : State) (n : Nat) : PCnt := ((s.die (dieOf s.myCore.home)).bank s.myPart).get (Fin.ofNat 4 n)

/-- The value of a counter as a context of the core reads it (R365, R369; log 83). -/
def State.cntVal (s : State) (i : CntId) : Word :=
  let y := s.myCore
  match i with
  | .cls v k => match s.physOf s.cc v with
    | some c => BitVec.ofNat 64 ((s.ctx s.cc c).counts.toList.getD k 0)
    | none => 0
  | .hist n => BitVec.ofNat 64 (y.hist.toList.getD n 0)
  | .prog n => BitVec.ofNat 64 (y.pcnt.get (Fin.ofNat 8 n)).val
  | .l2 n => BitVec.ofNat 64 (s.myBank n).val
  | .fabric n => if s.myPart = 0 then BitVec.ofNat 64 (s.fabric.get (Fin.ofNat 8 n)) else 0
  | .sampCfg => y.sampler.cfg
  | .sampBase => y.sampler.base
  | .sampIndex => BitVec.ofNat 64 y.sampler.index

/-! Checks of values (R363, R364, R366, R369). -/

/-- The configuration of a programmable counter has no reserved bit and no reserved event (R363). -/
def progCfgOk (v : Word) : Bool :=
  let e := v.toNat % 256
  v.toNat / 2 ^ 32 == 0 && bitsOf v.toNat 14 2 == 0 && (decide (e ≤ 6) || (decide (8 ≤ e) && decide (e ≤ 0x14)))

/-- The configuration of an L2 counter has no reserved bit and no reserved event (R364; log 81). -/
def l2CfgOk (v : Word) : Bool :=
  v.toNat / 2 ^ 32 == 0 && bitsOf v.toNat 29 3 == 0 && bitsOf v.toNat 10 6 == 0 && decide (v.toNat % 256 ≤ 4)

/-- The OWNER of an L2 configuration is a core of the partition; the reset configuration names none (R364, R369; log 81). -/
def State.l2OwnerOk (s : State) (v : Word) : Bool := v == 0 || s.holdsCore s.myPart (bitsOf v.toNat 16 13)

/-- A sampler configuration (R366). -/
def sampCfgOk (v : Word) : Bool :=
  let n := v.toNat % 2 ^ 32
  bitsOf v.toNat 52 12 == 0 && bitsOf v.toNat 32 16 == 0 && (n == 0 || decide (16 ≤ n))

/-- The logarithm of the ring's records (R366; log 82). -/
def sampS (cfg : Word) : Nat := bitsOf cfg.toNat 48 4 + 4

/-- A ring base (R366). -/
def sampBaseOk (cfg v : Word) : Bool := v.toNat / 2 ^ 56 == 0 && v.toNat % (16 * 2 ^ sampS cfg) == 0

/-! The instructions. -/

/-- The issue of an instruction of major 0x1D (R368). -/
def cntInfo (g : Guard) (ss : List SSrc) (sd : List SDst) : Info := { infoOf g 8 1 ss [] sd [] with side := true }

/-- The counter an instruction names, or ILLEGAL (R368). -/
def needCnt (id : BitVec 12) : M CntId :=
  match cntId id.toNat with
  | some i => pure i
  | none => raiseV .illegal

/-- A read of a counter's value or configuration: at once, or by a request in class WMEM that takes it where it arrives (R369). -/
def cntReadBody (rd : SDst) (id : BitVec 12) (cfg : Bool) (i : CntId) (v : Word) : M Unit :=
  match i with
  | .l2 _ | .fabric _ => sendRequest (.ask (.cnt id.toNat cfg rd)) .wmem 8 [.s rd 0]
  | _ => finish 8 [.s rd v]

/-- The acting context's counter writes have reached its bank (R405). -/
def flushMine : M Unit := modify (fun s => s.flushBank (dieOf s.myCore.home) s.cc s.ck)

/-- CNTRD (R369). -/
def execCntrd (g : Guard) (rd : SDst) (id : BitVec 12) (s : State) : Out :=
  run (cntInfo g [] [rd]) (do
    let i ← needCnt id
    flushMine
    cntReadBody rd id false i ((← get).cntVal i)) s

/-- CNTRD.c (R368, R369). -/
def execCntrdC (g : Guard) (rd : SDst) (id : BitVec 12) (s : State) : Out :=
  run (cntInfo g [] [rd]) (do
    let i ← needCnt id
    flushMine
    let s ← get
    match i with
    | .prog n => finish 8 [.s rd (s.myCore.pcnt.get (Fin.ofNat 8 n)).cfg]
    | .l2 n => cntReadBody rd id true i (s.myBank n).cfg
    | .sampCfg => finish 8 [.s rd s.myCore.sampler.cfg]
    | _ => raiseV .illegal) s

/-- A change of a counter of the core is due at the end of the cycle (R369). -/
def State.cntChange (s : State) (id : Nat) (v : Option Nat) (cfg : Option Word) : State :=
  s.modMyCore (fun y => { y with cntNew := y.cntNew ++ [(id, v, cfg)] })

/-- A change of an L2 counter is sent (R405). -/
def State.bankChange (s : State) (n : Nat) (v : Option Nat) (cfg : Option Word) : State :=
  s.modDie (dieOf s.myCore.home) (fun d => { d with
    bankNew := d.bankNew ++ [{ core := s.cc, ctx := s.ck, bank := s.myPart, n, val := v, cfg }] })

/-- CNTWR (R365, R369, R405; log 82). -/
def execCntwr (g : Guard) (id : BitVec 12) (a : SSrc) (s : State) : Out :=
  run (cntInfo g [a] []) (do
    let i ← needCnt id
    let v ← readS a
    let s ← get
    let open_ := match i with
      | .fabric _ => s.myPart != 0
      | _ => id.toNat == 0xF1
    ensure (open_ || v.toNat / 2 ^ 48 == 0) .illegal v
    match i with
    | .l2 n => set (s.bankChange n (some v.toNat) none)
    | .fabric n =>
      if s.myPart = 0 then set { s with fabric := s.fabric.set (n % 8) v.toNat (Nat.mod_lt _ (by decide)) }
    | .sampCfg => do
      ensure (sampCfgOk v) .illegal v
      set (s.cntChange id.toNat none (some v))
    | .sampBase => do
      ensure (sampBaseOk s.myCore.sampler.cfg v) .illegal v
      set (s.cntChange id.toNat (some v.toNat) none)
    | _ => set (s.cntChange id.toNat (some v.toNat) none)
    modify (fun s => s.retire 8)) s

/-- CNTCFG (R363, R364, R366, R369; log 82). -/
def execCntcfg (g : Guard) (id : BitVec 12) (a : SSrc) (s : State) : Out :=
  run (cntInfo g [a] []) (do
    let i ← needCnt id
    let v ← readS a
    let s ← get
    match i with
    | .prog _ => do
      ensure (progCfgOk v) .illegal v
      set (s.cntChange id.toNat none (some v))
    | .l2 n => do
      ensure (l2CfgOk v) .illegal v
      ensure (s.l2OwnerOk v) .prot v
      set (s.bankChange n none (some v))
    | .sampCfg => do
      ensure (sampCfgOk v) .illegal v
      set (s.cntChange id.toNat none (some v))
    | .fabric _ => pure ()
    | _ => raiseV .illegal v
    modify (fun s => s.retire 8)) s

/-- The words of a counter group, in order (R369). -/
def State.cntGroup (s : State) (grp : Fin 4) : List Word :=
  let pair (p : PCnt) : List Word := [BitVec.ofNat 64 p.val, p.cfg]
  match grp.val with
  | 0 => s.me.counts.toList.map (BitVec.ofNat 64)
  | 1 => s.myCore.hist.toList.map (BitVec.ofNat 64)
  | 2 => s.myCore.pcnt.toList.flatMap pair
  | _ => ((List.range 4).map s.myBank).flatMap pair

/-- The bytes of a counter group (R369). -/
def groupBytes (grp : Fin 4) : Nat :=
  match grp.val with
  | 0 => 40
  | 1 => 136
  | 2 => 128
  | _ => 64

/-- The store of a counter group (R369). -/
def State.groupPut (s : State) (grp : Fin 4) (ls : List Nat) : Put :=
  let cells := ls.zip ((s.cntGroup grp).flatMap (bytesOf 8))
  .mem ((List.range (groupBytes grp / 8)).map (fun i => (cells.drop (8 * i)).take 8)) true none

/-- CNTSV (R369): the address is checked as a store; the L2 group's values are fetched first. -/
def execCntsv (g : Guard) (grp : Fin 4) (a : SSrc) (s : State) : Out :=
  run (cntInfo g [a] []) (do
    let a ← readS a
    let n := groupBytes grp
    watchCheck 2 ((List.range n).map (fun i => a.toNat + i))
    let ls ← locM { w := true } [0x8] a.toNat n 64
    checkWaiters a.toNat ls
    flushMine
    let s ← get
    if grp = 3 then sendRequest (.ask (.save ls)) .wmem 8 [] else finish 8 [s.groupPut grp ls]) s

/-- CNTLD (R369): the values are checked and set at the reply. -/
def execCntld (g : Guard) (grp : Fin 4) (a : SSrc) (s : State) : Out :=
  run (cntInfo g [a] []) (do
    let a ← readS a
    let n := groupBytes grp
    watchCheck 1 ((List.range n).map (fun i => a.toNat + i))
    let ls ← locM { r := true } [0x8] a.toNat n 64
    let s ← get
    let units := (List.range (n / 8)).map (fun i => s.unitOf ((ls.drop (8 * i)).take 8))
    sendRequest (.load units (.counters grp a) []) .wmem 8 []) s

/-- The values of a counter group may be set (R369). -/
def State.groupOk (s : State) (grp : Fin 4) (ws : List Word) : Bool :=
  let small (v : Word) : Bool := v.toNat / 2 ^ 48 == 0
  let pairs (ok : Word → Bool) : Bool :=
    (List.range (ws.length / 2)).all (fun i => small (ws.getD (2 * i) 0) && ok (ws.getD (2 * i + 1) 0))
  match grp.val with
  | 0 | 1 => ws.all small
  | 2 => pairs progCfgOk
  | _ => pairs (fun v => l2CfgOk v && s.l2OwnerOk v)

/-- Sets the counters of a group of the acting context, the L2 group after the context's earlier changes of it (R369, R405). -/
def State.groupSet (s : State) (grp : Fin 4) (ws : List Word) : State :=
  let nats := (List.range ws.length).zip ws
  match grp.val with
  | 0 => nats.foldl (fun s w => s.cntChange (8 * s.me.vctx + w.1) (some w.2.toNat) none) s
  | 1 => nats.foldl (fun s w => s.cntChange (0x80 + w.1) (some w.2.toNat) none) s
  | 2 => (List.range 8).foldl (fun s i =>
      s.cntChange (0xA0 + i) (some (ws.getD (2 * i) 0).toNat) (some (ws.getD (2 * i + 1) 0))) s
  | _ =>
    let d := dieOf s.myCore.home
    (List.range 4).foldl (fun s i => s.applyBank d {
      core := s.cc, ctx := s.ck, bank := s.myPart, n := i, val := some (ws.getD (2 * i) 0).toNat
      cfg := some (ws.getD (2 * i + 1) 0) }) (s.flushBank d s.cc s.ck)

/-- L2_BANK_CHANGE (R405): change `i` of a die's banks arrives, after every earlier one of its context. -/
def execL2BankChange (die i : Nat) (s : State) : Out :=
  match (s.die die).bankNew[i]? with
  | none => .next s
  | some b =>
    if ((s.die die).bankNew.take i).any (fun e => e.core == b.core && e.ctx == b.ctx) then .next s
    else .next ((s.modDie die (fun d => { d with bankNew := ldel d.bankNew i })).applyBank die b)

/-! Counting in a cycle. -/

/-- The events that count whatever CTXM holds (R363). -/
def anyCtx (ev : Nat) : Bool := ev == 0x01 || ev == 0x0E || ev == 0x14

/-- What a configuration counts of the events of a cycle (R363); contexts by their virtual number. -/
def cfgAmount (cfg : Word) (evs : List (Nat × Nat × Nat)) : Nat :=
  match cfgEvent cfg with
  | none => 0
  | some ev => (evs.map (fun e => if e.1 = ev ∧ (anyCtx ev ∨ cfg.getLsbD (16 + e.2.1)) then e.2.2 else 0)).sum

/-- The overflow event of a programmable counter after the events of a cycle, unless it was written in the cycle (R367). -/
def State.progOverflow (s : State) (c n : Nat) (evs : List (Nat × Nat × Nat)) : State :=
  let y := s.core c
  let p := y.pcnt.get (Fin.ofNat 8 n)
  if cntOver p.val (cfgAmount p.cfg evs) && cfgOve p.cfg && !y.cntNew.any (fun w => w.1 == 0xA0 + n && w.2.1.isSome) then
    { s with ovfDue := s.ovfDue ++ [(y.partid, c, bitsOf p.cfg.toNat 10 4, 0xA0 + n, (s.core y.home).cyc)] }
  else s

/-- A change of a counter of a core takes effect (R369). -/
def State.applyCnt (s : State) (c : Nat) (w : Nat × Option Nat × Option Word) : State :=
  match cntId w.1 with
  | some (.cls v k) => match s.physOf c v with
    | some j => s.modCtx c j (fun x => { x with counts := x.counts.set (k % 5) (w.2.1.getD 0) (Nat.mod_lt _ (by decide)) })
    | none => s
  | some (.hist n) => s.modCore c (fun y => { y with hist := y.hist.set (n % 17) (w.2.1.getD 0) (Nat.mod_lt _ (by decide)) })
  | some (.prog n) => s.modCore c (fun y =>
      let p := y.pcnt.get (Fin.ofNat 8 n)
      { y with pcnt := y.pcnt.set (n % 8) { val := w.2.1.getD p.val, cfg := w.2.2.getD p.cfg } (Nat.mod_lt _ (by decide)) })
  | some .sampCfg => s.modCore c (fun y => { y with sampler := { y.sampler with cfg := w.2.2.getD 0, run := 0 } })
  | some .sampBase => s.modCore c (fun y => { y with sampler := { y.sampler with base := BitVec.ofNat 64 (w.2.1.getD 0) } })
  | some .sampIndex => s.modCore c (fun y => { y with sampler := { y.sampler with index := w.2.1.getD 0 } })
  | _ => s

/-- The number of a class (R15, R359). -/
def SlotClass.num : SlotClass → Nat
  | .iss => 0 | .wmem => 1 | .wmsg => 2 | .wver => 3 | .vac => 4

/-- The record of a sample (R366). -/
def sampleRec (x : Ctx) (cls : SlotClass) (cyc : Word) : Word × Word :=
  (if cls = .vac then 0 else x.pc,
   BitVec.ofNat 64 (cyc.toNat % 2 ^ 32 * 2 ^ 32 + cls.num * 2 ^ 20 + x.vctx * 2 ^ 13 + x.vcid % 2 ^ 13))

/-- The sampler counts a cycle and takes its sample (R366). -/
def State.sample (s : State) (c k : Nat) (mine : Bool) (cls : SlotClass) (cyc : Word) : State :=
  let m := (s.core c).sampler
  let n := m.cfg.toNat % 2 ^ 32
  if n = 0 then s
  else if m.run + 1 < n then s.modCore c (fun y => { y with sampler := { m with run := m.run + 1 } })
  else
    let r := if mine then sampleRec (s.ctx c k) cls cyc
      else (0, BitVec.ofNat 64 (cyc.toNat % 2 ^ 32 * 2 ^ 32 + 4 * 2 ^ 20 + k * 2 ^ 13 + c % 2 ^ 13))
    s.modCore c (fun y => { y with sampler := { m with run := 0, due := m.due ++ [r] } })

/-- A core counts a cycle of its barrel core (R361 to R363): `k` is the physical context of the slot, `mine` that it is the
core's own, `nready` its ready contexts. -/
def State.countCycle (s : State) (c k : Nat) (mine : Bool) (cls : SlotClass) (nready : Nat) : State :=
  let y := s.core c
  let cyc := (s.core y.home).cyc
  let evs := (y.cntEv.map (fun e => (e.1, (s.ctx c e.2.1).vctx, e.2.2))) ++ [(0x01, 0, 1)] ++
    (if mine then [(2 + cls.num, (s.ctx c k).vctx, 1)] else [])
  let s := (List.range 8).foldl (fun s n => s.progOverflow c n evs) s
  let s := if mine then s.modCtx c k (fun x =>
      { x with counts := x.counts.set (cls.num % 5) (cntAdd (x.counts.toList.getD cls.num 0) 1) (Nat.mod_lt _ (by decide)) })
    else s
  let s := s.modCore c (fun y => { y with
    hist := y.hist.set (nready % 17) (cntAdd (y.hist.toList.getD nready 0) 1) (Nat.mod_lt _ (by decide))
    pcnt := y.pcnt.map (fun p => { p with val := cntAdd p.val (cfgAmount p.cfg evs) }), cntEv := [], cntNew := [] })
  let s := s.sample c k mine cls cyc
  y.cntNew.foldl (fun s w => s.applyCnt c w) s

/-! Overflow events and samples. -/

/-- An overflow event reaches its owner, or is dropped and counted (R367). -/
def State.overflowEvent (s : State) (c v id cid : Nat) (cyc : Word) : State :=
  let w0 : Word := BitVec.ofNat 64 (0x30 + id * 2 ^ 8 + cid % 2 ^ 13 * 2 ^ 20)
  match s.physOf c v with
  | some k =>
    if (s.ctx c k).run = .vacant then s.modCore c (fun y => { y with drops := y.drops + 1 })
    else s.postEvent c k (w0, cyc)
  | none => s.modCore c (fun y => { y with drops := y.drops + 1 })

/-- COUNTER_OVERFLOW (R367): an event due keeps its partition, and waits while that is switched out. -/
def execCounterOverflow (l2 : Bool) (place : Nat) (s : State) : Out :=
  if l2 then
    match s.l2Pending[place]? with
    | none => .next s
    | some (key, owner, id, cyc) =>
      if !(s.part (s.core owner).partid).resident || (s.core owner).partid != key % 16 || !s.runs owner then .next s
      else .next ({ s with l2Pending := ldel s.l2Pending place }.overflowEvent owner 0 id owner cyc)
  else
    match s.ovfDue[place]? with
    | none => .next s
    | some (p, c, v, id, cyc) =>
      if !s.runs c || (s.core c).partid != p then .next s
      else .next ({ s with ovfDue := ldel s.ovfDue place }.overflowEvent c v id c cyc)

/-- PC_SAMPLE (R366): the record is written at the device store, then the index passes it. A record that does not translate is
lost (log 45). -/
def execPcSample (core : Nat) (s : State) : Out :=
  let m := (s.core core).sampler
  match m.due with
  | [] => .next s
  | r :: rest =>
    let a := m.base.toNat + 16 * (m.index % 2 ^ sampS m.cfg)
    let s := s.modCore core (fun y => { y with sampler := { m with due := rest, index := cntAdd m.index 1 } })
    let via := s.viaCluster (s.clusterOf core) core (s.core core).partid
    match s.locate via { w := true } [0x0] a 16 16 with
    | .at ls =>
      if (s.mem.badAt ls).isSome then .next s
      else
      let s := s.used via 16 a ls
      let bs := ls.zip (bytesOf 8 r.1 ++ bytesOf 8 r.2)
      let s := s.storeUnits (.sampler core) [bs.take 8, bs.drop 8] none
      .next (s.modMem (fun m => m.flush (.sampler core) (s.groupOf (.sampler core))))
    | _ => .next s

end Sys2Proof.Machine
end

