-- ==== Sys2Proof/Decode.lean ====
section
/-! DEFINITION. The decoder, total on any bytes, and the encoder, both written from the formats R59 to R80 and the encoding
tables of the entries. A word that R79 reserves decodes to nothing. -/

namespace Sys2Proof

/-- Succeeds where the encoding condition holds. -/
def need (b : Bool) : Option Unit := if b then some () else none

/-- A field of fewer than `n` values. -/
def finO (n x : Nat) : Option (Fin n) := if h : x < n then some ⟨x, h⟩ else none

/-- A field of `w` bits with nothing above it. -/
def bvO (w x : Nat) : Option (BitVec w) := if x < 2 ^ w then some (BitVec.ofNat w x) else none

/-- A guard destination: g1 to g7 (R63). -/
def gdOf (x : Nat) : Option (Fin 8) := if h : 0 < x ∧ x < 8 then some ⟨x, h.2⟩ else none

/-- The tag codes of R88. -/
def tagOf : Nat → Option Tag
  | 0 => some .raw
  | 1 => some .fp32
  | 2 => some .bf16
  | 3 => some .fp16
  | 4 => some .int32
  | 5 => some .int16
  | 6 => some .int8
  | 7 => some .dyad8
  | _ => none

/-- The code of a tag (R88). -/
def Tag.code : Tag → Nat
  | .raw => 0
  | .fp32 => 1
  | .bf16 => 2
  | .fp16 => 3
  | .int32 => 4
  | .int16 => 5
  | .int8 => 6
  | .dyad8 => 7

/-- The tag codes of ZCLR and ZLD (R199, R200). -/
def zTagOf (x : Nat) : Option Tag := do let t ← tagOf x; need t.acc; some t

/-- The condition codes of R78. -/
def ccOf : Nat → Option CC
  | 0 => some .eq
  | 1 => some .ne
  | 2 => some .lt
  | 3 => some .ge
  | 4 => some .ltu
  | 5 => some .geu
  | 6 => some .le
  | 7 => some .gt
  | 8 => some .leu
  | 9 => some .gtu
  | 10 => some .un
  | 11 => some .ord
  | _ => none

/-- The code of a condition (R78). -/
def CC.code : CC → Nat
  | .eq => 0
  | .ne => 1
  | .lt => 2
  | .ge => 3
  | .ltu => 4
  | .geu => 5
  | .le => 6
  | .gt => 7
  | .leu => 8
  | .gtu => 9
  | .un => 10
  | .ord => 11

/-- The conditions of CMP and CMPI (R78). -/
def scalarCC (x : Nat) : Option CC := do let c ← ccOf x; need c.scalar; some c

/-- The mode field of VIADD and VISUB (R181). -/
def satOf : Nat → Option SatMode
  | 0 => some .wrap
  | 1 => some .s
  | 3 => some .us
  | _ => none

/-- The code of a saturation mode (R181). -/
def SatMode.code : SatMode → Nat
  | .wrap => 0
  | .s => 1
  | .us => 3

/-- A scalar source code with its distance (R62, R64). -/
def ssrcOf (c d : Nat) : Option SSrc :=
  if h : c < 32 then (if d = 0 then some (.x ⟨c, h⟩) else none)
  else if h : c - 32 < 16 then (if hd : d < 8 then some (.l ⟨c - 32, h⟩ ⟨d, hd⟩) else none)
  else if d = 0 then
    if h : c - 48 < 4 then some (.q ⟨c - 48, h⟩)
    else if c = 52 then some .zero
    else if c = 53 then some .it
    else if c = 54 then some .lane
    else if c = 55 then some .cid
    else if c = 56 then some .ctx
    else none
  else none

/-- The code of a scalar source (R62). -/
def SSrc.code : SSrc → Nat
  | .x r => r.val
  | .l r _ => 32 + r.val
  | .q n => 48 + n.val
  | .zero => 52
  | .it => 53
  | .lane => 54
  | .cid => 55
  | .ctx => 56

/-- The distance field of a scalar source (R64). -/
def SSrc.dist : SSrc → Nat
  | .l _ d => d.val
  | _ => 0

/-- A scalar destination code (R62, R63). -/
def sdstOf (c : Nat) : Option SDst :=
  if h : c < 32 then some (.x ⟨c, h⟩)
  else if h : c - 32 < 16 then some (.l ⟨c - 32, h⟩)
  else if h : c - 48 < 4 then some (.q ⟨c - 48, h⟩)
  else if c = 52 then some .zero
  else none

/-- The code of a scalar destination (R62). -/
def SDst.code : SDst → Nat
  | .x r => r.val
  | .l r => 32 + r.val
  | .q n => 48 + n.val
  | .zero => 52

/-- A vector source code with its distance (R63, R64). -/
def vsrcOf (c d : Nat) : Option VSrc :=
  if h : c < 16 then (if d = 0 then some (.v ⟨c, h⟩) else none)
  else if h : 32 ≤ c ∧ c - 32 < 8 then (if hd : d < 8 then some (.w ⟨c - 32, h.2⟩ ⟨d, hd⟩) else none)
  else if d = 0 then
    if h : 48 ≤ c ∧ c - 48 < 4 then some (.q ⟨c - 48, h.2⟩)
    else if c = 52 then some .zero
    else if c = 53 then some .it
    else if c = 54 then some .lane
    else none
  else none

/-- The code of a vector source (R63). -/
def VSrc.code : VSrc → Nat
  | .v r => r.val
  | .w r _ => 32 + r.val
  | .q n => 48 + n.val
  | .zero => 52
  | .it => 53
  | .lane => 54

/-- The distance field of a vector source (R64). -/
def VSrc.dist : VSrc → Nat
  | .w _ d => d.val
  | _ => 0

/-- A vector destination code (R63). -/
def vdstOf (c : Nat) : Option VDst :=
  if h : c < 16 then some (.v ⟨c, h⟩)
  else if h : 32 ≤ c ∧ c - 32 < 8 then some (.w ⟨c - 32, h.2⟩)
  else if h : 48 ≤ c ∧ c - 48 < 4 then some (.q ⟨c - 48, h.2⟩)
  else if c = 52 then some .zero
  else none

/-- The code of a vector destination (R63). -/
def VDst.code : VDst → Nat
  | .v r => r.val
  | .w r => 32 + r.val
  | .q n => 48 + n.val
  | .zero => 52

/-- The guard field (R60). -/
def guardOf (x : Nat) : Guard := ⟨decide (8 ≤ x % 16), ⟨x % 8, Nat.mod_lt x (by decide)⟩⟩

/-- The guard field of a guard. -/
def Guard.code (g : Guard) : Nat := g.g.val + (if g.neg then 8 else 0)

/-- The fields of a head (R60), and the form with its literal. -/
structure Raw where
  form : Form := .h64
  major : Nat
  minor : Nat
  guard : Nat := 0
  dest : Nat := 0
  s1 : Nat := 0
  d1 : Nat := 0
  s2 : Nat := 0
  d2 : Nat := 0
  imm : Nat := 0
  lit : Word := 0
  deriving DecidableEq, Repr

namespace Raw

/-- The guard. -/
def grd (h : Raw) : Guard := guardOf h.guard
/-- Class R exists in the 64-bit form only (R67). -/
def sh (h : Raw) : Bool := h.form == .h64
/-- dest unused. -/
def zd (h : Raw) : Option Unit := need (h.dest == 0)
/-- src1 unused. -/
def z1 (h : Raw) : Option Unit := need (h.s1 == 0 && h.d1 == 0)
/-- src2 unused. -/
def z2 (h : Raw) : Option Unit := need (h.s2 == 0 && h.d2 == 0)
/-- Class R with imm20 zero. -/
def iz (h : Raw) : Option Unit := need (h.sh && h.imm == 0)
/-- Class R with a fixed imm20. -/
def ik (h : Raw) (k : Nat) : Option Unit := need (h.sh && h.imm == k)
/-- dest in the scalar space. -/
def rS (h : Raw) : Option SDst := sdstOf h.dest
/-- dest in the vector space. -/
def rV (h : Raw) : Option VDst := vdstOf h.dest
/-- src1 in the scalar space. -/
def aS (h : Raw) : Option SSrc := ssrcOf h.s1 h.d1
/-- src2 in the scalar space. -/
def bS (h : Raw) : Option SSrc := ssrcOf h.s2 h.d2
/-- src3 in the scalar space: the three-source layout (R61). -/
def cS (h : Raw) : Option SSrc := do need (h.imm < 512); ssrcOf (h.imm % 64) (h.imm / 64)
/-- src1 in the vector space. -/
def aV (h : Raw) : Option VSrc := vsrcOf h.s1 h.d1
/-- src2 in the vector space. -/
def bV (h : Raw) : Option VSrc := vsrcOf h.s2 h.d2
/-- src3 in the vector space (R61). -/
def cV (h : Raw) : Option VSrc := do need (h.imm < 512); vsrcOf (h.imm % 64) (h.imm / 64)

end Raw

/-- A sign-extended class I immediate (R67). -/
def immS (f : Form) (imm : Nat) (lit : Word) : Option Imm :=
  match f with
  | .h64 => some ⟨.h64, sextField 20 imm⟩
  | .h96 => if imm = 0 then some ⟨.h96, sextField 32 lit.toNat⟩ else none
  | .h128 => if imm = 0 then some ⟨.h128, lit⟩ else none

/-- A zero-extended class I immediate (R67). -/
def immU (f : Form) (imm : Nat) (lit : Word) : Option Imm :=
  match f with
  | .h64 => some ⟨.h64, BitVec.ofNat 64 imm⟩
  | .h96 => if imm = 0 then some ⟨.h96, lit⟩ else none
  | .h128 => if imm = 0 then some ⟨.h128, lit⟩ else none

/-- A class F literal, 0 in the 64-bit form (R130). -/
def immF (f : Form) (lit : Word) : Option Imm :=
  match f with
  | .h64 => some ⟨.h64, 0⟩
  | .h96 => some ⟨.h96, sextField 32 lit.toNat⟩
  | .h128 => some ⟨.h128, lit⟩

/-- imm20 of an immediate. -/
def Imm.field (i : Imm) : Nat :=
  match i.form with
  | .h64 => i.val.toNat % 2 ^ 20
  | _ => 0

/-- The literal of an immediate. -/
def Imm.lit (i : Imm) : Word :=
  match i.form with
  | .h64 => 0
  | .h96 => BitVec.ofNat 64 (i.val.toNat % 2 ^ 32)
  | .h128 => i.val

/-- imm20 of LOOP (R97). -/
def loopField (w c : Fin 8) (om opn : Bool) (ofs : BitVec 12) : Nat :=
  w.val + 8 * c.val + (if om then 64 else 0) + (if opn then 128 else 0) + 256 * ofs.toNat

/-- LOOP and LOOP.open (R97). -/
def decLoopOp (h : Raw) : Option Instr := do
  need (h.guard == 0)
  h.zd
  h.z2
  let w ← finO 8 (h.imm % 8)
  let c ← finO 8 (h.imm / 8 % 8)
  let om := h.imm / 64 % 2 == 1
  let ofs := BitVec.ofNat 12 (h.imm / 256)
  if h.imm / 128 % 2 == 1 then
    h.z1
    need (h.sh && decide (8 ≤ 4 * ofs.toNat))
    some (.loopOpen w c om ofs)
  else
    match h.form with
    | .h64 => do
      let a ← h.aS
      need (loopOk (.reg a) ofs)
      some (.loop (.reg a) w c om ofs)
    | .h96 => do
      h.z1
      need (loopOk (.lit (h.lit.truncate 32)) ofs)
      some (.loop (.lit (h.lit.truncate 32)) w c om ofs)
    | .h128 => none

/-- VSEED (R97). -/
def decVseed (h : Raw) : Option Instr := do
  h.z2
  let k ← finO 8 (h.imm % 8)
  need (h.imm < 16 && k != 0)
  match h.imm / 8 == 1, h.form with
  | true, .h64 => do
    need (32 ≤ h.dest)
    let r ← finO 8 (h.dest - 32)
    let a ← h.aV
    some (.vseed h.grd (.w r) k (.v a))
  | true, _ => none
  | false, .h64 => do
    need (32 ≤ h.dest)
    let r ← finO 16 (h.dest - 32)
    let a ← h.aS
    some (.vseed h.grd (.l r) k (.s a))
  | false, f => do
    need (32 ≤ h.dest)
    let r ← finO 16 (h.dest - 32)
    h.z1
    let i ← immF f h.lit
    some (.vseed h.grd (.l r) k (.lit i))

/-- The head of VSEED (R97). -/
def encVseed (g : Guard) (dst : SeedName) (k : Fin 8) (src : SeedSrc) : Raw :=
  let d := match dst with
    | .l r => 32 + r.val
    | .w r => 32 + r.val
  let v := match dst with
    | .l _ => 0
    | .w _ => 8
  match src with
  | .s a => { major := 2, minor := 5, guard := g.code, dest := d, s1 := a.code, d1 := a.dist, imm := v + k.val }
  | .v a => { major := 2, minor := 5, guard := g.code, dest := d, s1 := a.code, d1 := a.dist, imm := v + k.val }
  | .lit i => { major := 2, minor := 5, guard := g.code, dest := d, imm := v + k.val, form := i.form, lit := i.lit }

/-- FMTG (R92). -/
def decFmtg (h : Raw) : Option Instr := do
  let rd ← h.rS
  h.z2
  need (h.sh && decide (h.imm < 2))
  if h.imm = 1 then
    let n ← finO 2 h.s1
    need (h.d1 == 0)
    some (.fmtg h.grd rd (.z n))
  else
    let a ← h.aV
    need (TagSrc.v a).ok
    some (.fmtg h.grd rd (.v a))

/-- FMTS (R92). -/
def decFmts (h : Raw) : Option Instr := do
  h.z1
  h.z2
  need (h.sh && decide (h.imm % 16 < 2))
  let t ← tagOf (h.imm / 16)
  if h.imm % 16 = 1 then
    let n ← finO 2 h.dest
    some (.fmts h.grd (.z n) t)
  else
    let d ← h.rV
    need (TagDst.v d).ok
    some (.fmts h.grd (.v d) t)

/-- Major 0x1 (R76). -/
def decControl (h : Raw) : Option Instr :=
  match h.minor with
  | 0x00 => do h.zd; h.z1; h.z2; need (h.imm == 0); some (.nop h.grd h.form h.lit)
  | 0x1 => do h.zd; h.z1; h.z2; let imm ← immS h.form h.imm h.lit; some (.br h.grd imm)
  | 0x2 => do h.zd; h.z1; h.z2; let imm ← immU h.form h.imm h.lit; some (.bra h.grd imm)
  | 0x3 => do let rd ← h.rS; h.z1; h.z2; let imm ← immS h.form h.imm h.lit; some (.jal h.grd rd imm)
  | 0x4 => do let rd ← h.rS; let a ← h.aS; h.z2; h.iz; some (.jalr h.grd rd a)
  | 0x5 => do h.zd; let a ← h.aS; h.z2; h.iz; some (.ret h.grd a)
  | 0x6 => do h.zd; let a ← h.aS; let blen ← finO 64 h.s2; need (h.s2 != 0); need (h.d2 == 0); let imm ← immU h.form h.imm h.lit; some (.rep h.grd a blen imm)
  | 0x7 => do h.zd; h.z1; h.z2; need h.sh; let n ← bvO 20 h.imm; some (.trap h.grd n)
  | _ => none

/-- Major 0x2 (R76). -/
def decLoop (h : Raw) : Option Instr :=
  match h.minor with
  | 0x00 => decLoopOp h
  | 0x05 => decVseed h
  | 0x1 => do need (h.guard == 0); h.zd; h.z1; h.z2; h.iz; some (.endl)
  | 0x2 => do h.zd; h.z1; h.z2; h.iz; some (.brk h.grd)
  | 0x3 => do h.zd; h.z1; h.z2; h.iz; some (.brkO h.grd)
  | 0x4 => do h.zd; h.z1; h.z2; h.iz; some (.iret h.grd)
  | 0x6 => do h.zd; h.z1; h.z2; h.iz; some (.lfree h.grd)
  | _ => none

/-- Major 0x3 (R76). -/
def decSystem (h : Raw) : Option Instr :=
  match h.minor with
  | 0x02 => decFmtg h
  | 0x03 => decFmts h
  | 0x0 => do let rd ← h.rS; h.z1; h.z2; need h.sh; let n ← bvO 8 h.imm; some (.sysrd h.grd rd n)
  | 0x1 => do h.zd; let a ← h.aS; h.z2; need h.sh; let n ← bvO 8 h.imm; some (.syswr h.grd n a)
  | _ => none

/-- Major 0x4 (R76). -/
def decScalar (h : Raw) (w : Bool) : Option Instr :=
  match h.minor % 128 with
  | 0x0 => do let rd ← h.rS; let a ← h.aS; let b ← h.bS; h.iz; some (.add h.grd w rd a b)
  | 0x1 => do let rd ← h.rS; let a ← h.aS; let b ← h.bS; h.iz; some (.sub h.grd w rd a b)
  | 0x2 => do let rd ← h.rS; let a ← h.aS; let b ← h.bS; h.iz; some (.mul h.grd w rd a b)
  | 0x3 => do let rd ← h.rS; let a ← h.aS; let b ← h.bS; h.iz; some (.mulh h.grd w rd a b)
  | 0x4 => do let rd ← h.rS; let a ← h.aS; let b ← h.bS; h.iz; some (.mulhu h.grd w rd a b)
  | 0x5 => do let rd ← h.rS; let a ← h.aS; let b ← h.bS; h.iz; some (.div h.grd w rd a b)
  | 0x6 => do let rd ← h.rS; let a ← h.aS; let b ← h.bS; h.iz; some (.divu h.grd w rd a b)
  | 0x7 => do let rd ← h.rS; let a ← h.aS; let b ← h.bS; h.iz; some (.rem h.grd w rd a b)
  | 0x8 => do let rd ← h.rS; let a ← h.aS; let b ← h.bS; h.iz; some (.remu h.grd w rd a b)
  | 0x10 => do need (!w); let rd ← h.rS; let a ← h.aS; let b ← h.bS; h.iz; some (.and h.grd rd a b)
  | 0x11 => do need (!w); let rd ← h.rS; let a ← h.aS; let b ← h.bS; h.iz; some (.or h.grd rd a b)
  | 0x12 => do need (!w); let rd ← h.rS; let a ← h.aS; let b ← h.bS; h.iz; some (.xor h.grd rd a b)
  | 0x13 => do need (!w); let rd ← h.rS; let a ← h.aS; let b ← h.bS; h.iz; some (.andn h.grd rd a b)
  | 0x14 => do need (!w); let rd ← h.rS; let a ← h.aS; let b ← h.bS; h.iz; some (.orn h.grd rd a b)
  | 0x18 => do let rd ← h.rS; let a ← h.aS; let b ← h.bS; h.iz; some (.shl h.grd w rd a b)
  | 0x19 => do let rd ← h.rS; let a ← h.aS; let b ← h.bS; h.iz; some (.shr h.grd w rd a b)
  | 0x1a => do let rd ← h.rS; let a ← h.aS; let b ← h.bS; h.iz; some (.sar h.grd w rd a b)
  | 0x1b => do let rd ← h.rS; let a ← h.aS; let b ← h.bS; h.iz; some (.rol h.grd w rd a b)
  | 0x1c => do let rd ← h.rS; let a ← h.aS; h.z2; h.iz; some (.clz h.grd w rd a)
  | 0x1d => do let rd ← h.rS; let a ← h.aS; h.z2; h.iz; some (.ctz h.grd w rd a)
  | 0x1e => do let rd ← h.rS; let a ← h.aS; h.z2; h.iz; some (.popc h.grd w rd a)
  | 0x20 => do let rd ← h.rS; let a ← h.aS; let b ← h.bS; h.iz; some (.min h.grd w rd a b)
  | 0x21 => do let rd ← h.rS; let a ← h.aS; let b ← h.bS; h.iz; some (.max h.grd w rd a b)
  | 0x22 => do let rd ← h.rS; let a ← h.aS; let b ← h.bS; h.iz; some (.minu h.grd w rd a b)
  | 0x23 => do let rd ← h.rS; let a ← h.aS; let b ← h.bS; h.iz; some (.maxu h.grd w rd a b)
  | 0x24 => do need (!w); let rd ← h.rS; let a ← h.aS; let b ← h.bS; need h.sh; let n ← finO 8 h.imm; some (.sel h.grd rd n a b)
  | 0x25 => do need (!w); let rd ← h.rS; let a ← h.aS; h.z2; h.iz; some (.mov h.grd rd a)
  | _ => none

/-- Major 0x5 (R76). -/
def decScalarImm (h : Raw) (w : Bool) : Option Instr :=
  match h.minor % 128 with
  | 0x0 => do let rd ← h.rS; let a ← h.aS; h.z2; let imm ← immS h.form h.imm h.lit; some (.addi h.grd w rd a imm)
  | 0x1 => do need (!w); let rd ← h.rS; h.z1; h.z2; let imm ← immS h.form h.imm h.lit; some (.li h.grd rd imm)
  | 0x2 => do need (!w); let rd ← h.rS; let a ← h.aS; h.z2; need h.sh; let len ← finO 64 (h.imm % 64); let pos ← finO 64 (h.imm / 64 % 64); let s := h.imm / 4096 % 2 == 1; need (h.imm < 8192); need (fieldFits pos len); some (.extf h.grd s rd a pos len)
  | 0x3 => do need (!w); let rd ← h.rS; let a ← h.aS; let b ← h.bS; need h.sh; let len ← finO 64 (h.imm % 64); let pos ← finO 64 (h.imm / 64); need (fieldFits pos len); some (.insf h.grd rd a b pos len)
  | 0x4 => do need (!w); let rd ← h.rS; let place ← h.aS; let off ← h.bS; need (h.imm < 32); let space := BitVec.ofNat 4 (h.imm % 16); need (pgaSpace space); let c := h.imm / 16 == 1; let disp ← immF h.form h.lit; some (.pga h.grd c rd place off space disp)
  | _ => none

/-- Major 0x6 (R76). -/
def decCompare (h : Raw) (w : Bool) : Option Instr :=
  match h.minor % 128 with
  | 0x20 => do need (!w); let gd ← gdOf h.dest; let ga ← finO 8 h.s1; need (h.d1 == 0); let gb ← finO 8 h.s2; need (h.d2 == 0); h.iz; some (.gand h.grd gd ga gb)
  | 0x21 => do need (!w); let gd ← gdOf h.dest; let ga ← finO 8 h.s1; need (h.d1 == 0); let gb ← finO 8 h.s2; need (h.d2 == 0); h.iz; some (.gor h.grd gd ga gb)
  | 0x22 => do need (!w); let gd ← gdOf h.dest; let ga ← finO 8 h.s1; need (h.d1 == 0); h.z2; h.iz; some (.gnot h.grd gd ga)
  | n => if 0 ≤ n ∧ n < 16 then (do let cc ← scalarCC (h.minor % 128); let gd ← gdOf h.dest; let a ← h.aS; let b ← h.bS; h.iz; some (.cmp h.grd w cc gd a b))
    else if 16 ≤ n ∧ n < 32 then (do let cc ← scalarCC (h.minor % 128 - 16); let gd ← gdOf h.dest; let a ← h.aS; h.z2; let imm ← immS h.form h.imm h.lit; some (.cmpi h.grd w cc gd a imm))
    else none

/-- Major 0x8 (R76). -/
def decVecFloat (h : Raw) : Option Instr :=
  match h.minor with
  | 0x0 => do let vd ← h.rV; let a ← h.aV; let b ← h.bV; h.iz; some (.vadd h.grd vd a b)
  | 0x1 => do let vd ← h.rV; let a ← h.aV; let b ← h.bV; h.iz; some (.vsub h.grd vd a b)
  | 0x2 => do let vd ← h.rV; let a ← h.aV; let b ← h.bV; h.iz; some (.vmul h.grd vd a b)
  | 0x5 => do let vd ← h.rV; let a ← h.aV; let b ← h.bV; h.iz; some (.vmin h.grd vd a b)
  | 0x6 => do let vd ← h.rV; let a ← h.aV; let b ← h.bV; h.iz; some (.vmax h.grd vd a b)
  | 0x9 => do let vd ← h.rV; let a ← h.aV; let b ← h.bV; h.iz; some (.vcps h.grd vd a b)
  | 0x3 => do let vd ← h.rV; let a ← h.aV; let b ← h.bV; need h.sh; let c ← h.cV; some (.vfma h.grd vd a b c)
  | 0x4 => do let vd ← h.rV; let a ← h.aV; let b ← h.bV; need h.sh; let c ← h.cV; some (.vfms h.grd vd a b c)
  | 0x7 => do let vd ← h.rV; let a ← h.aV; h.z2; h.iz; some (.vabs h.grd vd a)
  | 0x8 => do let vd ← h.rV; let a ← h.aV; h.z2; h.iz; some (.vneg h.grd vd a)
  | 0x20 => do let vd ← h.rV; let a ← h.aV; let b ← h.bV; need h.sh; let n ← finO 8 h.imm; some (.vsel h.grd vd n a b)
  | n => if 16 ≤ n ∧ n < 32 then (do let cc ← ccOf (h.minor - 16); let gd ← gdOf h.dest; let a ← h.aV; let b ← h.bV; h.iz; some (.vcmp h.grd cc gd a b))
    else none

/-- Major 0x9 (R76). -/
def decVecFun (h : Raw) : Option Instr :=
  match h.minor with
  | 0x0 => do let vd ← h.rV; let a ← h.aV; h.z2; h.iz; some (.vrnd h.grd vd a)
  | 0x1 => do let vd ← h.rV; let a ← h.aV; h.z2; h.iz; some (.vfexp h.grd vd a)
  | 0x2 => do let vd ← h.rV; let a ← h.aV; let b ← h.bV; h.iz; some (.vexpi h.grd vd a b)
  | 0x3 => do let vd ← h.rV; let a ← h.aV; h.z2; h.iz; some (.vlogb h.grd vd a)
  | 0x4 => do let vd ← h.rV; let a ← h.aV; h.z2; h.iz; some (.vrcp h.grd vd a)
  | 0x5 => do let vd ← h.rV; let a ← h.aV; h.z2; h.iz; some (.vrsq h.grd vd a)
  | 0x8 => do let vd ← h.rV; let a ← h.aV; h.z2; need h.sh; need (h.imm % 16 == 0); let t ← tagOf (h.imm / 16 % 16); let m := h.imm / 256 % 2 == 1; let u := h.imm / 512 % 2 == 1; need (h.imm < 1024); need (cvtTarget t); some (.vcvt h.grd u m t vd a)
  | 0x9 => do let vd ← h.rV; let a ← h.aV; let b ← h.bV; need h.sh; need (h.imm % 16 == 0); let t ← tagOf (h.imm / 16 % 16); let m := h.imm / 256 % 2 == 1; let u := h.imm / 512 % 2 == 1; need (h.imm < 1024); need (packTarget t); some (.vpack h.grd u m t vd a b)
  | 0xa => do let vd ← h.rV; let a ← h.aV; h.z2; need h.sh; need (h.imm % 16 < 2); let h0 := h.imm % 2 == 1; let t ← tagOf (h.imm / 16 % 16); need (h.imm / 256 % 2 == 0); let u := h.imm / 512 % 2 == 1; need (h.imm < 1024); need (unpkTarget t); some (.vunpk h.grd u t h0 vd a)
  | _ => none

/-- Major 0xa (R76). -/
def decVecInt (h : Raw) : Option Instr :=
  match h.minor with
  | 0x0 => do let vd ← h.rV; let a ← h.aV; let b ← h.bV; need h.sh; let mode ← satOf h.imm; some (.viadd h.grd mode vd a b)
  | 0x1 => do let vd ← h.rV; let a ← h.aV; let b ← h.bV; need h.sh; let mode ← satOf h.imm; some (.visub h.grd mode vd a b)
  | 0x2 => do let vd ← h.rV; let a ← h.aV; let b ← h.bV; h.iz; some (.vimul h.grd vd a b)
  | 0x4 => do let vd ← h.rV; let a ← h.aV; let b ← h.bV; h.iz; some (.vand h.grd vd a b)
  | 0x5 => do let vd ← h.rV; let a ← h.aV; let b ← h.bV; h.iz; some (.vor h.grd vd a b)
  | 0x6 => do let vd ← h.rV; let a ← h.aV; let b ← h.bV; h.iz; some (.vxor h.grd vd a b)
  | 0x7 => do let vd ← h.rV; let a ← h.aV; let b ← h.bV; h.iz; some (.vshl h.grd vd a b)
  | 0x8 => do let vd ← h.rV; let a ← h.aV; let b ← h.bV; h.iz; some (.vshr h.grd vd a b)
  | 0x9 => do let vd ← h.rV; let a ← h.aV; let b ← h.bV; h.iz; some (.vsar h.grd vd a b)
  | 0x3 => do let vd ← h.rV; let a ← h.aV; let b ← h.bV; need h.sh; let c ← h.cV; some (.vimad h.grd vd a b c)
  | 0xa => do let vd ← h.rV; let a ← h.aV; let b ← h.bV; need h.sh; let c ← h.cV; some (.vdot4 h.grd vd a b c)
  | _ => none

/-- Major 0xb (R76). -/
def decLaneMove (h : Raw) : Option Instr :=
  match h.minor with
  | 0x0 => do let vd ← h.rV; let a ← h.aS; let t ← tagOf h.s2; need (h.d2 == 0); let imm ← immS h.form h.imm h.lit; some (.vbcast h.grd vd a t imm)
  | 0x1 => do let vd ← h.rV; let a ← h.aV; let b ← h.bV; h.iz; some (.vperm h.grd vd a b)
  | 0x2 => do let vd ← h.rV; let a ← h.aV; h.z2; need h.sh; let k ← finO 32 h.imm; some (.vrot h.grd vd a k)
  | 0x3 => do let rd ← h.rS; let a ← h.aV; h.z2; need h.sh; let k ← finO 32 (h.imm % 32); let s := h.imm / 32 == 1; need (h.imm < 64); some (.vmovs h.grd s rd a k)
  | 0x4 => do let vd ← h.rV; let a ← h.aS; h.z2; need h.sh; let k ← finO 32 (h.imm % 256); let t ← tagOf (h.imm / 256); need vd.queue.isEmpty; some (.vins h.grd vd a k t)
  | 0x8 => do let vd ← h.rV; let a ← h.aV; h.z2; h.iz; some (.vreda h.grd vd a)
  | 0x9 => do let vd ← h.rV; let a ← h.aV; h.z2; h.iz; some (.vredm h.grd vd a)
  | 0xa => do let vd ← h.rV; let a ← h.aV; h.z2; h.iz; some (.vscan h.grd vd a)
  | _ => none

/-- Major 0xc (R76). DESIGN CHOICE: a tag code of ZCLR other than 0, 1 and 4 is a reserved encoding, ILLEGAL at decode whatever the
guard (R199; log 65). -/
def decMatrix (h : Raw) : Option Instr :=
  match h.minor with
  | 0x0 => do let z ← finO 2 h.dest; let xa ← h.aS; let xw ← h.bS; h.iz; some (.mmab h.grd z xa xw)
  | 0x1 => do let z ← finO 2 h.dest; let xa ← h.aS; let xw ← h.bS; h.iz; some (.mmai h.grd z xa xw)
  | 0x2 => do let z ← finO 2 h.dest; let xa ← h.aS; let xw ← h.bS; need h.sh; let xs ← h.cS; some (.mmad h.grd z xa xw xs)
  | 0x3 => do let z ← finO 2 h.dest; h.z1; h.z2; need h.sh; let t ← zTagOf h.imm; some (.zclr h.grd z t)
  | 0x4 => do let z ← finO 2 h.dest; let a ← h.aV; h.z2; h.iz; some (.zscale h.grd z a)
  | 0x5 => do let vd ← h.rV; let z ← finO 2 h.s1; need (h.d1 == 0); h.z2; need h.sh; let p ← finO 8 h.imm; some (.zrd h.grd vd z p)
  | 0x6 => do let z ← finO 2 h.dest; let a ← h.aV; h.z2; need h.sh; let p ← finO 8 h.imm; some (.zwr h.grd z a p)
  | _ => none

/-- Major 0xd (R76). DESIGN CHOICE: a tag code of ZLD other than 0, 1 and 4 is a reserved encoding, ILLEGAL at decode whatever the
guard (R200; log 65). -/
def decMatrixMem (h : Raw) : Option Instr :=
  match h.minor with
  | 0x0 => do let z ← finO 2 h.dest; let xb ← h.aS; let t ← zTagOf h.s2; need (h.d2 == 0); let imm ← immS h.form h.imm h.lit; some (.zld h.grd z xb t imm)
  | 0x1 => do h.zd; let xb ← h.aS; let z ← finO 2 h.s2; need (h.d2 == 0); let imm ← immS h.form h.imm h.lit; some (.zst h.grd z xb imm)
  | 0x2 => do h.zd; let xb ← h.aS; let xd ← h.bS; let imm ← immS h.form h.imm h.lit; some (.wbld h.grd xd xb imm)
  | 0x3 => do h.zd; let xb ← h.aS; let xd ← h.bS; let imm ← immS h.form h.imm h.lit; some (.ldt h.grd xd xb imm)
  | 0x4 => do let zd ← finO 2 h.dest; let zs ← finO 2 h.s1; need (h.d1 == 0); h.z2; need h.sh; let key := BitVec.ofNat 8 (h.imm % 256); let t := h.imm / 256 == 1; need (h.imm < 512); some (.swapt h.grd t zd zs key)
  | _ => none

/-- Major 0x10 (R76). -/
def decMemory (h : Raw) : Option Instr :=
  match h.minor with
  | 0x0 => do let rd ← h.rS; let xb ← h.aS; h.z2; let imm ← immS h.form h.imm h.lit; some (.ld h.grd rd xb imm)
  | 0x1 => do let rd ← h.rS; let xb ← h.aS; h.z2; let imm ← immS h.form h.imm h.lit; some (.ldW h.grd rd xb imm)
  | 0x2 => do let rd ← h.rS; let xb ← h.aS; h.z2; let imm ← immS h.form h.imm h.lit; some (.ldWu h.grd rd xb imm)
  | 0x3 => do let rd ← h.rS; let xb ← h.aS; h.z2; let imm ← immS h.form h.imm h.lit; some (.ldH h.grd rd xb imm)
  | 0x4 => do let rd ← h.rS; let xb ← h.aS; h.z2; let imm ← immS h.form h.imm h.lit; some (.ldHu h.grd rd xb imm)
  | 0x5 => do let rd ← h.rS; let xb ← h.aS; h.z2; let imm ← immS h.form h.imm h.lit; some (.ldB h.grd rd xb imm)
  | 0x6 => do let rd ← h.rS; let xb ← h.aS; h.z2; let imm ← immS h.form h.imm h.lit; some (.ldBu h.grd rd xb imm)
  | 0x8 => do h.zd; let xb ← h.aS; let rs ← h.bS; let imm ← immS h.form h.imm h.lit; some (.st h.grd rs xb imm)
  | 0x9 => do h.zd; let xb ← h.aS; let rs ← h.bS; let imm ← immS h.form h.imm h.lit; some (.stW h.grd rs xb imm)
  | 0xa => do h.zd; let xb ← h.aS; let rs ← h.bS; let imm ← immS h.form h.imm h.lit; some (.stH h.grd rs xb imm)
  | 0xb => do h.zd; let xb ← h.aS; let rs ← h.bS; let imm ← immS h.form h.imm h.lit; some (.stB h.grd rs xb imm)
  | 0x10 => do let vd ← h.rV; let xb ← h.aS; h.z2; let imm ← immS h.form h.imm h.lit; some (.ldv h.grd vd xb imm)
  | 0x11 => do h.zd; let xb ← h.aS; let vs ← h.bV; let imm ← immS h.form h.imm h.lit; some (.stv h.grd vs xb imm)
  | 0x12 => do let vd ← h.rV; let xb ← h.aS; let vi ← h.bV; h.iz; some (.ldg h.grd vd xb vi)
  | 0x13 => do h.zd; let xb ← h.aS; let vi ← h.bV; need h.sh; let vs ← h.cV; some (.sts h.grd vs xb vi)
  | 0x14 => do let vd ← h.rV; let xo ← h.aS; h.z2; need h.sh; let off ← bvO 11 h.imm; some (.ldl h.grd vd xo off)
  | 0x15 => do h.zd; let xo ← h.aS; let vs ← h.bV; need h.sh; let off ← bvO 11 h.imm; some (.stl h.grd vs xo off)
  | 0x18 => do h.zd; let xb ← h.aS; h.z2; let imm ← immS h.form h.imm h.lit; some (.pref h.grd xb imm)
  | _ => none

/-- Major 0x11 (R76). -/
def decFullEmpty (h : Raw) : Option Instr :=
  match h.minor with
  | 0x0 => do let rd ← h.rS; let xb ← h.aS; h.z2; let imm ← immS h.form h.imm h.lit; some (.lde h.grd rd xb imm)
  | 0x1 => do h.zd; let xb ← h.aS; let rs ← h.bS; let imm ← immS h.form h.imm h.lit; some (.stf h.grd rs xb imm)
  | 0x2 => do let rd ← h.rS; let xb ← h.aS; h.z2; let imm ← immS h.form h.imm h.lit; some (.ldf h.grd rd xb imm)
  | 0x3 => do h.zd; let xb ← h.aS; h.z2; let imm ← immS h.form h.imm h.lit; some (.fempty h.grd xb imm)
  | 0x4 => do let rd ← h.rS; let xb ← h.aS; h.z2; let imm ← immS h.form h.imm h.lit; some (.futr h.grd rd xb imm)
  | 0x5 => do let rd ← h.rS; let xb ← h.aS; let rs ← h.bS; let imm ← immS h.form h.imm h.lit; some (.futw h.grd rd rs xb imm)
  | _ => none

/-- Major 0x12 (R76). -/
def decAtomic (h : Raw) (w : Bool) : Option Instr :=
  match h.minor % 128 with
  | 0x0 => do let rd ← h.rS; let xb ← h.aS; let rs ← h.bS; h.iz; some (.aadd h.grd w rd xb rs)
  | 0x1 => do let rd ← h.rS; let xb ← h.aS; let rs ← h.bS; h.iz; some (.amin h.grd w rd xb rs)
  | 0x2 => do let rd ← h.rS; let xb ← h.aS; let rs ← h.bS; h.iz; some (.amax h.grd w rd xb rs)
  | 0x3 => do let rd ← h.rS; let xb ← h.aS; let rs ← h.bS; h.iz; some (.axch h.grd w rd xb rs)
  | 0x5 => do let rd ← h.rS; let xb ← h.aS; let rs ← h.bS; h.iz; some (.aand h.grd w rd xb rs)
  | 0x6 => do let rd ← h.rS; let xb ← h.aS; let rs ← h.bS; h.iz; some (.aor h.grd w rd xb rs)
  | 0x4 => do let rd ← h.rS; let xb ← h.aS; let rs ← h.bS; need h.sh; let rc ← h.cS; some (.acas h.grd w rd xb rs rc)
  | _ => none

/-- Major 0x13 (R76). -/
def decOrder (h : Raw) : Option Instr :=
  match h.minor with
  | 0x0 => do let rd ← h.rS; let xs ← h.aS; h.z2; h.iz; some (.acqGroup h.grd rd xs)
  | 0x4 => do h.zd; let xs ← h.aS; let rv ← h.bS; h.iz; some (.relGroup h.grd xs rv)
  | 0x8 => do h.zd; h.z1; h.z2; h.iz; some (.fenceGroup h.grd)
  | 0x1 => do let rd ← h.rS; let xs ← h.aS; h.z2; h.iz; some (.acqDevice h.grd rd xs)
  | 0x5 => do h.zd; let xs ← h.aS; let rv ← h.bS; h.iz; some (.relDevice h.grd xs rv)
  | 0x9 => do h.zd; h.z1; h.z2; h.iz; some (.fenceDevice h.grd)
  | 0x2 => do let rd ← h.rS; let xs ← h.aS; h.z2; h.iz; some (.acqSystem h.grd rd xs)
  | 0x6 => do h.zd; let xs ← h.aS; let rv ← h.bS; h.iz; some (.relSystem h.grd xs rv)
  | 0xa => do h.zd; h.z1; h.z2; h.iz; some (.fenceSystem h.grd)
  | _ => none

/-- Major 0x14 (R76). -/
def decCopy (h : Raw) : Option Instr :=
  match h.minor with
  | 0x0 => do h.zd; let a ← h.aS; let b ← h.bS; need h.sh; let k ← finO 8 h.imm; need (cpwSel k); some (.cpw h.grd k a b)
  | 0x1 => do let rd ← h.rS; h.z1; h.z2; h.iz; some (.cpgo h.grd rd)
  | 0x2 => do let rd ← h.rS; let a ← h.aS; h.z2; h.iz; some (.cpwany h.grd rd a)
  | 0x3 => do let rd ← h.rS; let a ← h.aS; h.z2; h.iz; some (.cpwall h.grd rd a)
  | 0x4 => do let rd ← h.rS; let a ← h.aS; h.z2; h.iz; some (.cpff h.grd rd a)
  | 0x6 => do let rd ← h.rS; let a ← h.aS; h.z2; h.iz; some (.cpchk h.grd rd a)
  | 0x5 =>
    (do h.zd; let a ← h.aS; h.z2; h.ik 0; some (.cpclr h.grd a)) <|>
    (do h.zd; let a ← h.aS; h.z2; h.ik 1; some (.cpclrF h.grd a))
  | _ => none

/-- Major 0x18 (R76). -/
def decTasks (h : Raw) : Option Instr :=
  match h.minor with
  | 0x0 => do let gd ← gdOf h.dest; let xpc ← h.aS; let xc ← h.bS; need h.sh; let b ← finO 32 h.imm; need (h.imm ≤ 28); some (.spawn h.grd gd xpc xc b)
  | 0x1 => do h.zd; let xs ← h.aS; h.z2; h.iz; some (.quit h.grd xs)
  | 0x2 => do let rd ← h.rS; h.z1; h.z2; h.iz; some (.reap h.grd rd)
  | 0x3 => do h.zd; h.z1; h.z2; h.iz; some (.waitw h.grd)
  | 0x4 =>
    (do let gd ← gdOf h.dest; let xs ← h.aS; h.z2; need h.sh; let n ← finO 16 h.imm; some (.taskq h.grd gd xs n)) <|>
    (do let gd ← gdOf h.dest; let xs ← h.aS; h.z2; h.ik 16; some (.taskqDeque h.grd gd xs))
  | 0x5 => do let rd ← h.rS; h.z1; h.z2; need h.sh; let gd ← gdOf h.imm; some (.take h.grd rd gd)
  | 0x6 => do let rd ← h.rS; let xc ← h.aS; h.z2; need h.sh; let gd ← gdOf h.imm; some (.steal h.grd rd gd xc)
  | 0x7 =>
    (do h.zd; let xa ← h.aS; let xb ← h.bS; h.ik 0; some (.qcfgHwqueueType h.grd xa xb)) <|>
    (do h.zd; let xa ← h.aS; let xb ← h.bS; h.ik 1; some (.qcfgPriority h.grd xa xb)) <|>
    (do h.zd; let xa ← h.aS; let xb ← h.bS; h.ik 2; some (.qcfgOwner h.grd xa xb)) <|>
    (do h.zd; let xa ← h.aS; let xb ← h.bS; h.ik 3; some (.qcfgRing h.grd xa xb)) <|>
    (do h.zd; let xa ← h.aS; let xb ← h.bS; h.ik 4; some (.qcfgArm h.grd xa xb)) <|>
    (do h.zd; let xa ← h.aS; let xb ← h.bS; h.ik 5; some (.qcfgCounter h.grd xa xb))
  | 0x8 =>
    (do let rd ← h.rS; let xa ← h.aS; h.z2; h.ik 0; some (.qstatHwqueue h.grd rd xa)) <|>
    (do let rd ← h.rS; let xa ← h.aS; h.z2; h.ik 1; some (.qstatTaskqueue h.grd rd xa)) <|>
    (do let rd ← h.rS; let xa ← h.aS; h.z2; h.ik 2; some (.qstatCounter h.grd rd xa)) <|>
    (do let rd ← h.rS; let xa ← h.aS; h.z2; h.ik 3; some (.qstatDeque h.grd rd xa)) <|>
    (do let rd ← h.rS; let xa ← h.aS; h.z2; h.ik 4; some (.qstatExitqueue h.grd rd xa)) <|>
    (do let rd ← h.rS; let xa ← h.aS; h.z2; h.ik 5; some (.qstatMailbox h.grd rd xa)) <|>
    (do let rd ← h.rS; let xa ← h.aS; h.z2; h.ik 6; some (.qstatPoisonlog h.grd rd xa)) <|>
    (do let rd ← h.rS; let xa ← h.aS; h.z2; h.ik 7; some (.qstatDrops h.grd rd xa))
  | 0x9 => do h.zd; let xa ← h.aS; h.z2; h.iz; some (.qrst h.grd xa)
  | _ => none

/-- Major 0x19 (R76). -/
def decMessages (h : Raw) : Option Instr :=
  match h.minor with
  | 0x0 => do h.zd; let xd ← h.aS; let xa ← h.bS; need h.sh; let xb ← h.cS; some (.send h.grd xd xa xb)
  | 0x1 =>
    (do let rd ← finO 32 h.dest; need (h.dest % 2 == 0); h.z1; h.z2; need h.sh; let mb ← bvO 8 h.imm; some (.mrecv h.grd rd mb)) <|>
    (do let rd ← h.rS; h.z1; h.z2; need h.sh; need (256 ≤ h.imm); let k ← finO 4 (h.imm - 256); some (.mrecvR h.grd rd k))
  | 0x2 =>
    (do let rd ← h.rS; let xd ← h.aS; let xa ← h.bS; need h.sh; let k ← finO 4 h.imm; some (.rcall h.grd rd xd xa k)) <|>
    (do h.zd; let xd ← h.aS; let xa ← h.bS; need h.sh; need (4 ≤ h.imm); let k ← finO 4 (h.imm - 4); some (.rcallN h.grd xd xa k))
  | 0x3 => do h.zd; let xt ← h.aS; let xv ← h.bS; h.iz; some (.rreply h.grd xt xv)
  | _ => none

/-- Major 0x1a (R76). -/
def decTables (h : Raw) : Option Instr :=
  match h.minor with
  | 0x0 =>
    (do h.zd; let xs ← h.aS; let xc ← h.bS; h.ik 0; some (.bsdefJ h.grd xs xc)) <|>
    (do h.zd; let xs ← h.aS; h.z2; h.ik 1; some (.bsdefL h.grd xs))
  | 0x1 => do let rd ← h.rS; h.z1; h.z2; need h.sh; let k ← finO 4 h.imm; some (.barv h.grd rd k)
  | 0x2 => do h.zd; let xp ← h.aS; h.z2; need h.sh; let k ← finO 4 h.imm; some (.bwait h.grd xp k)
  | 0x3 => do let rd ← h.rS; h.z1; h.z2; need h.sh; let k ← finO 4 h.imm; some (.barw h.grd rd k)
  | 0x4 => do let rd ← h.rS; let xb ← h.aS; let xl ← h.bS; need h.sh; let xs ← h.cS; some (.rbind h.grd rd xb xl xs)
  | 0x5 => do h.zd; let xi ← h.aS; h.z2; h.iz; some (.runbnd h.grd xi)
  | 0x6 =>
    (do h.zd; let xp ← h.aS; let xv ← h.bS; h.ik 0; some (.slotwA h.grd xp xv)) <|>
    (do h.zd; let xp ← h.aS; let xv ← h.bS; h.ik 1; some (.slotwB h.grd xp xv)) <|>
    (do h.zd; let xp ← h.aS; let xv ← h.bS; h.ik 2; some (.slotwE h.grd xp xv)) <|>
    (do h.zd; let xp ← h.aS; let xv ← h.bS; h.ik 3; some (.slotwT h.grd xp xv))
  | 0x7 =>
    (do let rd ← h.rS; let xp ← h.aS; h.z2; h.ik 0; some (.slotrdA h.grd rd xp)) <|>
    (do let rd ← h.rS; let xp ← h.aS; h.z2; h.ik 1; some (.slotrdB h.grd rd xp)) <|>
    (do let rd ← h.rS; let xp ← h.aS; h.z2; h.ik 2; some (.slotrdE h.grd rd xp)) <|>
    (do let rd ← h.rS; let xp ← h.aS; h.z2; h.ik 3; some (.slotrdT h.grd rd xp))
  | _ => none

/-- Major 0x1b (R76). -/
def decStreams (h : Raw) : Option Instr :=
  match h.minor with
  | 0x0 => do let rd ← h.rS; let xs ← h.aS; h.z2; need h.sh; let gd ← gdOf h.imm; some (.sframe h.grd gd rd xs)
  | 0x1 => do let rd ← h.rS; let xs ← h.aS; let xv ← h.bS; need h.sh; let gd ← gdOf h.imm; some (.semit h.grd gd rd xs xv)
  | 0x2 =>
    (do let rd ← h.rS; let xs ← h.aS; h.z2; h.ik 0; some (.scurGnc h.grd rd xs)) <|>
    (do let rd ← h.rS; let xs ← h.aS; h.z2; h.ik 1; some (.scurPbc h.grd rd xs)) <|>
    (do let rd ← h.rS; let xs ← h.aS; h.z2; h.ik 2; some (.scurTp h.grd rd xs)) <|>
    (do let rd ← h.rS; let xs ← h.aS; h.z2; h.ik 3; some (.scurNseq h.grd rd xs)) <|>
    (do let rd ← h.rS; let xs ← h.aS; h.z2; h.ik 4; some (.scurSnapshots h.grd rd xs)) <|>
    (do let rd ← h.rS; let xs ← h.aS; h.z2; h.ik 5; some (.scurLoss h.grd rd xs)) <|>
    (do let rd ← h.rS; let xs ← h.aS; h.z2; h.ik 6; some (.scurDrops h.grd rd xs))
  | 0x3 => do let rd ← h.rS; let xs ← h.aS; h.z2; h.iz; some (.strunc h.grd rd xs)
  | 0x4 => do let rd ← h.rS; let xs ← h.aS; let xp ← h.bS; h.iz; some (.ssnap h.grd rd xs xp)
  | 0x5 =>
    (do h.zd; let xs ← h.aS; let xo ← h.bS; h.ik 0; some (.sownOwner h.grd xs xo)) <|>
    (do h.zd; let xs ← h.aS; let xo ← h.bS; h.ik 1; some (.sownOpen h.grd xs xo)) <|>
    (do h.zd; let xs ← h.aS; let xo ← h.bS; h.ik 2; some (.sownClose h.grd xs xo))
  | _ => none

/-- Major 0x1c (R76). -/
def decSweeps (h : Raw) : Option Instr :=
  match h.minor with
  | 0x0 =>
    (do let rd ← h.rS; let xa ← h.aS; h.z2; h.ik 0; some (.swdecl h.grd rd xa)) <|>
    (do h.zd; let xt ← h.aS; let xo ← h.bS; h.ik 1; some (.swdeclO h.grd xt xo))
  | 0x1 =>
    (do h.zd; let xt ← h.aS; let xn ← h.bS; h.ik 0; some (.swgo h.grd xt xn)) <|>
    (do h.zd; let xt ← h.aS; let xn ← h.bS; h.ik 1; some (.swgoC h.grd xt xn)) <|>
    (do h.zd; let xt ← h.aS; let xn ← h.bS; need (h.sh && (h.imm == 2 || h.imm == 3)); some (.swgoW h.grd (h.imm == 3) xt xn))
  | 0x2 =>
    (do h.zd; let xt ← h.aS; h.z2; h.ik 0; some (.swstop h.grd xt)) <|>
    (do h.zd; let xt ← h.aS; h.z2; h.ik 1; some (.swstopD h.grd xt))
  | 0x3 =>
    (do let rd ← h.rS; let xt ← h.aS; h.z2; h.ik 0; some (.swstatSn h.grd rd xt)) <|>
    (do let rd ← h.rS; let xt ← h.aS; h.z2; h.ik 1; some (.swstatPos h.grd rd xt)) <|>
    (do let rd ← h.rS; let xt ← h.aS; h.z2; h.ik 2; some (.swstatPend h.grd rd xt)) <|>
    (do let rd ← h.rS; let xt ← h.aS; h.z2; h.ik 3; some (.swstatLoss h.grd rd xt))
  | _ => none

/-- Major 0x1d (R76). -/
def decCounters (h : Raw) : Option Instr :=
  match h.minor with
  | 0x0 => do h.zd; let a ← h.aS; h.z2; need h.sh; let id ← bvO 12 h.imm; some (.cntcfg h.grd id a)
  | 0x1 =>
    (do let rd ← h.rS; h.z1; h.z2; need h.sh; let id ← bvO 12 h.imm; some (.cntrd h.grd rd id)) <|>
    (do let rd ← h.rS; h.z1; h.z2; need h.sh; need (4096 ≤ h.imm); let id ← bvO 12 (h.imm - 4096); some (.cntrdC h.grd rd id))
  | 0x2 => do h.zd; let a ← h.aS; h.z2; need h.sh; let id ← bvO 12 h.imm; some (.cntwr h.grd id a)
  | 0x3 => do h.zd; let a ← h.aS; h.z2; need h.sh; let grp ← finO 4 h.imm; some (.cntsv h.grd grp a)
  | 0x4 => do h.zd; let a ← h.aS; h.z2; need h.sh; let grp ← finO 4 h.imm; some (.cntld h.grd grp a)
  | _ => none

/-- Major 0x1e (R76). -/
def decDebug (h : Raw) : Option Instr :=
  match h.minor with
  | 0x0 =>
    (do h.zd; h.z1; h.z2; need h.sh; need (h.imm % 16 == 0); let n ← bvO 16 (h.imm / 16); some (.bkpt h.grd n)) <|>
    (do h.zd; let a ← h.aS; let b ← h.bS; h.ik 1; some (.bkptW h.grd a b)) <|>
    (do let rd ← h.rS; let a ← h.aS; h.z2; h.ik 2; some (.bkptR h.grd rd a)) <|>
    (do h.zd; let a ← h.aS; let b ← h.bS; h.ik 3; some (.bkptS h.grd a b)) <|>
    (do h.zd; h.z1; h.z2; h.ik 4; some (.bkptF h.grd)) <|>
    (do h.zd; let a ← h.aS; h.z2; need (h.sh && decide (5 ≤ h.imm)); let op ← finO 11 (h.imm - 5); some (.bkptT h.grd op a))
  | 0x1 =>
    (do h.zd; let a ← h.aS; need (h.s2 == 0); need (h.d2 == 0); let imm ← immS h.form h.imm h.lit; some (.tmark h.grd a imm)) <|>
    (do h.zd; let a ← h.aS; need (h.s2 == 1); need (h.d2 == 0); let imm ← immS h.form h.imm h.lit; some (.tmarkO h.grd a imm)) <|>
    (do h.zd; h.z1; need (h.s2 == 2); need (h.d2 == 0); need (h.imm == 0); need (h.lit == 0); let form := h.form; some (.tmarkC h.grd form))
  | 0x2 => do h.zd; let a ← h.aS; h.z2; let imm ← immS h.form h.imm h.lit; some (.rmark h.grd a imm)
  | 0x8 => do h.zd; h.z1; h.z2; h.iz; some (.tret h.grd)
  | 0x9 => do let rd ← h.rS; h.z1; h.z2; h.iz; some (.yield h.grd rd)
  | 0xa => do h.zd; let xa ← h.aS; let xc ← h.bS; h.iz; some (.csave h.grd xa xc)
  | _ => none

/-- The instruction of a head, or none where R79 reserves it. -/
def decodeRaw (h : Raw) : Option Instr :=
  match h.major with
  | 0x1 => decControl h
  | 0x2 => decLoop h
  | 0x3 => decSystem h
  | 0x4 => decScalar h (128 ≤ h.minor)
  | 0x5 => decScalarImm h (128 ≤ h.minor)
  | 0x6 => decCompare h (128 ≤ h.minor)
  | 0x8 => decVecFloat h
  | 0x9 => decVecFun h
  | 0xa => decVecInt h
  | 0xb => decLaneMove h
  | 0xc => decMatrix h
  | 0xd => decMatrixMem h
  | 0x10 => decMemory h
  | 0x11 => decFullEmpty h
  | 0x12 => decAtomic h (128 ≤ h.minor)
  | 0x13 => decOrder h
  | 0x14 => decCopy h
  | 0x18 => decTasks h
  | 0x19 => decMessages h
  | 0x1a => decTables h
  | 0x1b => decStreams h
  | 0x1c => decSweeps h
  | 0x1d => decCounters h
  | 0x1e => decDebug h
  | _ => none

/-- The little-endian number of a list of bytes (R59). -/
def leNat : List Byte → Nat
  | [] => 0
  | b :: bs => b.toNat + 256 * leNat bs

/-- The `n` low bytes of a number, least significant first (R59). -/
def leBytes : Nat → Nat → List Byte
  | 0, _ => []
  | n + 1, x => BitVec.ofNat 8 x :: leBytes n (x / 256)

/-- The length in bytes that the first byte gives (R59). -/
def lengthOf (b : Byte) : Nat :=
  match b.toNat % 4 with
  | 0 => 8
  | 1 => 12
  | _ => 16

/-- The fields of a head (R60). -/
def Raw.ofHead (f : Form) (x : Nat) (lit : Word) : Raw :=
  { form := f, major := x / 2 ^ 2 % 2 ^ 6, guard := x / 2 ^ 8 % 2 ^ 4, dest := x / 2 ^ 12 % 2 ^ 6,
    s1 := x / 2 ^ 18 % 2 ^ 6, d1 := x / 2 ^ 24 % 2 ^ 3, s2 := x / 2 ^ 27 % 2 ^ 6, d2 := x / 2 ^ 33 % 2 ^ 3,
    minor := x / 2 ^ 36 % 2 ^ 8, imm := x / 2 ^ 44 % 2 ^ 20, lit := lit }

/-- The length field of a form (R59). -/
def Form.code : Form → Nat
  | .h64 => 0
  | .h96 => 1
  | .h128 => 2

/-- The head word of the fields (R60). -/
def Raw.head (h : Raw) : Nat :=
  h.form.code + 2 ^ 2 * h.major + 2 ^ 8 * h.guard + 2 ^ 12 * h.dest + 2 ^ 18 * h.s1 + 2 ^ 24 * h.d1 + 2 ^ 27 * h.s2 +
    2 ^ 33 * h.d2 + 2 ^ 36 * h.minor + 2 ^ 44 * h.imm

/-- The scalar half of a pair word, from its low 64 bits (R68). -/
def Raw.ofScalarHalf (x : Nat) : Raw :=
  { major := x / 2 ^ 6 % 2 ^ 6, minor := x / 2 ^ 12 % 2 ^ 8, dest := x / 2 ^ 20 % 2 ^ 6, s1 := x / 2 ^ 26 % 2 ^ 6,
    d1 := x / 2 ^ 32 % 2 ^ 3, s2 := x / 2 ^ 35 % 2 ^ 6, d2 := x / 2 ^ 41 % 2 ^ 3, imm := x / 2 ^ 44 % 2 ^ 20,
    guard := x / 2 ^ 2 % 2 ^ 4 }

/-- The vector half of a pair word, from its high 64 bits, with the shared guard (R68). -/
def Raw.ofVectorHalf (g y : Nat) : Raw :=
  { major := y % 2 ^ 6, minor := y / 2 ^ 6 % 2 ^ 8, dest := y / 2 ^ 14 % 2 ^ 6, s1 := y / 2 ^ 20 % 2 ^ 6,
    d1 := y / 2 ^ 26 % 2 ^ 3, s2 := y / 2 ^ 29 % 2 ^ 6, d2 := y / 2 ^ 35 % 2 ^ 3, imm := y / 2 ^ 38 % 2 ^ 20,
    guard := g }

/-- The low 64 bits of a pair word (R68). -/
def Raw.scalarHalf (h : Raw) : Nat :=
  3 + 2 ^ 2 * h.guard + 2 ^ 6 * h.major + 2 ^ 12 * h.minor + 2 ^ 20 * h.dest + 2 ^ 26 * h.s1 + 2 ^ 32 * h.d1 +
    2 ^ 35 * h.s2 + 2 ^ 41 * h.d2 + 2 ^ 44 * h.imm

/-- The high 64 bits of a pair word (R68). -/
def Raw.vectorHalf (h : Raw) : Nat :=
  h.major + 2 ^ 6 * h.minor + 2 ^ 14 * h.dest + 2 ^ 20 * h.s1 + 2 ^ 26 * h.d1 + 2 ^ 29 * h.s2 + 2 ^ 35 * h.d2 +
    2 ^ 38 * h.imm

/-- What a word decodes to: a headed instruction, CREST, or the two halves of a pair word with their guard. (The runtime of
Lean cannot hold a value of one of the last constructors of Instr, so the step works on their parts.) -/
inductive Decoded where
  | one (i : Instr)
  | crest (g : Guard) (xa xc : SSrc)
  | pair (g : Guard) (sh vh : Instr)
  deriving DecidableEq, Repr, Inhabited

/-- The instruction a decoded word is. -/
noncomputable def Decoded.instr : Decoded → Instr
  | .one i => i
  | .crest g xa xc => .crest g xa xc
  | .pair g sh vh => .pairWord g sh vh

/-- CREST (R401). -/
def decCrest (h : Raw) : Option Decoded := do
  need (h.major == 30 && h.minor == 11)
  h.zd
  let xa ← h.aS
  let xc ← h.bS
  h.iz
  some (.crest h.grd xa xc)

/-- A headed word. -/
def decodeHead (h : Raw) : Option Decoded := (decodeRaw h).map .one <|> decCrest h

/-- The instruction whose first 64 bits are `lo` and whose further bits are `hi` (R59, R68, R79). -/
def decodeWord (lo hi : Nat) : Option Decoded :=
  match lo % 4 with
  | 0 => decodeHead (Raw.ofHead .h64 lo 0)
  | 1 => decodeHead (Raw.ofHead .h96 lo (BitVec.ofNat 64 (hi % 2 ^ 32)))
  | 2 => decodeHead (Raw.ofHead .h128 lo (BitVec.ofNat 64 hi))
  | _ => do
    need (hi / 2 ^ 58 % 2 ^ 6 == 0)
    let s := Raw.ofScalarHalf lo
    let sh ← decodeRaw s
    let vh ← decodeRaw (Raw.ofVectorHalf s.guard hi)
    need (sh.scalarHalf s.grd && vh.vectorHalf s.grd && pairOk sh vh)
    some (.pair s.grd sh vh)

/-- The instruction that starts the bytes, with its length; none for a reserved word or too few bytes. -/
def decode (bs : List Byte) : Option (Decoded × Nat) :=
  match bs with
  | [] => none
  | b :: _ =>
    let n := lengthOf b
    if bs.length < n then none
    else (decodeWord (leNat (bs.take 8)) (leNat ((bs.take n).drop 8))).map fun i => (i, n)

/-- The instruction of a table word: the first `nbits` bits are `w`, any later ones zero. -/
noncomputable def decodeTableWord (nbits w : Nat) : Option Instr :=
  (decode (leBytes 16 (w % 2 ^ nbits))).map (·.1.instr)

/-- The head of an instruction: none for an event, a pair word and the reserved encoding. -/
def encodeRaw : Instr → Option Raw
  | .br g imm => some { major := 1, minor := 1, guard := g.code, form := imm.form, imm := imm.field, lit := imm.lit }
  | .bra g imm => some { major := 1, minor := 2, guard := g.code, form := imm.form, imm := imm.field, lit := imm.lit }
  | .jal g rd imm => some { major := 1, minor := 3, guard := g.code, dest := rd.code, form := imm.form, imm := imm.field, lit := imm.lit }
  | .jalr g rd a => some { major := 1, minor := 4, guard := g.code, dest := rd.code, s1 := a.code, d1 := a.dist }
  | .ret g a => some { major := 1, minor := 5, guard := g.code, s1 := a.code, d1 := a.dist }
  | .rep g a blen imm => some { major := 1, minor := 6, guard := g.code, s1 := a.code, d1 := a.dist, s2 := blen.val, form := imm.form, imm := imm.field, lit := imm.lit }
  | .trap g n => some { major := 1, minor := 7, guard := g.code, imm := n.toNat }
  | .endl => some { major := 2, minor := 1 }
  | .brk g => some { major := 2, minor := 2, guard := g.code }
  | .brkO g => some { major := 2, minor := 3, guard := g.code }
  | .iret g => some { major := 2, minor := 4, guard := g.code }
  | .lfree g => some { major := 2, minor := 6, guard := g.code }
  | .sysrd g rd n => some { major := 3, minor := 0, guard := g.code, dest := rd.code, imm := n.toNat }
  | .syswr g n a => some { major := 3, minor := 1, guard := g.code, s1 := a.code, d1 := a.dist, imm := n.toNat }
  | .add g w rd a b => some { major := 4, minor := 0 + (if w then 128 else 0), guard := g.code, dest := rd.code, s1 := a.code, d1 := a.dist, s2 := b.code, d2 := b.dist }
  | .sub g w rd a b => some { major := 4, minor := 1 + (if w then 128 else 0), guard := g.code, dest := rd.code, s1 := a.code, d1 := a.dist, s2 := b.code, d2 := b.dist }
  | .mul g w rd a b => some { major := 4, minor := 2 + (if w then 128 else 0), guard := g.code, dest := rd.code, s1 := a.code, d1 := a.dist, s2 := b.code, d2 := b.dist }
  | .mulh g w rd a b => some { major := 4, minor := 3 + (if w then 128 else 0), guard := g.code, dest := rd.code, s1 := a.code, d1 := a.dist, s2 := b.code, d2 := b.dist }
  | .mulhu g w rd a b => some { major := 4, minor := 4 + (if w then 128 else 0), guard := g.code, dest := rd.code, s1 := a.code, d1 := a.dist, s2 := b.code, d2 := b.dist }
  | .div g w rd a b => some { major := 4, minor := 5 + (if w then 128 else 0), guard := g.code, dest := rd.code, s1 := a.code, d1 := a.dist, s2 := b.code, d2 := b.dist }
  | .divu g w rd a b => some { major := 4, minor := 6 + (if w then 128 else 0), guard := g.code, dest := rd.code, s1 := a.code, d1 := a.dist, s2 := b.code, d2 := b.dist }
  | .rem g w rd a b => some { major := 4, minor := 7 + (if w then 128 else 0), guard := g.code, dest := rd.code, s1 := a.code, d1 := a.dist, s2 := b.code, d2 := b.dist }
  | .remu g w rd a b => some { major := 4, minor := 8 + (if w then 128 else 0), guard := g.code, dest := rd.code, s1 := a.code, d1 := a.dist, s2 := b.code, d2 := b.dist }
  | .and g rd a b => some { major := 4, minor := 16, guard := g.code, dest := rd.code, s1 := a.code, d1 := a.dist, s2 := b.code, d2 := b.dist }
  | .or g rd a b => some { major := 4, minor := 17, guard := g.code, dest := rd.code, s1 := a.code, d1 := a.dist, s2 := b.code, d2 := b.dist }
  | .xor g rd a b => some { major := 4, minor := 18, guard := g.code, dest := rd.code, s1 := a.code, d1 := a.dist, s2 := b.code, d2 := b.dist }
  | .andn g rd a b => some { major := 4, minor := 19, guard := g.code, dest := rd.code, s1 := a.code, d1 := a.dist, s2 := b.code, d2 := b.dist }
  | .orn g rd a b => some { major := 4, minor := 20, guard := g.code, dest := rd.code, s1 := a.code, d1 := a.dist, s2 := b.code, d2 := b.dist }
  | .shl g w rd a b => some { major := 4, minor := 24 + (if w then 128 else 0), guard := g.code, dest := rd.code, s1 := a.code, d1 := a.dist, s2 := b.code, d2 := b.dist }
  | .shr g w rd a b => some { major := 4, minor := 25 + (if w then 128 else 0), guard := g.code, dest := rd.code, s1 := a.code, d1 := a.dist, s2 := b.code, d2 := b.dist }
  | .sar g w rd a b => some { major := 4, minor := 26 + (if w then 128 else 0), guard := g.code, dest := rd.code, s1 := a.code, d1 := a.dist, s2 := b.code, d2 := b.dist }
  | .rol g w rd a b => some { major := 4, minor := 27 + (if w then 128 else 0), guard := g.code, dest := rd.code, s1 := a.code, d1 := a.dist, s2 := b.code, d2 := b.dist }
  | .clz g w rd a => some { major := 4, minor := 28 + (if w then 128 else 0), guard := g.code, dest := rd.code, s1 := a.code, d1 := a.dist }
  | .ctz g w rd a => some { major := 4, minor := 29 + (if w then 128 else 0), guard := g.code, dest := rd.code, s1 := a.code, d1 := a.dist }
  | .popc g w rd a => some { major := 4, minor := 30 + (if w then 128 else 0), guard := g.code, dest := rd.code, s1 := a.code, d1 := a.dist }
  | .min g w rd a b => some { major := 4, minor := 32 + (if w then 128 else 0), guard := g.code, dest := rd.code, s1 := a.code, d1 := a.dist, s2 := b.code, d2 := b.dist }
  | .max g w rd a b => some { major := 4, minor := 33 + (if w then 128 else 0), guard := g.code, dest := rd.code, s1 := a.code, d1 := a.dist, s2 := b.code, d2 := b.dist }
  | .minu g w rd a b => some { major := 4, minor := 34 + (if w then 128 else 0), guard := g.code, dest := rd.code, s1 := a.code, d1 := a.dist, s2 := b.code, d2 := b.dist }
  | .maxu g w rd a b => some { major := 4, minor := 35 + (if w then 128 else 0), guard := g.code, dest := rd.code, s1 := a.code, d1 := a.dist, s2 := b.code, d2 := b.dist }
  | .sel g rd n a b => some { major := 4, minor := 36, guard := g.code, dest := rd.code, s1 := a.code, d1 := a.dist, s2 := b.code, d2 := b.dist, imm := n.val }
  | .mov g rd a => some { major := 4, minor := 37, guard := g.code, dest := rd.code, s1 := a.code, d1 := a.dist }
  | .addi g w rd a imm => some { major := 5, minor := 0 + (if w then 128 else 0), guard := g.code, dest := rd.code, s1 := a.code, d1 := a.dist, form := imm.form, imm := imm.field, lit := imm.lit }
  | .li g rd imm => some { major := 5, minor := 1, guard := g.code, dest := rd.code, form := imm.form, imm := imm.field, lit := imm.lit }
  | .extf g s rd a pos len => some { major := 5, minor := 2, guard := g.code, dest := rd.code, s1 := a.code, d1 := a.dist, imm := len.val + 64 * pos.val + (if s then 4096 else 0) }
  | .insf g rd a b pos len => some { major := 5, minor := 3, guard := g.code, dest := rd.code, s1 := a.code, d1 := a.dist, s2 := b.code, d2 := b.dist, imm := len.val + 64 * pos.val }
  | .pga g c rd place off space disp => some { major := 5, minor := 4, guard := g.code, dest := rd.code, s1 := place.code, d1 := place.dist, s2 := off.code, d2 := off.dist, imm := space.toNat + (if c then 16 else 0), form := disp.form, lit := disp.lit }
  | .cmp g w cc gd a b => some { major := 6, minor := cc.code + (if w then 128 else 0), guard := g.code, dest := gd.val, s1 := a.code, d1 := a.dist, s2 := b.code, d2 := b.dist }
  | .cmpi g w cc gd a imm => some { major := 6, minor := 16 + cc.code + (if w then 128 else 0), guard := g.code, dest := gd.val, s1 := a.code, d1 := a.dist, form := imm.form, imm := imm.field, lit := imm.lit }
  | .gand g gd ga gb => some { major := 6, minor := 32, guard := g.code, dest := gd.val, s1 := ga.val, s2 := gb.val }
  | .gor g gd ga gb => some { major := 6, minor := 33, guard := g.code, dest := gd.val, s1 := ga.val, s2 := gb.val }
  | .gnot g gd ga => some { major := 6, minor := 34, guard := g.code, dest := gd.val, s1 := ga.val }
  | .vadd g vd a b => some { major := 8, minor := 0, guard := g.code, dest := vd.code, s1 := a.code, d1 := a.dist, s2 := b.code, d2 := b.dist }
  | .vsub g vd a b => some { major := 8, minor := 1, guard := g.code, dest := vd.code, s1 := a.code, d1 := a.dist, s2 := b.code, d2 := b.dist }
  | .vmul g vd a b => some { major := 8, minor := 2, guard := g.code, dest := vd.code, s1 := a.code, d1 := a.dist, s2 := b.code, d2 := b.dist }
  | .vmin g vd a b => some { major := 8, minor := 5, guard := g.code, dest := vd.code, s1 := a.code, d1 := a.dist, s2 := b.code, d2 := b.dist }
  | .vmax g vd a b => some { major := 8, minor := 6, guard := g.code, dest := vd.code, s1 := a.code, d1 := a.dist, s2 := b.code, d2 := b.dist }
  | .vcps g vd a b => some { major := 8, minor := 9, guard := g.code, dest := vd.code, s1 := a.code, d1 := a.dist, s2 := b.code, d2 := b.dist }
  | .vfma g vd a b c => some { major := 8, minor := 3, guard := g.code, dest := vd.code, s1 := a.code, d1 := a.dist, s2 := b.code, d2 := b.dist, imm := c.code + 64 * c.dist }
  | .vfms g vd a b c => some { major := 8, minor := 4, guard := g.code, dest := vd.code, s1 := a.code, d1 := a.dist, s2 := b.code, d2 := b.dist, imm := c.code + 64 * c.dist }
  | .vabs g vd a => some { major := 8, minor := 7, guard := g.code, dest := vd.code, s1 := a.code, d1 := a.dist }
  | .vneg g vd a => some { major := 8, minor := 8, guard := g.code, dest := vd.code, s1 := a.code, d1 := a.dist }
  | .vcmp g cc gd a b => some { major := 8, minor := 16 + cc.code, guard := g.code, dest := gd.val, s1 := a.code, d1 := a.dist, s2 := b.code, d2 := b.dist }
  | .vsel g vd n a b => some { major := 8, minor := 32, guard := g.code, dest := vd.code, s1 := a.code, d1 := a.dist, s2 := b.code, d2 := b.dist, imm := n.val }
  | .vrnd g vd a => some { major := 9, minor := 0, guard := g.code, dest := vd.code, s1 := a.code, d1 := a.dist }
  | .vfexp g vd a => some { major := 9, minor := 1, guard := g.code, dest := vd.code, s1 := a.code, d1 := a.dist }
  | .vexpi g vd a b => some { major := 9, minor := 2, guard := g.code, dest := vd.code, s1 := a.code, d1 := a.dist, s2 := b.code, d2 := b.dist }
  | .vlogb g vd a => some { major := 9, minor := 3, guard := g.code, dest := vd.code, s1 := a.code, d1 := a.dist }
  | .vrcp g vd a => some { major := 9, minor := 4, guard := g.code, dest := vd.code, s1 := a.code, d1 := a.dist }
  | .vrsq g vd a => some { major := 9, minor := 5, guard := g.code, dest := vd.code, s1 := a.code, d1 := a.dist }
  | .vcvt g u m t vd a => some { major := 9, minor := 8, guard := g.code, dest := vd.code, s1 := a.code, d1 := a.dist, imm := 16 * t.code + (if m then 256 else 0) + (if u then 512 else 0) }
  | .vpack g u m t vd a b => some { major := 9, minor := 9, guard := g.code, dest := vd.code, s1 := a.code, d1 := a.dist, s2 := b.code, d2 := b.dist, imm := 16 * t.code + (if m then 256 else 0) + (if u then 512 else 0) }
  | .vunpk g u t h vd a => some { major := 9, minor := 10, guard := g.code, dest := vd.code, s1 := a.code, d1 := a.dist, imm := (if h then 1 else 0) + 16 * t.code + (if u then 512 else 0) }
  | .viadd g mode vd a b => some { major := 10, minor := 0, guard := g.code, dest := vd.code, s1 := a.code, d1 := a.dist, s2 := b.code, d2 := b.dist, imm := mode.code }
  | .visub g mode vd a b => some { major := 10, minor := 1, guard := g.code, dest := vd.code, s1 := a.code, d1 := a.dist, s2 := b.code, d2 := b.dist, imm := mode.code }
  | .vimul g vd a b => some { major := 10, minor := 2, guard := g.code, dest := vd.code, s1 := a.code, d1 := a.dist, s2 := b.code, d2 := b.dist }
  | .vand g vd a b => some { major := 10, minor := 4, guard := g.code, dest := vd.code, s1 := a.code, d1 := a.dist, s2 := b.code, d2 := b.dist }
  | .vor g vd a b => some { major := 10, minor := 5, guard := g.code, dest := vd.code, s1 := a.code, d1 := a.dist, s2 := b.code, d2 := b.dist }
  | .vxor g vd a b => some { major := 10, minor := 6, guard := g.code, dest := vd.code, s1 := a.code, d1 := a.dist, s2 := b.code, d2 := b.dist }
  | .vshl g vd a b => some { major := 10, minor := 7, guard := g.code, dest := vd.code, s1 := a.code, d1 := a.dist, s2 := b.code, d2 := b.dist }
  | .vshr g vd a b => some { major := 10, minor := 8, guard := g.code, dest := vd.code, s1 := a.code, d1 := a.dist, s2 := b.code, d2 := b.dist }
  | .vsar g vd a b => some { major := 10, minor := 9, guard := g.code, dest := vd.code, s1 := a.code, d1 := a.dist, s2 := b.code, d2 := b.dist }
  | .vimad g vd a b c => some { major := 10, minor := 3, guard := g.code, dest := vd.code, s1 := a.code, d1 := a.dist, s2 := b.code, d2 := b.dist, imm := c.code + 64 * c.dist }
  | .vdot4 g vd a b c => some { major := 10, minor := 10, guard := g.code, dest := vd.code, s1 := a.code, d1 := a.dist, s2 := b.code, d2 := b.dist, imm := c.code + 64 * c.dist }
  | .vbcast g vd a t imm => some { major := 11, minor := 0, guard := g.code, dest := vd.code, s1 := a.code, d1 := a.dist, s2 := t.code, form := imm.form, imm := imm.field, lit := imm.lit }
  | .vperm g vd a b => some { major := 11, minor := 1, guard := g.code, dest := vd.code, s1 := a.code, d1 := a.dist, s2 := b.code, d2 := b.dist }
  | .vrot g vd a k => some { major := 11, minor := 2, guard := g.code, dest := vd.code, s1 := a.code, d1 := a.dist, imm := k.val }
  | .vmovs g s rd a k => some { major := 11, minor := 3, guard := g.code, dest := rd.code, s1 := a.code, d1 := a.dist, imm := k.val + (if s then 32 else 0) }
  | .vins g vd a k t => some { major := 11, minor := 4, guard := g.code, dest := vd.code, s1 := a.code, d1 := a.dist, imm := k.val + 256 * t.code }
  | .vreda g vd a => some { major := 11, minor := 8, guard := g.code, dest := vd.code, s1 := a.code, d1 := a.dist }
  | .vredm g vd a => some { major := 11, minor := 9, guard := g.code, dest := vd.code, s1 := a.code, d1 := a.dist }
  | .vscan g vd a => some { major := 11, minor := 10, guard := g.code, dest := vd.code, s1 := a.code, d1 := a.dist }
  | .mmab g z xa xw => some { major := 12, minor := 0, guard := g.code, dest := z.val, s1 := xa.code, d1 := xa.dist, s2 := xw.code, d2 := xw.dist }
  | .mmai g z xa xw => some { major := 12, minor := 1, guard := g.code, dest := z.val, s1 := xa.code, d1 := xa.dist, s2 := xw.code, d2 := xw.dist }
  | .mmad g z xa xw xs => some { major := 12, minor := 2, guard := g.code, dest := z.val, s1 := xa.code, d1 := xa.dist, s2 := xw.code, d2 := xw.dist, imm := xs.code + 64 * xs.dist }
  | .zclr g z t => some { major := 12, minor := 3, guard := g.code, dest := z.val, imm := t.code }
  | .zscale g z a => some { major := 12, minor := 4, guard := g.code, dest := z.val, s1 := a.code, d1 := a.dist }
  | .zrd g vd z p => some { major := 12, minor := 5, guard := g.code, dest := vd.code, s1 := z.val, imm := p.val }
  | .zwr g z a p => some { major := 12, minor := 6, guard := g.code, dest := z.val, s1 := a.code, d1 := a.dist, imm := p.val }
  | .zld g z xb t imm => some { major := 13, minor := 0, guard := g.code, dest := z.val, s1 := xb.code, d1 := xb.dist, s2 := t.code, form := imm.form, imm := imm.field, lit := imm.lit }
  | .zst g z xb imm => some { major := 13, minor := 1, guard := g.code, s1 := xb.code, d1 := xb.dist, s2 := z.val, form := imm.form, imm := imm.field, lit := imm.lit }
  | .wbld g xd xb imm => some { major := 13, minor := 2, guard := g.code, s1 := xb.code, d1 := xb.dist, s2 := xd.code, d2 := xd.dist, form := imm.form, imm := imm.field, lit := imm.lit }
  | .ldt g xd xb imm => some { major := 13, minor := 3, guard := g.code, s1 := xb.code, d1 := xb.dist, s2 := xd.code, d2 := xd.dist, form := imm.form, imm := imm.field, lit := imm.lit }
  | .swapt g t zd zs key => some { major := 13, minor := 4, guard := g.code, dest := zd.val, s1 := zs.val, imm := key.toNat + (if t then 256 else 0) }
  | .ld g rd xb imm => some { major := 16, minor := 0, guard := g.code, dest := rd.code, s1 := xb.code, d1 := xb.dist, form := imm.form, imm := imm.field, lit := imm.lit }
  | .ldW g rd xb imm => some { major := 16, minor := 1, guard := g.code, dest := rd.code, s1 := xb.code, d1 := xb.dist, form := imm.form, imm := imm.field, lit := imm.lit }
  | .ldWu g rd xb imm => some { major := 16, minor := 2, guard := g.code, dest := rd.code, s1 := xb.code, d1 := xb.dist, form := imm.form, imm := imm.field, lit := imm.lit }
  | .ldH g rd xb imm => some { major := 16, minor := 3, guard := g.code, dest := rd.code, s1 := xb.code, d1 := xb.dist, form := imm.form, imm := imm.field, lit := imm.lit }
  | .ldHu g rd xb imm => some { major := 16, minor := 4, guard := g.code, dest := rd.code, s1 := xb.code, d1 := xb.dist, form := imm.form, imm := imm.field, lit := imm.lit }
  | .ldB g rd xb imm => some { major := 16, minor := 5, guard := g.code, dest := rd.code, s1 := xb.code, d1 := xb.dist, form := imm.form, imm := imm.field, lit := imm.lit }
  | .ldBu g rd xb imm => some { major := 16, minor := 6, guard := g.code, dest := rd.code, s1 := xb.code, d1 := xb.dist, form := imm.form, imm := imm.field, lit := imm.lit }
  | .st g rs xb imm => some { major := 16, minor := 8, guard := g.code, s1 := xb.code, d1 := xb.dist, s2 := rs.code, d2 := rs.dist, form := imm.form, imm := imm.field, lit := imm.lit }
  | .stW g rs xb imm => some { major := 16, minor := 9, guard := g.code, s1 := xb.code, d1 := xb.dist, s2 := rs.code, d2 := rs.dist, form := imm.form, imm := imm.field, lit := imm.lit }
  | .stH g rs xb imm => some { major := 16, minor := 10, guard := g.code, s1 := xb.code, d1 := xb.dist, s2 := rs.code, d2 := rs.dist, form := imm.form, imm := imm.field, lit := imm.lit }
  | .stB g rs xb imm => some { major := 16, minor := 11, guard := g.code, s1 := xb.code, d1 := xb.dist, s2 := rs.code, d2 := rs.dist, form := imm.form, imm := imm.field, lit := imm.lit }
  | .ldv g vd xb imm => some { major := 16, minor := 16, guard := g.code, dest := vd.code, s1 := xb.code, d1 := xb.dist, form := imm.form, imm := imm.field, lit := imm.lit }
  | .stv g vs xb imm => some { major := 16, minor := 17, guard := g.code, s1 := xb.code, d1 := xb.dist, s2 := vs.code, d2 := vs.dist, form := imm.form, imm := imm.field, lit := imm.lit }
  | .ldg g vd xb vi => some { major := 16, minor := 18, guard := g.code, dest := vd.code, s1 := xb.code, d1 := xb.dist, s2 := vi.code, d2 := vi.dist }
  | .sts g vs xb vi => some { major := 16, minor := 19, guard := g.code, s1 := xb.code, d1 := xb.dist, s2 := vi.code, d2 := vi.dist, imm := vs.code + 64 * vs.dist }
  | .ldl g vd xo off => some { major := 16, minor := 20, guard := g.code, dest := vd.code, s1 := xo.code, d1 := xo.dist, imm := off.toNat }
  | .stl g vs xo off => some { major := 16, minor := 21, guard := g.code, s1 := xo.code, d1 := xo.dist, s2 := vs.code, d2 := vs.dist, imm := off.toNat }
  | .pref g xb imm => some { major := 16, minor := 24, guard := g.code, s1 := xb.code, d1 := xb.dist, form := imm.form, imm := imm.field, lit := imm.lit }
  | .lde g rd xb imm => some { major := 17, minor := 0, guard := g.code, dest := rd.code, s1 := xb.code, d1 := xb.dist, form := imm.form, imm := imm.field, lit := imm.lit }
  | .stf g rs xb imm => some { major := 17, minor := 1, guard := g.code, s1 := xb.code, d1 := xb.dist, s2 := rs.code, d2 := rs.dist, form := imm.form, imm := imm.field, lit := imm.lit }
  | .ldf g rd xb imm => some { major := 17, minor := 2, guard := g.code, dest := rd.code, s1 := xb.code, d1 := xb.dist, form := imm.form, imm := imm.field, lit := imm.lit }
  | .fempty g xb imm => some { major := 17, minor := 3, guard := g.code, s1 := xb.code, d1 := xb.dist, form := imm.form, imm := imm.field, lit := imm.lit }
  | .futr g rd xb imm => some { major := 17, minor := 4, guard := g.code, dest := rd.code, s1 := xb.code, d1 := xb.dist, form := imm.form, imm := imm.field, lit := imm.lit }
  | .futw g rd rs xb imm => some { major := 17, minor := 5, guard := g.code, dest := rd.code, s1 := xb.code, d1 := xb.dist, s2 := rs.code, d2 := rs.dist, form := imm.form, imm := imm.field, lit := imm.lit }
  | .aadd g w rd xb rs => some { major := 18, minor := 0 + (if w then 128 else 0), guard := g.code, dest := rd.code, s1 := xb.code, d1 := xb.dist, s2 := rs.code, d2 := rs.dist }
  | .amin g w rd xb rs => some { major := 18, minor := 1 + (if w then 128 else 0), guard := g.code, dest := rd.code, s1 := xb.code, d1 := xb.dist, s2 := rs.code, d2 := rs.dist }
  | .amax g w rd xb rs => some { major := 18, minor := 2 + (if w then 128 else 0), guard := g.code, dest := rd.code, s1 := xb.code, d1 := xb.dist, s2 := rs.code, d2 := rs.dist }
  | .axch g w rd xb rs => some { major := 18, minor := 3 + (if w then 128 else 0), guard := g.code, dest := rd.code, s1 := xb.code, d1 := xb.dist, s2 := rs.code, d2 := rs.dist }
  | .aand g w rd xb rs => some { major := 18, minor := 5 + (if w then 128 else 0), guard := g.code, dest := rd.code, s1 := xb.code, d1 := xb.dist, s2 := rs.code, d2 := rs.dist }
  | .aor g w rd xb rs => some { major := 18, minor := 6 + (if w then 128 else 0), guard := g.code, dest := rd.code, s1 := xb.code, d1 := xb.dist, s2 := rs.code, d2 := rs.dist }
  | .acas g w rd xb rs rc => some { major := 18, minor := 4 + (if w then 128 else 0), guard := g.code, dest := rd.code, s1 := xb.code, d1 := xb.dist, s2 := rs.code, d2 := rs.dist, imm := rc.code + 64 * rc.dist }
  | .acqGroup g rd xs => some { major := 19, minor := 0, guard := g.code, dest := rd.code, s1 := xs.code, d1 := xs.dist }
  | .relGroup g xs rv => some { major := 19, minor := 4, guard := g.code, s1 := xs.code, d1 := xs.dist, s2 := rv.code, d2 := rv.dist }
  | .fenceGroup g => some { major := 19, minor := 8, guard := g.code }
  | .acqDevice g rd xs => some { major := 19, minor := 1, guard := g.code, dest := rd.code, s1 := xs.code, d1 := xs.dist }
  | .relDevice g xs rv => some { major := 19, minor := 5, guard := g.code, s1 := xs.code, d1 := xs.dist, s2 := rv.code, d2 := rv.dist }
  | .fenceDevice g => some { major := 19, minor := 9, guard := g.code }
  | .acqSystem g rd xs => some { major := 19, minor := 2, guard := g.code, dest := rd.code, s1 := xs.code, d1 := xs.dist }
  | .relSystem g xs rv => some { major := 19, minor := 6, guard := g.code, s1 := xs.code, d1 := xs.dist, s2 := rv.code, d2 := rv.dist }
  | .fenceSystem g => some { major := 19, minor := 10, guard := g.code }
  | .cpw g k a b => some { major := 20, minor := 0, guard := g.code, s1 := a.code, d1 := a.dist, s2 := b.code, d2 := b.dist, imm := k.val }
  | .cpgo g rd => some { major := 20, minor := 1, guard := g.code, dest := rd.code }
  | .cpwany g rd a => some { major := 20, minor := 2, guard := g.code, dest := rd.code, s1 := a.code, d1 := a.dist }
  | .cpwall g rd a => some { major := 20, minor := 3, guard := g.code, dest := rd.code, s1 := a.code, d1 := a.dist }
  | .cpff g rd a => some { major := 20, minor := 4, guard := g.code, dest := rd.code, s1 := a.code, d1 := a.dist }
  | .cpchk g rd a => some { major := 20, minor := 6, guard := g.code, dest := rd.code, s1 := a.code, d1 := a.dist }
  | .cpclr g a => some { major := 20, minor := 5, guard := g.code, s1 := a.code, d1 := a.dist }
  | .cpclrF g a => some { major := 20, minor := 5, guard := g.code, s1 := a.code, d1 := a.dist, imm := 1 }
  | .spawn g gd xpc xc b => some { major := 24, minor := 0, guard := g.code, dest := gd.val, s1 := xpc.code, d1 := xpc.dist, s2 := xc.code, d2 := xc.dist, imm := b.val }
  | .quit g xs => some { major := 24, minor := 1, guard := g.code, s1 := xs.code, d1 := xs.dist }
  | .reap g rd => some { major := 24, minor := 2, guard := g.code, dest := rd.code }
  | .waitw g => some { major := 24, minor := 3, guard := g.code }
  | .taskq g gd xs n => some { major := 24, minor := 4, guard := g.code, dest := gd.val, s1 := xs.code, d1 := xs.dist, imm := n.val }
  | .taskqDeque g gd xs => some { major := 24, minor := 4, guard := g.code, dest := gd.val, s1 := xs.code, d1 := xs.dist, imm := 16 }
  | .take g rd gd => some { major := 24, minor := 5, guard := g.code, dest := rd.code, imm := gd.val }
  | .steal g rd gd xc => some { major := 24, minor := 6, guard := g.code, dest := rd.code, s1 := xc.code, d1 := xc.dist, imm := gd.val }
  | .qcfgHwqueueType g xa xb => some { major := 24, minor := 7, guard := g.code, s1 := xa.code, d1 := xa.dist, s2 := xb.code, d2 := xb.dist }
  | .qcfgPriority g xa xb => some { major := 24, minor := 7, guard := g.code, s1 := xa.code, d1 := xa.dist, s2 := xb.code, d2 := xb.dist, imm := 1 }
  | .qcfgOwner g xa xb => some { major := 24, minor := 7, guard := g.code, s1 := xa.code, d1 := xa.dist, s2 := xb.code, d2 := xb.dist, imm := 2 }
  | .qcfgRing g xa xb => some { major := 24, minor := 7, guard := g.code, s1 := xa.code, d1 := xa.dist, s2 := xb.code, d2 := xb.dist, imm := 3 }
  | .qcfgArm g xa xb => some { major := 24, minor := 7, guard := g.code, s1 := xa.code, d1 := xa.dist, s2 := xb.code, d2 := xb.dist, imm := 4 }
  | .qcfgCounter g xa xb => some { major := 24, minor := 7, guard := g.code, s1 := xa.code, d1 := xa.dist, s2 := xb.code, d2 := xb.dist, imm := 5 }
  | .qstatHwqueue g rd xa => some { major := 24, minor := 8, guard := g.code, dest := rd.code, s1 := xa.code, d1 := xa.dist }
  | .qstatTaskqueue g rd xa => some { major := 24, minor := 8, guard := g.code, dest := rd.code, s1 := xa.code, d1 := xa.dist, imm := 1 }
  | .qstatCounter g rd xa => some { major := 24, minor := 8, guard := g.code, dest := rd.code, s1 := xa.code, d1 := xa.dist, imm := 2 }
  | .qstatDeque g rd xa => some { major := 24, minor := 8, guard := g.code, dest := rd.code, s1 := xa.code, d1 := xa.dist, imm := 3 }
  | .qstatExitqueue g rd xa => some { major := 24, minor := 8, guard := g.code, dest := rd.code, s1 := xa.code, d1 := xa.dist, imm := 4 }
  | .qstatMailbox g rd xa => some { major := 24, minor := 8, guard := g.code, dest := rd.code, s1 := xa.code, d1 := xa.dist, imm := 5 }
  | .qstatPoisonlog g rd xa => some { major := 24, minor := 8, guard := g.code, dest := rd.code, s1 := xa.code, d1 := xa.dist, imm := 6 }
  | .qstatDrops g rd xa => some { major := 24, minor := 8, guard := g.code, dest := rd.code, s1 := xa.code, d1 := xa.dist, imm := 7 }
  | .qrst g xa => some { major := 24, minor := 9, guard := g.code, s1 := xa.code, d1 := xa.dist }
  | .send g xd xa xb => some { major := 25, minor := 0, guard := g.code, s1 := xd.code, d1 := xd.dist, s2 := xa.code, d2 := xa.dist, imm := xb.code + 64 * xb.dist }
  | .mrecv g rd mb => some { major := 25, minor := 1, guard := g.code, dest := rd.val, imm := mb.toNat }
  | .mrecvR g rd k => some { major := 25, minor := 1, guard := g.code, dest := rd.code, imm := 256 + k.val }
  | .rcall g rd xd xa k => some { major := 25, minor := 2, guard := g.code, dest := rd.code, s1 := xd.code, d1 := xd.dist, s2 := xa.code, d2 := xa.dist, imm := k.val }
  | .rcallN g xd xa k => some { major := 25, minor := 2, guard := g.code, s1 := xd.code, d1 := xd.dist, s2 := xa.code, d2 := xa.dist, imm := 4 + k.val }
  | .rreply g xt xv => some { major := 25, minor := 3, guard := g.code, s1 := xt.code, d1 := xt.dist, s2 := xv.code, d2 := xv.dist }
  | .bsdefJ g xs xc => some { major := 26, minor := 0, guard := g.code, s1 := xs.code, d1 := xs.dist, s2 := xc.code, d2 := xc.dist }
  | .bsdefL g xs => some { major := 26, minor := 0, guard := g.code, s1 := xs.code, d1 := xs.dist, imm := 1 }
  | .barv g rd k => some { major := 26, minor := 1, guard := g.code, dest := rd.code, imm := k.val }
  | .bwait g xp k => some { major := 26, minor := 2, guard := g.code, s1 := xp.code, d1 := xp.dist, imm := k.val }
  | .barw g rd k => some { major := 26, minor := 3, guard := g.code, dest := rd.code, imm := k.val }
  | .rbind g rd xb xl xs => some { major := 26, minor := 4, guard := g.code, dest := rd.code, s1 := xb.code, d1 := xb.dist, s2 := xl.code, d2 := xl.dist, imm := xs.code + 64 * xs.dist }
  | .runbnd g xi => some { major := 26, minor := 5, guard := g.code, s1 := xi.code, d1 := xi.dist }
  | .slotwA g xp xv => some { major := 26, minor := 6, guard := g.code, s1 := xp.code, d1 := xp.dist, s2 := xv.code, d2 := xv.dist }
  | .slotwB g xp xv => some { major := 26, minor := 6, guard := g.code, s1 := xp.code, d1 := xp.dist, s2 := xv.code, d2 := xv.dist, imm := 1 }
  | .slotwE g xp xv => some { major := 26, minor := 6, guard := g.code, s1 := xp.code, d1 := xp.dist, s2 := xv.code, d2 := xv.dist, imm := 2 }
  | .slotwT g xp xv => some { major := 26, minor := 6, guard := g.code, s1 := xp.code, d1 := xp.dist, s2 := xv.code, d2 := xv.dist, imm := 3 }
  | .slotrdA g rd xp => some { major := 26, minor := 7, guard := g.code, dest := rd.code, s1 := xp.code, d1 := xp.dist }
  | .slotrdB g rd xp => some { major := 26, minor := 7, guard := g.code, dest := rd.code, s1 := xp.code, d1 := xp.dist, imm := 1 }
  | .slotrdE g rd xp => some { major := 26, minor := 7, guard := g.code, dest := rd.code, s1 := xp.code, d1 := xp.dist, imm := 2 }
  | .slotrdT g rd xp => some { major := 26, minor := 7, guard := g.code, dest := rd.code, s1 := xp.code, d1 := xp.dist, imm := 3 }
  | .sframe g gd rd xs => some { major := 27, minor := 0, guard := g.code, dest := rd.code, s1 := xs.code, d1 := xs.dist, imm := gd.val }
  | .semit g gd rd xs xv => some { major := 27, minor := 1, guard := g.code, dest := rd.code, s1 := xs.code, d1 := xs.dist, s2 := xv.code, d2 := xv.dist, imm := gd.val }
  | .scurGnc g rd xs => some { major := 27, minor := 2, guard := g.code, dest := rd.code, s1 := xs.code, d1 := xs.dist }
  | .scurPbc g rd xs => some { major := 27, minor := 2, guard := g.code, dest := rd.code, s1 := xs.code, d1 := xs.dist, imm := 1 }
  | .scurTp g rd xs => some { major := 27, minor := 2, guard := g.code, dest := rd.code, s1 := xs.code, d1 := xs.dist, imm := 2 }
  | .scurNseq g rd xs => some { major := 27, minor := 2, guard := g.code, dest := rd.code, s1 := xs.code, d1 := xs.dist, imm := 3 }
  | .scurSnapshots g rd xs => some { major := 27, minor := 2, guard := g.code, dest := rd.code, s1 := xs.code, d1 := xs.dist, imm := 4 }
  | .scurLoss g rd xs => some { major := 27, minor := 2, guard := g.code, dest := rd.code, s1 := xs.code, d1 := xs.dist, imm := 5 }
  | .scurDrops g rd xs => some { major := 27, minor := 2, guard := g.code, dest := rd.code, s1 := xs.code, d1 := xs.dist, imm := 6 }
  | .strunc g rd xs => some { major := 27, minor := 3, guard := g.code, dest := rd.code, s1 := xs.code, d1 := xs.dist }
  | .ssnap g rd xs xp => some { major := 27, minor := 4, guard := g.code, dest := rd.code, s1 := xs.code, d1 := xs.dist, s2 := xp.code, d2 := xp.dist }
  | .sownOwner g xs xo => some { major := 27, minor := 5, guard := g.code, s1 := xs.code, d1 := xs.dist, s2 := xo.code, d2 := xo.dist }
  | .sownOpen g xs xo => some { major := 27, minor := 5, guard := g.code, s1 := xs.code, d1 := xs.dist, s2 := xo.code, d2 := xo.dist, imm := 1 }
  | .sownClose g xs xo => some { major := 27, minor := 5, guard := g.code, s1 := xs.code, d1 := xs.dist, s2 := xo.code, d2 := xo.dist, imm := 2 }
  | .swdecl g rd xa => some { major := 28, minor := 0, guard := g.code, dest := rd.code, s1 := xa.code, d1 := xa.dist }
  | .swdeclO g xt xo => some { major := 28, minor := 0, guard := g.code, s1 := xt.code, d1 := xt.dist, s2 := xo.code, d2 := xo.dist, imm := 1 }
  | .swgo g xt xn => some { major := 28, minor := 1, guard := g.code, s1 := xt.code, d1 := xt.dist, s2 := xn.code, d2 := xn.dist }
  | .swgoC g xt xn => some { major := 28, minor := 1, guard := g.code, s1 := xt.code, d1 := xt.dist, s2 := xn.code, d2 := xn.dist, imm := 1 }
  | .swgoW g r xt xn => some { major := 28, minor := 1, guard := g.code, s1 := xt.code, d1 := xt.dist, s2 := xn.code, d2 := xn.dist, imm := if r then 3 else 2 }
  | .swstop g xt => some { major := 28, minor := 2, guard := g.code, s1 := xt.code, d1 := xt.dist }
  | .swstopD g xt => some { major := 28, minor := 2, guard := g.code, s1 := xt.code, d1 := xt.dist, imm := 1 }
  | .swstatSn g rd xt => some { major := 28, minor := 3, guard := g.code, dest := rd.code, s1 := xt.code, d1 := xt.dist }
  | .swstatPos g rd xt => some { major := 28, minor := 3, guard := g.code, dest := rd.code, s1 := xt.code, d1 := xt.dist, imm := 1 }
  | .swstatPend g rd xt => some { major := 28, minor := 3, guard := g.code, dest := rd.code, s1 := xt.code, d1 := xt.dist, imm := 2 }
  | .swstatLoss g rd xt => some { major := 28, minor := 3, guard := g.code, dest := rd.code, s1 := xt.code, d1 := xt.dist, imm := 3 }
  | .cntcfg g id a => some { major := 29, minor := 0, guard := g.code, s1 := a.code, d1 := a.dist, imm := id.toNat }
  | .cntrd g rd id => some { major := 29, minor := 1, guard := g.code, dest := rd.code, imm := id.toNat }
  | .cntrdC g rd id => some { major := 29, minor := 1, guard := g.code, dest := rd.code, imm := 4096 + id.toNat }
  | .cntwr g id a => some { major := 29, minor := 2, guard := g.code, s1 := a.code, d1 := a.dist, imm := id.toNat }
  | .cntsv g grp a => some { major := 29, minor := 3, guard := g.code, s1 := a.code, d1 := a.dist, imm := grp.val }
  | .cntld g grp a => some { major := 29, minor := 4, guard := g.code, s1 := a.code, d1 := a.dist, imm := grp.val }
  | .bkpt g n => some { major := 30, minor := 0, guard := g.code, imm := 16 * n.toNat }
  | .bkptW g a b => some { major := 30, minor := 0, guard := g.code, s1 := a.code, d1 := a.dist, s2 := b.code, d2 := b.dist, imm := 1 }
  | .bkptR g rd a => some { major := 30, minor := 0, guard := g.code, dest := rd.code, s1 := a.code, d1 := a.dist, imm := 2 }
  | .bkptS g a b => some { major := 30, minor := 0, guard := g.code, s1 := a.code, d1 := a.dist, s2 := b.code, d2 := b.dist, imm := 3 }
  | .bkptF g => some { major := 30, minor := 0, guard := g.code, imm := 4 }
  | .bkptT g op a => some { major := 30, minor := 0, guard := g.code, s1 := a.code, d1 := a.dist, imm := 5 + op.val }
  | .tmark g a imm => some { major := 30, minor := 1, guard := g.code, s1 := a.code, d1 := a.dist, form := imm.form, imm := imm.field, lit := imm.lit }
  | .tmarkO g a imm => some { major := 30, minor := 1, guard := g.code, s1 := a.code, d1 := a.dist, s2 := 1, form := imm.form, imm := imm.field, lit := imm.lit }
  | .tmarkC g form => some { major := 30, minor := 1, guard := g.code, s2 := 2, form := form }
  | .rmark g a imm => some { major := 30, minor := 2, guard := g.code, s1 := a.code, d1 := a.dist, form := imm.form, imm := imm.field, lit := imm.lit }
  | .tret g => some { major := 30, minor := 8, guard := g.code }
  | .yield g rd => some { major := 30, minor := 9, guard := g.code, dest := rd.code }
  | .csave g xa xc => some { major := 30, minor := 10, guard := g.code, s1 := xa.code, d1 := xa.dist, s2 := xc.code, d2 := xc.dist }
  | .crest g xa xc => some { major := 30, minor := 11, guard := g.code, s1 := xa.code, d1 := xa.dist, s2 := xc.code, d2 := xc.dist }
  | .nop g form lit => some { major := 1, minor := 0, guard := g.code, form := form, lit := lit }
  | .loop (.reg a) w c om ofs => some { major := 2, minor := 0, s1 := a.code, d1 := a.dist, imm := loopField w c om false ofs }
  | .loop (.lit n) w c om ofs => some { major := 2, minor := 0, form := .h96, lit := n.zeroExtend 64, imm := loopField w c om false ofs }
  | .loopOpen w c om ofs => some { major := 2, minor := 0, imm := loopField w c om true ofs }
  | .vseed g dst k src => some (encVseed g dst k src)
  | .fmtg g rd (.v a) => some { major := 3, minor := 2, guard := g.code, dest := rd.code, s1 := a.code, d1 := a.dist }
  | .fmtg g rd (.z n) => some { major := 3, minor := 2, guard := g.code, dest := rd.code, s1 := n.val, imm := 1 }
  | .fmts g (.v d) t => some { major := 3, minor := 3, guard := g.code, dest := d.code, imm := 16 * t.code }
  | .fmts g (.z n) t => some { major := 3, minor := 3, guard := g.code, dest := n.val, imm := 16 * t.code + 1 }
  | _ => none

/-- The bytes of the form of a head (R59). -/
def Raw.bytes (h : Raw) : List Byte :=
  match h.form with
  | .h64 => leBytes 8 h.head
  | .h96 => leBytes 8 h.head ++ leBytes 4 h.lit.toNat
  | .h128 => leBytes 8 h.head ++ leBytes 8 h.lit.toNat

/-- The bytes of an instruction (R59, R60, R68): none for an event. -/
def encode : Instr → Option (List Byte)
  | .pairWord _ sh vh => do
    let s ← encodeRaw sh
    let v ← encodeRaw vh
    some (leBytes 8 s.scalarHalf ++ leBytes 8 v.vectorHalf)
  | i => (encodeRaw i).map Raw.bytes

end Sys2Proof
end

