-- ==== Sys2Proof/Machine/Cycle.lean ====
section
/-! DEFINITION. A core's cycle: who issues, the fetch and decoding of its instruction, and the accounting at the cycle's end
(R12 to R17, R59, R71, R359 to R363, R393). -/

namespace Sys2Proof.Machine

/-- A slot whose context waits for a turn in replay: a vacant logged agent is a divergence (R384). -/
def State.checkTurn (s : State) (c k : Nat) : State :=
  match (s.ctx c k).wait with
  | some (_, .replayTurn p kind key d j) => if s.turn p kind key d j then s else s.checkVacant p kind key
  | _ => s

/-- The contexts of a core that are ready, the issuing one among them (R362). -/
def State.readyCount (s : State) (c : Nat) (issued : Option Nat) : Nat :=
  (s.ctxsOf c).countP (fun k => issued == some k || s.ready c k)

/-- The end of a cycle of a barrel core whose slot belonged to context `k` of core `c`: completions of its units, threads that
become ready, the accounts, and the cycle counter (R12, R15 to R17, R361 to R363; log 90). A pre-empted partition's events are not
counted. -/
def State.endCycle (s : State) (c k : Nat) (issued : Bool) : State :=
  let phys := (s.core c).home
  if (s.cluster (clOf phys)).frozen then s
  else
    let vs := s.coresOn phys
    let s := vs.foldl (fun s v => s.unitsEnd v) s
    let s := vs.foldl (fun s v => (s.ctxsOf v).foldl (fun s j => s.wakeOn v j) s) s
    let s := vs.foldl (fun s v =>
      if (s.part (s.core v).partid).preempted then s.modCore v (fun y => { y with cntEv := [] })
      else
        let mine := v == c && (s.core v).mask.getLsbD k
        s.countCycle v k mine s.acct (s.readyCount v (if issued && v == c then some k else none))) s
    s.modCore phys (fun y => { y with cyc := y.cyc + 1 })

/-- The clocks of a barrel or service core run (log 116). -/
def State.clocked (s : State) (phys : Nat) : Bool :=
  s.power == .on && !(s.cluster (clOf phys)).frozen && !(s.coresOn phys).any (fun v => (s.core v).halted) &&
  (decide (phys < 8192) || (tgetD s.services (phys - 8192) {}).released)

/-- A cluster's tender cycles are the cycles of its first core (R340). -/
def State.tenderCyc (s : State) (cl : Nat) : Nat := (s.core ((coresOf cl).headD 0)).cyc.toNat

/-- A period of continuous mode has ended (R348). -/
def State.periodDue (s : State) (cl : Nat) (e : Tensor) : Bool :=
  e.cont && decide (0 < e.per) && decide (e.since + e.per ≤ s.tenderCyc cl)

/-- A period that ends comes before the next cycle of the cluster's first core (R348). -/
def State.periodFirst (s : State) (phys : Nat) : Bool :=
  (coresOf (clOf phys)).headD 0 == phys &&
    (s.cluster (clOf phys)).tensors.any (fun e => s.periodDue (clOf phys) e.2)

/-- CORE_CYCLE (R12, R15): the slot's context issues next, or the slot goes unused. The context's own step that has expired and a
period that ends come first (R348, R374). A context whose deadline has passed issues nothing more (R393). -/
def execCoreCycle (core : Nat) (s : State) : Out :=
  if !s.clocked core then .next s
  else
    let k := (s.core core).cyc.toNat % 16
    let c := s.ownerOn core k
    if (s.ctx c k).stepDue || s.periodFirst core then .next s
    else if s.ready c k then .next { s with issue := some (c, k) }
    else
      let s := (s.checkTurn c k)
      .next ({ s with acct := s.slotClass c k }.endCycle c k false)

/-- The instruction at the acting context's PC: its length, PLACE, its bytes and what they decode to (R59, R71, R79). -/
def fetchInstr : M (Option Decoded) := do
  let pc := (← get).me.pc
  let n ← lengthAt pc
  ensure (pc.toNat % 32 + n ≤ 32) .place
  let bs ← fetchBytes pc.toNat n
  pure ((decode bs).map Prod.fst)

/-- INSTRUCTION_FETCH (R417): a block is read ahead of its first instruction, as M4 loads bounded by `cut`. -/
def execInstructionFetch (core ctx : Nat) (block : Word) (cut : Nat) (s : State) : Out :=
  let b := blockOf block.toNat
  let x := s.ctx core ctx
  if !s.runs core || x.run != .held || x.fetched.any (fun f => f.1.toNat == b) then .next s
  else
    let via := s.viaThread core ctx
    let ls := s.blockLocs via b
    if ls.all Option.isNone then .next s
    else
      let (bs, m) := s.mem.loadEach (s.agentOf core ctx) cut (ls.filterMap id) 0
      let all := (ls.foldl (fun (acc : List Byte × List Byte) l =>
        match l with
        | none => (acc.1 ++ [0], acc.2)
        | some _ => (acc.1 ++ acc.2.take 1, acc.2.drop 1)) ([], bs)).1
      .next (({ s with mem := m }.usedBlock via ctx b).modCtx core ctx (fun x => { x with fetched := x.fetched ++ [(BitVec.ofNat 64 b, all)] }))

end Sys2Proof.Machine
end

