-- ==== Sys2Proof/Machine/Replies.lean ====
section
/-! DEFINITION. Replies: MEMORY_REPLY with the skid buffer, and the end of a page walk (R215 to R217, R222, R369, R375). -/

namespace Sys2Proof.Machine

/-- Something done as if a context acted. -/
def State.asCtx (s : State) (c k : Nat) (f : State → State) : State := { f { s with cur := (c, k) } with cur := s.cur }

/-- The words of the units of a load. -/
def unitWords (bs : List (List Byte)) : List Word := bs.map (ofBytes 64)

/-- The reply of a gather that met a fault: its completed lanes are written, then the fault is raised (R227). -/
def State.gatherReply (s : State) (p : Pend) (dst : Put) (f : Cause) : State :=
  let s := (s.unreserve s.cc p.reserve).unpop s.cc p.popped
  let s := if dst.queue.isSome then s else s.put dst
  (s.modMe (fun x => { x with pend := none, wait := none })).takeFault s.cc s.ck f

/-- A load's bytes have come: its destination is written (R222, R227, R369). -/
def State.loadReply (s : State) (p : Pend) (bs : List (List Byte)) (fin : LoadFin) (puts : List Put) : State :=
  match fin with
  | .counters grp a =>
    if s.groupOk grp (unitWords bs) then (s.groupSet grp (unitWords bs)).replyPuts p puts
    else s.replyFault p { code := .illegal, tval := a }
  | .gather _ _ f => s.gatherReply p (finPut fin bs) f
  | _ => s.replyPuts p (finPut fin bs :: puts)

/-- What a request finds where it arrives, for the acting context (R355, R369). -/
def State.answer (s : State) : Ask → List Put
  | .cnt id cfg rd =>
    let v : Word := match cntId id with
      | some (.l2 n) => if cfg then (s.myBank n).cfg else s.cntVal (.l2 n)
      | some i => s.cntVal i
      | none => 0
    [.s rd v]
  | .save ls => [s.groupPut 3 ls]
  | .tensor cl t sel old rd => [.s rd (((tget (s.cluster cl).tensors t).map (Tensor.stat sel)).getD old)]

/-- The reply of the acting context's request (R222). -/
def State.reply (s : State) (p : Pend) (cuts : List Nat) : State :=
  match p.kind with
  | .load units fin puts =>
    let (bs, t) := s.readUnits (s.agentOf s.cc s.ck) cuts units
    t.loadReply p bs fin puts
  | .value puts => s.replyPuts p puts
  | .came bs fin puts => s.loadReply p bs fin puts
  | .ask q => s.replyPuts p (s.answer q)
  | .fault f => s.replyFault p f
  | .late P => (s.unreserve s.cc p.reserve).completeThenFault p.len { code := .lateframe, tval := P }
  | _ => s

/-- A request whose reply may come. -/
def PendKind.answered : PendKind → Bool
  | .load _ _ _ | .value _ | .fault _ | .late _ | .came _ _ _ | .ask _ => true
  | _ => false

/-- What the reply of the acting context's request brings is fixed as it arrives (R375). -/
def State.arrived (s : State) (cuts : List Nat) : State :=
  match s.me.pend.map Pend.kind with
  | some (.load units fin puts) =>
    let (bs, t) := s.readUnits (s.agentOf s.cc s.ck) cuts units
    t.setPend s.cc s.ck (.came bs fin puts)
  | some (.ask q) => s.setPend s.cc s.ck (.value (s.answer q))
  | _ => s

/-- A reply for a stopped core enters its cluster's skid buffer, once, while there is room (R375, R376; log 79). -/
def State.skidIn (s : State) (cl core ctx : Nat) (cuts : List Nat) : State :=
  let k := (s.cluster cl).skid
  if 256 ≤ k.length || k.contains (core, ctx) then s
  else (s.asCtx core ctx (fun t => t.arrived cuts)).modCluster cl (fun y => { y with skid := y.skid ++ [(core, ctx)] })

/-- A context's request has been answered and its clocks run: the reply is delivered (log 79). -/
def State.deliverReply (s : State) (core ctx : Nat) (cuts : List Nat) : State :=
  match (s.ctx core ctx).pend with
  | some p => s.asCtx core ctx (fun t => t.reply p cuts)
  | none => s

/-- MEMORY_REPLY (R222, R375, R376): the replies that the skid buffer holds for cores that run again come first, in their order. -/
def execMemoryReply (core ctx : Nat) (cuts : List Nat) (s : State) : Out :=
  let cl := s.clusterOf core
  let asks := ((s.ctx core ctx).pend.map (fun p => p.kind.answered)).getD false
  if s.power != .on || (s.part (s.core core).partid).preempted then .next s
  else if !s.runs core then .next (if asks then s.skidIn cl core ctx cuts else s)
  else
    match (s.cluster cl).skid.find? (fun e => s.runs e.1) with
    | some e =>
      let s := s.modCluster cl (fun y => { y with skid := y.skid.erase e })
      .next (if ((s.ctx e.1 e.2).pend.map (fun p => p.kind.answered)).getD false then s.deliverReply e.1 e.2 [] else s)
    | none => .next (if asks then s.deliverReply core ctx cuts else s)

/-- A walk's result of page `p` decides the page of 512 KiB `q` too (R213, R216). -/
def WalkResult.covers (r : WalkResult) (p q : Nat) : Bool :=
  match r with
  | .leaf l => l.base ≤ q * 2 ^ 19 && q * 2 ^ 19 < l.base + l.size
  | .fault lv _ =>
    match lv with
    | 0 => p / 2 ^ 24 == q / 2 ^ 24
    | 1 => p / 2 ^ 12 == q / 2 ^ 12
    | 2 => p / 2 ^ 6 == q / 2 ^ 6
    | 3 => p == q

/-- TLB_WALK_COMPLETE (R215, R216): of an entry that holds one of the die's 64 walkers. The joined requests whose page the walk decides
receive the result together; the others miss again. -/
def execTlbWalkComplete (cl i : Nat) (s : State) : Out :=
  match (s.cluster cl).misses[i]? with
  | none => .next s
  | some m =>
    let w := (cl, m.part, m.page)
    if s.power != .on || (s.cluster cl).frozen || !((s.die (dieOfCl cl)).walkq.take 64).contains w then .next s
    else
      let r := s.walk m.part (m.page * 2 ^ 19)
      let s := (s.useTrail m.part (m.page * 2 ^ 19)).modDie (dieOfCl cl) (fun d => { d with walkq := d.walkq.erase w })
      let s := s.modCluster cl (fun y => { y with misses := ldel y.misses i })
      let s := match r with | .leaf l => s.fillShared cl l | .fault _ _ => s
      let s := m.joined.foldl (fun s j =>
        let s := s.modCtx j.1 j.2.1 (fun x =>
          if x.wait.map Prod.snd = some (.walked cl m.part j.2.2) && r.covers m.page j.2.2 then
            { x with walks := tset x.walks j.2.2 r } else x)
        match r with
        | .leaf l => s.modCore j.1 (fun y => { y with tlb := touchTlb y.tlb l })
        | .fault _ _ => s) s
      .next (s.admitMisses cl (s.cluster cl).missWait.length)

end Sys2Proof.Machine
end

