-- ==== Sys2Proof/Machine/Traps.lean ====
section
/-! DEFINITION. Returning from an exception, yielding, and the stop of a context by pre-emption (R117, R392 to R397). -/

namespace Sys2Proof.Machine

/-- TRET (R392). -/
def execTret (g : Guard) (s : State) : Out :=
  run { g } (do
    ensure (← get).me.h .illegal
    modify (fun s => (stepTret s).trapReturn s.cc s.ck)) s
where
  /-- TRET completes: its count and its step. -/
  stepTret (s : State) : State := (s.count s.cc s.ck 0x08 1).modMe (fun x => { stepDown x with woke := false })

/-! The stop of a context. -/

/-- The oldest iteration of a frame that a pre-emption squashes (R117). -/
def LFrame.squashAt (F : LFrame) : Nat :=
  match F.it? F.setl with
  | some t => if t.committed then F.setl + 1 else F.setl
  | none => F.setl

/-- Pre-emption of a running loop (R117): its uncommitted iterations are squashed, and an inner loop of one of them goes. A
loop that a handler is to restart has none left. -/
def State.stopLoop (s : State) (c : Nat) (f : Fin 2) : State :=
  let F := s.fr c f
  if F.st != .run || F.rst then s
  else
    let j := F.squashAt
    let o := otherFrame f
    let G := s.fr c o
    let inner := F.level == 1 && j == F.setl && G.level == 2 && G.st != .free && G.opener == F.opener
    let s := if inner then s.abortLoop c o else s
    let s := s.squashFrom c f j
    (s.fr c f).its.foldl (fun s t =>
      if t.squashed then s.modCtx c t.ctx (fun x => { x with pc := F.body }) else s) s

/-- The running loops that a context is a member of, the outer first. -/
def State.loopsOf (s : State) (c k : Nat) : List (Fin 2) :=
  let mine (l : Nat) : List (Fin 2) := ([0, 1] : List (Fin 2)).filter (fun f =>
    (s.fr c f).st == .run && (s.fr c f).level == l && (s.fr c f).members.contains k)
  mine 1 ++ mine 2

/-- The instruction a stopped context has not completed is abandoned: its queue entries go back, and its places in the array, the
exchange and the dispenser (R395, R396). -/
def State.abandon (s : State) (c k : Nat) : State :=
  let x := s.ctx c k
  let s := match x.pend with
    | some p => if p.kind.stays then s else
        (s.asCtx c k (fun t => (t.unreserve c p.reserve).unpop c p.popped)).modCore c (fun y => { y with
          wq := y.wq.filter (fun w => !(w.ctx == k && w.e != 0 && w.started.isNone)) })
    | none => s
  let waits := (s.cluster (s.clusterOf c)).waiters.contains (c, k)
  let s := if waits then s.modCluster (s.clusterOf c) (fun y => { y with waiters := y.waiters.filter (· != (c, k)) }) else s
  s.modCtx c k (fun x => { x with
    pend := x.pend.bind (fun p => if p.kind.stays then some p else none)
    exch := if x.pend.any (fun p => p.kind == .swapt) then none else x.exch
    wait := match x.wait with
      | some (cls, .held) => if waits then none else some (cls, .held)
      | _ => none
    walks := [], woke := false })

/-- Pre-emption stops a context at its boundary (R394 to R396). -/
def State.preemptCtx (s : State) (c k : Nat) (forced : Bool) : State :=
  let s := (s.loopsOf c k).foldl (fun s f => s.stopLoop c f) s
  let s := (s.abandon c k).modCtx c k (fun x => { x with stopped := true, forced, yielded := !forced })
  s.annotate (s.core c).partid c k 3 (s.ctx c k).pc

/-- YIELD (R394): with a deadline set, the context is pre-empted at the boundary after it. -/
def execYield (g : Guard) (rd : SDst) (s : State) : Out :=
  run { infoOf g 8 1 [] [] [rd] [] with side := true } (do
    let y := (← get).me.ydl
    finish 8 [.s rd (if y = 0 then 0 else 1)]
    if y != 0 then modify (fun s => s.preemptCtx s.cc s.ck false)) s

/-- DEADLINE_EXPIRY (R393): a context whose deadline has passed is stopped at its boundary. -/
def execDeadlineExpiry (core : Nat) (s : State) : Out :=
  if !s.runs core then .next s
  else .next ((s.ctxsOf core).foldl (fun s k =>
    if s.expired core k && s.atBoundary core k then s.preemptCtx core k true else s) s)

/-- A member from an image is inside an iteration that goes on: its PC is neither at the body's start nor past ENDL, or its control
block is not empty (R117, R335; log 91). -/
def inBody (F : LFrame) (x : Ctx) : Bool := (x.pc != F.body && x.pc != F.fin + 8) || x.live != {}

/-- The member, as the image names it, that runs the oldest iteration of a loop from an image on, where that has committed (R117;
log 91). -/
def State.goesOn (s : State) (c : Nat) (F : LFrame) : Option Nat :=
  let ms := F.virt.filterMap (s.physOf c)
  if F.rst || F.trip ≤ F.setl then none
  else if F.vers.any (fun v => v.iter == (F.setl : Int)) then
    (ms.find? (fun k => inBody F (s.ctx c k))).or (((F.virt[F.setl % F.a]?).bind (s.physOf c)))
  else ms.find? (fun k => inBody F (s.ctx c k))

/-- The iterations of a loop that comes from an image (R117; log 91): the oldest one goes on, where it has committed, on the member
that runs it; the others restart, iteration i on member i mod A of the new crew. -/
def State.rebuildLoop (s : State) (c : Nat) (f : Fin 2) : State :=
  let F := s.fr c f
  let ms := F.virt.filterMap (s.physOf c)
  let a := ms.length
  let going := s.goesOn c F
  let entry (j k : Nat) : Option Iter :=
    let ckpt := (s.ctx c k).ckptOf
    if going = some k then some { i := F.setl, ctx := k, committed := true, ckpt }
    else
      let i := nextOf (F.setl + if going.isSome then 1 else 0) a j
      if F.trip ≤ i then none else some { i, ctx := k, squashed := true, ckpt }
  let places := (List.range a).zip ms
  let its := places.filterMap (fun p => entry p.1 p.2)
  let s := s.setFr c f { F with members := ms, virt := [], its }
  let s := places.foldl (fun s p => s.modCtx c p.2 (fun x => { x with crew := p.1 })) s
  ms.foldl (fun s k =>
    if its.any (fun t => t.ctx == k) then s
    else if k = F.opener then s.modCtx c k (fun x => { x with wait := some (.wver, .held) })
    else s.modCtx c k (fun x => { x with run := .parked })) s

/-- A stopped context goes on (R259, R402): its view comes to the device store, its squashed iterations restart, and a
delivered future completes. -/
def State.resumeCtx (s : State) (c k : Nat) : State :=
  if !(s.ctx c k).stopped then s
  else
    let s := s.modMem (fun m => m.handOff (.ctx c k))
    let s := s.modCtx c k (fun x => { x with stopped := false, forced := false, yielded := false, fetched := [] })
    let s := ([0, 1] : List (Fin 2)).foldl (fun s f =>
      let s := if (s.fr c f).st == .run && (s.fr c f).opener == k && !(s.fr c f).virt.isEmpty then s.rebuildLoop c f else s
      let F := s.fr c f
      if F.st == .run && F.opener == k && !F.rst && F.its.any (fun t => t.squashed) then s.restart c f else s) s
    match (s.ctx c k).pend with
    | some { kind := .future r rd, .. } =>
      match tget (s.core c).pool r with
      | some w => if w.delivered then
          (s.modCore c (fun y => { y with pool := tdel y.pool r })).modCtx c k (fun x =>
            { x with pend := x.pend.map (fun p => { p with kind := .value [.s rd w.val] }) })
        else s
      | none => s
    | _ => s

end Sys2Proof.Machine
end

