-- ==== Sys2Proof/Machine/Tasks.lean ====
section
/-! DEFINITION. Contexts and tasks: major 0x18, dispatch, footprint fetches and ring refills (R18 to R25, R279 to R295). -/

namespace Sys2Proof.Machine

/-- The issue of an instruction of majors 0x18 and 0x19 (R279). -/
def taskInfo (g : Guard) (ss : List SSrc) (sd : List SDst) : Info := { infoOf g 8 1 ss [] sd [] with side := true }

/-- A guard destination written whole (R279). -/
def putG (gd : Fin 8) (yes : Bool) : Put := .g gd allOn (if yes then allOn else 0)

/-! Starting and ending contexts. -/

/-- A context as SPAWN or a start message leaves it (R23, R280; log 10): reset, but for its PC and x0 to x3. Records of an earlier
session still leave its tail. -/
def freshCtx (old : Ctx) (pc : Word) (args : List Word) : Ctx :=
  { x := Vector.ofFn (fun (i : Fin 32) => if i.val < 4 then args.getD i.val 0 else 0)
    pc, counts := old.counts, vcid := old.vcid, vctx := old.vctx, run := .held, trace := { tail := old.trace.tail } }

/-- A context starts, with its view set by the hand-off (R23, R257, R280). -/
def State.startCtx (s : State) (c k : Nat) (pc : Word) (args : List Word) : State :=
  (s.setCtx c k (freshCtx (s.ctx c k) pc args)).modMem (fun m => m.handOff (.ctx c k))

/-- The sender's half of a hand-off: its writes reach the device store (R257; log 94). -/
def State.handFrom (s : State) (a : Agent) : State := s.modMem (fun m => m.flush a (s.groupOf a))

/-- The lowest vacant context of a core that SPAWN may take (R19, R280, R404). -/
def State.vacantCtx (s : State) (c : Nat) : Option Nat := (s.ctxsOf c).find? (s.claimable c)

/-- SPAWN (R280): its target core's answer comes as a reply. -/
def execSpawn (g : Guard) (gd : Fin 8) (xpc xc : SSrc) (b : Fin 32) (s : State) : Out :=
  run { taskInfo g [xpc, xc] [] with bar := true, priv := s.me.vctx != 0 } (do
    let x := (← get).me
    let pc ← readS xpc
    let c ← readS xc
    ensure (pc.toNat % 4 == 0) .illegal pc
    ensure (c.toNat / 2 ^ 13 == 0) .illegal c
    ensure ((← get).holdsCore (← get).myPart c.toNat) .prot c
    modify (fun s => s.handFrom (s.agentOf s.cc s.ck))
    let args := (List.range 4).map (fun i => x.x.get (Fin.ofNat 32 (b.val + i)))
    let s ← get
    match s.vacantCtx c.toNat with
    | none => sendRequest (.value [putG gd false]) .wmsg 8 []
    | some k => do
      set (s.startCtx c.toNat k pc args)
      sendRequest (.value [putG gd true]) .wmsg 8 []) s

/-- The task of a context leaves it: its footprint is unpinned and its origin cleared (R281, R286). -/
def State.leaveTask (s : State) (c k : Nat) : State :=
  (s.modCore c (fun y => { y with pinned := y.pinned.filter (fun p => p.1 != k) })).modCtx c k (fun x =>
    { x with origin := none, signal := none, foot := [] })

/-- A task's dependence counter decreases at QUIT (R285). -/
def State.signalDep (s : State) (cl : Nat) : Option Nat → State
  | none => s
  | some n => s.modCluster cl (fun y =>
      let d := tgetD y.deps n (0, false)
      { y with deps := tset y.deps n (if d.1 = 0 then 0 else d.1 - 1, d.2) })

/-- The loops that a context belongs to or holds end with no exit view (log 43). -/
def State.dropLoops (s : State) (c k : Nat) : State :=
  ([0, 1] : List (Fin 2)).foldl (fun s f =>
    let F := s.fr c f
    if F.st != .free && (F.opener == k || (F.st == .run && F.members.contains k)) then s.abortLoop c f else s) s

/-- QUIT (R281; log 43). -/
def execQuit (g : Guard) (xs : SSrc) (s : State) : Out :=
  run { taskInfo g [xs] [] with bar := true, priv := s.me.vctx == 0 } (do
    let v ← readS xs
    queueImage
    let s ← get
    if 16 ≤ s.myCore.exitq.length then waitFor .wmsg (.exitRoom s.cc)
    else
      let w := exitWordOf s.me.vctx v.toNat
      modify (fun s =>
        let s := (s.count s.cc s.ck 0x08 1).modMyCore (fun y => { y with exitq := y.exitq ++ [w] })
        let s := (s.signalDep (s.clusterOf s.cc) s.me.signal).leaveTask s.cc s.ck
        (s.dropLoops s.cc s.ck).vacate s.cc s.ck)) s

/-- REAP (R282). -/
def execReap (g : Guard) (rd : SDst) (s : State) : Out :=
  run { taskInfo g [] [rd] with priv := s.me.vctx != 0 } (do
    queueImage
    let s ← get
    match s.myCore.exitq with
    | [] => waitFor .wmsg (.exitWord s.cc)
    | w :: r => do
      set (s.modMyCore (fun y => { y with exitq := r }))
      finish 8 [.s rd w]) s

/-- A keeper takes a start message: its view is that of the launch's hand-off, taken as the message was sent (R23, R25, R257, R263;
log 128). -/
def State.takeStart (s : State) (c k : Nat) (m : StartMsg) : State :=
  ((s.setCtx c k (freshCtx (s.ctx c k) m.pc m.args)).modCore c (fun y => { y with began := true })).modMem (fun mem =>
    match m.view with
    | some t => mem.handOffOf (.ctx c k) t
    | none => mem.handOff (.ctx c k))

/-- WAITW (R286): the dispenser or a start message lets the context go. -/
def execWaitw (g : Guard) (s : State) : Out :=
  run (taskInfo g [] []) (do
    queueImage
    modify (fun s =>
      let s := s.leaveTask s.cc s.ck
      match (if s.me.vctx = 0 then s.myCore.startBuf else none) with
      | some m =>
        ((s.count s.cc s.ck 0x08 1).modMyCore (fun y => { y with startBuf := none })).takeStart s.cc s.ck m
      | none =>
        (s.modCluster (s.clusterOf s.cc) (fun y => { y with waiters := y.waiters ++ [s.cur] })).modMe (fun x =>
          { x with wait := some (.wmsg, .held), woke := false }))) s

/-! Task records. -/

/-- Word `i` of a task record (R283). -/
def recWord (ws : List Word) (i : Nat) : Word := ws.getD i 0
/-- The footprint's offset in the core store (R283). -/
def recOff (ws : List Word) : Nat := bitsOf (recWord ws 6).toNat 32 20
/-- The footprint's size (R283). -/
def recSize (ws : List Word) : Nat := bitsOf (recWord ws 6).toNat 0 19
/-- The counter a record waits for (R283). -/
def recWait (ws : List Word) : Option Nat :=
  if (recWord ws 7).getLsbD 8 then some (bitsOf (recWord ws 7).toNat 0 8) else none
/-- The counter a record signals (R283). -/
def recSignal (ws : List Word) : Option Nat :=
  if (recWord ws 7).getLsbD 24 then some (bitsOf (recWord ws 7).toNat 16 8) else none

/-- A well-formed task record (R283, R284). -/
def recOk (ws : List Word) : Bool :=
  (recWord ws 0).toNat % 4 == 0 && bitsOf (recWord ws 6).toNat 52 12 == 0 && bitsOf (recWord ws 6).toNat 19 13 == 0 &&
  (recWord ws 7).toNat / 2 ^ 25 == 0 && bitsOf (recWord ws 7).toNat 9 7 == 0 &&
  decide (recSize ws ≤ 262144) && decide (recOff ws + recSize ws ≤ 0x10_0000)

/-- A task queue of a cluster. -/
def State.taskq (s : State) (cl n : Nat) : TaskQ := (s.cluster cl).tq.get (Fin.ofNat 16 n)
/-- Changes a task queue. -/
def State.modTaskq (s : State) (cl n : Nat) (f : TaskQ → TaskQ) : State :=
  s.modCluster cl (fun y =>
    { y with tq := y.tq.set (n % 16) (f (y.tq.get (Fin.ofNat 16 n))) (Nat.mod_lt _ (by decide)) })

/-- The lowest free entry of the queue SRAM. -/
def State.freeSram (s : State) (cl : Nat) : Option Nat :=
  (List.range 1024).find? (fun i => (tget (s.cluster cl).sram i).isNone)

/-- An event of a task queue to its owner; a queue with no owner drops it, and `c` counts it (R294; log 86). -/
def State.queueEvent (s : State) (cl q c code counter : Nat) (addr : Word) : State :=
  let w0 : Word := BitVec.ofNat 64 (code + q % 16 * 2 ^ 8 + counter % 256 * 2 ^ 16)
  let drop : State := s.modCore c (fun y => { y with drops := y.drops + 1 })
  match (s.taskq cl q).owner with
  | none => drop
  | some (oc, ov) =>
    match s.physOf oc ov with
    | some k => s.postEvent oc k (w0, addr)
    | none => drop

/-- The address of a ring entry. -/
def ringAddr (base : Word) (sz i : Nat) : Nat := base.toNat + 64 * (i % 2 ^ sz)

/-- A ring fault: the queue is disarmed and its owner told (R289). -/
def State.ringFault (s : State) (cl q c : Nat) (f : Cause) : State :=
  (s.modTaskq cl q (fun t => { t with armed := false })).queueEvent cl q c 1 0 f.tval

/-- An uncorrectable error of a ring entry at an address, at its byte `i` (R219, R289, R386). -/
def ringError (a i : Nat) (acc : Acc) : Cause := { code := .ue, tval := BitVec.ofNat 64 ((a + i) / 8 * 8), acc }

/-- A record enters its queue (R284): SRAM, else the ring, else not at all. -/
def State.enqueue (s : State) (cl q c part : Nat) (ws : List Word) : Bool × State :=
  let t := s.taskq cl q
  let n := (s.cluster cl).arrival
  match (if t.arrivals.isEmpty then s.freeSram cl else none) with
  | some i => (true, s.modCluster cl (fun y =>
      { y with sram := tset y.sram i { queue := q, arrival := n, words := ws }, arrival := n + 1 }))
  | none =>
    match (if t.armed then t.ring else none) with
    | none => (false, s)
    | some (base, sz) =>
      if 2 ^ sz ≤ t.arrivals.length then (false, s)
      else
        let a := ringAddr base sz (t.head + t.arrivals.length)
        let via := s.viaCluster cl c part
        match s.locate via { w := true } [0x0] a 64 64 with
        | .at ls =>
          match s.mem.badAt ls with
          | some i => (false, s.ringFault cl q c (ringError a i .write))
          | none =>
          let s := s.used via 16 a ls
          let cells := ls.zip (ws.flatMap (bytesOf 8))
          let s := s.storeUnits (.dispenser cl) ((List.range 8).map (fun i => (cells.drop (8 * i)).take 8)) none
          (true, (s.modTaskq cl q (fun t => { t with arrivals := t.arrivals ++ [n] })).modCluster cl
            (fun y => { y with arrival := n + 1 }))
        | .fault f => (false, s.ringFault cl q c f)
        | .miss _ => (false, s)

/-- TASKQ to a queue of the cluster (R284). -/
def execTaskq (g : Guard) (gd : Fin 8) (xs : SSrc) (n : Fin 16) (s : State) : Out :=
  run (taskInfo g [xs] []) (do
    let a ← readS xs
    watchCheck 1 ((List.range 64).map (fun i => a.toNat + i))
    let ls ← locM { r := true } [0x8] a.toNat 64 64
    let s ← get
    let (bs, s1) := s.loadUnits (s.agentOf s.cc s.ck) ((List.range 8).map (fun i => (ls.drop (8 * i)).take 8))
    set s1
    let ws := (List.range 8).map (fun i => ofBytes 64 ((bs.drop (8 * i)).take 8))
    ensure (recOk ws) .illegal a
    modify (fun s => s.handFrom (s.agentOf s.cc s.ck))
    let s ← get
    let (yes, s2) := s.enqueue (s.clusterOf s.cc) n.val s.cc s.myPart ws
    set s2
    finish 8 [putG gd yes]) s

/-- TASKQ to the own deque (R284; log 94). -/
def execTaskqDeque (g : Guard) (gd : Fin 8) (xs : SSrc) (s : State) : Out :=
  run (taskInfo g [xs] []) (do
    let a ← readS xs
    queueImage
    modify (fun s => s.handFrom (s.agentOf s.cc s.ck))
    let room := decide ((← get).myCore.deque.length < 32)
    if room then modify (fun s => s.modMyCore (fun y => { y with deque := y.deque ++ [a] }))
    finish 8 [putG gd room]) s

/-- The key of a cluster's dispatches in the log (R382). -/
def clusterKey (cl : Nat) : Word := BitVec.ofNat 64 cl

/-- A deque operation of the acting context: its turn in replay, the entry `pick` takes of the deque of a core, the hand-off to
the taker (R257, R293, R383). -/
def dequeTake (rd : SDst) (gd : Fin 8) (c : Nat) (pick : List Word → Option (Word × List Word)) : M Unit := do
  let s ← get
  let key := clusterKey (s.clusterOf s.cc)
  if !s.turn s.myPart 3 key s.cc s.me.vctx then waitFor .wmsg (.replayTurn s.myPart 3 key s.cc s.me.vctx)
  checkS rd
  match pick (s.core c).deque with
  | none => do
    modify (fun s => s.logged s.myPart 3 key s.cc s.me.vctx)
    finish 8 [.s rd 0, putG gd false]
  | some (v, r) => do
    modify (fun s =>
      let s := s.modCore c (fun y => { y with deque := r })
      (s.modMem (fun m => m.handOff (s.agentOf s.cc s.ck))).logged s.myPart 3 key s.cc s.me.vctx v)
    finish 8 [.s rd v, putG gd true]

/-- TAKE (R293). -/
def execTake (g : Guard) (rd : SDst) (gd : Fin 8) (s : State) : Out :=
  run (taskInfo g [] [rd]) (do
    queueImage
    dequeTake rd gd (← get).cc (fun q => q.getLast?.map (fun v => (v, q.dropLast)))) s

/-- A core operand names a core of the acting cluster (R293 to R295). -/
def State.inCluster (s : State) (c : Nat) : Bool :=
  s.clusterOf c == s.clusterOf s.cc && (s.core c).partid == s.myPart && decide (c < 8192)

/-- A core's queues are in place, or the thread waits for their swap (R208, R276). -/
def imageOfCore (c : Nat) : M Unit := fun s =>
  if s.foldReady c then .ok ((), s) else .error (.wait .wmsg (.fold (s.core c).home c))

/-- STEAL (R276, R293). -/
def execSteal (g : Guard) (rd : SDst) (gd : Fin 8) (xc : SSrc) (s : State) : Out :=
  run (taskInfo g [xc] [rd]) (do
    let c ← readS xc
    ensure (c.toNat / 2 ^ 13 == 0) .illegal
    ensure ((← get).inCluster c.toNat) .prot c
    imageOfCore c.toNat
    dequeTake rd gd c.toNat (fun q => q.head?.map (fun v => (v, q.drop 1)))) s

/-! Queue configuration and status. -/

/-- The operands of QCFG, which have no other bit (R294). -/
def qcfgArgs (xa xb : SSrc) (ma mb : Word) : M (Word × Word) := do
  let a ← readS xa
  let b ← readS xb
  ensure ((a &&& ~~~ma) == 0 && (b &&& ~~~mb) == 0) .illegal
  pure (a, b)

/-- Contexts of a core that wait on a hardware queue try again in their next slots (R294). -/
def State.wakeQueue (s : State) (c q : Nat) : State :=
  (List.range 16).foldl (fun s k =>
    match (s.ctx c k).wait with
    | some (_, .qHas _ r _) | some (_, .qRoom _ r _) => if r = q then s.modCtx c k (fun x => { x with woke := true }) else s
    | _ => s) s

/-- QCFG op 0 (R294). -/
def execQcfgHwqueueType (g : Guard) (xa xb : SSrc) (s : State) : Out :=
  run (taskInfo g [xa, xb] []) (do
    let (a, b) ← qcfgArgs xa xb 7 1
    queueImage
    let q : Fin 8 := Fin.ofNat 8 a.toNat
    let s ← get
    if (s.hq s.cc q.val).reserved != 0 then waitFor .wmsg (.qIdle s.cc q.val)
    modify (fun s => ((s.modQueue s.cc q (fun h => { h with vec := b.getLsbD 0, entries := [] })).wakeQueue s.cc
      q.val).retire 8)) s

/-- A change of a task queue of the acting cluster. -/
def setTaskq (a : Word) (f : TaskQ → TaskQ) : M Unit :=
  modify (fun s => (s.modTaskq (s.clusterOf s.cc) (a.toNat % 16) f).retire 8)

/-- QCFG op 1 (R290, R294). -/
def execQcfgPriority (g : Guard) (xa xb : SSrc) (s : State) : Out :=
  run (taskInfo g [xa, xb] []) (do
    let (a, b) ← qcfgArgs xa xb 15 7
    setTaskq a (fun t => { t with pri := b.toNat })) s

/-- QCFG op 2 (R294). -/
def execQcfgOwner (g : Guard) (xa xb : SSrc) (s : State) : Out :=
  run (taskInfo g [xa, xb] []) (do
    let (a, b) ← qcfgArgs xa xb 15 0xF_1FFF
    ensure ((← get).inCluster (bitsOf b.toNat 0 13)) .prot b
    setTaskq a (fun t => { t with owner := some (bitsOf b.toNat 0 13, bitsOf b.toNat 16 4) })) s

/-- QCFG op 3 (R294). -/
def execQcfgRing (g : Guard) (xa xb : SSrc) (s : State) : Out :=
  run (taskInfo g [xa, xb] []) (do
    let (a, b) ← qcfgArgs xa xb 0x1F0F (BitVec.allOnes 64)
    let sz := bitsOf a.toNat 8 5
    let s ← get
    ensure (decide (4 ≤ sz) && decide (sz ≤ 20) && b.toNat / 2 ^ 56 == 0 && b.toNat % (64 * 2 ^ sz) == 0 &&
      (s.taskq (s.clusterOf s.cc) (a.toNat % 16)).arrivals.isEmpty) .illegal
    setTaskq a (fun t => { t with ring := some (b, sz), armed := true, head := 0 })) s

/-- QCFG op 4 (R289, R294). -/
def execQcfgArm (g : Guard) (xa xb : SSrc) (s : State) : Out :=
  run (taskInfo g [xa, xb] []) (do
    let (a, _) ← qcfgArgs xa xb 15 0
    setTaskq a (fun t => { t with armed := true })) s

/-- QCFG op 5 (R285, R294). -/
def execQcfgCounter (g : Guard) (xa xb : SSrc) (s : State) : Out :=
  run (taskInfo g [xa, xb] []) (do
    let (a, b) ← qcfgArgs xa xb 0xFF 0xFFFF
    modify (fun s => (s.modCluster (s.clusterOf s.cc) (fun y =>
      { y with deps := tset y.deps a.toNat (b.setWidth 16, false) })).retire 8)) s

/-- QSTAT with what it reads of its operand (R295); `core`: an item of the core, whose image must be in place (R276; log 85). -/
def runQstat (g : Guard) (core : Bool) (rd : SDst) (xa : SSrc) (val : State → Word → Nat) (s : State) : Out :=
  run (taskInfo g [xa] [rd]) (do
    let a ← readS xa
    if core then queueImage
    finish 8 [.s rd (BitVec.ofNat 64 (val (← get) a))]) s

/-- A flag as a bit. -/
def boolN (b : Bool) : Nat := if b then 1 else 0

/-- QSTAT op 0 (R295; log 85). -/
def execQstatHwqueue (g : Guard) (rd : SDst) (xa : SSrc) (s : State) : Out :=
  runQstat g true rd xa (fun s a =>
    let h := s.hq s.cc (a.toNat % 8)
    h.entries.length + boolN h.vec * 2 ^ 8) s
/-- QSTAT op 1 (R295). -/
def execQstatTaskqueue (g : Guard) (rd : SDst) (xa : SSrc) (s : State) : Out :=
  runQstat g false rd xa (fun s a =>
    let cl := s.clusterOf s.cc
    let q := a.toNat % 16
    let t := s.taskq cl q
    (s.cluster cl).sram.countP (fun e => e.2.queue == q) + boolN t.armed * 2 ^ 11 + t.pri * 2 ^ 12 +
      t.arrivals.length * 2 ^ 16) s
/-- QSTAT op 2 (R295). -/
def execQstatCounter (g : Guard) (rd : SDst) (xa : SSrc) (s : State) : Out :=
  runQstat g false rd xa (fun s a =>
    let d := tgetD (s.cluster (s.clusterOf s.cc)).deps (a.toNat % 256) (0, false)
    d.1.toNat + boolN d.2 * 2 ^ 16) s
/-- QSTAT op 3 (R295). -/
def execQstatDeque (g : Guard) (rd : SDst) (xa : SSrc) (s : State) : Out :=
  run (taskInfo g [xa] [rd]) (do
    let a ← readS xa
    let c := a.toNat % 2 ^ 13
    ensure ((← get).inCluster c) .prot a
    imageOfCore c
    finish 8 [.s rd (BitVec.ofNat 64 ((← get).core c).deque.length)]) s
/-- QSTAT op 4 (R295). -/
def execQstatExitqueue (g : Guard) (rd : SDst) (xa : SSrc) (s : State) : Out :=
  runQstat g true rd xa (fun s _ => s.myCore.exitq.length % 2 ^ 16) s
/-- QSTAT op 5 (R295). -/
def execQstatMailbox (g : Guard) (rd : SDst) (xa : SSrc) (s : State) : Out :=
  runQstat g true rd xa (fun s a =>
    let b := tgetD s.myCore.mbox (a.toNat % 256) {}
    b.count.toNat + b.msgs.length * 2 ^ 32) s
/-- QSTAT op 6 (R295). -/
def execQstatPoisonlog (g : Guard) (rd : SDst) (xa : SSrc) (s : State) : Out :=
  runQstat g false rd xa (fun s a =>
    match tget (s.cluster (s.clusterOf s.cc)).plog (a.toNat % 16) with
    | some (q, i) => q + i * 2 ^ 4 + 2 ^ 16
    | none => 0) s
/-- QSTAT op 7 (R295). -/
def execQstatDrops (g : Guard) (rd : SDst) (xa : SSrc) (s : State) : Out :=
  runQstat g true rd xa (fun s _ => s.myCore.drops.toNat) s

/-- The contexts of a cluster whose task came from a queue, but the issuer (R292). -/
def State.fromQueue (s : State) (cl q : Nat) : List (Nat × Nat) :=
  (s.ctxs.filter (fun x => s.clusterOf (x.1 / 16) == cl && x.2.origin == some q && x.1 != ctxKey s.cc s.ck)).map
    (fun x => (x.1 / 16, x.1 % 16))

/-- QRST (R292). -/
def execQrst (g : Guard) (xa : SSrc) (s : State) : Out :=
  run (taskInfo g [xa] []) (do
    let a ← readS xa
    ensure (a.toNat / 16 == 0) .illegal
    modify (fun s =>
      let cl := s.clusterOf s.cc
      let q := a.toNat
      let s := (s.modCluster cl (fun y => { y with sram := y.sram.filter (fun e => e.2.queue != q) })).modTaskq cl q
        (fun t => { t with head := t.head + t.arrivals.length, arrivals := [] })
      let s := (s.fromQueue cl q).foldl (fun s x =>
        s.terminate x.1 x.2 (exitWordOf (s.ctx x.1 x.2).vctx 0x0FFF_FFFF_FFFF_FFFF)) s
      s.retire 8)) s

/-! The dispenser. -/

/-- A task is ready: its counter is 0 and sound (R285, R291). -/
def State.taskReady (s : State) (cl : Nat) (t : Task) : Bool :=
  !t.poisoned &&
  match recWait t.words with
  | none => true
  | some n => tgetD (s.cluster cl).deps n (0, false) == (0, false)

/-- A footprint overlaps a range pinned on a core (R286). -/
def State.pinnedOn (s : State) (c : Nat) (ws : List Word) : Bool :=
  recSize ws != 0 &&
  (s.core c).pinned.any (fun p => decide (p.2.1 < recOff ws + recSize ws) && decide (recOff ws < p.2.1 + p.2.2))

/-- In replay a dispatch is the logged one (R383). -/
def State.dispatchTurn (s : State) (p cl c k arrival : Nat) : Bool :=
  if (s.part p).replay.mode != .replay then true
  else s.turn p 3 (clusterKey cl) c (s.vOf c k) &&
    ((s.logNext p 3 (clusterKey cl)).map (fun l => (l.headD []).getD 2 0) == some arrival)

/-- The better of two tasks: priority, then arrival (R286). -/
def State.betterTask (s : State) (cl : Nat) (a b : Nat × Task) : Nat × Task :=
  let pa := (s.taskq cl a.2.queue).pri
  let pb := (s.taskq cl b.2.queue).pri
  if pb < pa ∨ (pa = pb ∧ a.2.arrival < b.2.arrival) then a else b

/-- The task the dispenser chooses for a waiter (R286). -/
def State.chooseTask (s : State) (cl c k : Nat) : Option (Nat × Task) :=
  match (s.cluster cl).sram.filter (fun e => s.taskReady cl e.2 && !s.pinnedOn c e.2.words &&
      s.dispatchTurn (s.core c).partid cl c k e.2.arrival) with
  | [] => none
  | e :: r => some (r.foldl (fun a b => s.betterTask cl a b) e)

/-- The first waiter for whom there is a task (R286). -/
def State.chooseWaiter (s : State) (cl : Nat) : List (Nat × Nat) → Option ((Nat × Nat) × (Nat × Task))
  | [] => none
  | w :: r =>
    match s.chooseTask cl w.1 w.2 with
    | some t => some (w, t)
    | none => s.chooseWaiter cl r

/-- A dispatched task's context goes to the task's first instruction: its WAITW is complete (R287, R374). -/
def State.beginTask (s : State) (c k : Nat) (ws : List Word) : State :=
  (s.count c k 0x08 1).modCtx c k (fun x => stepDown { x with
    x := Vector.ofFn (fun (i : Fin 32) => if i.val < 4 then recWord ws (1 + i.val) else x.x.get i)
    pc := recWord ws 0, foot := [], pend := none, wait := none, fetched := [], walks := [], live := {} })

/-- The clocks of a cluster and its dispenser run (R375, R376, R397). -/
def State.clusterRuns (s : State) (cl : Nat) : Bool :=
  s.power == .on && !(s.cluster cl).frozen && (coresOf cl).all (fun c =>
    !(s.core c).halted && !(s.part (s.core c).partid).stopping && !(s.part (s.core c).partid).preempted)

/-- TASK_DISPATCH (R286, R287). -/
def execTaskDispatch (cl : Nat) (s : State) : Out :=
  if !s.clusterRuns cl then .next s
  else
    match s.chooseWaiter cl (s.cluster cl).waiters with
    | none => .next s
    | some ((c, k), (i, t)) =>
      let ws := t.words
      let s := s.modCluster cl (fun y =>
        { y with sram := tdel y.sram i, waiters := y.waiters.filter (· != (c, k)) })
      let s := if recSize ws = 0 then s else
        s.modCore c (fun y => { y with pinned := y.pinned ++ [(k, recOff ws, recSize ws)] })
      let s := s.modCtx c k (fun x => { x with origin := some t.queue, signal := recSignal ws, wait := none, woke := false })
      let s := (s.modMem (fun m => (m.handOff (.ctx c k)).handOff (.foot c k))).logged (s.core c).partid 3 (clusterKey cl)
        c (s.vOf c k) (BitVec.ofNat 64 t.arrival)
      if recSize ws = 0 then .next (s.beginTask c k ws)
      else .next (s.modCtx c k (fun x => { x with foot := ws, pend := some { kind := .footprint, len := 0 } }))

/-- FOOTPRINT_FETCH_COMPLETE (R287; log 78). -/
def execFootprintFetchComplete (core ctx : Nat) (s : State) : Out :=
  let x := s.ctx core ctx
  let ws := x.foot
  if x.pend.map Pend.kind != some .footprint || !s.runs core || x.stopped then .next s
  else
    let dst : Word := BitVec.ofNat 64 (0x8 * 2 ^ 60 + recOff ws)
    let part := (s.core core).partid
    match s.chunkWhere core part [(recWord ws 5, dst, recSize ws)] with
    | .error f =>
      .next ((s.modCtx core ctx (fun x => { x with pc := recWord ws 0, pend := none })).takeFault core ctx f)
    | .ok ps =>
      let s := ps.foldl (fun s w => (s.used (s.viaCluster (s.clusterOf core) core part) 16 (recWord ws 5).toNat w.1).moveBytes
        (.foot core ctx) (.ctx core ctx) w.1 w.2.1) s
      .next (s.beginTask core ctx ws)

/-- The nonempty armed ring that is refilled from first (R288). -/
def State.refillFrom (s : State) (cl : Nat) : Option Nat :=
  let ok (q : Nat) : Bool := (s.taskq cl q).armed && !(s.taskq cl q).arrivals.isEmpty
  match (List.range 16).filter ok with
  | [] => none
  | q :: r => some (r.foldl (fun a b => if (s.taskq cl a).pri < (s.taskq cl b).pri then b else a) q)

/-- The first core of a cluster that is granted to a partition: its partition is the cluster's (R22, R414). -/
def State.clusterCore (s : State) (cl : Nat) : Nat :=
  ((coresOf cl).find? (fun c => decide ((s.core c).partid < 16))).getD ((coresOf cl).headD 0)

/-- RING_REFILL (R288, R289). -/
def execRingRefill (cl : Nat) (s : State) : Out :=
  if !s.clusterRuns cl then .next s
  else
    match s.refillFrom cl, s.freeSram cl with
    | some q, some i =>
      let t := s.taskq cl q
      let c := s.clusterCore cl
      match t.ring, t.arrivals with
      | some (base, sz), n :: r =>
        let a := ringAddr base sz t.head
        let via := s.viaCluster cl c (s.core c).partid
        match s.locate via { r := true } [0x0] a 64 64 with
        | .at ls =>
          match s.mem.badAt ls with
          | some j => .next (s.ringFault cl q c (ringError a j .read))
          | none =>
          let s := s.used via 16 a ls
          let (bs, s) := s.loadUnits (.dispenser cl) ((List.range 8).map (fun i => (ls.drop (8 * i)).take 8))
          let ws := (List.range 8).map (fun i => ofBytes 64 ((bs.drop (8 * i)).take 8))
          .next ((s.modTaskq cl q (fun t => { t with arrivals := r, head := t.head + 1 })).modCluster cl (fun y =>
            { y with sram := tset y.sram i { queue := q, arrival := n, words := ws } }))
        | .fault f => .next (s.ringFault cl q c f)
        | .miss _ => .next s
      | _, _ => .next s
    | _, _ => .next s

end Sys2Proof.Machine
end

