-- ==== Sys2Proof/Machine/Messages.lean ====
section
/-! DEFINITION. Messages and replies: major 0x19, the send queue, mailbox entry and reply slots (R296 to R300, R377). -/

namespace Sys2Proof.Machine

/-- The fields of a mailbox address (R296). -/
def boxMask : Word := 0xFF_1FFF

/-- A mailbox operand (R296, R297): the core and the mailbox it names. -/
def boxOperand (d : Word) : M (Nat × Nat) := do
  let s ← get
  ensure ((d &&& ~~~boxMask) == 0) .illegal
  let c := bitsOf d.toNat 0 13
  let b := bitsOf d.toNat 16 8
  ensure (s.holdsCore s.myPart c) .prot d
  ensure (b != 254 && b != 255) .queue
  pure (c, b)

/-- A message enters the send queue and is counted (R297, R363, R377; log 84). -/
def State.sendMsg (s : State) (d : Nat × Nat) (w0 w1 : Word) (call : Bool := false) : State :=
  let n := (s.myCore.sent + 1) % 2 ^ 48
  (s.count s.cc s.ck 0x13 1).modMyCore (fun y => { y with
    sent := n
    sendq := y.sendq ++ [.msg { part := y.partid, src := s.cc, sctx := s.me.vctx, dst := d.1, box := d.2,
                                 w0, w1, sent := n, call }] })

/-- The send queue has room, or the thread waits (R297). -/
def sendRoom : M Unit := do
  queueImage
  fun s => if 16 ≤ s.myCore.sendq.length then .error (.wait .wmsg (.sendRoom s.cc)) else .ok ((), s)

/-- SEND (R297). -/
def execSend (g : Guard) (xd xa xb : SSrc) (s : State) : Out :=
  run (taskInfo g [xd, xa, xb] []) (do
    let d ← readS xd
    let a ← readS xa
    let b ← readS xb
    let box ← boxOperand d
    sendRoom
    modify (fun s => (s.sendMsg box a b).retire 8)) s

/-- The token of a call (R299). -/
def State.callToken (s : State) (k : Fin 4) : Word :=
  BitVec.ofNat 64 (2 ^ 63 + k.val * 2 ^ 20 + s.me.vctx * 2 ^ 16 + s.me.vcid % 2 ^ 13)

/-- A reply slot of a context takes a state. -/
def State.setSlotOf (s : State) (c j : Nat) (k : Fin 4) (r : RSlot) : State :=
  s.modCtx c j (fun x => { x with replies := x.replies.set k.val r k.isLt })

/-- The call of RCALL (R299): its message is sent and its slot is pending. -/
def callBody (xd xa : SSrc) (k : Fin 4) : M Unit := do
  let d ← readS xd
  let a ← readS xa
  let box ← boxOperand d
  ensure ((← get).me.replies.get k == .empty) .queue
  sendRoom
  modify (fun s => (s.sendMsg box a (s.callToken k) true).setSlotOf s.cc s.ck k .pending)

/-- RCALL (R299; log 88). -/
def execRcall (g : Guard) (rd : SDst) (xd xa : SSrc) (k : Fin 4) (s : State) : Out :=
  run (taskInfo g [xd, xa] [rd]) (do
    callBody xd xa k
    sendRequest (.rcall k rd) .wmsg 8 [.s rd 0]) s

/-- RCALL.n (R299). -/
def execRcallN (g : Guard) (xd xa : SSrc) (k : Fin 4) (s : State) : Out :=
  run (taskInfo g [xd, xa] []) (do
    callBody xd xa k
    modify (fun s => s.retire 8)) s

/-- RREPLY (R300; log 87). -/
def execRreply (g : Guard) (xt xv : SSrc) (s : State) : Out :=
  run (taskInfo g [xt, xv] []) (do
    let t ← readS xt
    let v ← readS xv
    ensure (t.getLsbD 63 && bitsOf t.toNat 22 41 == 0 && bitsOf t.toNat 13 3 == 0) .illegal
    let c := bitsOf t.toNat 0 13
    ensure ((← get).holdsCore (← get).myPart c) .prot t
    modify (fun s => ((s.count s.cc s.ck 0x13 1).modMyCore (fun y => { y with
      sent := (y.sent + 1) % 2 ^ 48
      sendq := y.sendq ++ [.reply y.partid c (bitsOf t.toNat 16 4) (Fin.ofNat 4 (bitsOf t.toNat 20 2)) v] })).retire 8)) s

/-- The two destination registers of MRECV take a message's words (R296). -/
def pairPuts (rd : Fin 32) (w : Word × Word) : List Put := [.s (.x rd) w.1, .s (.x (rd + 1)) w.2]

/-- MRECV (R298). -/
def execMrecv (g : Guard) (rd : Fin 32) (mb : Byte) (s : State) : Out :=
  run (taskInfo g [] []) (do
    ensure (mb != 253) .queue
    let s ← get
    if mb = 254 then
      match s.me.events with
      | [] => waitFor .wmsg (.event s.cc s.ck)
      | w :: r => do
        set (s.modMe (fun x => { x with events := r }))
        finish 8 (pairPuts rd w)
    else
      queueImage
      let b := tgetD s.myCore.mbox mb.toNat {}
      match b.msgs with
      | [] => waitFor .wmsg (.mail s.cc mb.toNat)
      | w :: r => do
        set (s.modMyCore (fun y => { y with mbox := tset y.mbox mb.toNat { b with msgs := r } }))
        finish 8 (pairPuts rd w)) s

/-- MRECV.r (R299). -/
def execMrecvR (g : Guard) (rd : SDst) (k : Fin 4) (s : State) : Out :=
  run (taskInfo g [] [rd]) (do
    let s ← get
    match s.me.replies.get k with
    | .empty => raiseV .queue
    | .pending => waitFor .wmsg (.reply s.cc s.ck k)
    | .full v => do
      set (s.setSlotOf s.cc s.ck k .empty)
      finish 8 [.s rd v]) s

/-! The networks. -/

/-- MESSAGE_DEPART (R297, R302): the oldest message leaves the send queue; one to mailbox 253 goes to the service core of its
core's quadrant. -/
def execMessageDepart (core : Nat) (s : State) : Out :=
  match (s.core core).sendq with
  | [] => .next s
  | e :: r =>
    if !s.runs core then .next s
    else
      let out : NetItem := match e with
        | .msg m => if m.box = 253 then .forward m (quadOf (s.core m.dst).home) else .msg m
        | e => e
      .next { (s.modCore core (fun y => { y with sendq := r })) with net := s.net ++ [out] }

/-- The core a message goes to: the allocator of a partition on a die where it names that (R273). -/
def State.msgCore (s : State) (dst : Nat) : Option Nat :=
  if dst < 2 ^ 20 then some dst
  else
    let die := (dst - 2 ^ 20) / 16
    match (s.die die).alloc.toList.getD (dst % 16) none with
    | some k => some (coreAt die k)
    | none => none

/-- An earlier message of the same context to the same mailbox is still in the network (R297). -/
def behind (l : List NetItem) (m : Msg) : Bool :=
  l.any (fun e => match e with
    | .msg n => n.src == m.src && n.sctx == m.sctx && n.dst == m.dst && n.box == m.box && n.part == m.part
    | _ => false)

/-- The message-entry record goes to each context of the core with an open session (R378; log 44). -/
def State.traceEntry (s : State) (c : Nat) (m : Msg) : State :=
  (s.ctxsOf c).foldl (fun s k =>
    s.trace c k 0x0C 0 (BitVec.ofNat 64 (m.sent % 2 ^ 48 + m.src % 2 ^ 13 * 2 ^ 48))) s

/-- A message enters its mailbox (R297, R363, R377). -/
def State.enterBox (s : State) (c : Nat) (m : Msg) : State :=
  let s := s.modCore c (fun y =>
    let b := tgetD y.mbox m.box {}
    { y with
      mbox := tset y.mbox m.box { msgs := b.msgs ++ [(m.w0, m.w1)], count := b.count + 1 }
      recv := (y.recv + 1) % 2 ^ 48 })
  (s.count c 0 0x14 1).traceEntry c m

/-- MESSAGE_ENTRY (R297, R383): the message at place `i` enters its mailbox when a slot is free and its turn has come. -/
def execMessageEntry (i : Nat) (s : State) : Out :=
  match s.net[i]? with
  | some (.msg m) =>
    match s.msgCore m.dst with
    | none => .next s
    | some c =>
      let key := mailKey c m.box
      if !s.runs c || (s.core c).partid != m.part || behind (s.net.take i) m ||
          decide (4 ≤ (tgetD (s.core c).mbox m.box {}).msgs.length) then .next s
      else if !s.turn m.part 2 key m.src m.sctx then .next (s.checkVacant m.part 2 key)
      else .next (({ s with net := ldel s.net i }.enterBox c m).logged m.part 2 key m.src m.sctx)
  | _ => .next s

/-- REPLY_ARRIVAL (R299, R300): a waiting call takes the value, else its slot does; a reply to a slot that is not pending is
dropped and counted. -/
def execReplyArrival (i : Nat) (s : State) : Out :=
  match s.net[i]? with
  | some (.reply part c v k w) =>
    if !s.runs c || (s.core c).partid != part then .next s
    else
      let s := { s with net := ldel s.net i }
      let drop : State := s.modCore c (fun y => { y with drops := y.drops + 1 })
      match s.physOf c v with
      | none => .next drop
      | some j =>
        let x := s.ctx c j
        if x.replies.get k != .pending then .next drop
        else
          match x.pend with
          | some p =>
            match p.kind with
            | .rcall n rd =>
              if n = k then .next ((s.setSlotOf c j k .empty).asCtx c j (fun t => t.replyPuts p [.s rd w]))
              else .next (s.setSlotOf c j k (.full w))
            | _ => .next (s.setSlotOf c j k (.full w))
          | none => .next (s.setSlotOf c j k (.full w))
  | _ => .next s

end Sys2Proof.Machine
end

