-- ==== Sys2Proof/Machine/Streams.lean ====
section
/-! DEFINITION. Owners and their events, stream units, and major 0x1B (R20, R315 to R328). -/

namespace Sys2Proof.Machine

/-! Owners. -/

/-- An owner value's reserved bits are zero (R319). -/
def ownerOk (v : Word) : Bool :=
  if v.getLsbD 63 then v &&& 0x7F00_0000_FFE0_E000 == 0 else v &&& ~~~0xF_1FFF == 0

/-- A context owner is a context of the partition (R328). DESIGN CHOICE: a buoy owner need not belong to it, since R20's "of the same
partition" can be read with the context alone and R328 checks only that; its wake goes to the named element whatever its partition (log 133). -/
def State.ownerHeld (s : State) (part : Nat) (v : Word) : Bool := v.getLsbD 63 || s.holdsCore part (bitsOf v.toNat 0 13)

/-- The flag that an owner's event sets in a buoy (R342, R346). -/
def flagSev : BitVec 12 := 1

/-- A wake of an element of a declared tensor (R346; log 99); an element beyond its count is none. -/
def State.wakeElem (s : State) (cl t j : Nat) (flag : BitVec 12) : State :=
  match tget (s.cluster cl).tensors t with
  | none => s
  | some e => if j < e.count then s.wake cl t j flag else s

/-- Delivers an event to an owner of a partition; none when the event must be held: the owner context is or went vacant, or the
partition is switched out (R20; log 130). -/
def State.offerEvent (s : State) (part : Nat) (gone : Bool) (owner : Word) (w : Word × Word) : Option State :=
  let c := bitsOf owner.toNat 0 13
  if gone || !s.present part then none
  else if owner.getLsbD 63 then
    some (s.wakeElem (s.clusterOf c) (bitsOf owner.toNat 16 5) (bitsOf owner.toNat 32 24) flagSev)
  else
    match s.physOf c (bitsOf owner.toNat 16 4) with
    | none => none
    | some k => if (s.ctx c k).run = .vacant then none else some (s.postEvent c k w)

/-- After an event was held, no owner takes events until a new one is set, unless the partition is only switched out (R20;
log 130). -/
def State.losing (s : State) (part : Nat) (gone : Bool) : Bool := gone || s.present part

/-- The held events after one more: the oldest beyond 64 is dropped (R20). -/
def holdEvent (held : List (Word × Word)) (w : Word × Word) : List (Word × Word) × Bool :=
  if 64 ≤ held.length then (held.drop 1 ++ [w], true) else (held ++ [w], false)

/-- An event of a stream goes to its owner, in whose trace it shows, or is held (R20, R319, R378). -/
def State.streamSend (s : State) (n : Nat) (w : Word × Word) : State :=
  match s.stream? n with
  | none => s
  | some st =>
    match s.offerEvent st.part st.gone st.owner w with
    | some t =>
      if st.owner.getLsbD 63 then t
      else
        let c := bitsOf st.owner.toNat 0 13
        t.trace c ((t.physOf c (bitsOf st.owner.toNat 16 4)).getD 0) 0x0A 0 w.1
    | none =>
      let (h, lost) := holdEvent st.heldEv w
      s.setStream n { st with heldEv := h, loss := if lost then st.loss + 1 else st.loss, gone := s.losing st.part st.gone }

/-- An event of a stream (R319). -/
def State.streamEvent (s : State) (n : Nat) (code : Nat) (w1 : Word) : State :=
  s.streamSend n (BitVec.ofNat 64 (code + n * 2 ^ 16), w1)

/-- Held events go to the owner in arrival order (R20, R328). -/
def State.streamHeld (s : State) (n : Nat) : State :=
  match s.stream? n with
  | none => s
  | some st => st.heldEv.foldl (fun s w => s.streamSend n w) (s.setStream n { st with heldEv := [] })

/-! Frames. -/

/-- The entry at a place of the input ring (R321). -/
def ringEntry (st : Stream) (j : Nat) : Word := st.irb + BitVec.ofNat 64 (512 * j)

/-- A snapshot slot's position, when it is valid. -/
def Stream.snap (st : Stream) (j : Nat) : Option Nat := st.snaps.toList.getD j none

/-- UET payload bytes pass through a port die, with the packets that are sent again (R365; log 46). -/
def State.uetOn (s : State) (die : Fin 4) (tx : Bool) (n : Nat) : State :=
  let i : Fin 8 := Fin.ofNat 8 (2 * die.val + if tx then 0 else 1)
  let n := n * (1 + Config.resent s.fresh)
  { s with fresh := s.fresh + 1, fabric := s.fabric.set i.val ((s.fabric.get i + n) % 2 ^ 48) i.isLt }
/-- UET payload bytes of the module's own traffic, through whichever port die carries them (R301, R365; log 46). -/
def State.uetBytes (s : State) (tx : Bool) (n : Nat) : State := s.uetOn (Config.portOf s.fresh) tx n

/-- The port die of a stream (R315). -/
def streamDie (n : Nat) : Nat := n / 4096

/-- The bytes of an input-ring entry (R317, R320). -/
def frameBytes (f : Frame) : List Byte :=
  bytesOf 2 f.sid ++ [f.kind, 0] ++ bytesOf 4 f.seq ++ bytesOf 4 f.pf ++ leCut 2 f.payload.length ++ [0, 0] ++ f.payload

/-- Cuts bytes into units of eight. -/
def unitsOf8 (cs : List Host.Cell) : List (List Host.Cell) :=
  (List.range ((cs.length + 7) / 8)).map (fun i => (cs.drop (8 * i)).take 8)

/-- Output records below PBC are freed (R320). -/
def Stream.acked (st : Stream) (p : Nat) : Stream :=
  let b := max st.pbc p
  { st with pbc := b, out := st.out.filter (fun r => b ≤ r.1) }

/-- A barge below GNC marks the truncation and cuts the output (R320): the records from `p` on are discarded, those below the
new PBC are freed. -/
def Stream.cutAt (st : Stream) (p : Nat) : Stream :=
  let q := if st.tpPend then min st.tpPos p else p
  let safe := (List.range 16).any (fun j => match st.snap j with | some x => decide (x ≤ q) | none => false)
  { st with
    tpPos := q, tpPend := true, tpLate := st.tpLate || !safe
    out := [], sentTo := min st.sentTo p, pbc := p }

/-- The frame goes into the next entry of the input ring: the fault's address, or the state after it (R321). -/
def State.fillEntry (s : State) (n : Nat) (st : Stream) (f : Frame) : Except Word State :=
  let bs := frameBytes f
  match s.locate (s.viaEngine 0 st.part) { w := true } [0x0] (ringEntry st st.nextIn).toNat bs.length 1 with
  | .fault c => .error c.tval
  | .miss _ => .error (ringEntry st st.nextIn)
  | .at ls =>
    match s.mem.badAt ls with
    | some i => .error (BitVec.ofNat 64 (((ringEntry st st.nextIn).toNat + i) / 8 * 8))
    | none =>
      let a : Agent := .stream (streamDie n)
      let s := ((s.used (s.viaEngine 0 st.part) 16 (ringEntry st st.nextIn).toNat ls).storeUnits a (unitsOf8 (ls.zip bs)) none).modMem (fun m => m.flush a (640 + streamDie n))
      .ok (s.setStream n { st with avail := st.avail ++ [st.nextIn], nextIn := (st.nextIn + 1) % 64 })

/-- The next frame in sequence is accepted (R320); none when it stays unaccepted (R318, R321). -/
def State.accept (s : State) (n : Nat) (st : Stream) (f : Frame) : Option State × State :=
  let p := min (max f.pf.toNat st.pbc) st.gnc
  let next (st : Stream) : Stream := { st with nseq := st.nseq + 1 }
  if f.kind = 1 then (some (s.setStream n (next (st.acked p))), s)
  else if 64 ≤ st.avail.length + (if st.heldEntry.isSome then 1 else 0) then (none, s)
  else
    match s.fillEntry n st f with
    | .error a =>
      if st.faultTold = some st.nseq then (none, s)
      else (none, (s.setStream n { st with faultTold := some st.nseq }).streamEvent n 0x14 a)
    | .ok t =>
      let st1 := (t.stream? n).getD st
      if f.kind = 0 then (some ((t.setStream n (next st1)).streamEvent n 0x10 (f.seq.setWidth 64)), s)
      else if p < st.gnc then
        let st2 := st1.cutAt p
        let cut : OutFrame := { sid := n, kind := 4, pos := p, val := 0 }
        let t : State := { (t.setStream n (next st2)).uetBytes true 16 with frameOut := t.frameOut ++ [cut] }
        (some (if st2.tpLate then t.streamEvent n 0x12 (f.pf.setWidth 64) else t.streamEvent n 0x11 (BitVec.ofNat 64 p)), s)
      else (some ((t.setStream n (next (st1.acked p))).streamEvent n 0x11 (BitVec.ofNat 64 p)), s)

/-- The entries of the log that hold an accepted frame (R382; log 40). -/
def frameLog (f : Frame) : Word × Word × List (List Nat) :=
  let b := f.payload
  (BitVec.ofNat 64 (b.length + f.kind.toNat * 2 ^ 16), BitVec.ofNat 64 (f.seq.toNat + f.pf.toNat * 2 ^ 32),
   (List.range ((b.length + 31) / 32)).map (fun i =>
     (List.range 4).map (fun j => leVal ((b.drop (32 * i + 8 * j)).take 8))))

/-- A frame is accepted and logged, and then the held frames that are now in sequence (R318, R320, R382). -/
def State.acceptRun (s : State) (n : Nat) (f : Frame) : Nat → State
  | 0 => s
  | fuel + 1 =>
    match s.stream? n with
    | none => s
    | some st =>
      match s.accept n st f with
      | (none, t) => t
      | (some t, _) =>
        let (d2, d3, more) := frameLog f
        let t := t.logged st.part 4 (BitVec.ofNat 64 n) 0 0 d2 d3 more
        match t.stream? n with
        | none => t
        | some y =>
          let y := { y with gap := y.gap.filter (fun g => g.seq != f.seq) }
          let t := t.setStream n y
          match y.gap.find? (fun g => g.seq == y.nseq) with
          | none => t
          | some g => t.acceptRun n g fuel

/-- A held frame that is in sequence is tried again (R318, R321; log 131). -/
def State.retryGap (s : State) (n : Nat) : State :=
  match s.stream? n with
  | none => s
  | some st =>
    match st.gap.find? (fun g => g.seq == st.nseq) with
    | none => s
    | some g => s.acceptRun n g 8

/-- A frame is acknowledged at UET level (R317, R318; log 131). -/
def State.ackFrame (s : State) (f : Frame) : State :=
  { s with ackOut := s.ackOut ++ [{ endpoint := f.endpoint, sid := f.sid, seq := f.seq }] }

/-- A frame in sequence space, acknowledged unless it is dropped for lack of room or stays unaccepted (R318; log 131). -/
def State.sequence (s : State) (n : Nat) (st : Stream) (f : Frame) : State :=
  let d := (f.seq - st.nseq).toNat
  if 2 ^ 31 ≤ d then s.ackFrame f
  else if d = 0 then
    let t := s.acceptRun n f 8
    if (t.stream? n).map Stream.nseq = some st.nseq then t else t.ackFrame f
  else if st.gap.any (fun g => g.seq == f.seq) then s.ackFrame f
  else if st.gap.length < 4 then (s.setStream n { st with gap := st.gap ++ [f] }).ackFrame f
  else if st.gapTold = some st.nseq then s
  else (s.setStream n { st with gapTold := some st.nseq }).streamEvent n 0x13 (st.nseq.setWidth 64)

/-- A frame that is dropped and counted (R317). -/
def Stream.drops? (st : Stream) (f : Frame) : Bool :=
  f.endpoint != st.endpoint || !st.opened || decide (3 ≤ f.kind.toNat) || decide (496 < f.payload.length) ||
  (f.kind == 1 && !f.payload.isEmpty) || f.rsv != 0 || f.sid.toNat / 2 ^ 14 != 0

/-- The next frame of a stream in the log of its partition (R383). -/
def State.loggedFrame (s : State) (n : Nat) (st : Stream) : Option Frame :=
  match s.logNext st.part 4 (BitVec.ofNat 64 n) with
  | none => none
  | some l =>
    let e := l.headD []
    let len := e.getD 2 0 % 2 ^ 16
    let bs := ((l.drop 1).take ((len + 31) / 32)).flatMap (fun e => e.flatMap (leCut 8))
    some { endpoint := st.endpoint, sid := BitVec.ofNat 16 n, kind := BitVec.ofNat 8 (e.getD 2 0 / 2 ^ 16)
           rsv := 0, seq := BitVec.ofNat 32 (e.getD 3 0), pf := BitVec.ofNat 32 (e.getD 3 0 / 2 ^ 32), payload := bs.take len }

/-- A frame arrives at its stream unit, which is never stopped (R31, R301, R317, R383): in replay the unit takes the logged frame of
the stream in its place. -/
def State.frameArrives (s : State) (f : Frame) : State :=
  let n := f.sid.toNat % 2 ^ 14
  if f.mode.unused then { s with pktDrops := s.pktDrops + 1 }
  else
  let s := (s.uetBytes false (16 + f.payload.length)).retryGap n
  match s.stream? n with
  | none =>
    let d := streamDie n % 4
    { s with frameDrops := s.frameDrops.set d (s.frameDrops.toList.getD d 0 + 1) (Nat.mod_lt _ (by decide)) }
  | some st =>
    if (s.part st.part).replay.mode = .replay then
      match s.loggedFrame n st with
      | none => s
      | some g => if st.opened then (s.acceptRun n g 1).ackFrame f else s
    else if st.drops? f then (s.setStream n { st with drops := st.drops + 1 }).ackFrame f
    else s.sequence n st f

/-! The instructions. -/

/-- The stream an operand names (R316). -/
def streamOf (v : Word) (opening : Bool) : M (Nat × Stream) := do
  ensure (v.toNat / 2 ^ 14 == 0) .illegal
  let s ← get
  match s.stream? v.toNat with
  | none => raiseV .stream v
  | some st => do
    ensure (st.part == s.myPart && st.opened != opening) .stream v
    pure (v.toNat, st)

/-- The answer of a unit (R315). -/
def answerWith (cls : SlotClass) (ps : List Put) : M Unit := sendRequest (.value ps) cls 8 ps

/-- The issuer's view comes to the device store over an entry's bytes (R323). -/
def State.seeEntry (s : State) (a : Word) : State :=
  match s.locate (s.viaEngine s.cc s.myPart) { r := true } [0x0] a.toNat 512 1 with
  | .at ls => s.modMem (fun m => m.refresh (s.agentOf s.cc s.ck) .device 0 (fun l => ls.contains l))
  | _ => s

/-- SFRAME (R323). -/
def execSframe (g : Guard) (gd : Fin 8) (rd : SDst) (xs : SSrc) (s : State) : Out :=
  run (taskInfo g [xs] [rd]) (do
    let (n, st) ← streamOf (← readS xs) false
    match st.avail with
    | [] => do
      answerWith .wmsg [.s rd 0, putG gd false]
      modify (fun s => (s.setStream n { st with heldEntry := none }).retryGap n)
    | j :: r => do
      answerWith .wmsg [.s rd (ringEntry st j), putG gd true]
      modify (fun s => ((s.setStream n { st with avail := r, heldEntry := some j }).seeEntry (ringEntry st j)).retryGap n)) s

/-- SEMIT (R324). -/
def execSemit (g : Guard) (gd : Fin 8) (rd : SDst) (xs xv : SSrc) (s : State) : Out :=
  run (taskInfo g [xs, xv] [rd]) (do
    let a ← readS xs
    let v ← readS xv
    let (n, st) ← streamOf a false
    let status := if st.tpPend then 1 else if 64 ≤ st.gnc - st.pbc then 2 else if st.gnc = 2 ^ 32 - 1 then 3 else 0
    answerWith .wmsg [.s rd (BitVec.ofNat 64 (status * 2 ^ 56 + st.gnc)), putG gd (status == 0)]
    if status = 0 then
      modify (fun s => s.setStream n { st with out := st.out ++ [(st.gnc, v)], gnc := st.gnc + 1 })) s

/-- The valid snapshots as a mask (R325). -/
def snapMask (st : Stream) : Nat := ((List.range 16).map (fun j => if (st.snaps.toList.getD j none).isSome then 2 ^ j else 0)).sum

/-- SCUR with what it reads (R325). -/
def runScur (g : Guard) (rd : SDst) (xs : SSrc) (val : Stream → Nat) (s : State) : Out :=
  run (taskInfo g [xs] [rd]) (do
    let (_, st) ← streamOf (← readS xs) false
    answerWith .wmsg [.s rd (BitVec.ofNat 64 (val st))]) s

/-- SCUR sel 0 (R325). -/
def execScurGnc (g : Guard) (rd : SDst) (xs : SSrc) (s : State) : Out := runScur g rd xs (fun st => st.gnc) s
/-- SCUR sel 1 (R325). -/
def execScurPbc (g : Guard) (rd : SDst) (xs : SSrc) (s : State) : Out := runScur g rd xs (fun st => st.pbc) s
/-- SCUR sel 2 (R325). -/
def execScurTp (g : Guard) (rd : SDst) (xs : SSrc) (s : State) : Out :=
  runScur g rd xs (fun st => st.tpPos + boolN st.tpPend * 2 ^ 32 + boolN st.tpLate * 2 ^ 33) s
/-- SCUR sel 3 (R325). -/
def execScurNseq (g : Guard) (rd : SDst) (xs : SSrc) (s : State) : Out :=
  runScur g rd xs (fun st => st.nseq.toNat + st.avail.length * 2 ^ 32 + st.gap.length * 2 ^ 40) s
/-- SCUR sel 4 (R325). -/
def execScurSnapshots (g : Guard) (rd : SDst) (xs : SSrc) (s : State) : Out :=
  runScur g rd xs (fun st => snapMask st + st.newest * 2 ^ 16) s
/-- SCUR sel 5 (R325). -/
def execScurLoss (g : Guard) (rd : SDst) (xs : SSrc) (s : State) : Out := runScur g rd xs (fun st => st.loss.toNat) s
/-- SCUR sel 6 (R325). -/
def execScurDrops (g : Guard) (rd : SDst) (xs : SSrc) (s : State) : Out := runScur g rd xs (fun st => st.drops.toNat) s

/-- The better of two snapshot slots: the greater position, then the more recently claimed (R327). -/
def Stream.betterSnap (st : Stream) (a b : Nat) : Nat :=
  let age (j : Nat) : Nat := st.claim.idxOf j
  let pa := (st.snap a).getD 0
  let pb := (st.snap b).getD 0
  if pa < pb ∨ (pa = pb ∧ age a < age b) then b else a

/-- The snapshot to restore from (R327). -/
def Stream.best (st : Stream) : Option Nat :=
  match (List.range 16).filter (fun j => (st.snap j).isSome) with
  | [] => none
  | j :: r => some (r.foldl st.betterSnap j)

/-- The truncation of a stream (R327): the stream after it, the result, and P where it was late. -/
def Stream.truncate (st : Stream) : Stream × Word × Option Word :=
  let p := st.tpPos
  let keep (o : Option Nat) : Option Nat := o.bind (fun q => if q ≤ p then some q else none)
  let st1 := { st with
    gnc := p, out := st.out.filter (fun r => r.1 < p), sentTo := min st.sentTo p, tpPos := 0, tpPend := false, tpLate := false
    snaps := st.snaps.map keep }
  match (if st.tpLate then none else st1.best) with
  | none => ({ st1 with snaps := Vector.replicate 16 none }, 0, some (BitVec.ofNat 64 p))
  | some j => ({ st1 with newest := j }, BitVec.ofNat 64 (2 ^ 63 + j * 2 ^ 32 + (st1.snap j).getD 0), none)

/-- STRUNC (R327): with a KV binding its slot is cut first. -/
def execStrunc (g : Guard) (rd : SDst) (xs : SSrc) (s : State) : Out :=
  run (taskInfo g [xs] [rd]) (do
    let (n, st) ← streamOf (← readS xs) false
    if !st.tpPend then answerWith .wmsg [.s rd 0]
    else
      let (st1, v, late) := st.truncate
      let p : Word := BitVec.ofNat 64 st.tpPos
      if st.kvb.getLsbD 63 then do
        let place := placeOf (bitsOf st.kvb.toNat 0 13) (bitsOf st.kvb.toNat 16 8) 0
        sendRequest (.trunc rd v late) .wmsg 8 [.s rd 0]
        modify (fun s => { s.setStream n st1 with
          slotNew := s.slotNew ++ [{ core := s.cc, ctx := s.ck, place, sel := 4, v := p }] })
      else
        match late with
        | some q => do
          sendRequest (.late q) .wmsg 8 []
          modify (fun s => s.setStream n st1)
        | none => do
          answerWith .wmsg [.s rd v]
          modify (fun s => s.setStream n st1)) s

/-- SSNAP (R326). -/
def execSsnap (g : Guard) (rd : SDst) (xs xp : SSrc) (s : State) : Out :=
  run (taskInfo g [xs, xp] [rd]) (do
    let a ← readS xs
    let p ← readS xp
    let (n, st) ← streamOf a false
    ensure (decide (p.toNat < 2 ^ 32) && decide (p.toNat ≤ st.gnc) &&
      decide ((st.snap st.newest).getD 0 ≤ p.toNat)) .illegal p
    let j := if snapMask st = 0 then 0 else (st.newest + 1) % 16
    answerWith .wmsg [.s rd (st.snb + BitVec.ofNat 64 (0x1_0000 * j))]
    modify (fun s => s.setStream n { st with
      snaps := st.snaps.set (j % 16) (some p.toNat) (Nat.mod_lt _ (by decide)), newest := j
      claim := st.claim.filter (· != j) ++ [j] })) s

/-- The checks of an owner operand (R319, R328; log 89). -/
def checkOwner (v tval : Word) : M Unit := do
  let s ← get
  ensure (ownerOk v) .illegal tval
  ensure (s.ownerHeld s.myPart v) .prot v

/-- SOWN op 0 (R328). -/
def execSownOwner (g : Guard) (xs xo : SSrc) (s : State) : Out :=
  run (taskInfo g [xs, xo] []) (do
    let a ← readS xs
    let d ← readS xo
    let (n, st) ← streamOf a false
    checkOwner d 0
    answerWith .wmsg []
    modify (fun s => (s.setStream n { st with owner := d, gone := false }).streamHeld n)) s

/-- A 64-byte load of the acting context as eight words. -/
def loadWords (ls : List Nat) : M (List Word) := do
  let s ← get
  let (bs, s1) := s.loadUnits (s.agentOf s.cc s.ck) ((List.range 8).map (fun i => (ls.drop (8 * i)).take 8))
  set s1
  pure ((List.range 8).map (fun i => ofBytes 64 ((bs.drop (8 * i)).take 8)))

/-- A stream closed, with its grant, its counts and nothing else. -/
def Stream.bare (st : Stream) : Stream :=
  { part := st.part, endpoint := st.endpoint, loss := st.loss, drops := st.drops }

/-- SOWN op 1 (R328; log 89). -/
def execSownOpen (g : Guard) (xs xo : SSrc) (s : State) : Out :=
  run (taskInfo g [xs, xo] []) (do
    let a ← readS xs
    let d ← readS xo
    let (n, st) ← streamOf a true
    ensure ((spaceOf d.toNat == 0x8 || spaceOf d.toNat == 0xA) && d.toNat % 64 == 0) .illegal d
    watchCheck 1 ((List.range 64).map (fun i => d.toNat + i))
    let ls ← locM { r := true } [0x8, 0xA] d.toNat 64 64
    let ws ← loadWords ls
    let w (i : Nat) : Word := ws.getD i 0
    ensure ((w 0).toNat / 2 ^ 56 == 0 && (w 0).toNat % 0x8000 == 0 && (w 1).toNat / 2 ^ 56 == 0 &&
      (w 1).toNat % 0x1_0000 == 0 && w 2 &&& ~~~0x8000_0000_00FF_1FFF == 0 && (ws.drop 4).all (· == 0)) .illegal d
    checkOwner (w 3) d
    answerWith .wmsg []
    modify (fun s => s.setStream n { st.bare with
      opened := true, owner := w 3, irb := w 0, snb := w 1, kvb := w 2, heldEv := [] })) s

/-- SOWN op 2 (R328). -/
def execSownClose (g : Guard) (xs xo : SSrc) (s : State) : Out :=
  run (taskInfo g [xs, xo] []) (do
    let a ← readS xs
    let _ ← readS xo
    let (n, st) ← streamOf a false
    answerWith .wmsg []
    modify (fun s => s.setStream n { st.bare with loss := st.loss + BitVec.ofNat 32 st.heldEv.length })) s

/-! The units' events. -/

/-- INPUT_FRAME (R317 to R320): a frame of kind 0, or of a reserved kind. -/
def execInputFrame (f : Frame) (s : State) : Out :=
  if s.power != .on || f.kind = 1 || f.kind = 2 then .next s else .next (s.frameArrives f)
/-- ACK_FRAME (R317, R318, R320). -/
def execAckFrame (f : Frame) (s : State) : Out :=
  if s.power != .on || f.kind != 1 then .next s else .next (s.frameArrives f)
/-- BARGE_FRAME (R317, R318, R320). -/
def execBargeFrame (f : Frame) (s : State) : Out :=
  if s.power != .on || f.kind != 2 then .next s else .next (s.frameArrives f)

/-- OUTPUT_RECORD_SEND (R320): the next record leaves in position order. -/
def execOutputRecordSend (sid : Nat) (s : State) : Out :=
  match s.stream? sid with
  | none => .next s
  | some st =>
    match st.out.find? (fun r => st.sentTo ≤ r.1) with
    | none => .next s
    | some r =>
      if s.power != .on then .next s
      else .next { (s.setStream sid { st with sentTo := r.1 + 1 }).uetBytes true 16 with
        frameOut := s.frameOut ++ [{ sid, kind := 3, pos := r.1, val := r.2 }] }

end Sys2Proof.Machine
end

