-- ==== Sys2Proof/Machine/Tender.lean ====
section
/-! DEFINITION. Tenders: tensor events, element programs, visits, sweeps, and major 0x1C (R340 to R355, R419, R420). -/

namespace Sys2Proof.Machine

/-! Tensors. -/

/-- A declared tensor of a cluster. -/
def State.tensor? (s : State) (cl t : Nat) : Option Tensor := tget (s.cluster cl).tensors t
/-- Changes a declared tensor. -/
def State.modTensor (s : State) (cl t : Nat) (f : Tensor → Tensor) : State :=
  match s.tensor? cl t with
  | none => s
  | some e => s.modCluster cl (fun y => { y with tensors := tset y.tensors t (f e) })

/-- An event of a tensor goes to its owner, or is held (R20, R353). -/
def State.tensorSend (s : State) (cl t : Nat) (w : Word × Word) : State :=
  match s.tensor? cl t with
  | none => s
  | some e =>
    match s.offerEvent e.part e.gone e.owner w with
    | some r => r
    | none => s.modTensor cl t (fun e => { e with
        held := (holdEvent e.held w).1, loss := if (holdEvent e.held w).2 then e.loss + 1 else e.loss
        gone := s.losing e.part e.gone })

/-- Word 0 of a tensor event (R353). -/
def tensorWord (code t fault j : Nat) : Word := BitVec.ofNat 64 (code + t % 32 * 2 ^ 8 + fault * 2 ^ 16 + j % 2 ^ 24 * 2 ^ 32)

/-- A tensor event (R353); a page fault is annotated (R382). -/
def State.tensorEvent (s : State) (cl t code fault j : Nat) (w1 : Word) : State :=
  let s := match (if fault = FaultCode.page.num then s.tensor? cl t else none) with
    | some e => s.annotate e.part e.home 0 1 w1
    | none => s
  s.tensorSend cl t (tensorWord code t fault j, w1)

/-- Held events go to a new owner in arrival order (R20, R355). -/
def State.tensorHeld (s : State) (cl t : Nat) : State :=
  match s.tensor? cl t with
  | none => s
  | some e => e.held.foldl (fun s w => s.tensorSend cl t w) (s.modTensor cl t (fun e => { e with held := [] }))

/-! Accesses of a sweep. -/

/-- The checks of an access of a sweep's agent (R221, R351). -/
def State.sweepLocs (s : State) (cl : Nat) (e : Tensor) (need : Need) (spaces : List Nat) (a n align : Nat) : Except Cause (List Nat) :=
  match s.locate (s.viaCluster cl e.home e.part) need spaces a n align with
  | .fault c => .error c
  | .miss _ => .error (accFault .page need a)
  | .at ls =>
    match s.mem.badAt ls with
    | some i => .error { code := .ue, tval := BitVec.ofNat 64 ((a + i) / 8 * 8), acc := need.acc }
    | none =>
      match (if need.w then ls.findIdx? (fun l => s.mem.waited (l / 8 * 8)) else none) with
      | some i => .error { accFault .prot need (a + i) 2 with acc := .write }
      | none => .ok ls

/-- What an access of a tender leaves in its cluster's TLB and the L2s (R214, R215, R364). -/
def State.sweepUse (s : State) (cl : Nat) (e : Tensor) (a : Nat) (ls : List Nat) : State :=
  s.used (s.viaCluster cl e.home e.part) 16 a ls

/-- Words of eight bytes read by a sweep's agent (R247 M4). -/
def State.sweepRead (s : State) (a : Agent) (ls : List Nat) : List Word × State :=
  let (bs, s) := s.loadUnits a ((List.range (ls.length / 8)).map (fun i => (ls.drop (8 * i)).take 8))
  ((List.range (ls.length / 8)).map (fun i => ofBytes 64 ((bs.drop (8 * i)).take 8)), s)

/-- Words of eight bytes written by a sweep's agent (R247 M1). -/
def State.sweepWrite (s : State) (a : Agent) (ls : List Nat) (ws : List Word) : State :=
  s.storeUnits a (unitsOf8 (ls.zip (ws.flatMap (bytesOf 8)))) none

/-! Element programs. -/

/-- The state of a visit (R340). `delay` is the pending transfer: its target as an index, and the slots left (R72). -/
structure Visit where
  cl : Nat
  t : Nat
  i : Nat
  temps : Vector Word 8 := Vector.replicate 8 0
  /-- g0 to g3; g0 is 1. -/
  gs : BitVec 4 := 1
  e0 : Lane × Lane
  e1 : Lane × Lane
  ef : BitVec 12
  arg : BitVec 32
  epc : BitVec 16
  wait : BitVec 4 := 0
  steps : Nat := 0
  delay : Option (Option (BitVec 16) × Nat) := none
  ended : Bool := false
  /-- The far-tier KV lines it has read (R269). -/
  far : List (Nat × Nat) := []
  deriving Repr

/-- An element instruction at work: its visit, the tensor as declared, and the machine. -/
abbrev E := StateT (Visit × State) (Except Cause)

/-- An element fault (R351). -/
def efault {α : Type} (code : FaultCode) (tval : Word := 0) : E α := throw { code, tval }
/-- The visit. -/
def getV : E Visit := do pure (← get).1
/-- Changes the visit. -/
def modV (f : Visit → Visit) : E Unit := modify (fun p => (f p.1, p.2))
/-- Changes the machine. -/
def modS (f : State → State) : E Unit := modify (fun p => (p.1, f p.2))
/-- The tensor of the visit. -/
def getT : E Tensor := do
  let (v, s) ← get
  match s.tensor? v.cl v.t with
  | some e => pure e
  | none => efault .illegal
/-- The sweep's agent. -/
def sweepAgent : E Agent := do
  let v ← getV
  pure (.sweep v.cl v.t (← getT).sn.toNat)

/-- The current slot of a name in sweep `n` (R345). -/
def slotOf (p : Lane × Lane) (n : Nat) : Lane := if n % 2 = 0 then p.1 else p.2
/-- Sets a slot of a name. -/
def setSlot (p : Lane × Lane) (n : Nat) (v : Lane) : Lane × Lane := if n % 2 = 0 then (v, p.2) else (p.1, v)

/-- A source code of R350. -/
def eSrcOk : SSrc → Bool
  | .x r => decide (r.val ≤ 10)
  | .zero | .it => true
  | _ => false
/-- A destination code of R350 and R351. -/
def eDstOk : SDst → Bool
  | .x r => decide (r.val ≤ 9)
  | _ => false
/-- A guard that an element program has. -/
def eGuardOk (n : Fin 8) : Bool := decide (n.val < 4)

/-- Reads a source of an element program (R350). -/
def readE (a : SSrc) : E Word := do
  let v ← getV
  let n := (← getT).sn.toNat
  match a with
  | .x r =>
    if h : r.val < 8 then pure (v.temps.get ⟨r.val, h⟩)
    else if r.val = 8 then pure ((slotOf v.e0 n).signExtend 64)
    else if r.val = 9 then pure ((slotOf v.e1 n).signExtend 64)
    else pure (v.ef.setWidth 64)
  | .it => pure (BitVec.ofNat 64 v.i)
  | _ => pure 0

/-- Writes a destination of an element program (R350). -/
def writeE (d : SDst) (x : Word) : E Unit := do
  let n := (← getT).sn.toNat
  match d with
  | .x r =>
    modV (fun v =>
      if h : r.val < 8 then { v with temps := v.temps.set r.val x h }
      else if r.val = 8 then { v with e0 := setSlot v.e0 n (x.setWidth 32) }
      else { v with e1 := setSlot v.e1 n (x.setWidth 32) })
  | _ => pure ()

/-- Reads bit 0 of a guard. -/
def readG (n : Fin 8) : E Bool := do pure ((← getV).gs.getLsbD n.val)
/-- Writes bit 0 of a guard (R350). -/
def writeG (n : Fin 8) (b : Bool) : E Unit :=
  modV (fun v => { v with gs := (v.gs &&& ~~~(1#4 <<< n.val)) ||| (if b then 1#4 <<< n.val else 0) })

/-- What an element instruction names and does. -/
structure EOp where
  g : Guard
  ss : List SSrc := []
  sd : List SDst := []
  gs : List (Fin 8) := []
  gd : List (Fin 8) := []
  /-- A transfer: it has delay slots, taken or not (R72, R73). -/
  br : Bool := false
  act : E Unit

/-- An operation on two sources. -/
def eBin (g : Guard) (rd : SDst) (a b : SSrc) (f : Word → Word → Word) : EOp :=
  { g, ss := [a, b], sd := [rd], act := do writeE rd (f (← readE a) (← readE b)) }
/-- An operation on one source. -/
def eUn (g : Guard) (rd : SDst) (a : SSrc) (f : Word → Word) : EOp :=
  { g, ss := [a], sd := [rd], act := do writeE rd (f (← readE a)) }
/-- An operation on guards. -/
def eGuards (g : Guard) (gd ga gb : Fin 8) (f : Bool → Bool → Bool) : EOp :=
  { g, gs := [ga, gb], gd := [gd], act := do writeG gd (f (← readG ga) (← readG gb)) }

/-- A load of an element program (R225, R350). -/
def eLoad (g : Guard) (rd : SDst) (xb : SSrc) (imm : Imm) (n : Nat) (sx : Bool) : EOp :=
  { g, ss := [xb], sd := [rd], act := do
      let a := ((← readE xb) + imm.val).toNat
      let e ← getT
      let ls ← (← get).2.sweepLocs (← getV).cl e { r := true } sweepSpaces a n n
      modV (fun v => { v with far := v.far ++ farLines [(a, ls)] })
      let cl := (← getV).cl
      modS (fun s => s.sweepUse cl e a ls)
      let (bs, s) := (← get).2.loadUnits (← sweepAgent) [ls]
      modS (fun _ => s)
      let v : Word := ofBytes 64 bs
      writeE rd (if sx then sextW v (8 * n) else v) }
/-- A store of an element program (R225, R350). -/
def eStore (g : Guard) (rs xb : SSrc) (imm : Imm) (n : Nat) : EOp :=
  { g, ss := [xb, rs], act := do
      let a := ((← readE xb) + imm.val).toNat
      let v ← readE rs
      let e ← getT
      let ls ← (← get).2.sweepLocs (← getV).cl e { w := true } sweepSpaces a n n
      let cl := (← getV).cl
      modS (fun s => s.sweepUse cl e a ls)
      let ag ← sweepAgent
      modS (fun s => s.storeUnits ag [ls.zip (bytesOf n v)] (s.kvExt [a] n)) }

/-- Where the instruction of an index lies (R350). -/
def eFetchLocs (i : BitVec 16) : E (List Nat) := do
  let e ← getT
  let ls ← (← get).2.sweepLocs (← getV).cl e { x := true } [0x0] (e.prog + 8 * i.setWidth 64).toNat 8 1
  pure ls

/-- BR in an element program (R72, R350; log 97): its target is an instruction of the program, and its delay slots are read at its
issue. -/
def eBr (g : Guard) (imm : Imm) : EOp :=
  { g, br := true, act := do
      let v ← getV
      let e ← getT
      let here := e.prog + 8 * v.epc.setWidth 64
      let t := here + 4 * imm.val
      let d := (t - e.prog).toNat
      if d % 8 != 0 || d / 8 ≥ 2 ^ 16 then efault .align t
      for k in [1, 2] do
        let _ ← eFetchLocs (v.epc + k)
      modV (fun v => { v with delay := some (some (BitVec.ofNat 16 (d / 8)), 2) }) }

/-- The instructions of R350 outside major 0x30. -/
def eOpOf : Instr → Option EOp
  | .add g w rd a b => some (eBin g rd a b (aluW w opAdd))
  | .sub g w rd a b => some (eBin g rd a b (aluW w opSub))
  | .mul g w rd a b => some (eBin g rd a b (aluW w opMul))
  | .mulh g w rd a b => some (eBin g rd a b (aluW w opMulh))
  | .mulhu g w rd a b => some (eBin g rd a b (aluW w opMulhu))
  | .div g w rd a b => some (eBin g rd a b (aluW w opDiv))
  | .divu g w rd a b => some (eBin g rd a b (aluW w opDivu))
  | .rem g w rd a b => some (eBin g rd a b (aluW w opRem))
  | .remu g w rd a b => some (eBin g rd a b (aluW w opRemu))
  | .shl g w rd a b => some (eBin g rd a b (aluW w opShl))
  | .shr g w rd a b => some (eBin g rd a b (aluW w opShr))
  | .sar g w rd a b => some (eBin g rd a b (aluW w opSar))
  | .rol g w rd a b => some (eBin g rd a b (aluW w opRol))
  | .min g w rd a b => some (eBin g rd a b (aluW w opMin))
  | .max g w rd a b => some (eBin g rd a b (aluW w opMax))
  | .minu g w rd a b => some (eBin g rd a b (aluW w opMinu))
  | .maxu g w rd a b => some (eBin g rd a b (aluW w opMaxu))
  | .and g rd a b => some (eBin g rd a b opAnd)
  | .or g rd a b => some (eBin g rd a b opOr)
  | .xor g rd a b => some (eBin g rd a b opXor)
  | .andn g rd a b => some (eBin g rd a b opAndn)
  | .orn g rd a b => some (eBin g rd a b opOrn)
  | .clz g w rd a => some (eUn g rd a (aluW1 w opClz))
  | .ctz g w rd a => some (eUn g rd a (aluW1 w opCtz))
  | .popc g w rd a => some (eUn g rd a (aluW1 w opPopc))
  | .sel g rd n a b => some { g, ss := [a, b], sd := [rd], gs := [n], act := do
      let c ← readG n
      let u ← readE a
      let v ← readE b
      writeE rd (if c then u else v) }
  | .mov g rd a => some (eUn g rd a id)
  | .addi g w rd a imm => some (eUn g rd a (fun u => aluW w opAdd u imm.val))
  | .li g rd imm => some { g, sd := [rd], act := writeE rd imm.val }
  | .extf g sx rd a pos len => some (eUn g rd a (extField sx pos len))
  | .insf g rd a b pos len => some (eBin g rd a b (insField pos len))
  | .cmp g w cc gd a b => some { g, ss := [a, b], gd := [gd], act := do
      writeG gd ((cmpVal w cc (← readE a) (← readE b)).getLsbD 0) }
  | .cmpi g w cc gd a imm => some { g, ss := [a], gd := [gd], act := do
      writeG gd ((cmpVal w cc (← readE a) imm.val).getLsbD 0) }
  | .gand g gd ga gb => some (eGuards g gd ga gb (fun a b => a && b))
  | .gor g gd ga gb => some (eGuards g gd ga gb (fun a b => a || b))
  | .gnot g gd ga => some (eGuards g gd ga ga (fun a _ => !a))
  | .ld g rd xb imm => some (eLoad g rd xb imm 8 false)
  | .ldW g rd xb imm => some (eLoad g rd xb imm 4 true)
  | .ldWu g rd xb imm => some (eLoad g rd xb imm 4 false)
  | .ldH g rd xb imm => some (eLoad g rd xb imm 2 true)
  | .ldHu g rd xb imm => some (eLoad g rd xb imm 2 false)
  | .ldB g rd xb imm => some (eLoad g rd xb imm 1 true)
  | .ldBu g rd xb imm => some (eLoad g rd xb imm 1 false)
  | .st g rs xb imm => some (eStore g rs xb imm 8)
  | .stW g rs xb imm => some (eStore g rs xb imm 4)
  | .stH g rs xb imm => some (eStore g rs xb imm 2)
  | .stB g rs xb imm => some (eStore g rs xb imm 1)
  | .br g imm => some (eBr g imm)
  | _ => none

/-! Major 0x30. -/

/-- The wait codes of R344. -/
def waitSleep : BitVec 4 := 1
/-- FUTURE -/
def waitFuture : BitVec 4 := 2
/-- END -/
def waitEnd : BitVec 4 := 3
/-- FAULT -/
def waitFault : BitVec 4 := 0xE
/-- OVERRUN -/
def waitOver : BitVec 4 := 0xF

/-- EWAIT (R352). -/
def eWait (g : Guard) (xa : SSrc) (idx : Nat) : EOp :=
  { g, ss := [xa], act := do
      let a ← readE xa
      modV (fun v => { v with arg := a.setWidth 32, epc := BitVec.ofNat 16 idx, wait := waitSleep, ended := true }) }

/-- EWAIT.F (R352): one move on the word (R252; log 98), once the agent's writes of it have drained. -/
def eWaitF (g : Guard) (rd : SDst) (xa : SSrc) (disp : Word) : EOp :=
  { g, ss := [xa], sd := [rd], act := do
      let a := (← readE xa) + disp
      let e ← getT
      let ls ← (← get).2.sweepLocs (← getV).cl e { r := true } [0xA, 0xB] a.toNat 8 8
      let loc := ls.headD 0
      let ag ← sweepAgent
      let v ← getV
      modS (fun s => s.modMem (fun m => m.drainFor ag v.cl ls (2 * m.bufs.length + 1)))
      let s ← do pure (← get).2
      let (w, m) := s.mem.move ag loc 8 (fun _ => none)
      let s := ({ s with mem := m }).logged e.part 1 (BitVec.ofNat 64 (normAddr e.home a.toNat)) e.home 0
      if !s.mem.empty.contains loc then
        modS (fun _ => s)
        writeE rd (BitVec.ofNat 64 w)
      else
        match s.freeRec e.home with
        | none => efault .futpool a
        | some i => do
          modS (fun _ => s.linkRec ag loc e.home i { ctx := 0, rd := .zero, kind := .buoy v.cl v.t v.i, addr := a })
          modV (fun v => { v with arg := a.setWidth 32, wait := waitFuture, ended := true }) }

/-- EWAKE (R352; log 99); `u` is the tensor, when one is named. -/
def eWake (g : Guard) (xi : SSrc) (u : Option Nat) : EOp :=
  { g, ss := [xi], act := do
      let j := (← readE xi).toNat
      let v ← getV
      let e ← getT
      let u := u.getD v.t
      match (← get).2.tensor? v.cl u with
      | none => efault .illegal
      | some f => do
        if f.part != e.part || f.count ≤ j then efault .illegal
        modS (fun s => if u = v.t then s.setAwake v.cl u j 0 else s.wake v.cl u j 0) }

/-- EPREV (R345, R352). -/
def ePrev (g : Guard) (rd : SDst) (xi : SSrc) (c nm : Bool) : EOp :=
  { g, ss := [xi], sd := [rd], act := do
      let j := (← readE xi).toNat
      let v ← getV
      let e ← getT
      let n := e.sn.toNat
      let own := if nm then v.e1 else v.e0
      if e.count ≤ j then efault .illegal
      if c then
        if j != v.i then efault .vread0
        writeE rd ((slotOf own n).signExtend 64)
      else if j = v.i then writeE rd ((slotOf own (n + 1)).signExtend 64)
      else
        let ls ← (← get).2.sweepLocs v.cl e { r := true } sweepSpaces (e.buoyAt j) 32 8
        modS (fun s => s.sweepUse v.cl e (e.buoyAt j) ls)
        let (ws, s) := (← get).2.sweepRead (← sweepAgent) ls
        modS (fun _ => s)
        let lv := (ws.getD 3 0).toNat % 256
        let k := if lv = n % 256 && decide (j ≤ v.i) then n + 1 else lv
        let w := ws.getD (if nm then 2 else 1) 0
        writeE rd ((slotOf (w.setWidth 32, (w >>> 32).setWidth 32) k).signExtend 64) }

/-- ESIG (R352, R353). -/
def eSig (g : Guard) (xv : SSrc) : EOp :=
  { g, ss := [xv], act := do
      let x ← readE xv
      let v ← getV
      modS (fun s => s.tensorEvent v.cl v.t 0x20 0 v.i x) }

/-- EEND (R352). -/
def eEnd (g : Guard) : EOp := { g, act := modV (fun v => { v with wait := waitEnd, ended := true }) }

/-- An instruction of major 0x30 (R352). -/
def eDecode (h : Raw) : Option EOp := do
  need (h.form == .h64 && h.major == 0x30)
  match h.minor with
  | 0 => do h.zd; h.z2; let xa ← h.aS; need (h.imm < 2 ^ 16); some (eWait h.grd xa h.imm)
  | 1 => do h.z2; let rd ← h.rS; let xa ← h.aS; some (eWaitF h.grd rd xa (sextField 20 h.imm))
  | 2 => do
    h.zd; h.z2
    let xi ← h.aS
    need (h.imm < 2 ^ 6 && (h.imm.testBit 5 || h.imm == 0))
    some (eWake h.grd xi (if h.imm.testBit 5 then some (h.imm % 32) else none))
  | 3 => do h.z2; let rd ← h.rS; let xi ← h.aS; need (h.imm < 4); some (ePrev h.grd rd xi (h.imm.testBit 1) (h.imm.testBit 0))
  | 4 => do h.zd; h.z2; let xv ← h.aS; need (h.imm == 0); some (eSig h.grd xv)
  | 5 => do h.zd; h.z1; h.z2; need (h.imm == 0); some (eEnd h.grd)
  | _ => none

/-- The element instruction of eight bytes (R350, R352). -/
def eOpAt (bs : List Byte) : Option EOp :=
  let w := leVal bs
  if w % 4 = 0 ∧ w / 2 ^ 2 % 2 ^ 6 = 0x30 then eDecode (Raw.ofHead .h64 w 0)
  else
    match decode bs with
    | some (.one i, 8) => eOpOf i
    | _ => none

/-- The names of an element instruction are those of R350 and R351. -/
def EOp.ok (o : EOp) : Bool :=
  eGuardOk o.g.g && o.ss.all eSrcOk && o.sd.all eDstOk && o.gs.all eGuardOk &&
    o.gd.all (fun n => eGuardOk n && n != 0)

/-! Visits. -/

/-- The instruction at the visit's EPC, an M4 load of the sweep's agent (R350, R417). -/
def eFetch : E EOp := do
  let v ← getV
  let e ← getT
  let ls ← eFetchLocs v.epc
  modS (fun s => s.sweepUse v.cl e (e.prog + 8 * v.epc.setWidth 64).toNat ls)
  let (bs, s) := (← get).2.loadUnits (← sweepAgent) [ls]
  modS (fun _ => s)
  match eOpAt bs with
  | some o => if o.ok then pure o else efault .illegal
  | none => efault .illegal

/-- The next EPC after an instruction that did not end the visit, and the pending transfer (R72). -/
def Visit.advance (v : Visit) (br : Bool) : Visit :=
  if v.ended then v
  else if br then { v with epc := v.epc + 1, delay := some (v.delay.getD (none, 2)) }
  else
    match v.delay with
    | some (t, 1) => { v with epc := t.getD (v.epc + 1), delay := none }
    | some (t, n) => { v with epc := v.epc + 1, delay := some (t, n - 1) }
    | none => { v with epc := v.epc + 1 }

/-- One element instruction (R344, R352). A transfer in a delay slot raises SLOT (R73; log 97). -/
def eStep : E Unit := do
  let o ← eFetch
  let v ← getV
  if o.br && v.delay.isSome then efault .slot
  modV (fun v => { v with steps := v.steps + 1 })
  if (← readG o.g.g) != o.g.neg then
    o.act
  modV (fun v => v.advance o.br)

/-- An element fault ends the visit (R351). -/
def faultVisit (v : Visit) (s : State) (c : Cause) : Visit × State :=
  ({ v with wait := waitFault, ended := true }, s.tensorEvent v.cl v.t 0x22 c.code.num v.i c.tval)

/-- The instructions of a visit, at most `n` (R344, R419). -/
def runVisit : Nat → Visit → State → Visit × State
  | 0, v, s => (v, s)
  | n + 1, v, s =>
    if v.ended then (v, s)
    else if 32 ≤ v.steps && v.delay.isNone then
      let s := s.modTensor v.cl v.t (fun e => { e with ovr := e.ovr + 1 })
      ({ v with wait := waitOver, ended := true }, s.tensorEvent v.cl v.t 0x21 0 v.i (v.epc.setWidth 64))
    else
      match eStep (v, s) with
      | .error c => faultVisit v s c
      | .ok (_, (v, s)) => runVisit n v s

/-- A buoy's words as a visit begins (R342, R344): both slots take the latest value. -/
def startVisit (cl t i : Nat) (ws : List Word) (flags : BitVec 12) : Visit :=
  let w0 := ws.getD 0 0
  let c := (ws.getD 3 0).getLsbD 0
  let both (w : Word) : Lane × Lane :=
    let v : Lane := if c then (w >>> 32).setWidth 32 else w.setWidth 32
    (v, v)
  { cl, t, i, e0 := both (ws.getD 1 0), e1 := both (ws.getD 2 0), ef := (w0 >>> 20).setWidth 12 ||| flags
    arg := (w0 >>> 32).setWidth 32, epc := w0.setWidth 16 }

/-- The two slots of a name as a word of the buoy (R342). -/
def slotWord (p : Lane × Lane) : Word := p.2.setWidth 64 <<< 32 ||| p.1.setWidth 64

/-- The buoy's words as a visit leaves them, with the flags of wakes that came during it (R344, R346). -/
def endWords (v : Visit) (n : Nat) (flags : BitVec 12) : List Word :=
  [v.arg.setWidth 64 <<< 32 ||| flags.setWidth 64 <<< 20 ||| v.wait.setWidth 64 <<< 16 ||| v.epc.setWidth 64, slotWord v.e0, slotWord v.e1,
    BitVec.ofNat 64 (n % 256)]

/-- W0 with WAIT at FAULT (R342). -/
def faultWord (w0 : Word) : Word := (w0 &&& ~~~0xF_0000) ||| 0xE_0000

/-- The reserved bits of a buoy are zero (R342). -/
def buoyOk (ws : List Word) : Bool := (ws.getD 0 0) &&& 0xFF80_0000 == 0 && (ws.getD 3 0).toNat / 2 ^ 8 == 0

/-- The buoy is written at the visit's end; a fault leaves its old bytes (R419). -/
def State.writeBuoy (s : State) (cl t i : Nat) (e : Tensor) (ag : Agent) (ws : List Word) : State :=
  match s.sweepLocs cl e { w := true } sweepSpaces (e.buoyAt i) 32 8 with
  | .error c => s.tensorEvent cl t 0x22 c.code.num i c.tval
  | .ok ls => (s.sweepUse cl e (e.buoyAt i) ls).sweepWrite ag ls ws

/-- The end of a visit: its buoy is written with the flags that came during it; where that faults, the old bytes stay and the flags
are set in them (R344, R346, R419). -/
def State.endVisit (s : State) (cl i : Nat) (e : Tensor) (ag : Agent) (v : Visit) : State :=
  let fl := ((s.tensor? cl v.t).map (fun e => tgetD e.flags i 0)).getD 0
  let s := s.modTensor cl v.t (fun e => { e with flags := tdel e.flags i })
  match s.sweepLocs cl e { w := true } sweepSpaces (e.buoyAt i) 32 8 with
  | .error c =>
    let s := match s.tensor? cl v.t with
      | some y => s.flagBuoy cl v.t i y fl
      | none => s
    s.tensorEvent cl v.t 0x22 c.code.num i c.tval
  | .ok ls => (s.sweepUse cl e (e.buoyAt i) ls).sweepWrite ag ls (endWords v e.sn.toNat fl)

/-- A visit of element `i` (R344, R419): the state after it, whether its budget ran out, and the far-tier KV lines that it read. The
awake bit is cleared first, so that a wake during the visit stands after it (R346). -/
def State.visit (s : State) (cl t i : Nat) (e : Tensor) : State × Bool × List (Nat × Nat) :=
  let ag : Agent := .sweep cl t e.sn.toNat
  let s := s.modTensor cl t (fun e => { e with pos := some i, awake := e.awake.filter (· != i), mapped := false })
  match s.sweepLocs cl e { r := true } sweepSpaces (e.buoyAt i) 32 8 with
  | .error c => (s.tensorEvent cl t 0x22 c.code.num i c.tval, false, [])
  | .ok ls =>
    let (ws, s) := (s.sweepUse cl e (e.buoyAt i) ls).sweepRead ag ls
    if !buoyOk ws then
      let s := s.tensorEvent cl t 0x22 1 i (BitVec.ofNat 64 (e.buoyAt i))
      (s.writeBuoy cl t i e ag (faultWord (ws.getD 0 0) :: ws.drop 1), false, [])
    else
      let v := startVisit cl t i ws (tgetD e.flags i 0)
      let s := s.modTensor cl t (fun e => { e with flags := tset e.flags i 0 })
      let (v, s) := runVisit 36 v s
      (s.endVisit cl i e ag v, v.wait == waitOver, v.far.eraseDups)

/-! Sweeps. -/

/-- The running tensor of a cluster. -/
def State.running (s : State) (cl : Nat) : Option (Nat × Tensor) := (s.cluster cl).tensors.find? (fun e => e.2.run)

/-- The next awake element above POS (R346, R347). -/
def Tensor.nextAwake (e : Tensor) : Option Nat :=
  let l := e.awake.filter (fun j => match e.pos with | some p => decide (p < j) | none => true)
  l.min?

/-- In replay, a logged wake that is to meet the present place has not come (R383). -/
def State.wakeOwed (s : State) (cl t : Nat) (e : Tensor) : Bool :=
  match s.nextWake e.part cl t with
  | none => false
  | some w => w.1 == (e.place 0).1 && w.2 &&& 0x8000_0000_FFFF_FFFF == (e.place 0).2

/-- A tensor's tender may move (R353, R375, R376, R383). -/
def State.tenderMoves (s : State) (cl t : Nat) (e : Tensor) : Bool :=
  s.clusterRuns cl && (s.part e.part).resident && !s.wakeOwed cl t e

/-- A visit that ends by its budget or not, as asked; one whose far-tier reads no window has admitted yet asks, and comes later
(R269; log 71). -/
def State.tryVisit (s : State) (cl : Nat) (spent : Bool) : State :=
  match s.running cl with
  | none => s
  | some (t, e) =>
    match e.nextAwake with
    | none => s
    | some i =>
      if !s.tenderMoves cl t e then s
      else
        let (_, _, far) := s.visit cl t i e
        let (ok, s) := s.farAsk (.sweep cl t e.sn.toNat) i (farNeed far)
        if !ok then s
        else
          let (r, o, _) := s.visit cl t i e
          if o = spent then r.settleWakes cl t (e.late.length + 1) else s

/-- ELEMENT_VISIT (R344). -/
def execElementVisit (cl : Nat) (s : State) : Out := .next (s.tryVisit cl false)
/-- VISIT_OVERRUN (R344, R419). -/
def execVisitOverrun (cl : Nat) (s : State) : Out := .next (s.tryVisit cl true)

/-- A tensor has a request that is not begun, or a sweep that runs (R348). -/
def State.asked (s : State) (cl t : Nat) (e : Tensor) : Bool :=
  e.run || (s.cluster cl).requests.any (fun r => r.2.1 == t)

/-- SWEEP_PERIOD (R348). -/
def execSweepPeriod (cl t : Nat) (s : State) : Out :=
  match s.tensor? cl t with
  | none => .next s
  | some e =>
    if s.power != .on || (s.cluster cl).frozen || !s.periodDue cl e then .next s
    else
      let s := s.modTensor cl t (fun e => { e with since := e.since + e.per })
      if s.asked cl t e then .next s
      else .next (s.modCluster cl (fun y => { y with requests := y.requests ++ [(e.since + e.per, t, 1, true)] }))

/-- The older of two requests: of one cycle, that of the lower tensor (R348). -/
def olderReq (a b : Nat × Nat × Nat × Bool) : Nat × Nat × Nat × Bool :=
  if b.1 < a.1 ∨ (b.1 = a.1 ∧ b.2.1 < a.2.1) then b else a

/-- The oldest request (R348). -/
def State.oldestReq (s : State) (cl : Nat) : Option (Nat × Nat × Nat × Bool) :=
  match (s.cluster cl).requests with
  | [] => none
  | r :: l => some (l.foldl olderReq r)

/-- One sweep of a request begins. -/
def takeReq (l : List (Nat × Nat × Nat × Bool)) (r : Nat × Nat × Nat × Bool) : List (Nat × Nat × Nat × Bool) :=
  if r.2.2.1 ≤ 1 then l.erase r else lset l (l.idxOf r) (r.1, r.2.1, r.2.2.1 - 1, r.2.2.2)

/-- The trace record of a sweep's start or end, in the owner context's tail, or the keeper's of the home core (R378). -/
def State.sweepTrace (s : State) (t ty : Nat) (e : Tensor) : State :=
  let c := if e.owner.getLsbD 63 then e.home else bitsOf e.owner.toNat 0 13
  let v := if e.owner.getLsbD 63 then 0 else bitsOf e.owner.toNat 16 4
  s.trace c ((s.physOf c v).getD 0) ty 0 (BitVec.ofNat 64 (t + e.sn.toNat * 2 ^ 32))

/-- SWSTOP's effect on a tensor (R355, R420). -/
def State.stopTensor (s : State) (cl t : Nat) : State :=
  (s.modTensor cl t (fun e => { e with cont := false, pend := 0 })).modCluster cl (fun y =>
    { y with requests := y.requests.filter (fun r => r.2.1 != t) })

/-- A fault of a sweep's acquire, skip-map write or release ends it (R378, R420). -/
def State.failSweep (s : State) (cl t : Nat) (c : Cause) : State :=
  let s := (s.stopTensor cl t).modTensor cl t (fun e => { e with run := false, mapped := false })
  let s := match s.tensor? cl t with
    | some e => s.sweepTrace t 0x09 e
    | none => s
  s.tensorEvent cl t 0x23 c.code.num 0 c.tval

/-- SWEEP_START (R348, R349 step 1). -/
def execSweepStart (cl : Nat) (s : State) : Out :=
  match s.running cl, s.oldestReq cl with
  | none, some r =>
    let t := r.2.1
    match s.tensor? cl t with
    | none => .next s
    | some e =>
      let key : Word := BitVec.ofNat 64 (normAddr e.home e.sync.toNat)
      if !s.tenderMoves cl t e then .next s
      else if !s.turn e.part 1 key e.home 0 then .next (s.checkVacant e.part 1 key)
      else
        let e := { e with sn := e.sn + 1, run := true, pos := none, mapped := false, pend := if r.2.2.2 then e.pend else e.pend - 1 }
        let s := (s.modTensor cl t (fun _ => e)).modCluster cl (fun y => { y with requests := takeReq y.requests r })
        match s.sweepLocs cl e { r := true } [0x0, 0xA, 0xB] e.sync.toNat 8 8 with
        | .error c => .next (s.failSweep cl t c)
        | .ok ls =>
          let (_, s) := (s.sweepUse cl e e.sync.toNat ls).acquireBy (.sweep cl t e.sn.toNat) .device e.part (ls.headD 0) key
          .next (((s.logged e.part 1 key e.home 0).sweepTrace t 0x08 e).settleWakes cl t (e.late.length + 1))
  | _, _ => .next s

/-- Word `i` of a skip map (R340). -/
def skipWord (awake : List Nat) (i : Nat) : Word :=
  BitVec.ofNat 64 ((awake.filter (fun j => j / 64 == i)).map (fun j => 2 ^ (j % 64))).sum

/-- The words of a skip map. -/
def Tensor.skipLen (e : Tensor) : Nat := (e.count + 63) / 64

/-- The skip map is written word by word, up to a fault (R349 step 3, R420; log 95). -/
def State.writeSkip (s : State) (cl t : Nat) (e : Tensor) : List Nat → Except (State × Cause) State
  | [] => .ok s
  | i :: r =>
    let a := (e.skip.toNat + 8 * i) % 2 ^ 64
    match s.sweepLocs cl e { w := true } [0x0, 0xA, 0xB] a 8 8 with
    | .error c => .error (s, c)
    | .ok ls =>
      ((s.sweepUse cl e a ls).sweepWrite (.sweep cl t e.sn.toNat) ls [skipWord e.awake i]).writeSkip cl t e r

/-- A sweep's release (R349 step 4; log 95). -/
def State.endSweep (s : State) (cl t : Nat) (e : Tensor) : State :=
  let key : Word := BitVec.ofNat 64 (normAddr e.home e.sync.toNat)
  let ag : Agent := .sweep cl t e.sn.toNat
  match s.sweepLocs cl e { w := true } [0x0, 0xA, 0xB] e.sync.toNat 8 8 with
  | .error c => s.failSweep cl t c
  | .ok ls =>
    if !s.releaseReady ag .device e.part key then s
    else if !s.turn e.part 1 key e.home 0 then s.checkVacant e.part 1 key
    else
      let s := (s.sweepUse cl e e.sync.toNat ls).releaseBy ag .device (ls.headD 0) (e.sn.setWidth 64)
      let s := (s.logged e.part 1 key e.home 0).sweepTrace t 0x09 e
      (s.modTensor cl t (fun e => { e with run := false, mapped := false })).settleWakes cl t (e.late.length + 1)

/-- SWEEP_RELEASE (R349 steps 3 and 4): the skip map is written, then, once the writes bound to SYNC have reached the device
store (R250; log 95), SYNC is released. -/
def execSweepRelease (cl : Nat) (s : State) : Out :=
  match s.running cl with
  | none => .next s
  | some (t, e) =>
    if e.nextAwake.isSome || !s.tenderMoves cl t e then .next s
    else if e.mapped then .next (s.endSweep cl t e)
    else
      match s.writeSkip cl t e (List.range e.skipLen) with
      | .error (s, c) => .next (s.failSweep cl t c)
      | .ok s => .next (s.modTensor cl t (fun e => { e with mapped := true }))

/-! The instructions. -/

/-- The issue of an instruction of major 0x1C (R354). -/
def sweepInfo (g : Guard) (ss : List SSrc) (sd : List SDst) : Info := { infoOf g 8 1 ss [] sd [] with side := true }

/-- The tensor an operand names (R354). -/
def tensorOf (v : Word) : M (Nat × Nat × Tensor) := do
  ensure (v.toNat / 2 ^ 5 == 0) .illegal v
  let s ← get
  let cl := s.clusterOf s.cc
  match s.tensor? cl v.toNat with
  | none => raiseV .illegal v
  | some e => do
    if e.part != s.myPart then raise { code := .prot, tval := v }
    pure (cl, v.toNat, e)

/-- The descriptor of SWDECL (R343). -/
def tensorDescOk (ws : List Word) : Bool :=
  let w (i : Nat) : Nat := (ws.getD i 0).toNat
  let sp (i al : Nat) : Bool := [0x0, 0xA, 0xB].contains (spaceOf (w i)) && w i % al == 0
  let count := w 1 % 2 ^ 32
  let stride := w 1 / 2 ^ 32
  sp 0 32 && decide (1 ≤ count) && decide (count ≤ 2 ^ 24) && decide (32 ≤ stride) && stride % 32 == 0 &&
    decide (w 2 < 2 ^ 32) && w 2 % 32 == 0 && decide (w 2 + 32 ≤ stride) && spaceOf (w 3) == 0 && w 3 % 8 == 0 && sp 4 8 &&
    sp 6 8 && w 7 == 0

/-- The tensor of a descriptor (R341, R343). -/
def tensorFrom (part home : Nat) (ws : List Word) : Tensor :=
  let w (i : Nat) : Word := ws.getD i 0
  { part, home, base := w 0, count := (w 1).toNat % 2 ^ 32, stride := (w 1).toNat / 2 ^ 32, boff := (w 2).toNat
    prog := w 3, skip := w 4, owner := w 5, sync := w 6 }

/-- The awake set a skip map gives (R340). -/
def awakeOf (count : Nat) (ws : List Word) : List Nat :=
  (List.range count).filter (fun j => (ws.getD (j / 64) 0).getLsbD (j % 64))

/-- The lowest undeclared entry of a cluster's table. -/
def State.freeTensor (s : State) (cl : Nat) : Option Nat := (List.range 32).find? (fun t => (s.tensor? cl t).isNone)

/-- Every core and granule that a range of addresses names is the partition's (R206, R209, R355). -/
def State.namesAll (s : State) (a len : Nat) : Bool :=
  let p := s.myPart
  let meets (b n : Nat) : Bool := decide (b < a + len) && decide (a < b + n)
  match spaceOf a with
  | 0xA => (List.range ((a + len - 1) / 2 ^ 40 - a / 2 ^ 40 + 1)).all (fun i =>
      let b := (a / 2 ^ 40 + i) * 2 ^ 40
      spaceOf b != 0xA || bitsOf b 53 7 != 0 || s.holdsCore p (targetCore b))
  | 0xB => (List.range 32).all (fun d => (List.range 16).all (fun g =>
      let e := s.granuleOf d (g * 2 ^ 22)
      !meets (0xB * 2 ^ 60 + d * 2 ^ 48 + g * 2 ^ 22) (2 ^ 22) || (e.valid && e.part == p)))
  | _ => true

/-- SWDECL (R355). -/
def execSwdecl (g : Guard) (rd : SDst) (xa : SSrc) (s : State) : Out :=
  run (sweepInfo g [xa] [rd]) (do
    let a ← readS xa
    watchCheck 1 ((List.range 64).map (fun i => a.toNat + i))
    let ls ← locM { r := true } allSpaces a.toNat 64 64
    let ws ← loadWords ls
    ensure (tensorDescOk ws) .illegal a
    checkOwner (ws.getD 5 0) a
    let s ← get
    let e := tensorFrom s.myPart s.cc ws
    let n := 8 * e.skipLen
    if !s.namesAll (e.base.toNat) ((e.count - 1) * e.stride + e.boff + 32) then raise { code := .prot, tval := e.base, kind := 1 }
    if !s.namesAll e.skip.toNat n then raise { code := .prot, tval := e.skip, kind := 1 }
    if !s.namesAll e.sync.toNat 8 then raise { code := .prot, tval := e.sync, kind := 1 }
    watchCheck 1 ((List.range n).map (fun i => e.skip.toNat + i))
    let sl ← locM { r := true } [0x0, 0xA, 0xB] e.skip.toNat n 8
    let (ms, s) := (← get).sweepRead ((← get).agentOf (← get).cc (← get).ck) sl
    set s
    let cl := s.clusterOf s.cc
    match s.freeTensor cl with
    | none => answerWith .wmem [.s rd (BitVec.allOnes 64)]
    | some t => do
      answerWith .wmem [.s rd (BitVec.ofNat 64 t)]
      modify (fun s => s.modCluster cl (fun y =>
        { y with tensors := tset y.tensors t { e with awake := awakeOf e.count ms } }))) s

/-- SWDECL.o (R20, R355). -/
def execSwdeclO (g : Guard) (xt xo : SSrc) (s : State) : Out :=
  run (sweepInfo g [xt, xo] []) (do
    let v ← readS xt
    let o ← readS xo
    let (cl, t, _) ← tensorOf v
    checkOwner o 0
    modify (fun s => ((s.modTensor cl t (fun e => { e with owner := o, gone := false })).tensorHeld cl t).retire 8)) s

/-- SWGO (R348, R355). -/
def execSwgo (g : Guard) (xt xn : SSrc) (s : State) : Out :=
  run (sweepInfo g [xt, xn] []) (do
    let v ← readS xt
    let n ← readS xn
    let (cl, t, e) ← tensorOf v
    let k := min (e.pend + n.toNat) (2 ^ 32 - 1) - e.pend
    modify (fun s =>
      let s := if k = 0 then s else
        (s.modTensor cl t (fun e => { e with pend := e.pend + k })).modCluster cl (fun y =>
          { y with requests := y.requests ++ [(s.tenderCyc cl, t, k, false)] })
      s.retire 8)) s

/-- SWGO.c (R348, R355). -/
def execSwgoC (g : Guard) (xt xn : SSrc) (s : State) : Out :=
  run (sweepInfo g [xt, xn] []) (do
    let v ← readS xt
    let p ← readS xn
    let (cl, t, _) ← tensorOf v
    ensure (decide (1 ≤ p.toNat) && decide (p.toNat < 2 ^ 32)) .illegal
    modify (fun s => (s.modTensor cl t (fun e => { e with cont := true, per := p.toNat, since := s.tenderCyc cl })).retire 8)) s

/-- In replay a wake of the issuer waits for its logged place (R383; log 99). -/
def wakeTurn (cl t j : Nat) (e : Tensor) : M Unit := fun s =>
  match s.nextWake e.part cl t with
  | none => .ok ((), s)
  | some w => if w == e.place j then .ok ((), s) else .error (.wait .wmsg (.wakePlace cl t j))

/-- SWGO.w (R346, R355), and the reserved op 3 (R354). -/
def execSwgoW (g : Guard) (res : Bool) (xt xn : SSrc) (s : State) : Out :=
  run (sweepInfo g [xt, xn] []) (do
    let v ← readS xt
    let j ← readS xn
    ensure (!res) .illegal v
    let (cl, t, e) ← tensorOf v
    ensure (decide (j.toNat < e.count)) .illegal
    wakeTurn cl t j.toNat e
    modify (fun s => (s.wake cl t j.toNat 2).retire 8)) s

/-- SWSTOP (R355). -/
def execSwstop (g : Guard) (xt : SSrc) (s : State) : Out :=
  run (sweepInfo g [xt] []) (do
    let (cl, t, _) ← tensorOf (← readS xt)
    modify (fun s => (s.stopTensor cl t).retire 8)) s

/-- The links of a tensor's buoys come to nothing (R352, R355). -/
def State.dropLinks (s : State) (cl t home : Nat) : State :=
  let mine (r : WRec) : Bool := match r.kind with
    | .buoy c u _ => c == cl && u == t
    | _ => false
  s.modCore home (fun y => { y with pool := y.pool.map (fun r => if mine r.2 then (r.1, { r.2 with dead := true }) else r) })

/-- SWSTOP.d (R352, R355; log 96). -/
def execSwstopD (g : Guard) (xt : SSrc) (s : State) : Out :=
  run (sweepInfo g [xt] []) (do
    let s0 ← get
    let (cl, t, e) ← tensorOf (← readS xt)
    if e.run then
      throw (.done ({ (s0.stopTensor cl t).modMe (fun x => { x with wait := some (.wmsg, .swept cl t), woke := false }) with
        acct := .wmsg }))
    modify (fun s => (((s.stopTensor cl t).modCluster cl (fun y => { y with tensors := tdel y.tensors t })).dropLinks cl t
      e.home).retire 8)) s

/-- SWSTAT with the status it selects: the values are those at the answer (R355; log 61). -/
def runSwstat (g : Guard) (rd : SDst) (xt : SSrc) (sel : Nat) (s : State) : Out :=
  run (sweepInfo g [xt] [rd]) (do
    let (cl, t, e) ← tensorOf (← readS xt)
    sendRequest (.ask (.tensor cl t sel (e.stat sel) rd)) .wmem 8 [.s rd 0]) s

/-- SWSTAT sel 0 (R355). -/
def execSwstatSn (g : Guard) (rd : SDst) (xt : SSrc) (s : State) : Out := runSwstat g rd xt 0 s
/-- SWSTAT sel 1 (R355). -/
def execSwstatPos (g : Guard) (rd : SDst) (xt : SSrc) (s : State) : Out := runSwstat g rd xt 1 s
/-- SWSTAT sel 2 (R355). -/
def execSwstatPend (g : Guard) (rd : SDst) (xt : SSrc) (s : State) : Out := runSwstat g rd xt 2 s
/-- SWSTAT sel 3 (R355). -/
def execSwstatLoss (g : Guard) (rd : SDst) (xt : SSrc) (s : State) : Out := runSwstat g rd xt 3 s

end Sys2Proof.Machine
end

