-- ==== Sys2Proof/Machine/Debug.lean ====
section
/-! DEFINITION. Breakpoints, thread stops, the foghorn, trace marks and replay marks: BKPT, TMARK and RMARK of major 0x1E
and their events (R370 to R385). -/

namespace Sys2Proof.Machine

/-! Items. -/

/-- The core a BKPT operand names (R385). -/
def bkCore (a : Word) : Nat := bitsOf a.toNat 16 13
/-- The context a BKPT operand names (R385). -/
def bkCtx (a : Word) : Nat := bitsOf a.toNat 8 4
/-- The item a BKPT operand names (R385; log 101). -/
def bkItem (a : Word) : Nat := bitsOf a.toNat 0 8

/-- DBC as a word (R372). -/
def Dbc.word (d : Dbc) : Word :=
  BitVec.ofNat 64 (boolN d.stop * 2 ^ 32 + d.steps.toNat * 2 ^ 16 + boolN d.stt * 2 ^ 5 + boolN d.wgv * 2 ^ 4 + d.wg.toNat)

/-- DBC after a write of it: STOP is read-only (R372). -/
def Dbc.written (d : Dbc) (v : Word) : Dbc :=
  { d with steps := (v >>> 16).setWidth 16, stt := v.getLsbD 5, wgv := v.getLsbD 4, wg := v.setWidth 4 }

/-- The unit of an item below 48: its number, and whether the item is its control word (R370). -/
def unitOfItem (i : Nat) : Nat × Bool := (if i < 32 then i / 2 else 16 + (i - 32) / 2, i % 2 == 1)

/-- A control word has no reserved bit; an enabled watchpoint has a kind and a range (R371; log 100). -/
def ctlOk (unit : Nat) (v : Word) : Bool :=
  v &&& ~~~0x3F_01FF == 0 &&
    (decide (unit < 16) || (decide (bitsOf v.toNat 16 6 ≤ 20) && (bitsOf v.toNat 7 2 != 0 || !v.getLsbD 6)))

/-- An item's value may be written (R385; log 100). -/
def itemOk (i : Nat) (v : Word) : Bool :=
  if i < 48 then (let (u, ctl) := unitOfItem i; !ctl || ctlOk u v) else v &&& ~~~0x1_FFFF_003F == 0

/-- The value of an item (R370). -/
def State.itemVal (s : State) (c v i : Nat) : Word :=
  if i < 48 then
    let (u, ctl) := unitOfItem i
    let b := tgetD (s.cluster (s.clusterOf c)).bps u (0, 0)
    if ctl then b.2 else b.1
  else if i = 48 then
    match s.physOf c v with
    | some k => (s.ctx c k).dbc.word
    | none => 0
  else if i = 49 then (s.core c).stopCyc
  else if i = 50 then BitVec.ofNat 64 ((s.core c).stopSent % 2 ^ 48)
  else BitVec.ofNat 64 ((s.core c).stopRecv % 2 ^ 48)

/-- Writes an item (R370, R372). -/
def State.itemSet (s : State) (c v i : Nat) (w : Word) : State :=
  if i < 48 then
    let (u, ctl) := unitOfItem i
    s.modCluster (s.clusterOf c) (fun y =>
      let b := tgetD y.bps u (0, 0)
      { y with bps := tset y.bps u (if ctl then (b.1, w) else (w, b.2)) })
  else
    match s.physOf c v with
    | some k => s.modCtx c k (fun x => { x with dbc := x.dbc.written w })
    | none => s

/-! BKPT. -/

/-- BKPT n (R385). -/
def execBkpt (g : Guard) (n : BitVec 16) (s : State) : Out := run { g } (raiseV .bkpt (n.setWidth 64)) s

/-- An iteration of a versioned loop runs none of the ops 1 to 5 (R385). -/
def noIteration : M Unit := do
  let s ← get
  ensure (s.curIter s.cc s.ck).isNone .illegal

/-- The operand of ops 1, 2, 3 and 5 (R385; log 101). -/
def bkOperand (a : Word) : M Unit := do
  ensure (a &&& ~~~0x8000_0000_1FFF_0FFF == 0 && decide (bkItem a ≤ 51)) .illegal a
  let s ← get
  if s.cc < 8192 && !s.holdsCore s.myPart (bkCore a) then raise { code := .prot, tval := a }

/-- BKPT.w (R385; log 61). -/
def execBkptW (g : Guard) (a b : SSrc) (s : State) : Out :=
  run (infoOf g 8 1 [a, b] [] [] []) (do
    noIteration
    let a ← readS a
    let v ← readS b
    bkOperand a
    ensure (decide (bkItem a ≤ 48)) .illegal a
    ensure (itemOk (bkItem a) v) .illegal v
    answerWith .wmsg []
    modify (fun s => s.itemSet (bkCore a) (bkCtx a) (bkItem a) v)) s

/-- BKPT.r (R385; log 85). -/
def execBkptR (g : Guard) (rd : SDst) (a : SSrc) (s : State) : Out :=
  run (infoOf g 8 1 [a] [] [rd] []) (do
    noIteration
    let a ← readS a
    bkOperand a
    answerWith .wmsg [.s rd ((← get).itemVal (bkCore a) (bkCtx a) (bkItem a))]) s

/-- A thread is released with a number of steps (R374). -/
def State.releaseThread (s : State) (c k : Nat) (n : BitVec 16) : State :=
  s.modCtx c k (fun x => { x with dbc := { x.dbc with stop := false, steps := n } })

/-- BKPT.s (R374, R385). -/
def execBkptS (g : Guard) (a b : SSrc) (s : State) : Out :=
  run (infoOf g 8 1 [a, b] [] [] []) (do
    noIteration
    let a ← readS a
    let v ← readS b
    bkOperand a
    ensure (v.toNat / 2 ^ 16 == 0) .illegal v
    answerWith .wmsg []
    modify (fun s =>
      match s.physOf (bkCore a) (bkCtx a) with
      | none => s
      | some k => if v = 0 then s.stopThread (bkCore a) k else s.releaseThread (bkCore a) k (v.setWidth 16))) s

/-- BKPT.f (R376, R385). -/
def execBkptF (g : Guard) (s : State) : Out :=
  run { g } (do
    noIteration
    modify (fun s => (s.retire 8).soundFoghorn s.myPart)) s

/-- The clocks of a cluster restart (R375, R376). -/
def State.thaw (s : State) (cl : Nat) : State :=
  let s := s.modCluster cl (fun y => { y with frozen := false })
  { s with cores := s.cores.map (fun c => if clOf c.2.home = cl then (c.1, { c.2 with halted := false }) else c) }

/-- The clusters of a partition's cores. -/
def State.clustersOf (s : State) (p : Nat) : List Nat :=
  (s.cores.filterMap (fun c => if c.2.partid = p ∧ c.1 < 8192 then some (clOf c.2.home) else none)).eraseDups

/-- BKPT.t (R375, R385), and the reserved ops 6 to 15. -/
def execBkptT (g : Guard) (op : Fin 11) (a : SSrc) (s : State) : Out :=
  run (infoOf g 8 1 [a] [] [] []) (do
    if op = 0 then noIteration
    let a ← readS a
    ensure (op == 0) .illegal a
    bkOperand a
    answerWith .wmsg []
    modify (fun s =>
      if a.getLsbD 63 then (s.clustersOf (s.core (bkCore a)).partid).foldl State.thaw s
      else s.thaw (s.clusterOf (bkCore a)))) s

/-! Stops. -/

/-- STEP_EXPIRY (R374): the thread stops again, or raises STEP with the next instruction in TPC. -/
def execStepExpiry (core ctx : Nat) (s : State) : Out :=
  let x := s.ctx core ctx
  if !s.runs core || !x.stepDue then .next s
  else
    let s := s.modCtx core ctx (fun x => { x with stepDue := false })
    .next (if x.dbc.stt then s.takeFault core ctx { code := .step } else s.stopThread core ctx)

/-- FOGHORN_CORE_STOP (R376, R377). -/
def execFoghornCoreStop (core : Nat) (s : State) : Out :=
  let y := s.core core
  if s.power != .on || !y.foghornDue then .next s
  else if y.halted then .next (s.modCore core (fun y => { y with foghornDue := false }))
  else .next (s.modCore core (fun y => { y with
    foghornDue := false, halted := true, stopCyc := (s.core y.home).cyc, stopSent := y.sent, stopRecv := y.recv }))

/-! Trace. -/

/-- TRACE_TAIL_SEND (R380): the oldest record of a tail goes to the die's collector. -/
def execTraceTailSend (core ctx : Nat) (s : State) : Out :=
  let t := (s.ctx core ctx).trace
  match t.tail with
  | [] => .next s
  | r :: l =>
    if !s.runs core then .next s
    else .next { s.modCtx core ctx (fun x => { x with trace := { t with tail := l } }) with
      traceOut := s.traceOut ++ [(tracePort (dieOf (s.core core).home), r)] }

/-- The issue of a mark (R379, R384). -/
def markInfo (g : Guard) (len : Nat) (ss : List SSrc) : Info := { infoOf g len 1 ss [] [] [] with side := true }

/-- TMARK (R379). -/
def execTmark (g : Guard) (a : SSrc) (imm : Imm) (s : State) : Out :=
  run (markInfo g (formLen imm.form) [a]) (do
    let v := (← readS a) + imm.val
    modify (fun s => (s.trace s.cc s.ck 0x0D s.me.pc v).retire (formLen imm.form))) s

/-- TMARK.o (R379). -/
def execTmarkO (g : Guard) (a : SSrc) (imm : Imm) (s : State) : Out :=
  run (markInfo g (formLen imm.form) [a]) (do
    let v := (← readS a) + imm.val
    modify (fun s => (s.modMe (fun x => { x with
      trace := { x.trace with opened := true, mask := v.setWidth 32, loss := 0 } })).retire (formLen imm.form))) s

/-- The loss record that is still to come enters the kept entry (R380; log 102). -/
def State.lossRecord (s : State) (c k : Nat) : State :=
  let x := s.ctx c k
  if x.trace.loss = 0 || x.trace.tail.any keptRec then s
  else s.setCtx c k { x with trace := { x.trace with loss := 0, tail := x.trace.tail ++ s.lossRec c k } }

/-- TMARK.c (R379; log 102): the pending loss record is produced, and the session closes. -/
def execTmarkC (g : Guard) (form : Form) (s : State) : Out :=
  run (markInfo g (formLen form) []) (modify (fun s =>
    ((if s.me.trace.opened then s.lossRecord s.cc s.ck else s).modMe (fun x =>
      { x with trace := { x.trace with opened := false } })).retire (formLen form))) s

/-! Replay. -/

/-- The key of a context in the log (R382; log 40). -/
def markKey (c k : Nat) : Word := BitVec.ofNat 64 (c % 8192 + k % 16 * 2 ^ 13)

/-- The checksum is logged, or held against the log (R384; log 103). -/
def State.replayMark (s : State) (n : BitVec 32) : State :=
  let p := s.myPart
  let key := markKey s.cc s.ck
  let c := s.me.checksum
  match (s.part p).replay.mode with
  | .off => s
  | .record => s.logged p 8 key s.cc s.me.vctx (n.setWidth 64) c
  | .replay =>
    let same := match s.logNext p 8 key with
      | some l => (l.headD []).getD 2 0 == n.toNat && (l.headD []).getD 3 0 == c.toNat
      | none => false
    (if same then s else s.diverge p 8 key).logged p 8 key s.cc s.me.vctx

/-- RMARK (R384; log 103). -/
def execRmark (g : Guard) (a : SSrc) (imm : Imm) (s : State) : Out :=
  run (markInfo g (formLen imm.form) [a]) (do
    let v := (← readS a) + imm.val
    modify (fun s => (s.replayMark (v.setWidth 32)).retire (formLen imm.form))) s

end Sys2Proof.Machine
end

