-- ==== Sys2Proof/Machine/Image.lean ====
section
/-! DEFINITION. The context save image, CSAVE and CREST (R398 to R402). -/

namespace Sys2Proof.Machine

/-! Writing an image. -/

/-- A word of an image. -/
def imgW (v : Word) : List Byte := bytesOf 8 v
/-- A number as a word of an image. -/
def imgN (n : Nat) : List Byte := leCut 8 n
/-- Bytes that are zero. -/
def imgZ (n : Nat) : List Byte := List.replicate n 0

/-- A control block (R399). -/
def CtlBlock.image (b : CtlBlock) : List Byte :=
  imgW b.target ++ imgN (b.left % 4 + bitN b.taken 2) ++ imgW b.start ++ imgW b.passes ++
    imgN (b.blen % 64 + b.pos % 64 * 2 ^ 8 + bitN b.active 16) ++ imgN (b.phase.toNat + bitN b.barw 32)

/-- The state of a reply slot (R398). -/
def RSlot.code : RSlot → Nat
  | .empty => 0 | .pending => 1 | .full _ => 2
/-- The value of a reply slot. -/
def RSlot.val : RSlot → Word
  | .full v => v
  | _ => 0

/-- The digits of a list, `b` for each, lowest first. -/
def digits (b : Nat) : List Nat → Nat
  | [] => 0
  | d :: r => d + b * digits b r

/-- The record index of a linked future (R396). -/
def Ctx.futureRec (x : Ctx) : Option Nat :=
  match x.pend with
  | some { kind := .future r _, .. } => some r
  | _ => none

/-- The system registers of an image, in order (R398). -/
def imgSys : List Nat := [0x00, 0x01, 0x02, 0x03, 0x04, 0x05, 0x06, 0x07, 0x08, 0x0A, 0x0B, 0x0C, 0x10, 0x11, 0x12, 0x13, 0x14, 0x15]

/-- The frames a context holds, the level-1 frame first (R398). -/
def State.framesOf (s : State) (c k : Nat) : List (Fin 2) :=
  (s.heldFrame c k 1).toList ++ (s.heldFrame c k 2).toList

/-- The fixed part of a context's image (R398). -/
def State.ctxImage (s : State) (c k : Nat) : List Byte :=
  let x := s.ctx c k
  x.x.toList.flatMap imgW ++ x.g.toList.flatMap (bytesOf 4) ++ imgZ 4 ++ x.v.toList.flatMap (fun r => bytesOf 128 r.bits) ++
    x.z.toList.flatMap (fun r => bytesOf 1024 r.bits) ++ imgN (digits 16 (x.v.toList.map (fun r => r.tag.code))) ++
    imgN (digits 16 (x.z.toList.map (fun r => r.tag.code))) ++ imgW x.pc ++
    imgSys.flatMap (fun n => imgW ((s.sysReg c k n).getD 0)) ++ imgZ 8 ++ x.live.image ++ x.trap.image ++
    imgN (bitN (x.run = .vacant) 0 + bitN x.forced 1 + bitN x.yielded 2 + bitN x.futureRec.isSome 3 +
      x.futureRec.getD 0 % 256 * 2 ^ 8 + x.vcid % 2 ^ 13 * 2 ^ 16 + x.vctx % 16 * 2 ^ 32) ++ imgZ 8 ++
    imgW x.dbc.word ++ imgW x.checksum ++ x.counts.toList.flatMap imgN ++
    imgN (x.trace.mask.toNat + bitN x.trace.opened 32) ++ imgN x.trace.loss.toNat ++
    imgN (match x.origin with | some q => q % 16 + 16 | none => 0) ++ imgN x.events.length ++
    (x.events ++ List.replicate (8 - x.events.length) (0, 0)).flatMap (fun (e : Word × Word) => imgW e.1 ++ imgW e.2) ++
    x.replies.toList.flatMap (fun r => imgW r.val) ++ imgN (digits 4 (x.replies.toList.map RSlot.code)) ++
    imgN (s.framesOf c k).length ++ imgZ 0x38

/-- The iteration of version `k` of a frame's names, modulo 8 (R93, R400). -/
def LFrame.iterAt (F : LFrame) (k : Nat) : Int :=
  let top : Int := match F.st with
    | .run => F.setl
    | .exit => F.last
    | _ => -1
  top - (top - k) % 8

/-- The version of an index. -/
def LFrame.verAt (F : LFrame) (name k : Nat) : Option Ver := F.ver? name (F.iterAt k)

/-- The state of a version (R400). -/
def verCode : Option Ver → Nat
  | none => 0
  | some v => if v.carried then 1 else 2

/-- A member's virtual context number. -/
def State.virtOf (s : State) (c k : Nat) : Nat := (s.ctx c k).vctx

/-- The members of a frame by virtual context, the opener first. -/
def State.virtMembers (s : State) (c : Nat) (F : LFrame) : List Nat :=
  if F.virt.isEmpty then F.members.map (s.virtOf c) else F.virt

/-- The block of a held frame (R400). -/
def State.frameImage (s : State) (c : Nat) (f : Fin 2) : List Byte :=
  let F := s.fr c f
  let each (names : List Nat) (g : Option Ver → List Byte) : List Byte :=
    names.flatMap (fun n => (List.range 8).flatMap (fun k => g (F.verAt n k)))
  let cells (names : List Nat) : List (Option Ver) := names.flatMap (fun n => (List.range 8).map (fun k => F.verAt n k))
  let ls := List.range 16
  let ws := (List.range 8).map (· + 16)
  let bits (v : Option Ver) : BitVec 1024 := (v.map Ver.bits).getD 0
  let ms := s.virtMembers c F
  each ls (fun v => bytesOf 8 (bits v)) ++ each ws (fun v => bytesOf 128 (bits v)) ++
    leCut 32 (digits 16 ((cells ws).map (fun v => ((v.map Ver.tag).getD .raw).code))) ++
    leCut 48 (digits 4 ((cells (ls ++ ws)).map verCode)) ++
    imgN (F.st.num + bitN (F.level = 2) 2 + f.val * 2 ^ 3 + bitN F.om 4 + bitN F.opn 5 + bitN F.brkd 6 + bitN F.rst 7 +
      F.w % 8 * 2 ^ 8 + F.c % 16 * 2 ^ 11 + ms.length % 16 * 2 ^ 15 + s.virtOf c F.opener % 16 * 2 ^ 20 +
      (ms.map (fun m => 2 ^ (m % 16))).sum * 2 ^ 32) ++
    imgN F.trip ++ imgW F.body ++ imgW F.fin ++ imgN F.setl ++ imgN (if F.st = .exit then F.last.toNat else 0) ++ imgZ 128

/-- The whole image of a context (R398; log 92). -/
def State.image (s : State) (c k : Nat) : List Byte :=
  s.ctxImage c k ++ (s.framesOf c k).flatMap (s.frameImage c)

/-! Reading an image. -/

/-- The number in some bytes of an image. -/
def imgAt (bs : List Byte) (off n : Nat) : Nat := leVal ((bs.drop off).take n)
/-- The word at an offset of an image. -/
def imgWord (bs : List Byte) (off : Nat) : Word := BitVec.ofNat 64 (imgAt bs off 8)
/-- A digit of a number. -/
def digit (b n i : Nat) : Nat := n / b ^ i % b

/-- Succeeds where an image is well-formed. -/
def imgNeed (b : Bool) : Option Unit := if b then some () else none

/-- A control block of an image, when its fields are in range (R399, R402). -/
def ctlFrom (bs : List Byte) (o : Nat) : Option CtlBlock := do
  let d := imgAt bs (o + 8) 8
  let r := imgAt bs (o + 32) 8
  let p := imgAt bs (o + 40) 8
  imgNeed (decide (d < 8) && decide (d % 4 ≤ 2) && decide (r < 2 ^ 17) && bitsOf r 6 2 == 0 && bitsOf r 14 2 == 0 &&
    decide (p < 2 ^ 33))
  some { target := imgWord bs o, left := d % 4, taken := d.testBit 2, start := imgWord bs (o + 16)
         passes := imgWord bs (o + 24), blen := r % 64, pos := bitsOf r 8 6, active := r.testBit 16
         phase := BitVec.ofNat 32 p, barw := p.testBit 32 }

/-- The tag of a code in an image. -/
def imgTag (n : Nat) : Tag := (tagOf n).getD .raw

/-- A reply slot of an image. -/
def slotFrom (code : Nat) (v : Word) : RSlot :=
  match code with
  | 0 => .empty
  | 1 => .pending
  | _ => .full v

/-- A system register of an image, by its place in `imgSys`. -/
def imgReg (bs : List Byte) (i : Nat) : Word := imgWord bs (0x1138 + 8 * i)

/-- The reserved bytes are zero, the tags are those of R88, and the control fields are in range (R402). -/
def imgOk (bs : List Byte) : Bool :=
  let w (o : Nat) : Nat := imgAt bs o 8
  imgAt bs 0x11C 4 == 0 && w 0x11C8 == 0 && w 0x1238 == 0 && (bs.drop 0x1348).take 0x38 == imgZ 0x38 &&
    (List.range 16).all (fun n => decide (digit 16 (w 0x1120) n < 8)) && decide (w 0x1128 < 256) &&
    decide (digit 16 (w 0x1128) 0 < 8) && decide (digit 16 (w 0x1128) 1 < 8) &&
    imgReg bs 0 &&& ~~~0xFF_131F == 0 && imgReg bs 1 &&& ~~~tcauseMask == 0 && !(imgReg bs 4).getLsbD 1 &&
    decide ((imgReg bs 5).toNat < 2 ^ 20) && decide ((imgReg bs 6).toNat < 2 ^ 21) && decide ((imgReg bs 7).toNat < 16) &&
    decide ((imgReg bs 9).toNat < 2 ^ 16) && decide ((imgReg bs 10).toNat < 2 ^ 32) &&
    w 0x1230 / 2 ^ 36 == 0 && bitsOf (w 0x1230) 29 3 == 0 && bitsOf (w 0x1230) 4 4 == 0 &&
    imgWord bs 0x1240 &&& ~~~0x1_FFFF_003F == 0 && (List.range 5).all (fun i => decide (w (0x1250 + 8 * i) < 2 ^ 48)) &&
    decide (w 0x1278 < 2 ^ 33) && decide (w 0x1280 < 2 ^ 32) && decide (w 0x1288 < 32) && decide (w 0x1290 ≤ 8) &&
    decide (w 0x1338 < 256) && (List.range 4).all (fun i => decide (digit 4 (w 0x1338) i < 3)) && decide (w 0x1340 ≤ 2) &&
    bitsOf (imgReg bs 0).toNat 17 2 == w 0x1340

/-- The context an image holds, pre-empted (R402); the record of a linked future is `pend`. -/
def ctxFrom (bs : List Byte) (live trap : CtlBlock) (pend : Option Pend) : Ctx :=
  let w (o : Nat) : Nat := imgAt bs o 8
  let st := imgReg bs 0
  let d := imgWord bs 0x1240
  { x := Vector.ofFn (fun (i : Fin 32) => imgWord bs (8 * i.val))
    g := Vector.ofFn (fun (i : Fin 7) => BitVec.ofNat 32 (imgAt bs (0x100 + 4 * i.val) 4))
    v := Vector.ofFn (fun (i : Fin 16) =>
      { bits := BitVec.ofNat 1024 (imgAt bs (0x120 + 128 * i.val) 128), tag := imgTag (digit 16 (w 0x1120) i.val) })
    z := Vector.ofFn (fun (i : Fin 2) =>
      { bits := BitVec.ofNat 8192 (imgAt bs (0x920 + 1024 * i.val) 1024), tag := imgTag (digit 16 (w 0x1128) i.val) })
    pc := imgWord bs 0x1130, h := st.getLsbD 12, rm := (st >>> 8).setWidth 2, ff := st.setWidth 5
    crew := bitsOf st.toNat 20 4, cm := st.getLsbD 19
    tcause := imgReg bs 1, tpc := imgReg bs 2, tval := imgReg bs 3, tvec := imgReg bs 4, ydl := imgReg bs 8
    qmap := (imgReg bs 9).setWidth 16, bsm := (imgReg bs 10).setWidth 32
    cps := imgReg bs 12, cpd := imgReg bs 13, cpxs := imgReg bs 14, cpys := imgReg bs 15, cpsz := imgReg bs 16, cpfl := imgReg bs 17
    live, trap, counts := Vector.ofFn (fun (i : Fin 5) => w (0x1250 + 8 * i.val))
    origin := if w 0x1288 < 16 then none else some (w 0x1288 % 16)
    events := (List.range (w 0x1290)).map (fun i => (imgWord bs (0x1298 + 16 * i), imgWord bs (0x12A0 + 16 * i)))
    replies := Vector.ofFn (fun (i : Fin 4) => slotFrom (digit 4 (w 0x1338) i.val) (imgWord bs (0x1318 + 8 * i.val)))
    dbc := { Dbc.written {} d with stop := d.getLsbD 32 }, checksum := imgWord bs 0x1248
    trace := { mask := BitVec.ofNat 32 (w 0x1278), opened := (w 0x1278).testBit 32, loss := BitVec.ofNat 32 (w 0x1280) }
    forced := (w 0x1230).testBit 1, yielded := (w 0x1230).testBit 2
    vcid := bitsOf (w 0x1230) 16 13, vctx := bitsOf (w 0x1230) 32 4, run := .held, stopped := true, pend }

/-- The states of a frame block (R400): a held frame is not free. -/
def frameStateOf : Nat → FrameState
  | 1 => .seed
  | 2 => .run
  | 3 => .exit
  | _ => .free

/-- A version of a frame block. -/
def verFrom (bs : List Byte) (o : Nat) (F : LFrame) (name k : Nat) : Option Ver :=
  let code := digit 4 (imgAt bs (o + 0x2420) 48) (8 * name + k)
  let bits : BitVec 1024 :=
    if name < 16 then BitVec.ofNat 1024 (imgAt bs (o + 64 * name + 8 * k) 8)
    else BitVec.ofNat 1024 (imgAt bs (o + 0x400 + 1024 * (name - 16) + 128 * k) 128)
  let tag := if name < 16 then Tag.raw else imgTag (digit 16 (imgAt bs (o + 0x2400) 32) (8 * (name - 16) + k))
  if code = 0 then none
  else some { name, iter := F.iterAt k, carried := code == 1, need := 0, bits, tag }

/-- The frame of a block, when its fields are in range (R400, R402): its number and its contents. -/
def frameFrom (bs : List Byte) (o opener : Nat) : Option (Fin 2 × LFrame) := do
  let d := imgAt bs (o + 0x2450) 8
  let mask := bitsOf d 32 16
  let a := bitsOf d 15 4
  let op := bitsOf d 20 4
  let st := frameStateOf (d % 4)
  let ms := op :: (List.range 16).filter (fun m => mask.testBit m && m != op)
  imgNeed (st != .free && d / 2 ^ 48 == 0 && d.testBit 19 == false && bitsOf d 24 8 == 0 &&
    (List.range 64).all (fun n => decide (digit 16 (imgAt bs (o + 0x2400) 32) n < 8)) &&
    (List.range 192).all (fun n => decide (digit 4 (imgAt bs (o + 0x2420) 48) n < 3)) &&
    (bs.drop (o + 0x2480)).take 128 == imgZ 128 && decide (imgAt bs (o + 0x2458) 8 ≤ 2 ^ 32) &&
    decide (imgAt bs (o + 0x2470) 8 < 2 ^ 32 + 1) && decide (imgAt bs (o + 0x2478) 8 < 2 ^ 32) &&
    (st != .run || (mask.testBit op && a == ms.length && decide (a ≤ 8) && decide (1 ≤ bitsOf d 11 4) && decide (bitsOf d 11 4 ≤ 8))))
  let F : LFrame := {
    st, level := if d.testBit 2 then 2 else 1, opener, trip := imgAt bs (o + 0x2458) 8, w := bitsOf d 8 3, c := bitsOf d 11 4
    om := d.testBit 4, opn := d.testBit 5, brkd := d.testBit 6, rst := d.testBit 7
    body := imgWord bs (o + 0x2460), fin := imgWord bs (o + 0x2468), setl := imgAt bs (o + 0x2470) 8
    last := if st = .exit then (imgAt bs (o + 0x2478) 8 : Int) else -1
    virt := if st = .seed then [] else ms }
  let vers := (List.range 24).flatMap (fun n => (List.range 8).filterMap (fun k =>
    if st = .seed ∧ k = 0 then none else verFrom bs o F n k))
  some (if d.testBit 3 then 1 else 0, { F with vers })

/-! The instructions. -/

/-- The length of an image with `n` frames (R398). -/
def imgLen (n : Nat) : Nat := 0x1380 + 0x2500 * n

/-- The operands of CSAVE and CREST: the address, and the physical core and context (R401). -/
def imgOperands (xa xc : SSrc) : M (Word × Nat × Nat) := do
  let a ← readS xa
  let t ← readS xc
  ensure (t &&& ~~~0xF_1FFF == 0) .illegal
  ensure (spaceOf a.toNat == 0x0 || spaceOf a.toNat == 0xB) .space a
  ensure (a.toNat % 128 == 0) .align a
  pure (a, bitsOf t.toNat 0 13, bitsOf t.toNat 16 4)

/-- The issue of CSAVE and CREST (R80, R401). -/
def imgInfo (g : Guard) (xa xc : SSrc) (s : State) : Info := { infoOf g 8 1 [xa, xc] [] [] [] with priv := decide (s.cc < 8192) }

/-- A context that CSAVE takes (R402; log 93). -/
def savable (x : Ctx) : Bool :=
  x.run == .vacant || x.stopped || (x.dbc.stop && (x.pend.isNone || x.futureRec.isSome))

/-- CSAVE (R381, R402; log 93): the trace tail is sent before the save. -/
def execCsave (g : Guard) (xa xc : SSrc) (s : State) : Out :=
  run (imgInfo g xa xc s) (do
    let (a, p, k) ← imgOperands xa xc
    let s ← get
    let c := s.ownerOn p k
    ensure (savable (s.ctx c k)) .illegal
    let bs := s.image c k
    watchCheck 2 ((List.range bs.length).map (fun i => a.toNat + i))
    let ls ← locM { w := true } [0x0, 0xB] a.toNat bs.length 128
    checkWaiters a.toNat ls
    answerWith .wmem []
    modify (fun s => (s.sendTail c k).storeUnits (s.agentOf s.cc s.ck) (unitsOf8 (ls.zip bs)) none)) s

/-- The bytes of a load of the acting context. -/
def loadBytes (a n : Nat) : M (List Byte) := do
  watchCheck 1 ((List.range n).map (fun i => a + i))
  let ls ← locM { r := true } [0x0, 0xB] a n 128
  let s ← get
  let (bs, s1) := s.loadUnits (s.agentOf s.cc s.ck) ((List.range (n / 8)).map (fun i => (ls.drop (8 * i)).take 8))
  set s1
  pure bs

/-- The physical context `k` of a barrel core becomes one of a virtual core (R404). -/
def State.giveCtx (s : State) (p k v : Nat) : State :=
  let bit : BitVec 16 := BitVec.ofNat 16 (2 ^ k)
  let w := s.ownerOn p k
  if w = v then s
  else
    let s := s.modCore w (fun y => { y with mask := y.mask &&& ~~~bit })
    s.modCore v (fun y => { y with
      mask := (if y.home = p then y.mask else 0) ||| bit, home := p, partid := (s.core w).partid })

/-- The linked record of an image's context (R232, R396). -/
def State.futurePend (s : State) (v : Nat) (bs : List Byte) : Option (Option Pend) :=
  let r := imgAt bs 0x1230 8
  if !r.testBit 3 then some none
  else (tget (s.core v).pool (bitsOf r 8 8)).map (fun e => some { kind := .future (bitsOf r 8 8) e.rd })

/-- What an image loads (R359, R402; log 91, log 92); none when it is not well-formed. A vacant context takes its class counters. -/
def State.imageLoad (s : State) (p k : Nat) (bs : List Byte) : Option State := do
  imgNeed (imgOk bs)
  let r := imgAt bs 0x1230 8
  let live ← ctlFrom bs 0x11D0
  let trap ← ctlFrom bs 0x1200
  let v := bitsOf r 16 13
  let pend ← s.futurePend v bs
  let n := imgAt bs 0x1340 8
  let frames ← (List.range n).mapM (fun i => frameFrom bs (imgLen i) k)
  imgNeed (frames.all (fun f => (s.fr v f.1).st == .free) && (frames.map Prod.fst).eraseDups.length == n)
  let counts : Vector Nat 5 := Vector.ofFn (fun (i : Fin 5) => imgAt bs (0x1250 + 8 * i.val) 8)
  if r.testBit 0 then some (s.modCtx (s.ownerOn p k) k (fun x => { x with run := .vacant, counts }))
  else
    let s := s.giveCtx p k v
    let s := s.modCore v (fun y => { y with
      segb := (imgReg bs 5).setWidth 20, segl := (imgReg bs 6).setWidth 21
      pool := match pend, tget y.pool (bitsOf r 8 8) with
        | some _, some e => tset y.pool (bitsOf r 8 8) { e with ctx := k }
        | _, _ => y.pool })
    let s := s.setCtx v k (ctxFrom bs live trap pend)
    some (frames.foldl (fun s f => s.setFr v f.1 f.2) s)

/-- CREST (R402; log 91). -/
def execCrest (g : Guard) (xa xc : SSrc) (s : State) : Out :=
  run (imgInfo g xa xc s) (do
    let (a, p, k) ← imgOperands xa xc
    let s ← get
    ensure ((s.ctx (s.ownerOn p k) k).run == .vacant) .illegal
    let head ← loadBytes a.toNat (imgLen 0)
    let n := min (imgAt head 0x1340 8) 2
    let bs ← loadBytes a.toNat (imgLen n)
    match (← get).imageLoad p k bs with
    | none => raiseV .illegal a
    | some t => do
      set t
      answerWith .wmem []) s

end Sys2Proof.Machine
end

