-- ==== Sys2Proof/Machine/Host.lean ====
section
/-! DEFINITION. Host requests: the Dvorade commands a service core performs, launches, requests through mailbox 253 and stop
reports (R21 to R25, R58, R218, R258, R303 to R307, R415, R418). -/

namespace Sys2Proof.Machine

/-! Requests and replies. -/

/-- OK (R306). -/
def stOk : Word := 0
/-- BADCMD (R306). -/
def stBad : Word := 1
/-- NOTHELD (R306). -/
def stNotHeld : Word := 2
/-- FAULT with its address (R306; log 108). -/
def stFault (a : Word) : Word := 3 + (a <<< 8)
/-- NOSPACE (R306). -/
def stNoSpace : Word := 4
/-- UE (R306). -/
def stUe : Word := 5

/-- What a service core answers: the status, the bytes after it, and the state. `later`: the reply is sent later. -/
structure Ans where
  status : Word
  data : List Byte := []
  st : State
  later : Bool := false

/-- A number in a byte string, little-endian (R59). -/
def numAt (b : List Byte) (o n : Nat) : Nat := leVal ((b.drop o).take n)
/-- A 64-bit word in a byte string. -/
def wordAt (b : List Byte) (o : Nat) : Word := BitVec.ofNat 64 (numAt b o 8)
/-- The bytes from `o` to `o + n - 1` are zero. -/
def zerosAt (b : List Byte) (o n : Nat) : Bool := ((b.drop o).take n).all (· == 0)

/-- The reply to a host request: the same header with OP | 0x80 and the body's own length (R303). -/
def State.replyTo (s : State) (r : HostReq) (status : Word) (data : List Byte) : State :=
  { (s.uetBytes true (40 + data.length)) with
    hostOut := s.hostOut ++ [{ ver := r.ver, op := r.op ||| 0x80, flags := r.flags, part := r.part, scn := r.scn, seq := r.seq
                               len := 8 + data.length, htag := r.htag, body := bytesOf 8 status ++ data }] }

/-- The eleven commands (R304). -/
def knownOp (op : Nat) : Bool := decide (1 ≤ op) && decide (op ≤ 11)

/-- A well-formed header (R303). -/
def headOk (r : HostReq) : Bool :=
  r.ver == 1 && decide (r.flags < 2) && decide (r.part < 16) && r.rsv == 0 && decide (r.len ≤ 1048576) && r.len == r.body.length

/-- The header of a request as bytes (R303). -/
def headBytes (op : Nat) (r : HostReq) : List Byte :=
  leCut 1 r.ver ++ leCut 1 op ++ leCut 2 r.flags ++ leCut 1 r.part ++ leCut 1 r.scn ++ leCut 2 0 ++ leCut 4 r.seq.toNat ++
    leCut 4 r.len ++ leCut 8 r.htag.toNat ++ leCut 8 0

/-- Four 64-bit words of 32 bytes. -/
def fourWords (b : List Byte) : List Nat := (List.range 4).map (fun i => numAt b (8 * i) 8)

/-- The log key of a service core (R382; log 40). -/
def svcKey (scn : Nat) : Word := BitVec.ofNat 64 scn

/-- In replay, whether a host request is the next logged one of its service core, and whether its body is the logged one
(R383; log 8, log 40). -/
def State.hostTurn (s : State) (op : Nat) (r : HostReq) : Bool × Bool :=
  if (s.part r.part).replay.mode != .replay then (true, true)
  else
    match s.logNext r.part 5 (svcKey r.scn) with
    | some (_ :: h :: b :: _) =>
      (h == fourWords (headBytes op r), b == fourWords (leCut 32 (Config.shake256 r.body).toNat))
    | _ => (false, true)

/-- The view of a service core as a request begins (R258). -/
def State.svcBegin (s : State) (scn : Nat) : State := s.modMem (fun m => m.handOff (.svc scn))
/-- A request's writes reach the device store, and the system store when it names system scope (R258). -/
def State.svcEnd (s : State) (scn : Nat) (sys : Bool) : State :=
  s.modMem (fun m => if sys then m.flushSystem (.svc scn) (512 + scn) else m.flush (.svc scn) (512 + scn))

/-- A host request of command `op` reaches the module (R21, R258, R301, R303, R304, R410; log 110): one of another command arrives with
that command's event, and one whose OP is no command's is answered BADCMD. -/
def runHost (op : Nat) (p0 : Bool) (r : HostReq) (f : State → Ans) (inRecovery : State → Ans) (s : State) : Out :=
  if s.power == .off then .next s
  else
    let t := s.uetBytes false (32 + r.len)
    if r.mode.unused then .next { s with pktDrops := s.pktDrops + 1 }
    else if r.op != op && knownOp r.op then .next s
    else if 128 ≤ r.scn || (tgetD s.services r.scn {}).gone then .next (t.replyTo r stBad [])
    else if !headOk r || r.op != op then .next (t.replyTo r stBad [])
    else if s.power == .recovery then
      let a := inRecovery t
      .next (a.st.replyTo r a.status a.data)
    else if !(tgetD s.services r.scn {}).released then .next s
    else if p0 && r.part != 0 then .next (t.replyTo r stNotHeld [])
    else if !s.present r.part || !(s.hostTurn op r).1 then .next s
    else
      let u := (if (s.hostTurn op r).2 then t else t.diverge r.part 5 (svcKey r.scn)).logged r.part 5 (svcKey r.scn) 0 0
        (BitVec.ofNat 64 op) 0 [fourWords (headBytes op r), fourWords (leCut 32 (Config.shake256 r.body).toNat)]
      let a := f (u.svcBegin r.scn)
      let v := a.st.svcEnd r.scn (r.flags == 1)
      .next (if a.later then v else v.replyTo r a.status a.data)

/-- A command that recovery does not accept (R410; log 110). -/
def refuseRecovery (s : State) : Ans := { status := stBad, st := s }

/-! Accesses of a service core. -/

/-- The spaces of WRITE and READ (R305). -/
def hostSpaces : List Nat := [0x0, 0xA, 0xB, 0xC]

/-- The location of one byte for a service core acting for a partition, or the failing status (R221, R306; log 74, log 108). -/
def State.svcByte (s : State) (part : Nat) (need : Need) (spaces : List Nat) (a : Word) : Except Word Nat :=
  match s.locate (s.viaEngine 0 part) need spaces a.toNat 1 1 with
  | .at (l :: _) =>
    if need.w && s.mem.waited (l / 8 * 8) then .error (stFault a)
    else if (s.mem.badAt [l]).isSome then .error stUe
    else .ok l
  | _ => .error (stFault a)

/-- Bytes written one after another (R305): it ends at the first that fails (R306). Each is an access of its own (log 108). -/
def State.svcWrite (s : State) (scn part : Nat) (a : Word) : List Byte → Ans
  | [] => { status := stOk, st := s }
  | b :: r =>
    match s.svcByte part { w := true } hostSpaces a with
    | .error e => { status := e, st := s }
    | .ok l =>
      ((s.used (s.viaEngine 0 part) 16 a.toNat [l]).storeUnits (.svc scn) [[(l, b)]] (s.kvExt [a.toNat] 1)).svcWrite scn part (a + 1) r

/-- The locations of bytes read (R305). -/
def State.svcLocs (s : State) (part : Nat) (spaces : List Nat) (a : Word) : Nat → Except Word (List Nat)
  | 0 => .ok []
  | n + 1 =>
    match s.svcByte part { r := true } spaces a with
    | .error e => .error e
    | .ok l =>
      match s.svcLocs part spaces (a + 1) n with
      | .error e => .error e
      | .ok ls => .ok (l :: ls)

/-- Bytes read with the view of R258. -/
def State.svcRead (s : State) (scn part : Nat) (spaces : List Nat) (a : Word) (n : Nat) : Except Word (List Byte × State) :=
  match s.svcLocs part spaces a n with
  | .error e => .error e
  | .ok ls => .ok ((s.used (s.viaEngine 0 part) 16 a.toNat ls).loadUnits (.svc scn) (ls.map (fun l => [l])))

/-- WRITE (R305). -/
def cmdWrite (r : HostReq) (s : State) : Ans :=
  let a := wordAt r.body 0
  if r.len < 8 || !hostSpaces.contains (spaceOf a.toNat) then { status := stBad, st := s }
  else s.svcWrite r.scn r.part a (r.body.drop 8)

/-- READ (R305). -/
def cmdRead (r : HostReq) (s : State) : Ans :=
  let a := wordAt r.body 0
  let n := numAt r.body 8 4
  if r.len != 16 || !zerosAt r.body 12 4 || n == 0 || decide (1048568 < n) || !hostSpaces.contains (spaceOf a.toNat) then
    { status := stBad, st := s }
  else
    match s.svcRead r.scn r.part hostSpaces a n with
    | .error e => { status := e, st := s }
    | .ok (bs, t) => { status := stOk, data := bs, st := t }

/-- The staging area of recovery: WRITE's address is the offset in it (R410; log 48). -/
def stageWrite (r : HostReq) (s : State) : Ans :=
  if r.part != 0 then { status := stNotHeld, st := s }
  else if r.len < 8 then { status := stBad, st := s }
  else
    let a := numAt r.body 0 8
    { status := stOk
      st := { s with staging := ((locsFrom a (r.len - 8)).zip (r.body.drop 8)).foldl (fun m c => Memory.set m c.1 c.2) s.staging } }

/-! Page tables. -/

/-- The entries on the path of a virtual offset: level, PA and value, to the leaf or the first entry that names no table. -/
def pathFrom (m : MemSys) (v t level : Nat) : Nat → List (Nat × Nat × Nat)
  | 0 => []
  | fuel + 1 =>
    let p := t + 8 * levelIndex level v
    let e := leVal (m.readD (locsFrom (locPA p) 8))
    if e % 2 = 1 && !malformedEntry level e && e / 2 % 2 = 0 then
      (level, p, e) :: pathFrom m v (bitsOf e 12 36 * 2 ^ 12) (level + 1) fuel
    else [(level, p, e)]

/-- The path of a virtual offset in a partition's tables (R211). -/
def State.path (s : State) (part v : Nat) : List (Nat × Nat × Nat) :=
  let root := bitsOf (s.part part).trt.toNat 16 32 * 2 ^ 16
  if populated root then pathFrom s.mem v root 0 4 else []

/-- The bytes that an entry at a level covers (R211). -/
def coverOf (level : Nat) : Nat := pageSize level

/-- `n` bytes from a PA lie in one of the partition's memory ranges (R305; log 109). -/
def State.holdsPA (s : State) (part pa n : Nat) : Bool :=
  (s.part part).ranges.any (fun g => g.1 ≤ pa && pa + n ≤ g.1 + g.2)

/-- Cached translations of a range of a partition go (R215, R218). -/
def State.invalidate (s : State) (part v n : Nat) : State :=
  let keep (l : Leaf) : Bool := !(l.part == part && decide (l.base < v + n) && decide (v < l.base + l.size))
  let far (b : Nat) : Bool := !(decide (b < v + n) && decide (v < b + 32))
  { s with
    cores := s.cores.map (fun c => (c.1, { c.2 with tlb := c.2.tlb.filter keep }))
    clusters := s.clusters.map (fun c => (c.1, { c.2 with tlb := c.2.tlb.filter keep }))
    ctxs := s.ctxs.map (fun x =>
      if (s.core (x.1 / 16)).partid = part then
        (x.1, { x.2 with
          walks := x.2.walks.filter (fun w => !(decide (w.1 * 2 ^ 19 < v + n) && decide (v < (w.1 + 1) * 2 ^ 19)))
          fetched := x.2.fetched.filter (fun f => far f.1.toNat) })
      else x) }

/-- Some access that translated through an entry has not completed (R218; log 109). -/
def State.entryBusy (s : State) (part level e : Nat) : Bool :=
  e % 2 == 1 && !malformedEntry level e && e / 2 % 2 == 1 &&
    s.accessIn part [(locPA (bitsOf e 12 36 * 2 ^ 12), pageSize level)]

/-- A table entry is written in one 8-byte write that reaches the device store (R218). -/
def State.writeEntry (s : State) (scn pa : Nat) (e : Word) : State :=
  (s.storeUnits (.svc scn) [(locsFrom (locPA pa) 8).zip (bytesOf 8 e)] none).svcEnd scn false

/-- Whether an entry written at a level names only memory that the partition holds (R305; log 109). -/
def State.entryHeld (s : State) (part level : Nat) (e : Word) : Bool :=
  let addr := bitsOf e.toNat 12 36 * 2 ^ 12
  !e.getLsbD 0 ||
    (if e.getLsbD 1 then s.holdsPA part addr (pageSize level)
     else s.holdsPA part addr (if level = 0 then 2 ^ 15 else 512))

/-- The leaves in a range of a partition: level, PA, value and first byte (R305). -/
def State.leavesIn (s : State) (part v n : Nat) : Nat → List (Nat × Nat × Nat × Nat)
  | 0 => []
  | fuel + 1 =>
    match (s.path part v).getLast? with
    | none => []
    | some (level, pa, e) =>
      let sz := coverOf level
      let base := v - v % sz
      let here := if e % 2 = 1 && e / 2 % 2 = 1 && !malformedEntry level e then [(level, pa, e, base)] else []
      if n ≤ base + sz - v then here else here ++ s.leavesIn part (base + sz) (n - (base + sz - v)) fuel

/-- The records of MAP in order (R305): none while an access must still complete (R218; log 109). -/
def State.mapRecords (s : State) (scn part : Nat) : List (Nat × Word × Nat) → Option (Except Word State)
  | [] => some (.ok s)
  | (pa, e, v) :: r =>
    if pa % 8 ≠ 0 ∨ 2 ^ 56 ≤ v then some (.error stBad)
    else
      match (s.path part v).find? (fun x => x.2.1 == pa) with
      | none => some (.error stNotHeld)
      | some (level, _, _) =>
        if v % coverOf level ≠ 0 then some (.error stBad)
        else if !s.holdsPA part pa 8 || !s.entryHeld part level e then some (.error stNotHeld)
        else if (s.leavesIn part v (coverOf level) (coverOf level / 2 ^ 19)).any (fun l => s.entryBusy part l.1 l.2.2.1) then none
        else ((s.writeEntry scn pa e).invalidate part v (coverOf level)).mapRecords scn part r

/-- The records of MAP's body. -/
def recordsOf (b : List Byte) (n : Nat) : List (Nat × Word × Nat) :=
  (List.range n).map (fun i => (numAt b (8 + 24 * i) 8, wordAt b (16 + 24 * i), numAt b (24 + 24 * i) 8))

/-- MAP (R218, R305). -/
def cmdMap (r : HostReq) (s : State) : Option Ans :=
  let n := numAt r.body 0 4
  if r.len < 8 || n == 0 || decide (65536 < n) || !zerosAt r.body 4 4 || r.len != 8 + 24 * n then
    some { status := stBad, st := s }
  else
    match s.mapRecords r.scn r.part (recordsOf r.body n) with
    | none => none
    | some (.error e) => some { status := e, st := s }
    | some (.ok t) => some { status := stOk, st := t }

/-- UNMAP (R218, R305; log 109). -/
def cmdUnmap (r : HostReq) (s : State) : Option Ans :=
  let v := numAt r.body 0 8
  let n := numAt r.body 8 8
  if r.len != 16 || v % 2 ^ 19 != 0 || n % 2 ^ 19 != 0 || n == 0 || decide (2 ^ 56 < v + n) then some { status := stBad, st := s }
  else
    let ls := s.leavesIn r.part v n (n / 2 ^ 19)
    if ls.any (fun l => decide (l.2.2.2 < v) || decide (v + n < l.2.2.2 + coverOf l.1)) then some { status := stBad, st := s }
    else if ls.any (fun l => s.entryBusy r.part l.1 l.2.2.1) then none
    else
      let t := ls.foldl (fun t l => t.writeEntry r.scn l.2.1 0) s
      some { status := stOk, st := t.invalidate r.part v n }

/-- The pages of SHARE (R305; log 109): each leaf of the first partition gives the second a 512 KiB leaf. -/
def State.sharePages (s : State) (r : HostReq) (part2 perm v w : Nat) : Nat → Option (Except Word State)
  | 0 => some (.ok s)
  | n + 1 =>
    match s.walk r.part v with
    | .fault _ _ => some (.error stNotHeld)
    | .leaf l =>
      match (s.path part2 w).getLast? with
      | some (3, pa, old) =>
        if s.entryBusy part2 3 old then none
        else
          let e := l.pa + (v - v % 2 ^ 19 - l.base) + perm * 4 + (if l.nc then 32 else 0) + 3
          ((s.writeEntry r.scn pa (BitVec.ofNat 64 e)).invalidate part2 w (2 ^ 19)).sharePages r part2 perm (v + 2 ^ 19)
            (w + 2 ^ 19) n
      | _ => some (.error stNoSpace)

/-- SHARE (R204, R305; log 109). -/
def cmdShare (r : HostReq) (s : State) : Option Ans :=
  let v := numAt r.body 0 8
  let n := numAt r.body 8 8
  let p2 := numAt r.body 16 1
  let perm := numAt r.body 17 1
  let w := numAt r.body 24 8
  if r.len != 32 || v % 2 ^ 19 != 0 || n % 2 ^ 19 != 0 || n == 0 || decide (2 ^ 56 < v + n) || p2 == 0 || decide (15 < p2) ||
      decide (7 < perm) || !zerosAt r.body 18 6 || w % 2 ^ 19 != 0 || decide (2 ^ 56 < w + n) then some { status := stBad, st := s }
  else if !(s.part p2).started then some { status := stNotHeld, st := s }
  else
    match s.sharePages r p2 perm v w (n / 2 ^ 19) with
    | none => none
    | some (.error e) => some { status := e, st := s }
    | some (.ok t) => some { status := stOk, st := t }

/-- A command that waits until accesses under way have completed (R218): the request is not taken yet. -/
def runWaiting (op : Nat) (p0 : Bool) (r : HostReq) (f : State → Option Ans) (s : State) : Out :=
  if s.power == .on && (f (s.svcBegin r.scn)).isNone then .next s
  else runHost op p0 r (fun t => (f t).getD { status := stBad, st := t }) refuseRecovery s

/-! Launch. -/

/-- A section of a launch image (R58). -/
structure Sect where
  kind : Nat
  core : Bool
  size : Nat
  coff : Nat
  algl : Nat
  bytes : List Byte
  ok : Bool
  foff : Nat

/-- The section table's entry `i` (R46, R58): its contents come after the tables, which end at `tables`. -/
def sectOf (img : List Byte) (tables i : Nat) : Sect :=
  let o := 64 + 32 * i
  let kind := numAt img o 1
  let place := numAt img (o + 1) 1
  let size := numAt img (o + 4) 4
  let coff := numAt img (o + 8) 4
  let algl := numAt img (o + 12) 4
  let foff := numAt img (o + 16) 8
  { kind, core := place == 1, size, coff, algl, bytes := (img.drop foff).take size
    ok := decide (kind ≤ 2) && decide (place ≤ 1) && zerosAt img (o + 2) 2 && zerosAt img (o + 24) 8 && decide (algl ≤ 12) &&
      (kind != 0 || decide (5 ≤ algl)) && (kind != 2 || decide (3 ≤ algl) && place == 0 && size % 8 == 0) &&
      (place == 1 || coff == 0) && (place == 0 || decide (coff + size ≤ 2 ^ 20)) &&
      (size == 0 || decide (tables ≤ foff) && decide (foff + size ≤ img.length)), foff }

/-- Core-placed sections do not overlap (R46). -/
def apart : List Sect → Bool
  | [] => true
  | a :: r => r.all (fun b => !a.core || !b.core || decide (a.coff + a.size ≤ b.coff) || decide (b.coff + b.size ≤ a.coff)) && apart r

/-- Where the contents of the sections begin, after the string table (R58). -/
def contentsAt (img : List Byte) (ss : List Sect) : Nat :=
  (ss.filter (fun x => x.size != 0)).foldl (fun n x => min n x.foff) img.length

/-- The placed addresses of the sections, in table order (R58 step 1). -/
def placeSects : List Sect → Nat → List Nat
  | [], _ => []
  | s :: r, at_ =>
    if s.core then (0x8 * 2 ^ 60 + s.coff) :: placeSects r at_
    else
      let a := (at_ + 2 ^ s.algl - 1) / 2 ^ s.algl * 2 ^ s.algl
      a :: placeSects r (a + s.size)

/-- A relocation: section, target, offset (R58). -/
def relocOf (img : List Byte) (nsec i : Nat) : Nat × Nat × Nat × Bool :=
  let o := 64 + 32 * nsec + 16 * i
  (numAt img o 4, numAt img (o + 4) 4, numAt img (o + 8) 4, zerosAt img (o + 12) 4)

/-- The contents of a section with a field changed. -/
def patchBytes (b : List Byte) (o : Nat) (v : Nat) : List Byte := b.take o ++ leCut 8 v ++ b.drop (o + 8)

/-- A launch image as the service core works through it (R58): the sections with relocated contents, their placed addresses
and the entry point; none when it breaks a rule. -/
def imageOf (img : List Byte) (gbase : Nat) : Option (List (Sect × Nat) × Word) :=
  let nsec := numAt img 4 4
  let nrel := numAt img 8 4
  let nsym := numAt img 12 4
  let esec := numAt img 16 4
  let eoff := numAt img 20 4
  if numAt img 0 4 != 1 || nsec == 0 || decide (4096 < nsec) || !zerosAt img 32 32 ||
      decide (img.length < 64 + 32 * nsec + 16 * nrel + 16 * nsym) then none
  else
    let strs := 64 + 32 * nsec + 16 * nrel + 16 * nsym
    let ss := (List.range nsec).map (sectOf img strs)
    let names := (img.take (contentsAt img ss)).drop strs
    let at_ := placeSects ss gbase
    let rs := (List.range nrel).map (relocOf img nsec)
    let relOk (r : Nat × Nat × Nat × Bool) : Bool :=
      match ss[r.1]?, ss[r.2.1]? with
      | some a, some b => r.2.2.2 && !b.core && decide (r.2.2.1 + 8 ≤ a.size)
      | _, _ => false
    let symOk (i : Nat) : Bool :=
      let o := 64 + 32 * nsec + 16 * nrel + 16 * i
      let x := numAt img (o + 4) 4
      (names.drop (numAt img o 4)).any (· == 0) && (decide (x < nsec) || x == 0xFFFF_FFFF)
    match ss[esec]?, at_[esec]? with
    | some e, some ea =>
      if ss.all Sect.ok && apart ss && rs.all relOk && (List.range nsym).all symOk && e.kind == 0 && eoff % 4 == 0 && decide (eoff < e.size)
      then
        let fix (ss : List Sect) (r : Nat × Nat × Nat × Bool) : List Sect :=
          match ss[r.1]? with
          | none => ss
          | some a =>
            let nb := patchBytes a.bytes r.2.2.1 (numAt a.bytes r.2.2.1 8 + at_.getD r.2.1 0)
            lset ss r.1 { a with bytes := nb }
        some ((rs.foldl fix ss).zip at_, BitVec.ofNat 64 (ea + eoff))
      else none
    | _, _ => none

/-- The locations of a placed section: a valid leaf is enough for translated memory (R58). -/
def State.sectLocs (s : State) (part : Nat) (cores : List Nat) (x : Sect × Nat) : Option (List (List Nat)) :=
  if x.1.size = 0 then some []
  else
    let span (a : Nat) : Option (List Nat) :=
      match s.locate (s.viaEngine 0 part) {} [0x0, 0xA] a x.1.size 1 with
      | .at ls => some ls
      | _ => none
    if x.1.core then
      cores.mapM (fun c => span (0xA * 2 ^ 60 + c / 256 * 2 ^ 48 + c % 256 * 2 ^ 40 + x.1.coff))
    else (span x.2).map (fun l => [l])

/-- The images's sections are written (R23, R58); none when one leaves memory held by the partition. -/
def State.placeAllSects (s : State) (scn part : Nat) (cores : List Nat) : List (Sect × Nat) → Option State
  | [] => some s
  | x :: r =>
    match s.sectLocs part cores x with
    | none => none
    | some ls =>
      (ls.foldl (fun s l => s.storeUnits (.svc scn) ((l.zip x.1.bytes).map (fun c => [c])) none) s).placeAllSects scn part cores r

/-- No element occurs twice. -/
def distinct : List Nat → Bool
  | [] => true
  | a :: r => !r.contains a && distinct r

/-- LAUNCH (R23, R25, R58, R305): steps 2 and 3. -/
def cmdLaunch (r : HostReq) (s : State) : Ans :=
  let img := wordAt r.body 0
  let gbase := numAt r.body 8 8
  let args := (List.range 4).map (fun i => wordAt r.body (16 + 8 * i))
  let cw := wordAt r.body 48
  let n := numAt r.body 56 4
  let cores := (List.range n).map (fun i => numAt r.body (64 + 2 * i) 2)
  let bad (e : Word) : Ans := { status := e, st := s }
  if r.len < 64 || n == 0 || decide (8192 < n) || r.len != 64 + 2 * n || !zerosAt r.body 60 4 || img.toNat % 64 != 0 ||
      spaceOf img.toNat != 0 || gbase % 4096 != 0 || decide (2 ^ 56 ≤ gbase) || cw.toNat % 8 != 0 ||
      !([0x0, 0xA, 0xB].contains (spaceOf cw.toNat)) || cores.any (fun c => decide (8192 ≤ c)) || !distinct cores then bad stBad
  else if cores.any (fun c => !s.holdsCore r.part c) then bad stNotHeld
  else
    match s.svcRead r.scn r.part [0x0] img 64 with
    | .error e => bad e
    | .ok (h, s1) =>
      match s1.svcRead r.scn r.part [0x0] img (numAt h 24 8) with
      | .error e => bad e
      | .ok (bs, s2) =>
        match imageOf bs gbase with
        | none => bad stBad
        | some (ss, pc) =>
          match s2.placeAllSects r.scn r.part cores ss with
          | none => bad stNotHeld
          | some s3 =>
            match s3.locate (s3.viaEngine 0 r.part) { w := true } [0x0, 0xA, 0xB] cw.toNat 8 8 with
            | .at ls =>
              let s4 := ((s3.used (s3.viaEngine 0 r.part) 16 cw.toNat ls).storeUnits (.svc r.scn) [ls.map (fun l => (l, 0))] none).svcEnd
                r.scn (r.flags == 1)
              { status := stOk, later := true
                st := { s4 with
                  launches := s4.launches ++ [{ scn := r.scn, req := r, cw, ncore := n }]
                  net := s4.net ++ cores.map (fun c => .start { part := r.part, core := c, pc, args, view := some s4.mem.snapshot }) } }
            | _ => { status := stFault cw, st := s3 }

/-- The keeper of a core is idle, with no message waiting for it: in WAITW, or as partition start left it (R23, R25). -/
def State.keeperIdle (s : State) (c k : Nat) : Bool :=
  let y := s.core c
  y.startBuf.isNone && ((!y.began && (s.ctx c k).run == .vacant) || (s.cluster (s.clusterOf c)).waiters.contains (c, k))

/-- START_MESSAGE (R23, R25): the keeper takes the message, or the core's start buffer does. A message for a core whose
buffer is full has not been sent yet. -/
def execStartMessage (i : Nat) (s : State) : Out :=
  match s.net[i]? with
  | some (.start m) =>
    let k := s.keeper m.core
    let earlier := (s.net.take i).any (fun e => match e with
      | .start n => n.core == m.core && n.part == m.part
      | _ => false)
    if !s.runs m.core || (s.core m.core).partid != m.part || earlier || (s.part m.part).preempted then .next s
    else
      let t : State := { s with net := ldel s.net i }
      if s.keeperIdle m.core k && !(s.ctx m.core k).stopped then
        .next ((t.modCluster (s.clusterOf m.core) (fun y =>
          { y with waiters := y.waiters.filter (· != (m.core, k)) })).takeStart m.core k m)
      else if (s.core m.core).startBuf.isNone then .next (t.modCore m.core (fun y => { y with startBuf := some m }))
      else .next s
  | _ => .next s

/-- LAUNCH_COMPLETE (R23; log 108): the completion word of launch `i` has reached the number of named cores. -/
def execLaunchComplete (i : Nat) (s : State) : Out :=
  match s.launches[i]? with
  | none => .next s
  | some l =>
    if s.power != .on || !s.present l.req.part then .next s
    else
      match s.locate (s.viaEngine 0 l.req.part) { r := true } [0x0, 0xA, 0xB] l.cw.toNat 8 8 with
      | .at ls =>
        if l.ncore ≤ leVal (s.mem.readD ls) then .next ({ s with launches := ldel s.launches i }.replyTo l.req stOk [])
        else .next s
      | _ => .next s

/-! Groups and sessions. -/

/-- The forwarding entries a group's members need (R302, R305; log 46). -/
def State.routeTo (s : State) (peer : Nat) : State :=
  (List.range 4).foldl (fun s d =>
    let m := Config.routeOf d peer
    if m = 0 then s else { s with fwd := tset s.fwd d (tset (tgetD s.fwd d []) peer m) }) s

/-- The forwarding entries that peers need, where the tables have room for them (R302; log 46). -/
def State.routeAll (s : State) (peers : List Nat) : Option State :=
  let t := peers.foldl State.routeTo s
  if t.fwd.any (fun f => decide (4096 < f.2.length)) then none else some t

/-- GROUP (R305, R309; log 46). -/
def cmdGroup (r : HostReq) (s : State) : Ans :=
  let m := numAt r.body 2 2
  let ms := (List.range m).map (fun i => numAt r.body (8 + 4 * i) 4)
  if r.len < 8 || m == 0 || decide (256 < m) || !zerosAt r.body 1 1 || !zerosAt r.body 4 4 || r.len != 8 + 4 * m ||
      !ms.contains Config.moduleId.toNat then { status := stBad, st := s }
  else
    match s.routeAll (ms.filter (· != Config.moduleId.toNat)) with
    | none => { status := stNoSpace, st := s }
    | some t => { status := stOk, st := { t with groups := tset t.groups (numAt r.body 0 1) ms } }

/-- The elements of a session's contribution (R310). -/
def elemsOfKind (kind n : Nat) : Nat := if kind = 0 then n / 4 else if kind = 5 then n + 2 else n

/-- A session descriptor is within its limits (R310): the contribution and the sync words are 8-byte aligned, the result need not
be. -/
def sessionOk (kind n : Nat) (d : List Byte) : Bool :=
  let sp (o al : Nat) : Bool := [0x0, 0xA, 0xB].contains (spaceOf (numAt d o 8)) && numAt d o 8 % al == 0
  decide (kind ≤ 5) && zerosAt d 4 4 && zerosAt d 40 24 && sp 8 8 && sp 16 8 && sp 24 1 && sp 32 8 &&
  (match kind with
   | 0 => n % 4 == 0 && decide (4 ≤ n ∧ n ≤ 65536)
   | 5 => decide (1 ≤ n ∧ n ≤ 128)
   | _ => decide (1 ≤ n ∧ n ≤ 1024))

/-- A partition holds a range (R310). -/
def State.holdsRange (s : State) (part : Nat) (need : Need) (a n : Nat) : Bool :=
  match s.locate (s.viaEngine 0 part) need [0x0, 0xA, 0xB] a n 1 with
  | .at _ => true
  | _ => false

/-- SESSION, define (R305, R310). -/
def cmdDefine (r : HostReq) (s : State) : Ans :=
  let sid := numAt r.body 0 2
  let d := (r.body.drop 8).take 64
  let kind := numAt d 0 1
  let n := numAt d 2 2
  let bytes := 4 * elemsOfKind kind n
  if r.len != 72 || decide (1024 ≤ sid) || numAt r.body 2 1 != 0 || !zerosAt r.body 3 5 || !sessionOk kind n d then
    { status := stBad, st := s }
  else if (tget s.groups (numAt d 1 1)).isNone || (tget s.sessions sid).any (fun e => e.part != r.part) ||
      !s.holdsRange r.part { r := true } (numAt d 8 8) bytes || !s.holdsRange r.part { r := true } (numAt d 16 8) 8 ||
      !s.holdsRange r.part { w := true } (numAt d 24 8) bytes || !s.holdsRange r.part { w := true } (numAt d 32 8) 8 then
    { status := stNotHeld, st := s }
  else
    { status := stOk
      st := { s with sessions := tset s.sessions sid ({ part := r.part, kind, grp := numAt d 1 1, n, ca := wordAt d 8,
                                                        cs := wordAt d 16, ra := wordAt d 24, rs := wordAt d 32 } : Session) } }

/-- SESSION, remove (R305). -/
def cmdRemove (r : HostReq) (s : State) : Ans :=
  let sid := numAt r.body 0 2
  if r.len != 8 || decide (1024 ≤ sid) || !zerosAt r.body 3 5 then { status := stBad, st := s }
  else if !(tget s.sessions sid).any (fun e => e.part == r.part) then { status := stNotHeld, st := s }
  else { status := stOk, st := { s with sessions := tdel s.sessions sid } }

/-! Partitions. -/

/-- Which bits of a byte field are set. -/
def bitsAt (b : List Byte) (o n : Nat) : List Nat := (List.range (8 * n)).filter (fun i => (numAt b (o + i / 8) 1).testBit (i % 8))

/-- The memory ranges of PSTART (R305). -/
def rangesOf (b : List Byte) (n : Nat) : List (Nat × Nat) :=
  (List.range n).map (fun i => (numAt b (176 + 16 * i) 8, numAt b (184 + 16 * i) 8))

/-- A replay log's base and limit lie in the far tier: the limit may be its end (R210, R305). -/
def logOk (base limit : Nat) : Bool :=
  decide (0x1000_0000_0000 ≤ base) && decide (base < 0x1400_0000_0000) && decide (0x1000_0000_0000 ≤ limit) &&
    decide (limit ≤ 0x1400_0000_0000)

/-- The limits of PSTART's body (R305). -/
def pstartOk (r : HostReq) : Bool :=
  let b := r.body
  let nr := numAt b 168 4
  let mode := numAt b 1 1
  decide (176 ≤ r.len) && decide (1 ≤ numAt b 0 1 ∧ numAt b 0 1 ≤ 15) && decide (mode ≤ 1) && decide (numAt b 2 1 ≤ 2) &&
  zerosAt b 3 5 && (mode == 1 || numAt b 8 8 == 0) && zerosAt b 172 4 && decide (nr ≤ 4096) && r.len == 176 + 16 * nr &&
  logOk (numAt b 24 8) (numAt b 32 8) &&
  (rangesOf b nr).all (fun g => g.1 % 2 ^ 19 == 0 && g.2 % 2 ^ 19 == 0 && populatedRange g.1 (max g.2 1))

/-- Two ranges meet. -/
def rangesMeet (a b : Nat × Nat) : Bool := decide (a.1 < b.1 + b.2) && decide (b.1 < a.1 + a.2)

/-- What PSTART names is free (R22, R306; log 49): a time-sliced partition may share its clusters and granules with other
time-sliced ones. -/
def State.freeFor (s : State) (sliced : Bool) (cls grs : List Nat) (rgs : List (Nat × Nat)) : Bool :=
  s.parts.all (fun q => !q.2.started ||
    ((q.2.sliced && sliced || (cls.all (fun c => !q.2.clusters.contains c) && grs.all (fun g => !q.2.granules.contains g))) &&
      rgs.all (fun a => q.2.ranges.all (fun b => !rangesMeet a b))))

/-- A core is tested and, when it fails, its die's spare takes its index or it is withheld (R10, R414; log 9, log 107). The choice of the
partition `none` withholds it. -/
def State.testCore (s : State) (c : Nat) : State × Bool :=
  let d := c / 256
  if (s.die d).failed.contains c then (s, false)
  else if !Config.coreFails c s.fresh then ({ s with fresh := s.fresh + 1 }, true)
  else
    let s : State := { s with fresh := s.fresh + 1 }
    if (s.die d).spares < 16 then (s.modDie d (fun y => { y with spares := y.spares + 1 }), true)
    else
      ({ (s.modDie d (fun y => { y with failed := y.failed ++ [c] })) with repl := true, sreq := true }, false)

/-- Tests the cores of some clusters: the state and the cores that may be granted. -/
def State.testCores (s : State) : List Nat → State × List Nat
  | [] => (s, [])
  | c :: r =>
    let (s1, ok) := s.testCore c
    let (s2, l) := s1.testCores r
    (s2, if ok then c :: l else l)

/-- A core at partition start (R204; log 10): reset, but for the cycle counter. A partition number of 16 is no partition's. -/
def freshCore (old : Core) (c part : Nat) : Core := { home := c, partid := part, cyc := old.cyc }

/-- The locations of a core's core store and lane slices (R203). -/
def coreLocs (home c l : Nat) : Bool :=
  l / 2 ^ 20 == locStore home 0 / 2 ^ 20 || l / 2 ^ 16 == locLane c 0 0 / 2 ^ 16

/-- Clusters take their reset values: no page of theirs waits for a walker (R204, R215). -/
def State.resetClusters (s : State) (cls : List Nat) : State :=
  { s with
    clusters := s.clusters.filter (fun x => !cls.contains x.1)
    dies := s.dies.map (fun d => (d.1, { d.2 with walkq := d.2.walkq.filter (fun w => !cls.contains w.1) })) }

/-- The per-core and per-cluster state of clusters takes its reset values for a partition (R204, R215; log 107); `ok` are the cores
granted. -/
def State.giveClusters (s : State) (part : Nat) (cls ok : List Nat) : State :=
  let cs := cls.flatMap coresOf
  let s := cs.foldl (fun s c => s.setCore c (freshCore (s.core c) c (if ok.contains c then part else 16))) s
  { s.resetClusters cls with ctxs := s.ctxs.filter (fun x => !cs.contains (x.1 / 16)) }

/-- A granule of a die is given to a partition, or taken back (R209, R264). -/
def State.setGranule (s : State) (g : Nat) (e : Granule) : State :=
  s.modDie (g / 16) (fun d => { d with granules := d.granules.set (g % 16) e (Nat.mod_lt _ (by decide)) })

/-- The allocator entry and L2 bank of a partition on a die (R264, R359). -/
def State.setDiePart (s : State) (d part : Nat) (alloc : Option Nat) : State :=
  s.modDie d (fun y => { y with
    alloc := y.alloc.set (part % 16) alloc (Nat.mod_lt _ (by decide))
    banks := y.banks.set (part % 16) (Vector.replicate 4 {}) (Nat.mod_lt _ (by decide))
    bankNew := y.bankNew.filter (fun b => b.bank != part) })

/-- The allocator that firmware chooses on a die (R264; log 47). -/
def allocOn (part d : Nat) (ok : List Nat) : Option Nat :=
  let l := ok.filter (fun c => c / 256 == d)
  if l.isEmpty then none else (l[Config.allocatorOf part d % l.length]?).map (· % 256)

/-- The streams that firmware grants (R315; log 47). -/
def State.grantStreams (s : State) (part : Nat) : State :=
  (Config.grantsOf part).foldl (fun s g =>
    if g.1 < 16384 && (s.stream? g.1).isNone then s.setStream g.1 { part, endpoint := g.2 } else s) s

/-- What a partition of PSTART holds when it has the cores (R204, R264, R359; log 47): the state and memories are cleared. -/
def State.fillPartition (s : State) (part : Nat) (cls grs ok : List Nat) : State :=
  let s := s.giveClusters part cls ok
  let s := grs.foldl (fun s g => s.setGranule g { valid := true, part, lst := Config.listGranule part (g / 16) (g % 16) }) s
  let cs := cls.flatMap coresOf
  s.modMem (fun m => m.clear (fun l =>
    cs.any (fun c => coreLocs c c l) || grs.any (fun g => l / 2 ^ 22 == locPad (g / 16) (g % 16 * 2 ^ 22) / 2 ^ 22)))

/-- The state of a time-sliced partition that starts while another has its cores: it is saved as partition start would
leave it (R403; log 49). -/
def startSaved (part : Nat) (grs ok : List Nat) : SaveArea :=
  { cores := ok.foldl (fun t c => tset t c { home := c, partid := part }) []
    granules := grs.foldl (fun t g =>
      tset t g { valid := true, part, lst := Config.listGranule part (g / 16) (g % 16) }) [] }

/-- PSTART (R204, R302, R305, R382, R414; log 46, log 49). -/
def cmdPstart (r : HostReq) (s : State) : Ans :=
  if !pstartOk r then { status := stBad, st := s }
  else
    let b := r.body
    let part := numAt b 0 1
    let sliced := numAt b 1 1 == 1
    let cls := bitsAt b 40 64
    let grs := bitsAt b 104 64
    let rgs := rangesOf b (numAt b 168 4)
    if (s.part part).started || !s.freeFor sliced cls grs rgs then { status := stNotHeld, st := s }
    else if (s.routeAll (Config.peersOf part)).isNone then { status := stNoSpace, st := s }
    else
      let mode : RMode := match numAt b 2 1 with
        | 0 => .off
        | 1 => .record
        | _ => .replay
      let here := s.parts.all (fun q => !q.2.started || !q.2.resident || cls.all (fun c => !q.2.clusters.contains c))
      let s := s.modMem (fun m => m.clear (fun l => rgs.any (fun g => locPA g.1 ≤ l && l < locPA g.1 + g.2)))
      let (s, ok) := s.testCores (cls.flatMap coresOf)
      let s := if here then s.fillPartition part cls grs ok else s
      let s := (List.range 32).foldl (fun s d => s.setDiePart d part (allocOn part d ok)) s
      let s := s.modPart part (fun _ =>
        { started := true, sliced, slice := wordAt b 8, trt := wordAt b 16 &&& 0x0000_FFFF_FFFF_0001, ranges := rgs
          clusters := cls, granules := grs, resident := here
          replay := { mode, base := numAt b 24 8, limit := numAt b 32 8 }
          saved := if here then none else some (startSaved part grs ok) })
      let s := s.grantStreams part
      { status := stOk, st := (s.routeAll (Config.peersOf part)).getD s }

/-- What is in flight for a partition (R22). -/
def NetItem.part : NetItem → Nat
  | .msg m => m.part
  | .forward m _ => m.part
  | .reply p _ _ _ _ => p
  | .start m => m.part
  | .stop _ _ p _ _ => p

/-- PSTOP (R305): the partition's cores, granules, streams and sessions are free again (log 49); no other partition reads what its
core stores and lane slices held (R204). -/
def cmdPstop (r : HostReq) (s : State) : Ans :=
  let part := numAt r.body 0 1
  if r.len != 8 || !zerosAt r.body 1 7 || part == 0 || decide (15 < part) then { status := stBad, st := s }
  else if !(s.part part).started then { status := stNotHeld, st := s }
  else
    let p := s.part part
    let s0 := s
    let s := if p.resident then
        let cs := (s.cores.filter (fun c => c.2.partid == part)).map Prod.fst ++ p.clusters.flatMap coresOf
        let s := cs.foldl (fun s c =>
          s.setCore c (freshCore (s.core c) c (if (s.die (c / 256)).failed.contains c then 16 else 0))) s
        let s : State := { s.resetClusters p.clusters with ctxs := s.ctxs.filter (fun x => !cs.contains (x.1 / 16)) }
        let s := s.modMem (fun m => m.clear (fun l => cs.any (fun c => coreLocs c c l)))
        let s := p.granules.foldl (fun s g => s.setGranule g {}) s
        (List.range 32).foldl (fun s d => s.setDiePart d part none) s
      else s
    { status := stOk
      st := { s with
        parts := tset s.parts part {}
        streams := s.streams.filter (fun x => x.2.part != part)
        sessions := s.sessions.filter (fun x => x.2.part != part)
        net := s.net.filter (fun e => e.part != part)
        slotNew := s.slotNew.filter (fun b => (s0.core b.core).partid != part)
        l2Pending := s.l2Pending.filter (fun e => (s0.core e.2.1).partid != part)
        ovfDue := s.ovfDue.filter (fun e => e.1 != part)
        launches := s.launches.filter (fun l => l.req.part != part) } }

/-! Status. -/

/-- The health word (R415). -/
def State.health (s : State) : Word :=
  BitVec.ofNat 64 (boolN s.repl + boolN s.sreq * 2 + boolN (s.power == .recovery || s.recov) * 4 + boolN s.keyx * 8 +
    s.links.toNat * 2 ^ 8)

/-- A stop report as bytes (R418). -/
def reportBytes (e : Nat × Nat × Word × Word) : List Byte :=
  leCut 2 (e.1 % 2 ^ 13) ++ leCut 1 e.2.1 ++ leCut 5 0 ++ bytesOf 8 e.2.2.1 ++ bytesOf 8 e.2.2.2

/-- A cause of service remains (R291, R413, R414, R418; log 115). -/
def State.serviceDue (s : State) : Bool :=
  s.repl || s.services.any (fun x => !x.2.reports.isEmpty) || !s.mem.bad.isEmpty ||
    s.net.any (fun e => match e with
      | .stop .. => true
      | _ => false) ||
    s.clusters.any (fun c => c.2.deps.any (fun d => d.2.2))

/-- STATUS (R415, R418; log 115). -/
def cmdStatus (r : HostReq) (s : State) : Ans :=
  if r.len != 0 then { status := stBad, st := s }
  else
    let v := tgetD s.services r.scn {}
    let mine (e : Nat × Nat × Word × Word) : Bool := r.part == 0 || e.2.1 == r.part
    let out := v.reports.filter mine
    let t : State := { s with services := tset s.services r.scn { v with reports := v.reports.filter (fun e => !mine e), dropped := 0 } }
    { status := stOk
      data := bytesOf 8 s.health ++ leCut 4 out.length ++ leCut 4 v.dropped ++ out.flatMap reportBytes
      st := { t with sreq := s.sreq && t.serviceDue } }

/-- STATUS in recovery (R410). -/
def recoveryStatus (r : HostReq) (s : State) : Ans :=
  if r.part != 0 then { status := stNotHeld, st := s } else cmdStatus r s

/-! The requests. -/

/-- LAUNCH (R23, R305). -/
def execLaunch (req : HostReq) (s : State) : Out := runHost 0x01 false req (cmdLaunch req) refuseRecovery s
/-- WRITE (R305, R410). -/
def execWrite (req : HostReq) (s : State) : Out := runHost 0x02 false req (cmdWrite req) (stageWrite req) s
/-- READ (R305). -/
def execRead (req : HostReq) (s : State) : Out := runHost 0x03 false req (cmdRead req) refuseRecovery s
/-- MAP (R218, R305). -/
def execMap (req : HostReq) (s : State) : Out := runWaiting 0x04 false req (cmdMap req) s
/-- UNMAP (R218, R305). -/
def execUnmap (req : HostReq) (s : State) : Out := runWaiting 0x05 false req (cmdUnmap req) s
/-- SHARE (R305). -/
def execShare (req : HostReq) (s : State) : Out := runWaiting 0x06 true req (cmdShare req) s
/-- GROUP (R305). -/
def execGroup (req : HostReq) (s : State) : Out := runHost 0x07 true req (cmdGroup req) refuseRecovery s
/-- SESSION with SOP other than 1 (R305, R310). -/
def execSessionDefine (req : HostReq) (s : State) : Out :=
  if numAt req.body 2 1 = 1 then .next s else runHost 0x08 false req (cmdDefine req) refuseRecovery s
/-- SESSION with SOP 1 (R305). -/
def execSessionRemove (req : HostReq) (s : State) : Out :=
  if numAt req.body 2 1 = 1 then runHost 0x08 false req (cmdRemove req) refuseRecovery s else .next s
/-- PSTART (R305). -/
def execPstart (req : HostReq) (s : State) : Out := runHost 0x09 true req (cmdPstart req) refuseRecovery s
/-- PSTOP (R305). -/
def execPstop (req : HostReq) (s : State) : Out := runHost 0x0A true req (cmdPstop req) refuseRecovery s
/-- STATUS (R305, R410, R415, R418). -/
def execStatus (req : HostReq) (s : State) : Out := runHost 0x0B false req (cmdStatus req) (recoveryStatus req) s

/-! Requests through mailbox 253. -/

/-- What a request of a tenant does (R307; log 111): none while it must wait. The code is checked before the block is read. -/
def State.tenantCmd (s : State) (code scn part : Nat) (a : Word) : Option Ans :=
  if !([0x02, 0x03, 0x04, 0x05, 0x08].contains code) then some { status := stBad, st := s }
  else
    match s.svcRead scn part [0x0] a 8 with
    | .error e => some { status := e, st := s }
    | .ok (h, s1) =>
      let len := leVal h
      if 1048576 < len then some { status := stBad, st := s }
      else
      match s1.svcRead scn part [0x0] (a + 8) len with
      | .error e => some { status := e, st := s }
      | .ok (body, s2) =>
        let r : HostReq := { ver := 1, op := code, flags := 0, part, scn, rsv := 0, seq := 0, len, htag := 0, body }
        match code with
        | 0x02 => some (cmdWrite r s2)
        | 0x03 =>
          let x := cmdRead r s2
          if x.status = stOk then some (x.st.svcWrite scn part (a + 64) x.data) else some x
        | 0x04 => cmdMap r s2
        | 0x05 => cmdUnmap r s2
        | _ => some (if numAt body 2 1 = 1 then cmdRemove r s2 else cmdDefine r s2)

/-- MAILBOX_REQUEST (R302, R307; log 111): the service core performs the request; a call gets its status as the reply. -/
def execMailboxRequest (i : Nat) (s : State) : Out :=
  match s.net[i]? with
  | some (.forward m scn) =>
    let key := mailKey m.dst 253
    if s.power != .on || !(tgetD s.services scn {}).released || !s.present m.part then .next s
    else if !s.turn m.part 2 key m.src m.sctx then .next (s.checkVacant m.part 2 key)
    else
      let s1 := ({ s with net := ldel s.net i }.logged m.part 2 key m.src m.sctx).svcBegin scn
      match s1.tenantCmd (m.w0.toNat % 256) scn m.part (m.w0 &&& ~~~0xFF) with
      | none => .next s
      | some a =>
        let t := a.st.svcEnd scn false
        let k : Fin 4 := Fin.ofNat 4 (bitsOf m.w1.toNat 20 2)
        .next (if m.call then { t with net := t.net ++ [.reply m.part m.src m.sctx k a.status] } else t)
  | _ => .next s

/-- STOP_REPORT (R391, R418; log 115). -/
def execStopReport (i : Nat) (s : State) : Out :=
  match s.net[i]? with
  | some (.stop scn core part w0 w1) =>
    if s.power != .on || !(tgetD s.services scn {}).released then .next s
    else
      let v := tgetD s.services scn {}
      let v := if v.reports.length < 64 then { v with reports := v.reports ++ [(core, part, w0, w1)] }
        else { v with dropped := v.dropped + 1 }
      .next { s with net := ldel s.net i, services := tset s.services scn v, sreq := true }
  | _ => .next s

end Sys2Proof.Machine
end

