-- ==== Sys2Proof/Machine/Fabric.lean ====
section
/-! DEFINITION. The fabric: links, the relay's forwarding, and the rounds of copy and reduction sessions (R301, R302, R308 to
R314, R365). -/

namespace Sys2Proof.Machine

/-- LINK_EVENT (R302): the port's link and endpoint state, and the forwarding entries over it. -/
def execLinkEvent (port : Fin 32) (up : Bool) (s : State) : Out :=
  if s.power == .off || (s.power == .recovery && decide (1 < port.val)) then .next s
  else
    let d := port.val / 8
    let bit : BitVec 8 := BitVec.ofNat 8 (2 ^ (port.val % 8))
    let fix (e : Nat × BitVec 8) : Nat × BitVec 8 :=
      (e.1, if up then e.2 ||| (Config.routeOf d e.1 &&& bit) else e.2 &&& ~~~bit)
    let links := if up then s.links ||| BitVec.ofNat 32 (2 ^ port.val) else s.links &&& ~~~BitVec.ofNat 32 (2 ^ port.val)
    .next { s with
      links, fwd := tset s.fwd d ((tgetD s.fwd d []).map fix), fresh := s.fresh + 1
      uet := tset s.uet port.val (Config.uetState port.val up s.fresh) }

/-- The ports of a port die that its forwarding table gives for a module (R301, R308). -/
def State.portsTo (s : State) (die : Fin 4) (dst : BitVec 32) : List Nat :=
  (List.range 8).filter (fun p => (tgetD (tgetD s.fwd die.val []) dst.toNat 0).getLsbD p)

/-- RELAY_FORWARD (R301, R308, R365; log 46): a packet that port die `die` receives for another module goes out through one of the
ports that the forwarding table gives, which the spraying chooses; it is dropped and counted when there is none, or when it asks for
a mode that the module does not use. -/
def execRelayForward (die : Fin 4) (dst : BitVec 32) (packet : Packet) (s : State) : Out :=
  if s.power != .on then .next s
  else
    let t := s.uetOn die false packet.payload.length
    let ports := s.portsTo die dst
    match (if packet.mode.unused then none else ports[Config.sprayOf t.fresh % ports.length]?) with
    | none => .next { t with pktDrops := t.pktDrops + 1 }
    | some p =>
      let u : State := { t with fresh := t.fresh + 1 }
      .next { u.uetOn die true packet.payload.length with
        packetOut := t.packetOut ++ [{ port := 8 * die.val + p, dst, payload := packet.payload }] }

/-! Sessions. -/

/-- The members of a session's group (R309). -/
def State.members (s : State) (e : Session) : List Nat := tgetD s.groups e.grp []
/-- This module's member index (R309; log 46). -/
def State.memberIdx (s : State) (e : Session) : Nat := ((s.members e).findIdx? (· == Config.moduleId.toNat)).getD 0

/-- The relay of a session's port die (R256; log 113). -/
def relayOf (sid : Nat) : Agent := .relay (sid % 4)

/-- A session's location of an aligned word, for the relay. -/
def State.sessionWord (s : State) (e : Session) (need : Need) (a : Word) : Option Nat :=
  match s.locate (s.viaEngine 0 e.part) need [0x0, 0xA, 0xB] a.toNat 8 8 with
  | .at (l :: _) => some l
  | _ => none

/-- A session whose rounds run: its partition is there and it has not been refused (R312, R314). -/
def State.sessionRuns (s : State) (e : Session) : Bool :=
  s.power == .on && s.present e.part && !(s.part e.part).stopping && !(s.part e.part).preempted && !e.refused &&
    decide (e.round + 1 < 2 ^ 32)

/-- FP32 −0. -/
def negZero : Lane := 0x8000_0000
/-- FP32 −∞. -/
def negInf : Lane := 0xFF80_0000
/-- FP32 +∞. -/
def posInf : Lane := 0x7F80_0000
/-- The canonical NaN of FP32. -/
def nan32 : Lane := 0x7FC0_0000
/-- FP32 1.0. -/
def one32 : Lane := 0x3F80_0000

/-- The contribution-fault bit of F (R312). -/
def fFault : BitVec 5 := 8
/-- The unreachable-member bit of F (R312). -/
def fGone : BitVec 5 := 16
/-- F's bits from the flags of CTXST.FF (R85, R312): invalid, overflow, inexact. -/
def fOf (f : FF) : BitVec 5 := BitVec.ofNat 5 (boolN (f.getLsbD 4) + boolN (f.getLsbD 2) * 2 + boolN (f.getLsbD 0) * 4)

/-- The identity of an empty leaf; a COPY has none and faults (R313). -/
def identity (kind n : Nat) : List Lane × BitVec 5 :=
  match kind with
  | 0 => ([], fFault)
  | 1 => (List.replicate n negZero, 0)
  | 2 => (List.replicate n 0, 0)
  | 3 => (List.replicate n nan32, 0)
  | 4 => (List.replicate n 0x8000_0000, 0)
  | _ => (negInf :: 0 :: List.replicate n 0, 0)

/-- Elementwise combination with flags. -/
def combineEach (f : Lane → Lane → Lane × BitVec 5) : List Lane → List Lane → List Lane × BitVec 5
  | x :: r, y :: q =>
    let (z, a) := f x y
    let (l, b) := combineEach f r q
    (z :: l, a ||| b)
  | _, _ => ([], 0)

/-- An FP32 result as a lane with F's bits. -/
def laneF (r : Nat × FF) : Lane × BitVec 5 := (BitVec.ofNat 32 r.1, fOf r.2)

/-- R175's sequence on one value. -/
def expSeq (x : Nat) : Nat × FF :=
  let (n, f1) := fp32.rnd x
  let (f, f2) := fp32.sub .ne x n
  let (m, f3) := fexp32 f
  let (r, f4) := expi32 m n
  (r, f1 ||| f2 ||| f3 ||| f4)

/-- The scale of one operand of a RESCALE (R313; log 112): the exact difference is −∞ when m_x is −∞ or m is +∞. -/
def scaleOf (mx m : Nat) : Nat × FF :=
  if fp32.keyEq mx = fp32.keyEq m then (one32.toNat, 0)
  else if mx = negInf.toNat ∨ m = posInf.toNat then (0, 0)
  else
    let (d, f) := fp32.sub .ne mx m
    let (r, g) := expSeq d
    (r, f ||| g)

/-- x · s + y · t with one rounding (R313; log 112). -/
def scaledSum (x s y t : Nat) : Nat × FF :=
  fp32.ofNum .ne (((fp32.num x).mul (fp32.num s)).add .ne ((fp32.num y).mul (fp32.num t)))

/-- The RESCALE combine (R313; log 112): m, l, then o. -/
def rescale : List Lane → List Lane → List Lane × BitVec 5
  | ma :: a, mb :: b =>
    let x := ma.toNat
    let y := mb.toNat
    if (fp32.num x).isNan || (fp32.num y).isNan then (nan32 :: a.map (fun _ => nan32), 1)
    else
      let m := (fp32.minMax true x y).1
      let (sa, f) := scaleOf x m
      let (sb, g) := scaleOf y m
      let (l, h) := combineEach (fun u v => laneF (scaledSum u.toNat sa v.toNat sb)) a b
      (BitVec.ofNat 32 m :: l, fOf (f ||| g) ||| h)
  | _, _ => ([], 0)

/-- A node's combination of its two inputs (R311 to R314): a fault of either is the node's. -/
def combine (kind : Nat) (a b : List Lane × BitVec 5) : List Lane × BitVec 5 :=
  if (a.2 ||| b.2) &&& (fFault ||| fGone) != 0 then ([], a.2 ||| b.2)
  else
    let (l, f) := match kind with
      | 0 => (a.1, 0)
      | 1 => combineEach (fun x y => laneF (fp32.add .ne x.toNat y.toNat)) a.1 b.1
      | 2 => combineEach (fun x y => (x + y, 0)) a.1 b.1
      | 3 => combineEach (fun x y => laneF (fp32.minMax true x.toNat y.toNat)) a.1 b.1
      | 4 => combineEach (fun x y => (if x.slt y then y else x, 0)) a.1 b.1
      | _ => rescale a.1 b.1
    (l, a.2 ||| b.2 ||| f)

/-- Replaces a session. -/
def State.setSession (s : State) (sid : Nat) (e : Session) : State := { s with sessions := tset s.sessions sid e }

/-- A packet of a round goes out to a member, by its index (R309, R312, R365). -/
def State.roundSend (s : State) (sid : Nat) (e : Session) (node : Option (Nat × Nat)) (v : List Lane × BitVec 5) (i : Nat) : State :=
  { s.uetBytes true (4 * v.1.length) with
    roundOut := s.roundOut ++ [{ dst := (s.members e).getD i 0, sid, round := e.round + 1, node, value := v.1, flags := v.2 }] }

/-- A value that this module holds for a node enters the session, and the right-hand input of a node goes up to the member where that
node is combined (R311, R312; log 113). -/
def State.nodeValue (s : State) (sid : Nat) (e : Session) (level node : Nat) (v : List Lane × BitVec 5) : State :=
  let t := s.setSession sid { e with values := e.values ++ [((level, node), v)] }
  if node % 2 = 1 then t.roundSend sid e (some (level, node)) v ((node - 1) * 2 ^ level) else t

/-- The contribution of a member (R312 step 2): its elements, or a fault. -/
def State.contribution (s : State) (sid : Nat) (e : Session) (cs : Word) : (List Lane × BitVec 5) × State :=
  if cs.getLsbD 63 then (identity e.kind e.n, s)
  else
    let n := elemsOfKind e.kind e.n
    match s.locate (s.viaEngine 0 e.part) { r := true } [0x0, 0xA, 0xB] e.ca.toNat (4 * n) 4 with
    | .at ls =>
      if (s.mem.badAt ls).isSome then (([], fFault), s)
      else
        let (bs, t) := (s.used (s.viaEngine 0 e.part) 16 e.ca.toNat ls).loadUnits (relayOf sid)
          ((List.range n).map (fun i => (ls.drop (4 * i)).take 4))
        (((List.range n).map (fun i => BitVec.ofNat 32 (leVal ((bs.drop (4 * i)).take 4))), 0), t)
    | _ => (([], fFault), s)

/-- ROUND_CONTRIBUTION (R312; log 113): an acquire of CS; when it reads the round's number, the relay takes the contribution. -/
def execRoundContribution (sid : Nat) (s : State) : Out :=
  match tget s.sessions sid with
  | none => .next s
  | some e =>
    let a := relayOf sid
    let idx := s.memberIdx e
    if !s.sessionRuns e || e.contributed || (e.kind == 0 && idx != 0) then .next s
    else
      match s.sessionWord e { r := true } e.cs with
      | none => .next s
      | some loc =>
        if !s.acquireReady a .device loc || !s.turn e.part 1 e.cs 0 0 then .next s
        else
          let (v, t) := (s.used (s.viaEngine 0 e.part) 16 e.cs.toNat (locsFrom loc 8)).acquireBy a .device e.part loc e.cs
          let t := t.logged e.part 1 e.cs 0 0
          if v.toNat % 2 ^ 32 ≠ e.round + 1 then .next t
          else
            let (c, u) := t.contribution sid e v
            .next (u.nodeValue sid { e with contributed := true } 0 idx c)

/-- The number of nodes of a level above `n` leaves (R311). -/
def nodesAt (n : Nat) : Nat → Nat
  | 0 => n
  | l + 1 => (nodesAt n l + 1) / 2

/-- The level of the root above `n` leaves. -/
def rootLevel (n : Nat) : Nat := ((List.range 10).find? (fun l => decide (nodesAt n l ≤ 1))).getD 0

/-- Packets of other modules join a session's values; one that has arrived, and this module's own leaf, stand (log 113). -/
def joinRemote (own : Nat) (vs : List ((Nat × Nat) × List Lane × BitVec 5)) :
    List (Nat × Nat × List Lane × BitVec 5) → List ((Nat × Nat) × List Lane × BitVec 5)
  | [] => vs
  | (l, n, x, f) :: r =>
    joinRemote own (if (aget vs (l, n)).isSome || (l == 0 && n == own) then vs else vs ++ [((l, n), x, f)]) r

/-- TREE_COMBINE (R311, R313; log 113): a node that is combined at this member takes its value once its inputs have arrived; `remote`
are packets that arrive from other modules. -/
def execTreeCombine (sid level node : Nat) (remote : List (Nat × Nat × List Lane × BitVec 5)) (s : State) : Out :=
  match tget s.sessions sid with
  | none => .next s
  | some e =>
    if !s.sessionRuns e then .next s
    else
      let n := (s.members e).length
      let vs := joinRemote (s.memberIdx e) e.values remote
      let t := (s.setSession sid { e with values := vs }).uetBytes false
        ((remote.map (fun p => 4 * p.2.2.1.length)).sum)
      let e := { e with values := vs }
      if level = 0 || node * 2 ^ level != s.memberIdx e || decide (nodesAt n level ≤ node) || (aget vs (level, node)).isSome then .next t
      else
        match aget vs (level - 1, 2 * node), aget vs (level - 1, 2 * node + 1) with
        | some a, some b => .next (t.nodeValue sid e level node (combine e.kind a b))
        | some a, none => if nodesAt n (level - 1) ≤ 2 * node + 1 then .next (t.nodeValue sid e level node a) else .next t
        | _, _ => .next t

/-- The relay releases RS with the round's number and flags (R312 step 4): none while the release must wait. -/
def State.releaseRound (s : State) (sid : Nat) (e : Session) (f : BitVec 5) : Option State :=
  match s.sessionWord e { w := true } e.rs with
  | none => some s
  | some loc =>
    if !s.turn e.part 1 e.rs 0 0 then none
    else
      let s := (s.used (s.viaEngine 0 e.part) 16 e.rs.toNat (locsFrom loc 8)).modMem (fun m =>
        m.flush (relayOf sid) (s.groupOf (relayOf sid)))
      some ((s.releaseBy (relayOf sid) .device loc (BitVec.ofNat 64 (e.round + 1 + f.toNat * 2 ^ 32))).logged e.part 1 e.rs 0 0)

/-- The result is written at RA (R312 step 4), or a write that faults sets bit 3 (log 50). -/
def State.writeResult (s : State) (sid : Nat) (e : Session) (v : List Lane × BitVec 5) : State × BitVec 5 :=
  if v.2 &&& (fFault ||| fGone) != 0 then (s, v.2)
  else
    match s.locate (s.viaEngine 0 e.part) { w := true } [0x0, 0xA, 0xB] e.ra.toNat (4 * v.1.length) 1 with
    | .at ls =>
      if ls.any (fun l => s.mem.waited (l / 8 * 8)) || (s.mem.badAt ls).isSome then (s, v.2 ||| fFault)
      else
        let cells := ls.zip (v.1.flatMap (fun x => bytesOf 4 x))
        let units := (List.range v.1.length).map (fun i => (cells.drop (4 * i)).take 4)
        ((s.used (s.viaEngine 0 e.part) 16 e.ra.toNat ls).storeUnits (relayOf sid) units none, v.2)
    | _ => (s, v.2 ||| fFault)

/-- The members to which a member passes the result on, one copy down each branch of the tree below it (R309; log 113). -/
def branchesOf (n i : Nat) : List Nat :=
  ((List.range (rootLevel n)).filter (fun l => i % 2 ^ (l + 1) == 0 && decide (i + 2 ^ l < n))).map (fun l => i + 2 ^ l)

/-- ROUND_RESULT (R309, R312, R314): the root's value, of this module or sent down to it, goes down the branches and ends the round
on this member. -/
def execRoundResult (sid : Nat) (remote : Option (List Lane × BitVec 5)) (s : State) : Out :=
  match tget s.sessions sid with
  | none => .next s
  | some e =>
    let n := (s.members e).length
    let root := (aget e.values (rootLevel n, 0)).orElse (fun _ => if e.kind = 0 then aget e.values (0, 0) else none)
    let fits (v : List Lane × BitVec 5) : Bool := v.1.length == elemsOfKind e.kind e.n || v.2 &&& (fFault ||| fGone) != 0
    match (root.orElse (fun _ => remote)).filter fits with
    | none => .next s
    | some v =>
      if !s.sessionRuns e || !(e.contributed || (e.kind == 0 && s.memberIdx e != 0)) then .next s
      else
        let s1 := if root.isSome then s else s.uetBytes false (4 * v.1.length)
        let s1 := (branchesOf n (s.memberIdx e)).foldl (fun t i => t.roundSend sid e none v i) s1
        let (t, f) := s1.writeResult sid e v
        match t.releaseRound sid e f with
        | none => .next s
        | some u => .next (u.setSession sid { e with round := e.round + 1, contributed := false, values := [] })

/-- MEMBER_UNREACHABLE (R314; log 113): RS is released with bit 4, there is no result, and the session refuses later rounds. -/
def execMemberUnreachable (sid : Nat) (s : State) : Out :=
  match tget s.sessions sid with
  | none => .next s
  | some e =>
    if !s.sessionRuns e then .next s
    else
      match s.releaseRound sid e fGone with
      | none => .next s
      | some u => .next (u.setSession sid { e with round := e.round + 1, contributed := false, values := [], refused := true })

end Sys2Proof.Machine
end

