-- ==== Sys2Proof/Machine/World.lean ====
section
/-! DEFINITION. The whole module: boot and recovery, health, attestation, pre-emption of a partition and world switch (R202,
R208, R259, R291, R397, R403, R404, R409 to R414). -/

namespace Sys2Proof.Machine

/-! Boot, recovery, power. -/

/-- Whether a service core is mapped out at the boot: any but the lead core may be (R21, R409; log 9). -/
def svcGone (n fresh : Nat) : Bool := n != 0 && Config.svcFails n fresh

/-- Step 4 of the boot (R21, R409; log 107, log 116): every service core that is not mapped out is released, the cores are tested,
partition 0 starts. DESIGN CHOICE: partition 0 starts with the translation root 0 and no memory range, since the spec names none, so its
accesses in space 0x0 raise PAGE and its SHARE answers NOTHELD (R211). -/
def State.bootImage (s : State) : State :=
  let s : State := { s with
    power := .on, recov := false, fresh := s.fresh + 1
    services := (List.range 128).map (fun n =>
      (n, { tgetD s.services n {} with released := !svcGone n s.fresh, gone := svcGone n s.fresh })) }
  let (s, ok) := s.testCores (List.range 8192)
  let s := (List.range 8192).foldl (fun s c => if ok.contains c then s else s.setCore c (freshCore (s.core c) c 16)) s
  s.modPart 0 (fun p => { p with started := true, resident := true })

/-- The boot from the firmware store (R409, R410; log 8). -/
def State.boot (s : State) : State :=
  if !s.torn && Config.verifies s.store then s.bootImage else { s with power := .recovery, recov := true }

/-- POWER_ON (R409; log 5). -/
def execPowerOn (s : State) : Out := if s.power == .off then .next s.boot else .next s

/-- The bytes of the staging area (R410). -/
def State.staged (s : State) : List Byte :=
  (List.range ((s.staging.getLast?.map (·.1 + 1)).getD 0)).map (fun a => Memory.get s.staging a)

/-- COMMIT (R410; log 8): a staged image that verifies becomes the store's, and the boot starts again. -/
def execCommit (s : State) : Out :=
  if s.power != .recovery || !Config.verifies s.staged then .next s
  else .next ({ s with store := s.staged, staging := [], torn := false }.boot)

/-- POWER_LOSS (R409 to R411): what is kept are the store, the monotonic index, the marks of worn-out parts and what has left
the module; a commit under way leaves a store that fails (log 51). -/
def execPowerLoss (s : State) : Out :=
  if s.power == .off then .next s
  else
    let cut := s.power == .recovery && Config.verifies s.staged && Config.numberIn s.fresh % 2 == 1
    .next { ({} : State) with
      store := s.store, torn := s.torn || cut, keyNext := s.keyNext, keyWindow := s.keyNext, keyUsed := s.keyNext
      repl := s.repl, keyx := s.keyx
      dies := s.dies.map (fun d => (d.1, { ({} : Die) with failed := d.2.failed, spares := d.2.spares }))
      hostOut := s.hostOut, frameOut := s.frameOut, ackOut := s.ackOut, packetOut := s.packetOut, roundOut := s.roundOut, traceOut := s.traceOut, attest := s.attest
      tick := s.tick, fresh := s.fresh + 1 }

/-- ATTESTATION (R411; log 8, log 114): the stored index is past the end of a window before the first index of it is used. -/
def execAttestation (nonce : List Byte) (s : State) : Out :=
  if s.power != .on then .next s
  else
    let next := if s.keyUsed < s.keyWindow then s.keyUsed else s.keyNext
    if Config.nKeys < next + 1024 then .next { s with keyx := true }
    else
      let s : State := if s.keyUsed < s.keyWindow then s else
        { s with keyUsed := s.keyNext, keyWindow := s.keyNext + 1024, keyNext := s.keyNext + 1024 }
      let h := leCut 32 (Config.shake256 s.store).toNat
      .next { s with
        keyUsed := s.keyUsed + 1, attest := s.attest ++ [(s.keyUsed, Config.signature s.keyUsed (nonce ++ h) ++ h)] }

/-! Errors. -/

/-- The partition and core that a location belongs to (R203, R209, R305; log 40). -/
def State.ownerOf (s : State) (l : Nat) : Option (Nat × Nat) :=
  match l / 2 ^ 56 with
  | 0 => (s.parts.find? (fun p => p.2.ranges.any (fun g => decide (g.1 ≤ l) && decide (l < g.1 + g.2)))).map
      (fun p => (p.1, ((p.2.clusters.flatMap coresOf).headD 0)))
  | 1 =>
    let c := l % 2 ^ 56 / 2 ^ 20
    some ((s.core c).partid, c)
  | 2 =>
    let c := l % 2 ^ 56 / 2 ^ 16
    some ((s.core c).partid, c)
  | _ =>
    let d := l % 2 ^ 56 / 2 ^ 26
    let g := s.granuleOf d (l % 2 ^ 26)
    if g.valid then some (g.part, d * 256) else none

/-- SCRUB (R412, R413; log 9): a corrected word keeps its value; a word that cannot be corrected is poisoned. -/
def execScrub (loc : Nat) (bad : Bool) (s : State) : Out :=
  if s.power == .off then .next s
  else
    let w := loc / 8 * 8
    if bad then
      .next { s.modMem (fun m => { m with bad := if m.bad.contains w then m.bad else m.bad ++ [w] }) with sreq := true }
    else
      let t : State := { s with corrected := s.corrected + 1 }
      match s.ownerOf loc with
      | some (p, c) => .next (t.annotate p c 0 2 (BitVec.ofNat 64 w))
      | none => .next t

/-- The records that a queue's overflow ring holds, as the dispenser reads them (R288). -/
def State.ringRecords (s : State) (cl q : Nat) : List (List Word) :=
  let t := s.taskq cl q
  let c := s.clusterCore cl
  match t.ring with
  | none => []
  | some (base, sz) =>
    (List.range t.arrivals.length).filterMap (fun j =>
      match s.locate (s.viaCluster cl c (s.core c).partid) { r := true } [0x0] (ringAddr base sz (t.head + j)) 64 64 with
      | .at ls =>
        let bs := (s.loadUnits (.dispenser cl) ((List.range 8).map (fun i => (ls.drop (8 * i)).take 8))).1
        some ((List.range 8).map (fun i => ofBytes 64 ((bs.drop (8 * i)).take 8)))
      | _ => none)

/-- The queues that hold a task which waits on a counter, in the queue SRAM or an overflow ring (R291). -/
def State.queuesOn (s : State) (cl n : Nat) : List Nat :=
  (List.range 16).filter (fun q => (s.cluster cl).sram.any (fun e => e.2.queue == q && recWait e.2.words == some n) ||
    (s.ringRecords cl q).any (fun ws => recWait ws == some n))

/-- QUEUE_SRAM_ERROR (R291; log 9): an entry is poisoned and logged, or a counter is poisoned and the owners told. -/
def execQueueSramError (cl : Nat) (counter : Bool) (idx : Nat) (s : State) : Out :=
  if s.power != .on then .next s
  else if counter then
    if 256 ≤ idx then .next s
    else
      let t := s.modCluster cl (fun y => { y with deps := tset y.deps idx ((tgetD y.deps idx (0, false)).1, true) })
      let u := (s.queuesOn cl idx).foldl (fun t q => t.queueEvent cl q (s.clusterCore cl) 2 idx 0) t
      .next { u with sreq := true }
  else
    match tget (s.cluster cl).sram idx with
    | none => .next s
    | some e =>
      if e.poisoned then .next s
      else .next (s.modCluster cl (fun y => { y with
        sram := tset y.sram idx { e with poisoned := true }
        plog := tset y.plog y.plogAt (e.queue, idx), plogAt := (y.plogAt + 1) % 16 }))

/-! Pre-emption of a partition. -/

/-- The virtual cores of a partition that the machine holds (R404). -/
def State.coresIn (s : State) (p : Nat) : List Nat :=
  (s.cores.filter (fun c => c.2.partid == p && decide (c.1 < 8192))).map Prod.fst

/-- The partition of an agent; stream units, relays and service cores have none (R243). -/
def State.agentPart (s : State) : Agent → Option Nat
  | .ctx c _ | .copy c _ | .foot c _ | .sampler c => some (s.core c).partid
  | .sweep cl _ _ | .dispenser cl => some (s.core (s.clusterCore cl)).partid
  | .log p => some p
  | .svc _ | .stream _ | .relay _ => none

/-- Every buffered write of the partition's agents reaches the device store (R259). -/
def State.drainPart (s : State) (p : Nat) : State :=
  ((s.mem.own.map Prod.fst).filter (fun a => s.agentPart a == some p)).foldl
    (fun s a => s.modMem (fun m => m.flush a (s.groupOf a))) s

/-- Every engine of a core has stopped (R396, R397): its contexts, its array and weight loads, its footprint copies, its send
queue. -/
def State.coreStopped (s : State) (c : Nat) : Bool :=
  let y := s.core c
  (s.ctxsOf c).all (fun k =>
    let x := s.ctx c k
    x.run != .held || x.stopped) &&
  y.wq.all (fun w => w.load.isNone && w.started.isNone) && y.sendq.isEmpty

/-- An operation that the array has not started is given up: its thread issues it again, and a discarded one is gone (R202). -/
def State.dropQueued (s : State) (c : Nat) : State :=
  s.modCore c (fun y => { y with wq := y.wq.filter (fun w => w.load.isSome || w.started.isSome) })

/-- PREEMPTION_COMPLETE (R259, R397): the module collector holds every acknowledgement. -/
def execPreemptionComplete (part : Nat) (s : State) : Out :=
  let p := s.part part
  if s.power != .on || !p.started || !p.resident || !p.stopping || p.preempted || !(s.coresIn part).all s.coreStopped then .next s
  else .next (((s.coresIn part).foldl State.dropQueued (s.drainPart part)).modPart part (fun q => { q with preempted := true }))

/-! World switch. -/

/-- Where the bytes of a partition's core stores and lane slices lie, in the form in which they are saved: by virtual core and
offset (R207, R404). -/
def State.savedLoc (s : State) (vs : List Nat) (l : Nat) : Option Nat :=
  match l / 2 ^ 56 with
  | 1 =>
    let h := l % 2 ^ 56 / 2 ^ 20
    let x := l % 2 ^ 20
    (vs.find? (fun v =>
      let y := s.core v
      y.home == h && decide (y.segb.toNat ≤ x) && decide (x < y.segb.toNat + y.segl.toNat))).map
      (fun v => locStore v (x - (s.core v).segb.toNat))
  | 2 => if vs.contains (l % 2 ^ 56 / 2 ^ 16) then some l else none
  | _ => none

/-- A location of a die scratchpad granule. -/
def inGranules (gs : List Nat) (l : Nat) : Bool :=
  l / 2 ^ 56 == 3 && gs.contains (l % 2 ^ 56 / 2 ^ 26 * 16 + l % 2 ^ 26 / 2 ^ 22)

/-- Step 4 of a world switch (R403; log 106): what is saved of a partition. A tensor's period is kept as the cycles it has run. -/
def State.saveOf (s : State) (p : Nat) : SaveArea :=
  let vs := s.coresIn p
  let q := s.part p
  let place (l : Nat) : Option Nat := if inGranules q.granules l then some l else s.savedLoc vs l
  let stop (cl : Nat) (y : Cluster) : Cluster := { y with
    tlb := [], misses := [], missWait := [], waiters := [], skid := []
    tensors := y.tensors.map (fun e => (e.1, { e.2 with since := s.tenderCyc cl - e.2.since })) }
  { cores := vs.map (fun v => (v, { s.core v with cntEv := [] }))
    ctxs := s.ctxs.filter (fun x => vs.contains (x.1 / 16))
    clusters := (s.clusters.filter (fun c => q.clusters.contains c.1)).map (fun c => (c.1, stop c.1 c.2))
    cells := s.mem.d.filterMap (fun c => (place c.1).map (fun l => (l, c.2)))
    empties := s.mem.empty.filterMap place
    bads := s.mem.bad.filterMap place
    frts := ((q.clusters.map (· / 16)).eraseDups).map (fun d => (d, (s.die d).frt))
    granules := q.granules.map (fun g => (g, s.granuleOf (g / 16) (g % 16 * 2 ^ 22))) }

/-- A partition leaves its cores, clusters and granules (R403); a walk under way goes on (R217). -/
def State.clearOut (s : State) (p : Nat) : State :=
  let vs := s.coresIn p
  let q := s.part p
  let s1 := vs.foldl (fun s c => s.setCore c { freshCore (s.core c) c 0 with tlb := (s.core c).tlb }) s
  let s2 : State := { s1 with
    ctxs := s1.ctxs.filter (fun x => !vs.contains (x.1 / 16))
    clusters := s1.clusters.map (fun c =>
      if q.clusters.contains c.1 then
        (c.1, { ({} : Cluster) with tlb := c.2.tlb, misses := c.2.misses.map (fun m => { m with joined := [] }) }) else c) }
  let s3 := q.granules.foldl (fun s g => s.setGranule g {}) s2
  s3.modMem (fun m => m.clear (fun l => (s.savedLoc vs l).isSome || inGranules q.granules l))

/-- The held contexts of a saved core, by physical context (R404). -/
def SaveArea.held (a : SaveArea) (v : Nat) : List Nat :=
  (a.ctxs.filter (fun x => x.1 / 16 == v && x.2.run != .vacant)).map (fun x => x.1 % 16)

/-- The place of a virtual core on resume: its barrel core, whether it has it alone, its segment base, and the physical
context of each of its contexts (R404). -/
structure Seat where
  v : Nat
  home : Nat
  alone : Bool
  segb : Nat
  ctxs : List (Nat × Nat)

/-- The seats of the virtual cores that share a barrel core, from a physical context and a segment base on. -/
def seatsOn (a : SaveArea) (h : Nat) (alone : Bool) : List Nat → Nat → Nat → List Seat
  | [], _, _ => []
  | v :: r, k, b =>
    let held := if alone then (a.ctxs.filter (fun x => x.1 / 16 == v)).map (fun x => x.1 % 16) else a.held v
    let put (i j : Nat) : Nat × Nat := (i, if alone then (tgetD a.ctxs (v * 16 + i) {}).vctx else k + j)
    let cs := (held.zip (List.range held.length)).map (fun x => put x.1 x.2)
    { v, home := h, alone, segb := if alone then 0 else b, ctxs := cs } ::
      seatsOn a h alone r (k + held.length) (b + (tgetD a.cores v {}).segl.toNat)

/-- The seats of a partition, or none when the homes do not hold it (R404; log 52): each virtual core stays in its cluster. -/
def seatsOf (a : SaveArea) (homes : List (Nat × Nat)) : Option (List Seat) :=
  let vs := a.cores.map Prod.fst
  let homeOf (v : Nat) : Nat := (aget homes v).getD v
  let hs := (vs.map homeOf).eraseDups
  let on (h : Nat) : List Nat := vs.filter (fun v => homeOf v == h)
  let fits (h : Nat) : Bool :=
    (on h).length == 1 ||
      (decide (((on h).map (fun v => (a.held v).length)).sum ≤ 16) &&
       decide (((on h).map (fun v => (tgetD a.cores v {}).segl.toNat)).sum ≤ 2 ^ 20))
  if vs.all (fun v => clOf (homeOf v) == clOf v && decide (homeOf v < 8192)) && hs.all fits then
    some (hs.flatMap (fun h => seatsOn a h ((on h).length == 1) (on h) 0 0))
  else none

/-- The physical context that takes the place of another. -/
def Seat.map (e : Seat) (k : Nat) : Nat := (aget e.ctxs k).getD k

/-- A frame whose members have moved (log 91). -/
def LFrame.moved (F : LFrame) (e : Seat) : LFrame :=
  { F with opener := e.map F.opener, members := F.members.map e.map, its := F.its.map (fun t => { t with ctx := e.map t.ctx }) }

/-- A virtual core on its barrel core (R404). -/
def seatCore (old y : Core) (e : Seat) : Core :=
  { y with
    home := e.home, cyc := old.cyc, tlb := old.tlb, segb := BitVec.ofNat 20 e.segb, image := none, arrayFree := 0
    mask := if e.alone then 0xFFFF else BitVec.ofNat 16 ((e.ctxs.map (fun c => 2 ^ c.2)).sum)
    pool := y.pool.map (fun r => (r.1, { r.2 with ctx := e.map r.2.ctx }))
    tags := y.tags.map (fun t => (t.1, { t.2 with ctx := e.map t.2.ctx }))
    pinned := y.pinned.map (fun p => (e.map p.1, p.2))
    wq := y.wq.map (fun w => { w with ctx := e.map w.ctx })
    frames := y.frames.map (fun F => F.moved e) }

/-- A core and its contexts take their seats; each held context gets its deadline (R403, R404; log 117). -/
def State.seat (s : State) (a : SaveArea) (ydl : Word) (e : Seat) : State :=
  let s := s.setCore e.v (seatCore (s.core e.v) (tgetD a.cores e.v {}) e)
  e.ctxs.foldl (fun s c =>
    let x := tgetD a.ctxs (e.v * 16 + c.1) {}
    s.setCtx e.v c.2 { x with ydl := if x.run = .vacant then x.ydl else ydl }) s

/-- The location at which a saved byte comes to lie. -/
def seatLoc (seats : List Seat) (l : Nat) : Nat :=
  if l / 2 ^ 56 = 1 then
    let v := l % 2 ^ 56 / 2 ^ 20
    match seats.find? (fun e => e.v == v) with
    | some e => locStore e.home (e.segb + l % 2 ^ 20)
    | none => l
  else l

/-- The agents of a restored partition other than its contexts: copies, footprint copies, samplers, dispensers and the sweeps that run
(R259). -/
def restoredAgents (a : SaveArea) (seats : List Seat) : List Agent :=
  seats.flatMap (fun e => .sampler e.v :: e.ctxs.map (fun c => .foot e.v c.2) ++
    (tgetD a.cores e.v {}).tags.map (fun t => .copy e.v t.1)) ++
  a.clusters.flatMap (fun c => .dispenser c.1 :: (c.2.tensors.filter (fun t => t.2.run)).map (fun t => .sweep c.1 t.1 t.2.sn.toNat))

/-- The events that were held while a partition was switched out go to their owners (R20; log 130). -/
def State.sendHeld (s : State) (p : Nat) : State :=
  let s := (s.streams.filter (fun x => x.2.part == p)).foldl (fun s x => s.streamHeld x.1) s
  (s.part p).clusters.foldl (fun s cl => (s.cluster cl).tensors.foldl (fun s t => s.tensorHeld cl t.1) s) s

/-- Step 5 of a world switch (R259, R403; log 106): a saved partition is restored, the view of each of its agents is that of the device
store, and the events held for its owners are sent. -/
def State.restorePart (s : State) (p : Nat) (a : SaveArea) (ydl : Word) (seats : List Seat) : State :=
  let s := seats.foldl (fun s e => s.seat a ydl e) s
  let hs := (seats.map Seat.home).eraseDups
  let first (h : Nat) : Option Nat := (seats.find? (fun e => e.home == h)).map Seat.v
  let s := hs.foldl (fun s h => s.modCore h (fun y => { y with image := if first h = some h then none else first h })) s
  let s := a.clusters.foldl (fun s c => s.modCluster c.1 (fun old => { c.2 with
    tlb := old.tlb, misses := old.misses, missWait := old.missWait, tensors := c.2.tensors.map (fun e => (e.1, { e.2 with since := s.tenderCyc c.1 - e.2.since })) })) s
  let s := a.frts.foldl (fun s d => s.modDie d.1 (fun y => { y with frt := d.2 })) s
  let s := a.granules.foldl (fun s g => s.setGranule g.1 g.2) s
  let s := s.modMem (fun m =>
    let m := m.clear (fun l => seats.any (fun e => coreLocs e.home e.v l) || inGranules (a.granules.map Prod.fst) l)
    let m := a.cells.foldl (fun m c => m.offerD (seatLoc seats c.1) ⟨m.next - 1, c.2⟩) { m with next := m.next + 1 }
    { m with empty := m.empty ++ a.empties.map (seatLoc seats), bad := m.bad ++ a.bads.map (seatLoc seats) })
  let s := s.modPart p (fun q => { q with resident := true, stopping := false, preempted := false, saved := none })
  let s := s.modMem (fun m => (restoredAgents a seats).foldl (fun m g => m.handOff g) m)
  (seats.foldl (fun s e => e.ctxs.foldl (fun s c => s.resumeCtx e.v c.2) s) s).sendHeld p

/-- The trace tails of a partition are sent before it is saved (R381). -/
def State.sendTails (s : State) (p : Nat) : State :=
  (s.coresIn p).foldl (fun s v => (s.ctxsOf v).foldl (fun s k => s.sendTail v k) s) s

/-- The first step of a world switch (R403): the deadline of every held context, and the stop request. -/
def State.askStop (s : State) (p : Nat) (ydl : Word) : State :=
  let vs := s.coresIn p
  { (s.modPart p (fun q => { q with stopping := true })) with
    ctxs := s.ctxs.map (fun x =>
      if vs.contains (x.1 / 16) && x.2.run != .vacant then (x.1, { x.2 with ydl }) else x) }

/-- No other resident partition has the clusters (R22). -/
def State.clustersFree (s : State) (inn : Nat) : Bool :=
  s.parts.all (fun q => q.1 == inn || !q.2.started || !q.2.resident ||
    (s.part inn).clusters.all (fun c => !q.2.clusters.contains c))

/-- WORLD_SWITCH (R403, R404; log 52, log 106): for a partition `out` that runs, the request to stop; for one that pre-emption has stopped, its
save, its trace tails sent first; then partition `inn` is restored where its clusters are free. `slice` is the deadline written. -/
def execWorldSwitch (out inn : Nat) (slice : Word) (homes : List (Nat × Nat)) (s : State) : Out :=
  let p := s.part out
  if s.power != .on then .next s
  else if p.started && p.sliced && p.resident && !p.stopping then .next (s.askStop out slice)
  else
    let t := if p.started && p.sliced && p.resident && p.preempted then
        let s := s.sendTails out
        ((s.clearOut out).modPart out (fun q => { q with
          resident := false, stopping := false, preempted := false, saved := some (s.saveOf out) }))
      else s
    match (t.part inn).saved with
    | none => .next s
    | some a =>
      match seatsOf a homes with
      | none => .next s
      | some seats => if t.clustersFree inn then .next (t.restorePart inn a slice seats) else .next s

end Sys2Proof.Machine
end

