-- ==== Sys2Proof/Machine/Dispatch.lean ====
section
/-! DEFINITION. Dispatch: one arm per constructor of `Instr`, each one direct call of that instruction's meaning. -/

namespace Sys2Proof.Machine

/-- What an instruction or event does (R4, R7). -/
def exec (i : Instr) (s : State) : Host.Outcome State Fault Refusal :=
  match i with
  | .powerOn => Sys2Proof.Machine.execPowerOn s
  | .commit => Sys2Proof.Machine.execCommit s
  | .linkEvent port up => Sys2Proof.Machine.execLinkEvent port up s
  | .scrub loc bad => Sys2Proof.Machine.execScrub loc bad s
  | .queueSramError cl counter idx => Sys2Proof.Machine.execQueueSramError cl counter idx s
  | .launch req => Sys2Proof.Machine.execLaunch req s
  | .startMessage j => Sys2Proof.Machine.execStartMessage j s
  | .launchComplete j => Sys2Proof.Machine.execLaunchComplete j s
  | .write req => Sys2Proof.Machine.execWrite req s
  | .read req => Sys2Proof.Machine.execRead req s
  | .map req => Sys2Proof.Machine.execMap req s
  | .unmap req => Sys2Proof.Machine.execUnmap req s
  | .share req => Sys2Proof.Machine.execShare req s
  | .group req => Sys2Proof.Machine.execGroup req s
  | .sessionDefine req => Sys2Proof.Machine.execSessionDefine req s
  | .sessionRemove req => Sys2Proof.Machine.execSessionRemove req s
  | .pstart req => Sys2Proof.Machine.execPstart req s
  | .pstop req => Sys2Proof.Machine.execPstop req s
  | .status req => Sys2Proof.Machine.execStatus req s
  | .mailboxRequest j => Sys2Proof.Machine.execMailboxRequest j s
  | .stopReport j => Sys2Proof.Machine.execStopReport j s
  | .relayForward die dst packet => Sys2Proof.Machine.execRelayForward die dst packet s
  | .roundContribution sid => Sys2Proof.Machine.execRoundContribution sid s
  | .treeCombine sid level node remote => Sys2Proof.Machine.execTreeCombine sid level node remote s
  | .roundResult sid remote => Sys2Proof.Machine.execRoundResult sid remote s
  | .memberUnreachable sid => Sys2Proof.Machine.execMemberUnreachable sid s
  | .inputFrame f => Sys2Proof.Machine.execInputFrame f s
  | .ackFrame f => Sys2Proof.Machine.execAckFrame f s
  | .bargeFrame f => Sys2Proof.Machine.execBargeFrame f s
  | .outputRecordSend sid => Sys2Proof.Machine.execOutputRecordSend sid s
  | .sweepPeriod cl t => Sys2Proof.Machine.execSweepPeriod cl t s
  | .sweepStart cl => Sys2Proof.Machine.execSweepStart cl s
  | .elementVisit cl => Sys2Proof.Machine.execElementVisit cl s
  | .visitOverrun cl => Sys2Proof.Machine.execVisitOverrun cl s
  | .sweepRelease cl => Sys2Proof.Machine.execSweepRelease cl s
  | .instructionFetch core ctx block cut => Sys2Proof.Machine.execInstructionFetch core ctx block cut s
  | .memoryReply core ctx cuts => Sys2Proof.Machine.execMemoryReply core ctx cuts s
  | .drain j => Sys2Proof.Machine.execDrain j s
  | .lift store stamp => Sys2Proof.Machine.execLift store stamp s
  | .acquireMove core ctx => Sys2Proof.Machine.execAcquireMove core ctx s
  | .releaseMove core ctx => Sys2Proof.Machine.execReleaseMove core ctx s
  | .fenceMove core ctx => Sys2Proof.Machine.execFenceMove core ctx s
  | .atomicMove core ctx => Sys2Proof.Machine.execAtomicMove core ctx s
  | .tlbWalkComplete cl j => Sys2Proof.Machine.execTlbWalkComplete cl j s
  | .frtWindow die => Sys2Proof.Machine.execFrtWindow die s
  | .copyChunkLand core tag chunk => Sys2Proof.Machine.execCopyChunkLand core tag chunk s
  | .copyComplete core tag => Sys2Proof.Machine.execCopyComplete core tag s
  | .freebackCombine core tag => Sys2Proof.Machine.execFreebackCombine core tag s
  | .matrixComplete core => Sys2Proof.Machine.execMatrixComplete core s
  | .weightLoadComplete core ctx => Sys2Proof.Machine.execWeightLoadComplete core ctx s
  | .swaptComplete core ctx => Sys2Proof.Machine.execSwaptComplete core ctx s
  | .foldSwap phys virt => Sys2Proof.Machine.execFoldSwap phys virt s
  | .slotChange j => Sys2Proof.Machine.execSlotChange j s
  | .bindingChange part j => Sys2Proof.Machine.execBindingChange part j s
  | .l2BankChange die j => Sys2Proof.Machine.execL2BankChange die j s
  | .messageDepart core => Sys2Proof.Machine.execMessageDepart core s
  | .messageEntry j => Sys2Proof.Machine.execMessageEntry j s
  | .replyArrival j => Sys2Proof.Machine.execReplyArrival j s
  | .taskDispatch cl => Sys2Proof.Machine.execTaskDispatch cl s
  | .footprintFetchComplete core ctx => Sys2Proof.Machine.execFootprintFetchComplete core ctx s
  | .ringRefill cl => Sys2Proof.Machine.execRingRefill cl s
  | .deadlineExpiry core => Sys2Proof.Machine.execDeadlineExpiry core s
  | .preemptionComplete part => Sys2Proof.Machine.execPreemptionComplete part s
  | .counterOverflow l2 place => Sys2Proof.Machine.execCounterOverflow l2 place s
  | .pcSample core => Sys2Proof.Machine.execPcSample core s
  | .stepExpiry core ctx => Sys2Proof.Machine.execStepExpiry core ctx s
  | .foghornCoreStop core => Sys2Proof.Machine.execFoghornCoreStop core s
  | .traceTailSend core ctx => Sys2Proof.Machine.execTraceTailSend core ctx s
  | .pairWord g sh vh => Sys2Proof.Machine.execPairWord g sh vh s
  | .nop g form lit => Sys2Proof.Machine.execNop g form lit s
  | .br g imm => Sys2Proof.Machine.execBr g imm s
  | .bra g imm => Sys2Proof.Machine.execBra g imm s
  | .jal g rd imm => Sys2Proof.Machine.execJal g rd imm s
  | .jalr g rd a => Sys2Proof.Machine.execJalr g rd a s
  | .ret g a => Sys2Proof.Machine.execRet g a s
  | .rep g a blen imm => Sys2Proof.Machine.execRep g a blen imm s
  | .trap g n => Sys2Proof.Machine.execTrap g n s
  | .loop count w c om ofs => Sys2Proof.Machine.execLoop count w c om ofs s
  | .loopOpen w c om ofs => Sys2Proof.Machine.execLoopOpen w c om ofs s
  | .endl => Sys2Proof.Machine.execEndl s
  | .brk g => Sys2Proof.Machine.execBrk g s
  | .brkO g => Sys2Proof.Machine.execBrkO g s
  | .iret g => Sys2Proof.Machine.execIret g s
  | .vseed g dst k src => Sys2Proof.Machine.execVseed g dst k src s
  | .lfree g => Sys2Proof.Machine.execLfree g s
  | .sysrd g rd n => Sys2Proof.Machine.execSysrd g rd n s
  | .syswr g n a => Sys2Proof.Machine.execSyswr g n a s
  | .fmtg g rd src => Sys2Proof.Machine.execFmtg g rd src s
  | .fmts g dst t => Sys2Proof.Machine.execFmts g dst t s
  | .add g w rd a b => Sys2Proof.Machine.execAdd g w rd a b s
  | .sub g w rd a b => Sys2Proof.Machine.execSub g w rd a b s
  | .mul g w rd a b => Sys2Proof.Machine.execMul g w rd a b s
  | .mulh g w rd a b => Sys2Proof.Machine.execMulh g w rd a b s
  | .mulhu g w rd a b => Sys2Proof.Machine.execMulhu g w rd a b s
  | .div g w rd a b => Sys2Proof.Machine.execDiv g w rd a b s
  | .divu g w rd a b => Sys2Proof.Machine.execDivu g w rd a b s
  | .rem g w rd a b => Sys2Proof.Machine.execRem g w rd a b s
  | .remu g w rd a b => Sys2Proof.Machine.execRemu g w rd a b s
  | .and g rd a b => Sys2Proof.Machine.execAnd g rd a b s
  | .or g rd a b => Sys2Proof.Machine.execOr g rd a b s
  | .xor g rd a b => Sys2Proof.Machine.execXor g rd a b s
  | .andn g rd a b => Sys2Proof.Machine.execAndn g rd a b s
  | .orn g rd a b => Sys2Proof.Machine.execOrn g rd a b s
  | .shl g w rd a b => Sys2Proof.Machine.execShl g w rd a b s
  | .shr g w rd a b => Sys2Proof.Machine.execShr g w rd a b s
  | .sar g w rd a b => Sys2Proof.Machine.execSar g w rd a b s
  | .rol g w rd a b => Sys2Proof.Machine.execRol g w rd a b s
  | .clz g w rd a => Sys2Proof.Machine.execClz g w rd a s
  | .ctz g w rd a => Sys2Proof.Machine.execCtz g w rd a s
  | .popc g w rd a => Sys2Proof.Machine.execPopc g w rd a s
  | .min g w rd a b => Sys2Proof.Machine.execMin g w rd a b s
  | .max g w rd a b => Sys2Proof.Machine.execMax g w rd a b s
  | .minu g w rd a b => Sys2Proof.Machine.execMinu g w rd a b s
  | .maxu g w rd a b => Sys2Proof.Machine.execMaxu g w rd a b s
  | .sel g rd n a b => Sys2Proof.Machine.execSel g rd n a b s
  | .mov g rd a => Sys2Proof.Machine.execMov g rd a s
  | .addi g w rd a imm => Sys2Proof.Machine.execAddi g w rd a imm s
  | .li g rd imm => Sys2Proof.Machine.execLi g rd imm s
  | .extf g sg rd a pos len => Sys2Proof.Machine.execExtf g sg rd a pos len s
  | .insf g rd a b pos len => Sys2Proof.Machine.execInsf g rd a b pos len s
  | .pga g c rd place off space disp => Sys2Proof.Machine.execPga g c rd place off space disp s
  | .cmp g w cc gd a b => Sys2Proof.Machine.execCmp g w cc gd a b s
  | .cmpi g w cc gd a imm => Sys2Proof.Machine.execCmpi g w cc gd a imm s
  | .gand g gd ga gb => Sys2Proof.Machine.execGand g gd ga gb s
  | .gor g gd ga gb => Sys2Proof.Machine.execGor g gd ga gb s
  | .gnot g gd ga => Sys2Proof.Machine.execGnot g gd ga s
  | .vadd g vd a b => Sys2Proof.Machine.execVadd g vd a b s
  | .vsub g vd a b => Sys2Proof.Machine.execVsub g vd a b s
  | .vmul g vd a b => Sys2Proof.Machine.execVmul g vd a b s
  | .vfma g vd a b c => Sys2Proof.Machine.execVfma g vd a b c s
  | .vfms g vd a b c => Sys2Proof.Machine.execVfms g vd a b c s
  | .vmin g vd a b => Sys2Proof.Machine.execVmin g vd a b s
  | .vmax g vd a b => Sys2Proof.Machine.execVmax g vd a b s
  | .vabs g vd a => Sys2Proof.Machine.execVabs g vd a s
  | .vneg g vd a => Sys2Proof.Machine.execVneg g vd a s
  | .vcps g vd a b => Sys2Proof.Machine.execVcps g vd a b s
  | .vcmp g cc gd a b => Sys2Proof.Machine.execVcmp g cc gd a b s
  | .vsel g vd n a b => Sys2Proof.Machine.execVsel g vd n a b s
  | .vrnd g vd a => Sys2Proof.Machine.execVrnd g vd a s
  | .vfexp g vd a => Sys2Proof.Machine.execVfexp g vd a s
  | .vexpi g vd a b => Sys2Proof.Machine.execVexpi g vd a b s
  | .vlogb g vd a => Sys2Proof.Machine.execVlogb g vd a s
  | .vrcp g vd a => Sys2Proof.Machine.execVrcp g vd a s
  | .vrsq g vd a => Sys2Proof.Machine.execVrsq g vd a s
  | .vcvt g u m t vd a => Sys2Proof.Machine.execVcvt g u m t vd a s
  | .vpack g u m t vd a b => Sys2Proof.Machine.execVpack g u m t vd a b s
  | .vunpk g u t h vd a => Sys2Proof.Machine.execVunpk g u t h vd a s
  | .viadd g mode vd a b => Sys2Proof.Machine.execViadd g mode vd a b s
  | .visub g mode vd a b => Sys2Proof.Machine.execVisub g mode vd a b s
  | .vimul g vd a b => Sys2Proof.Machine.execVimul g vd a b s
  | .vimad g vd a b c => Sys2Proof.Machine.execVimad g vd a b c s
  | .vand g vd a b => Sys2Proof.Machine.execVand g vd a b s
  | .vor g vd a b => Sys2Proof.Machine.execVor g vd a b s
  | .vxor g vd a b => Sys2Proof.Machine.execVxor g vd a b s
  | .vshl g vd a b => Sys2Proof.Machine.execVshl g vd a b s
  | .vshr g vd a b => Sys2Proof.Machine.execVshr g vd a b s
  | .vsar g vd a b => Sys2Proof.Machine.execVsar g vd a b s
  | .vdot4 g vd a b c => Sys2Proof.Machine.execVdot4 g vd a b c s
  | .vbcast g vd a t imm => Sys2Proof.Machine.execVbcast g vd a t imm s
  | .vperm g vd a b => Sys2Proof.Machine.execVperm g vd a b s
  | .vrot g vd a k => Sys2Proof.Machine.execVrot g vd a k s
  | .vmovs g sg rd a k => Sys2Proof.Machine.execVmovs g sg rd a k s
  | .vins g vd a k t => Sys2Proof.Machine.execVins g vd a k t s
  | .vreda g vd a => Sys2Proof.Machine.execVreda g vd a s
  | .vredm g vd a => Sys2Proof.Machine.execVredm g vd a s
  | .vscan g vd a => Sys2Proof.Machine.execVscan g vd a s
  | .mmab g z xa xw => Sys2Proof.Machine.execMmab g z xa xw s
  | .mmai g z xa xw => Sys2Proof.Machine.execMmai g z xa xw s
  | .mmad g z xa xw xs => Sys2Proof.Machine.execMmad g z xa xw xs s
  | .zclr g z t => Sys2Proof.Machine.execZclr g z t s
  | .zscale g z a => Sys2Proof.Machine.execZscale g z a s
  | .zrd g vd z p => Sys2Proof.Machine.execZrd g vd z p s
  | .zwr g z a p => Sys2Proof.Machine.execZwr g z a p s
  | .zld g z xb t imm => Sys2Proof.Machine.execZld g z xb t imm s
  | .zst g z xb imm => Sys2Proof.Machine.execZst g z xb imm s
  | .wbld g xd xb imm => Sys2Proof.Machine.execWbld g xd xb imm s
  | .ldt g xd xb imm => Sys2Proof.Machine.execLdt g xd xb imm s
  | .swapt g t zd zs key => Sys2Proof.Machine.execSwapt g t zd zs key s
  | .ld g rd xb imm => Sys2Proof.Machine.execLd g rd xb imm s
  | .ldW g rd xb imm => Sys2Proof.Machine.execLdW g rd xb imm s
  | .ldWu g rd xb imm => Sys2Proof.Machine.execLdWu g rd xb imm s
  | .ldH g rd xb imm => Sys2Proof.Machine.execLdH g rd xb imm s
  | .ldHu g rd xb imm => Sys2Proof.Machine.execLdHu g rd xb imm s
  | .ldB g rd xb imm => Sys2Proof.Machine.execLdB g rd xb imm s
  | .ldBu g rd xb imm => Sys2Proof.Machine.execLdBu g rd xb imm s
  | .st g rs xb imm => Sys2Proof.Machine.execSt g rs xb imm s
  | .stW g rs xb imm => Sys2Proof.Machine.execStW g rs xb imm s
  | .stH g rs xb imm => Sys2Proof.Machine.execStH g rs xb imm s
  | .stB g rs xb imm => Sys2Proof.Machine.execStB g rs xb imm s
  | .ldv g vd xb imm => Sys2Proof.Machine.execLdv g vd xb imm s
  | .stv g vs xb imm => Sys2Proof.Machine.execStv g vs xb imm s
  | .ldg g vd xb vi => Sys2Proof.Machine.execLdg g vd xb vi s
  | .sts g vs xb vi => Sys2Proof.Machine.execSts g vs xb vi s
  | .ldl g vd xo off => Sys2Proof.Machine.execLdl g vd xo off s
  | .stl g vs xo off => Sys2Proof.Machine.execStl g vs xo off s
  | .pref g xb imm => Sys2Proof.Machine.execPref g xb imm s
  | .lde g rd xb imm => Sys2Proof.Machine.execLde g rd xb imm s
  | .stf g rs xb imm => Sys2Proof.Machine.execStf g rs xb imm s
  | .ldf g rd xb imm => Sys2Proof.Machine.execLdf g rd xb imm s
  | .fempty g xb imm => Sys2Proof.Machine.execFempty g xb imm s
  | .futr g rd xb imm => Sys2Proof.Machine.execFutr g rd xb imm s
  | .futw g rd rs xb imm => Sys2Proof.Machine.execFutw g rd rs xb imm s
  | .aadd g w rd xb rs => Sys2Proof.Machine.execAadd g w rd xb rs s
  | .amin g w rd xb rs => Sys2Proof.Machine.execAmin g w rd xb rs s
  | .amax g w rd xb rs => Sys2Proof.Machine.execAmax g w rd xb rs s
  | .axch g w rd xb rs => Sys2Proof.Machine.execAxch g w rd xb rs s
  | .acas g w rd xb rs rc => Sys2Proof.Machine.execAcas g w rd xb rs rc s
  | .aand g w rd xb rs => Sys2Proof.Machine.execAand g w rd xb rs s
  | .aor g w rd xb rs => Sys2Proof.Machine.execAor g w rd xb rs s
  | .acqGroup g rd xs => Sys2Proof.Machine.execAcqGroup g rd xs s
  | .acqDevice g rd xs => Sys2Proof.Machine.execAcqDevice g rd xs s
  | .acqSystem g rd xs => Sys2Proof.Machine.execAcqSystem g rd xs s
  | .relGroup g xs rv => Sys2Proof.Machine.execRelGroup g xs rv s
  | .relDevice g xs rv => Sys2Proof.Machine.execRelDevice g xs rv s
  | .relSystem g xs rv => Sys2Proof.Machine.execRelSystem g xs rv s
  | .fenceGroup g => Sys2Proof.Machine.execFenceGroup g s
  | .fenceDevice g => Sys2Proof.Machine.execFenceDevice g s
  | .fenceSystem g => Sys2Proof.Machine.execFenceSystem g s
  | .cpw g k a b => Sys2Proof.Machine.execCpw g k a b s
  | .cpgo g rd => Sys2Proof.Machine.execCpgo g rd s
  | .cpwany g rd a => Sys2Proof.Machine.execCpwany g rd a s
  | .cpwall g rd a => Sys2Proof.Machine.execCpwall g rd a s
  | .cpff g rd a => Sys2Proof.Machine.execCpff g rd a s
  | .cpclr g a => Sys2Proof.Machine.execCpclr g a s
  | .cpclrF g a => Sys2Proof.Machine.execCpclrF g a s
  | .cpchk g rd a => Sys2Proof.Machine.execCpchk g rd a s
  | .spawn g gd xpc xc b => Sys2Proof.Machine.execSpawn g gd xpc xc b s
  | .quit g xs => Sys2Proof.Machine.execQuit g xs s
  | .reap g rd => Sys2Proof.Machine.execReap g rd s
  | .waitw g => Sys2Proof.Machine.execWaitw g s
  | .taskq g gd xs n => Sys2Proof.Machine.execTaskq g gd xs n s
  | .taskqDeque g gd xs => Sys2Proof.Machine.execTaskqDeque g gd xs s
  | .take g rd gd => Sys2Proof.Machine.execTake g rd gd s
  | .steal g rd gd xc => Sys2Proof.Machine.execSteal g rd gd xc s
  | .qcfgHwqueueType g xa xb => Sys2Proof.Machine.execQcfgHwqueueType g xa xb s
  | .qcfgPriority g xa xb => Sys2Proof.Machine.execQcfgPriority g xa xb s
  | .qcfgOwner g xa xb => Sys2Proof.Machine.execQcfgOwner g xa xb s
  | .qcfgRing g xa xb => Sys2Proof.Machine.execQcfgRing g xa xb s
  | .qcfgArm g xa xb => Sys2Proof.Machine.execQcfgArm g xa xb s
  | .qcfgCounter g xa xb => Sys2Proof.Machine.execQcfgCounter g xa xb s
  | .qstatHwqueue g rd xa => Sys2Proof.Machine.execQstatHwqueue g rd xa s
  | .qstatTaskqueue g rd xa => Sys2Proof.Machine.execQstatTaskqueue g rd xa s
  | .qstatCounter g rd xa => Sys2Proof.Machine.execQstatCounter g rd xa s
  | .qstatDeque g rd xa => Sys2Proof.Machine.execQstatDeque g rd xa s
  | .qstatExitqueue g rd xa => Sys2Proof.Machine.execQstatExitqueue g rd xa s
  | .qstatMailbox g rd xa => Sys2Proof.Machine.execQstatMailbox g rd xa s
  | .qstatPoisonlog g rd xa => Sys2Proof.Machine.execQstatPoisonlog g rd xa s
  | .qstatDrops g rd xa => Sys2Proof.Machine.execQstatDrops g rd xa s
  | .qrst g xa => Sys2Proof.Machine.execQrst g xa s
  | .send g xd xa xb => Sys2Proof.Machine.execSend g xd xa xb s
  | .mrecv g rd mb => Sys2Proof.Machine.execMrecv g rd mb s
  | .mrecvR g rd k => Sys2Proof.Machine.execMrecvR g rd k s
  | .rcall g rd xd xa k => Sys2Proof.Machine.execRcall g rd xd xa k s
  | .rcallN g xd xa k => Sys2Proof.Machine.execRcallN g xd xa k s
  | .rreply g xt xv => Sys2Proof.Machine.execRreply g xt xv s
  | .bsdefJ g xs xc => Sys2Proof.Machine.execBsdefJ g xs xc s
  | .bsdefL g xs => Sys2Proof.Machine.execBsdefL g xs s
  | .barv g rd k => Sys2Proof.Machine.execBarv g rd k s
  | .bwait g xp k => Sys2Proof.Machine.execBwait g xp k s
  | .barw g rd k => Sys2Proof.Machine.execBarw g rd k s
  | .rbind g rd xb xl xs => Sys2Proof.Machine.execRbind g rd xb xl xs s
  | .runbnd g xi => Sys2Proof.Machine.execRunbnd g xi s
  | .slotwA g xp xv => Sys2Proof.Machine.execSlotwA g xp xv s
  | .slotwB g xp xv => Sys2Proof.Machine.execSlotwB g xp xv s
  | .slotwE g xp xv => Sys2Proof.Machine.execSlotwE g xp xv s
  | .slotwT g xp xv => Sys2Proof.Machine.execSlotwT g xp xv s
  | .slotrdA g rd xp => Sys2Proof.Machine.execSlotrdA g rd xp s
  | .slotrdB g rd xp => Sys2Proof.Machine.execSlotrdB g rd xp s
  | .slotrdE g rd xp => Sys2Proof.Machine.execSlotrdE g rd xp s
  | .slotrdT g rd xp => Sys2Proof.Machine.execSlotrdT g rd xp s
  | .sframe g gd rd xs => Sys2Proof.Machine.execSframe g gd rd xs s
  | .semit g gd rd xs xv => Sys2Proof.Machine.execSemit g gd rd xs xv s
  | .scurGnc g rd xs => Sys2Proof.Machine.execScurGnc g rd xs s
  | .scurPbc g rd xs => Sys2Proof.Machine.execScurPbc g rd xs s
  | .scurTp g rd xs => Sys2Proof.Machine.execScurTp g rd xs s
  | .scurNseq g rd xs => Sys2Proof.Machine.execScurNseq g rd xs s
  | .scurSnapshots g rd xs => Sys2Proof.Machine.execScurSnapshots g rd xs s
  | .scurLoss g rd xs => Sys2Proof.Machine.execScurLoss g rd xs s
  | .scurDrops g rd xs => Sys2Proof.Machine.execScurDrops g rd xs s
  | .strunc g rd xs => Sys2Proof.Machine.execStrunc g rd xs s
  | .ssnap g rd xs xp => Sys2Proof.Machine.execSsnap g rd xs xp s
  | .sownOwner g xs xo => Sys2Proof.Machine.execSownOwner g xs xo s
  | .sownOpen g xs xo => Sys2Proof.Machine.execSownOpen g xs xo s
  | .sownClose g xs xo => Sys2Proof.Machine.execSownClose g xs xo s
  | .swdecl g rd xa => Sys2Proof.Machine.execSwdecl g rd xa s
  | .swdeclO g xt xo => Sys2Proof.Machine.execSwdeclO g xt xo s
  | .swgo g xt xn => Sys2Proof.Machine.execSwgo g xt xn s
  | .swgoC g xt xn => Sys2Proof.Machine.execSwgoC g xt xn s
  | .swgoW g res xt xn => Sys2Proof.Machine.execSwgoW g res xt xn s
  | .swstop g xt => Sys2Proof.Machine.execSwstop g xt s
  | .swstopD g xt => Sys2Proof.Machine.execSwstopD g xt s
  | .swstatSn g rd xt => Sys2Proof.Machine.execSwstatSn g rd xt s
  | .swstatPos g rd xt => Sys2Proof.Machine.execSwstatPos g rd xt s
  | .swstatPend g rd xt => Sys2Proof.Machine.execSwstatPend g rd xt s
  | .swstatLoss g rd xt => Sys2Proof.Machine.execSwstatLoss g rd xt s
  | .cntcfg g id a => Sys2Proof.Machine.execCntcfg g id a s
  | .cntrd g rd id => Sys2Proof.Machine.execCntrd g rd id s
  | .cntrdC g rd id => Sys2Proof.Machine.execCntrdC g rd id s
  | .cntwr g id a => Sys2Proof.Machine.execCntwr g id a s
  | .cntsv g grp a => Sys2Proof.Machine.execCntsv g grp a s
  | .cntld g grp a => Sys2Proof.Machine.execCntld g grp a s
  | .bkpt g n => Sys2Proof.Machine.execBkpt g n s
  | .bkptW g a b => Sys2Proof.Machine.execBkptW g a b s
  | .bkptR g rd a => Sys2Proof.Machine.execBkptR g rd a s
  | .bkptS g a b => Sys2Proof.Machine.execBkptS g a b s
  | .bkptF g => Sys2Proof.Machine.execBkptF g s
  | .bkptT g op a => Sys2Proof.Machine.execBkptT g op a s
  | .tmark g a imm => Sys2Proof.Machine.execTmark g a imm s
  | .tmarkO g a imm => Sys2Proof.Machine.execTmarkO g a imm s
  | .tmarkC g form => Sys2Proof.Machine.execTmarkC g form s
  | .rmark g a imm => Sys2Proof.Machine.execRmark g a imm s
  | .tret g => Sys2Proof.Machine.execTret g s
  | .yield g rd => Sys2Proof.Machine.execYield g rd s
  | .csave g xa xc => Sys2Proof.Machine.execCsave g xa xc s
  | .crest g xa xc => Sys2Proof.Machine.execCrest g xa xc s
  | .coreCycle core => Sys2Proof.Machine.execCoreCycle core s
  | .worldSwitch out inn slice homes => Sys2Proof.Machine.execWorldSwitch out inn slice homes s
  | .powerLoss => Sys2Proof.Machine.execPowerLoss s
  | .attestation nonce => Sys2Proof.Machine.execAttestation nonce s
  | .reservedEncoding => Sys2Proof.Machine.execReservedEncoding s

end Sys2Proof.Machine
end

