-- ==== Sys2Proof/Machine/Step.lean ====
section
/-! DEFINITION. One step of the machine (R4, R7, R12, R247; log 1): the instruction that a slot issues, the next event of the
agenda, or one of the moves that the machine may make. -/

namespace Sys2Proof.Machine

/-- A step that is an event, no instruction (R4; log 1). -/
def isEvent : Instr → Bool
  | .powerOn | .commit | .linkEvent .. | .scrub .. | .queueSramError .. | .launch .. | .startMessage ..
  | .launchComplete .. | .write .. | .read .. | .map .. | .unmap .. | .share .. | .group .. | .sessionDefine ..
  | .sessionRemove .. | .pstart .. | .pstop .. | .status .. | .mailboxRequest .. | .stopReport .. | .relayForward ..
  | .roundContribution .. | .treeCombine .. | .roundResult .. | .memberUnreachable .. | .inputFrame .. | .ackFrame ..
  | .bargeFrame .. | .outputRecordSend .. | .sweepPeriod .. | .sweepStart .. | .elementVisit .. | .visitOverrun ..
  | .sweepRelease .. | .instructionFetch .. | .memoryReply .. | .drain .. | .lift .. | .acquireMove ..
  | .releaseMove .. | .fenceMove .. | .atomicMove .. | .tlbWalkComplete .. | .frtWindow .. | .copyChunkLand ..
  | .copyComplete .. | .freebackCombine .. | .matrixComplete .. | .weightLoadComplete .. | .swaptComplete ..
  | .foldSwap .. | .slotChange .. | .bindingChange .. | .l2BankChange .. | .messageDepart .. | .messageEntry ..
  | .replyArrival .. | .taskDispatch .. | .footprintFetchComplete .. | .ringRefill .. | .deadlineExpiry ..
  | .preemptionComplete .. | .counterOverflow .. | .pcSample .. | .stepExpiry .. | .foghornCoreStop ..
  | .traceTailSend .. | .coreCycle .. | .worldSwitch .. | .powerLoss | .attestation .. => true
  | _ => false

/-- The instruction of a slot (R59, R79, R417): it is fetched and decoded at the context's PC and executed; a word that decodes to
nothing raises ILLEGAL. -/
def State.runOne (s : State) : Out :=
  match fetchInstr s with
  | .error e => .next (s.stopped [] e)
  | .ok (none, t) => execReservedEncoding t
  | .ok (some (.one i), t) => exec i t
  | .ok (some (.crest g xa xc), t) => execCrest g xa xc t
  | .ok (some (.pair g sh vh), t) => execPairWord g sh vh t

/-- The end of the cycle of an attempt: it counts as an issue unless the attempt had to wait (R12, R15, R16). -/
def afterIssue (c k : Nat) : Out → Out
  | .next t => .next (t.endCycle c k (t.acct == .iss))
  | o => o

/-- The cycle of a slot whose context issues. -/
def State.issueStep (s : State) (c k : Nat) : Out :=
  afterIssue c k ({ s with issue := none, cur := (c, k), acct := .iss }.runOne)

/-! The machine's free moves. -/

/-- A move of the machine. -/
abbrev Move := State → Out

/-- Numbers from 0 to `n - 1` for a move each. -/
def each (n : Nat) (f : Nat → Move) : List Move := (List.range n).map f

/-- The cuts of a reply (log 1, log 6). -/
def State.cutsNow (s : State) : List Nat := (List.range 256).map (fun i => Config.cut (s.tick * 256 + i))

/-- What may reach the machine from outside (R21, R301, R317, R409 to R413; log 1). -/
def State.outsideMoves (s : State) : List Move :=
  let n := Config.numberIn s.tick
  let r := Config.requestIn s.tick
  let f := Config.frameIn s.tick
  [execCommit, execLinkEvent (Fin.ofNat 32 n) (n / 32 % 2 == 1), execScrub (n / 2) (n % 2 == 1),
   execQueueSramError (n / 2 % 512) (n % 2 == 1) (n / 1024), execLaunch r, execWrite r, execRead r, execMap r, execUnmap r,
   execShare r, execGroup r, execSessionDefine r, execSessionRemove r, execPstart r, execPstop r, execStatus r,
   execRelayForward (Fin.ofNat 4 n) (BitVec.ofNat 32 (n / 4)) (Config.packetIn s.tick), execInputFrame f, execAckFrame f,
   execBargeFrame f, execPowerLoss, execAttestation (Config.bytesIn s.tick),
   execWorldSwitch (n % 16) (n / 16 % 16) (BitVec.ofNat 64 (n / 256)) (Config.homesIn s.tick)]

/-- The moves of the networks, the fabric and the host interface. -/
def State.netMoves (s : State) : List Move :=
  let n := Config.numberIn s.tick
  each s.net.length execStartMessage ++ each s.net.length execMailboxRequest ++ each s.net.length execStopReport ++
  each s.net.length execMessageEntry ++ each s.net.length execReplyArrival ++ each s.launches.length execLaunchComplete ++
  s.sessions.flatMap (fun e =>
    [execRoundContribution e.1, execTreeCombine e.1 (n % 16) (n / 16) (Config.packetsIn s.tick),
     execRoundResult e.1 (Config.resultIn s.tick), execMemberUnreachable e.1]) ++
  s.streams.map (fun e => execOutputRecordSend e.1) ++ s.parts.map (fun p => execPreemptionComplete p.1)

/-- The moves of the memories (R247, R268, R269, R339, R405). -/
def State.memMoves (s : State) : List Move :=
  each s.mem.bufs.length execDrain ++
  s.mem.g.flatMap (fun t => t.2.map (fun h => execLift t.1 h.2.stamp)) ++ s.mem.dStamp.map (fun c => execLift nGroups c.2) ++
  each s.slotNew.length execSlotChange ++ s.parts.flatMap (fun p => each p.2.bindNew.length (execBindingChange p.1)) ++
  s.dies.flatMap (fun d => execFrtWindow d.1 :: each d.2.bankNew.length (execL2BankChange d.1))

/-- The moves of a context's requests. -/
def State.ctxMoves (s : State) : List Move :=
  s.ctxs.flatMap (fun x =>
    let c := x.1 / 16
    let k := x.1 % 16
    [execInstructionFetch c k (BitVec.ofNat 64 (Config.numberIn s.tick)) (Config.cut s.tick), execMemoryReply c k s.cutsNow,
     execAcquireMove c k, execReleaseMove c k, execFenceMove c k, execAtomicMove c k, execWeightLoadComplete c k,
     execSwaptComplete c k, execFootprintFetchComplete c k, execStepExpiry c k, execTraceTailSend c k])

/-- The moves of a core's engines. -/
def State.coreMoves (s : State) : List Move :=
  s.cores.flatMap (fun y =>
    [execMatrixComplete y.1, execMessageDepart y.1, execDeadlineExpiry y.1, execPcSample y.1, execFoghornCoreStop y.1,
     execFoldSwap y.2.home y.1] ++
    y.2.tags.flatMap (fun t =>
      [execCopyComplete y.1 t.1] ++ each 4096 (execCopyChunkLand y.1 t.1)) ++
    y.2.trees.map (fun t => execFreebackCombine y.1 t.1))

/-- The moves of a cluster's tender, dispenser and shared TLB, and the counters' events. -/
def State.clusterMoves (s : State) : List Move :=
  s.clusters.flatMap (fun y =>
    [execSweepStart y.1, execElementVisit y.1, execVisitOverrun y.1, execSweepRelease y.1, execTaskDispatch y.1,
     execRingRefill y.1] ++ y.2.tensors.map (fun t => execSweepPeriod y.1 t.1) ++ each y.2.misses.length (execTlbWalkComplete y.1)) ++
  each s.ovfDue.length (execCounterOverflow false) ++ each s.l2Pending.length (execCounterOverflow true)

/-- The moves the machine may make, but for the cycles of its cores (log 1). -/
def State.moves (s : State) : List Move :=
  s.outsideMoves ++ s.netMoves ++ s.memMoves ++ s.ctxMoves ++ s.coreMoves ++ s.clusterMoves

/-- The move that comes next, as the machine chooses (R247; log 1): a listed move, or a cycle of a barrel or service core. -/
def State.freeMove (s : State) : Move :=
  let l := s.moves
  let n := Config.pick s.tick % (l.length + 8320)
  match l[n]? with
  | some m => m
  | none => execCoreCycle (n - l.length)

/-- One step: nothing but the boot happens without the supply (log 3, log 1); else the issue of a slot that has been given, the
agenda, or a free move. -/
def step (s : State) : Host.Outcome State Fault Refusal :=
  if s.power = .off then
    if s.issue.isSome || !s.agenda.isEmpty then .fault .unpowered else execPowerOn s
  else
    match s.issue with
    | some (c, k) => s.issueStep c k
    | none =>
      match s.agenda with
      | i :: r => if isEvent i then exec i { s with agenda := r } else .next { s with agenda := r }
      | [] => s.freeMove { s with tick := s.tick + 1 }

/-- The bytes of an instruction in the first core's core store, at its keeper's PC (log 5). -/
def State.placeWord (s : State) (bs : List Byte) : State :=
  s.modMem (fun m => { m with d := ((locsFrom (locStore 0 0) bs.length).zip bs).foldl (fun d c => Memory.set d c.1 c.2) m.d })

/-- The machine with an instruction where its next step fetches it (log 5): the module is on, the keeper of core 0 is held, its PC
is the first byte of its core store, the block has been fetched, and the slot is its own. -/
def State.withFetchWord (s : State) (nbits w : Nat) : State :=
  let bs := leBytes 16 (w % 2 ^ nbits)
  let pc : Word := 0x8000_0000_0000_0000
  let t := s.placeWord bs
  { (t.modCtx 0 0 (fun x =>
      { x with pc, run := .held, wait := none, pend := none, stopped := false, live := {}
               fetched := (pc, bs ++ List.replicate 16 0) :: x.fetched.filter (fun f => f.1 != pc) })) with
    power := .on, issue := some (0, 0), agenda := [] }

end Sys2Proof.Machine
end

