-- ==== Sys2Proof/Safety.lean ====
section
/-! DEFINITION. What counts as a safe run (a run stops only for want of the supply, and its memory keeps its form), and the
terms in which claims speak of an instruction: it issues, it is guarded off, a part of it answers. -/

namespace Sys2Proof.Machine

/-- A run of the machine, step by step. -/
inductive Reach : State → State → Prop
  | here (s : State) : Reach s s
  | next (s t u : State) : step s = .next t → Reach t u → Reach s u

/-- The device store, which is the machine's memory, is in canonical form: rising locations, no listed 0 (R246). -/
def State.Sound (s : State) : Prop := Memory.wf s.mem.d = true

/-- A run from a state is safe: every state it reaches is sound, and only a machine without supply stops. -/
def SafeFrom (s : State) : Prop :=
  ∀ t, Reach s t → t.Sound ∧ (t.power ≠ .off → ∃ u, step t = .next u)

/-- The state in which an instruction's slot begins: the slot counts as ISS unless the instruction waits (R15). -/
abbrev State.begun (s : State) : State := { s with acct := .iss }

/-- A part of an instruction answers a value, and goes on in a state. -/
abbrev Gives {α : Type} (m : M α) (s : State) (a : α) (t : State) : Prop := m s = .ok (a, t)

/-- The instruction of the acting context passes decode, breakpoints, the depth limit and the wait of a side-effect
instruction, and is guarded on (R66, R80, R106, R110, R373): its body begins in `t`. -/
def Issues (i : Info) (s t : State) : Prop := Gives (prologue i) s.begun true t

/-- The instruction is guarded off (R66). -/
def Skips (i : Info) (s t : State) : Prop := Gives (prologue i) s.begun false t

end Sys2Proof.Machine
end

