-- ==== Sys2Proof/Certificates/Slice0/Obligations.lean ====
section
/-! DEFINITION. The statements for the provers. -/

open Sys2Proof Sys2Proof.Machine

/-! ## Scalar instructions -/

/-- The .w form of an operation computes on the low halves and sign-extends (R123). -/
def Claim.wide (w : Bool) (f : ∀ n, BitVec n → BitVec n → BitVec n) (a b : Word) : Word :=
  if w then (f 32 (a.setWidth 32) (b.setWidth 32)).signExtend 64 else f 64 a b

/-- The instructions of R125 and R126 on two sources that have a .w form, with the result of the width they compute in. -/
def Claim.scalarOps : List ((Guard → Bool → SDst → SSrc → SSrc → Instr) × (∀ n, BitVec n → BitVec n → BitVec n)) :=
  [(.add, fun n a b => BitVec.ofInt n (a.toInt + b.toInt)),
   (.sub, fun n a b => BitVec.ofInt n (a.toInt - b.toInt)),
   (.mul, fun n a b => BitVec.ofInt n (a.toInt * b.toInt)),
   (.mulh, fun n a b => BitVec.ofInt n (a.toInt * b.toInt / 2 ^ n)),
   (.mulhu, fun n a b => BitVec.ofNat n (a.toNat * b.toNat / 2 ^ n)),
   (.div, fun n a b =>
     if b = 0 then BitVec.allOnes n
     else if a = BitVec.intMin n ∧ b = BitVec.allOnes n then BitVec.intMin n
     else BitVec.ofInt n (a.toInt.tdiv b.toInt)),
   (.divu, fun n a b => if b = 0 then BitVec.allOnes n else BitVec.ofNat n (a.toNat / b.toNat)),
   (.rem, fun n a b =>
     if b = 0 then a
     else if a = BitVec.intMin n ∧ b = BitVec.allOnes n then 0
     else BitVec.ofInt n (a.toInt - b.toInt * a.toInt.tdiv b.toInt)),
   (.remu, fun n a b => if b = 0 then a else BitVec.ofNat n (a.toNat - b.toNat * (a.toNat / b.toNat))),
   (.shl, fun n a b => BitVec.ofNat n (a.toNat * 2 ^ (b.toNat % n))),
   (.shr, fun n a b => BitVec.ofNat n (a.toNat / 2 ^ (b.toNat % n))),
   (.sar, fun n a b => BitVec.ofInt n (a.toInt / 2 ^ (b.toNat % n))),
   (.rol, fun n a b => a <<< (b.toNat % n) ||| a >>> (n - b.toNat % n)),
   (.min, fun _ a b => if a.toInt ≤ b.toInt then a else b),
   (.max, fun _ a b => if a.toInt ≤ b.toInt then b else a),
   (.minu, fun _ a b => if a.toNat ≤ b.toNat then a else b),
   (.maxu, fun _ a b => if a.toNat ≤ b.toNat then b else a)]

/-- The bitwise instructions of R125: each bit of the result from the bits of its sources. -/
def Claim.logicOps : List ((Guard → SDst → SSrc → SSrc → Instr) × (Bool → Bool → Bool)) :=
  [(.and, fun a b => a && b), (.or, fun a b => a || b), (.xor, fun a b => a != b), (.andn, fun a b => a && !b),
   (.orn, fun a b => a || !b)]

/-- R125, R126, R123: each two-source scalar instruction that issues, whose operands can be read in order and whose
destination takes a value, writes the stated result and completes. -/
def Said.ScalarBinaryResults : Prop :=
  (∀ e ∈ Claim.scalarOps, ∀ g w rd a b s s1 s2 s3 u v,
    Issues (binInfo g rd a b) s s1 → Gives (readS a) s1 u s2 → Gives (readS b) s2 v s3 → Gives (checkS rd) s3 () s3 →
    exec (e.1 g w rd a b) s = .next ((s3.putS rd (Claim.wide w e.2 u v)).retire 8)) ∧
  (∀ e ∈ Claim.logicOps, ∀ g rd a b s s1 s2 s3 u v,
    Issues (binInfo g rd a b) s s1 → Gives (readS a) s1 u s2 → Gives (readS b) s2 v s3 → Gives (checkS rd) s3 () s3 →
    ∃ r : Word, exec (e.1 g rd a b) s = .next ((s3.putS rd r).retire 8) ∧
      ∀ i < 64, r.getLsbD i = e.2 (u.getLsbD i) (v.getLsbD i))

/-- The number of leading or trailing zero bits, or of one bits, of a word of `n` bits. -/
def Claim.countOps : List ((Guard → Bool → SDst → SSrc → Instr) × (∀ n, BitVec n → Nat)) :=
  [(.clz, fun n a => ((List.range n).map (fun i => a.getLsbD (n - 1 - i))).idxOf true),
   (.ctz, fun n a => ((List.range n).map (fun i => a.getLsbD i)).idxOf true),
   (.popc, fun n a => ((List.range n).filter (fun i => a.getLsbD i)).length)]

/-- R125, R127 to R129, R131: each scalar instruction on one source or an immediate, and SEL, INSF and PGA. -/
def Said.ScalarOtherResults : Prop :=
  (∀ e ∈ Claim.countOps, ∀ g w rd a s s1 s2 u,
    Issues (unInfo g 8 rd a) s s1 → Gives (readS a) s1 u s2 → Gives (checkS rd) s2 () s2 →
    exec (e.1 g w rd a) s =
      .next ((s2.putS rd (BitVec.ofNat 64 (if w then e.2 32 (u.setWidth 32) else e.2 64 u))).retire 8)) ∧
  (∀ g rd a s s1 s2 u, Issues (unInfo g 8 rd a) s s1 → Gives (readS a) s1 u s2 → Gives (checkS rd) s2 () s2 →
    exec (.mov g rd a) s = .next ((s2.putS rd u).retire 8)) ∧
  (∀ g w rd a (imm : Imm) s s1 s2 u, Issues (unInfo g (formLen imm.form) rd a) s s1 → Gives (readS a) s1 u s2 →
    Gives (checkS rd) s2 () s2 →
    exec (.addi g w rd a imm) s = .next ((s2.putS rd (if w then
      ((u + imm.val).setWidth 32).signExtend 64 else u + imm.val)).retire (formLen imm.form))) ∧
  (∀ g rd (imm : Imm) s s1, Issues (infoOf g (formLen imm.form) 1 [] [] [rd] []) s s1 → Gives (checkS rd) s1 () s1 →
    exec (.li g rd imm) s = .next ((s1.putS rd imm.val).retire (formLen imm.form))) ∧
  (∀ g sx rd a (pos len : Fin 64) s s1 s2 u, Issues (unInfo g 8 rd a) s s1 → Gives (readS a) s1 u s2 →
    Gives (checkS rd) s2 () s2 → pos.val + len.val < 64 →
    ∃ r : Word, exec (.extf g sx rd a pos len) s = .next ((s2.putS rd r).retire 8) ∧
      ∀ i < 64, r.getLsbD i = if i ≤ len.val then u.getLsbD (pos.val + i) else sx && u.getLsbD (pos.val + len.val)) ∧
  (∀ g rd a b (pos len : Fin 64) s s1 s2 s3 u v, Issues (binInfo g rd a b) s s1 → Gives (readS a) s1 u s2 →
    Gives (readS b) s2 v s3 → Gives (checkS rd) s3 () s3 → pos.val + len.val < 64 →
    ∃ r : Word, exec (.insf g rd a b pos len) s = .next ((s3.putS rd r).retire 8) ∧
      ∀ i < 64, r.getLsbD i =
        if pos.val ≤ i ∧ i ≤ pos.val + len.val then v.getLsbD (i - pos.val) else u.getLsbD i) ∧
  (∀ g rd n a b s s1 s2 s3 u v, Issues (binInfo g rd a b) s s1 → Gives (readS a) s1 u s2 → Gives (readS b) s2 v s3 →
    Gives (checkS rd) s3 () s3 →
    exec (.sel g rd n a b) s = .next ((s3.putS rd (if (s1.me.gReg n).getLsbD 0 then u else v)).retire 8))

/-- The address PGA composes, as R131 writes it; none for a code that is no space of R130. -/
def Claim.pgaAddr (space : BitVec 4) (p o : Word) : Option Word :=
  if space = 0x0 then some (o.extractLsb' 0 56).toNat
  else if space = 0x8 then some (0x8 * 2 ^ 60 + (o.extractLsb' 0 20).toNat)
  else if space = 0x9 then some (0x9 * 2 ^ 60 + (p.extractLsb' 0 5).toNat * 2 ^ 16 + (o.extractLsb' 0 11).toNat)
  else if space = 0xA then
    some (0xA * 2 ^ 60 + (p.extractLsb' 8 5).toNat * 2 ^ 48 + (p.extractLsb' 0 8).toNat * 2 ^ 40 + (o.extractLsb' 0 20).toNat)
  else if space = 0xB then some (0xB * 2 ^ 60 + (p.extractLsb' 8 5).toNat * 2 ^ 48 + (o.extractLsb' 0 26).toNat)
  else if space = 0xC then
    some (0xC * 2 ^ 60 + (p.extractLsb' 8 5).toNat * 2 ^ 48 + (p.extractLsb' 0 8).toNat * 2 ^ 40 +
      (p.extractLsb' 16 8).toNat * 2 ^ 32 + (o.extractLsb' 0 32).toNat)
  else none

/-- The bits of the place operand that PGA uses, and the bits of the offset (R131). -/
def Claim.pgaFields (space : BitVec 4) : Word × Nat :=
  if space = 0x0 then (0, 56) else if space = 0x8 then (0, 20) else if space = 0x9 then (0x1F, 11)
  else if space = 0xA then (0x1FFF, 20) else if space = 0xB then (0x1F00, 26) else (0xFF1FFF, 32)

/-- R131: PGA composes the address of its space, or with C = 1 raises SPACE with the offset when a bit has no place. -/
def Said.PgaResults : Prop :=
  ∀ g c rd place off space (disp : Imm) s s1 s2 p o a,
    Issues (infoOf g (formLen disp.form) 1 [off, place] [] [rd] []) s s1 → Gives (pgaReads place off) s1 (p, o) s2 →
    Claim.pgaAddr space p (o + if disp.form = .h64 then 0 else disp.val) = some a →
    let o' := o + if disp.form = .h64 then 0 else disp.val
    let f := Claim.pgaFields space
    let spill := o'.toNat / 2 ^ f.2 ≠ 0 ∨ p &&& ~~~f.1 ≠ 0
    (c = false ∨ ¬spill → Gives (checkS rd) s2 () s2 →
      exec (.pga g c rd place off space disp) s = .next ((s2.putS rd a).retire (formLen disp.form))) ∧
    (c = true ∧ spill → exec (.pga g c rd place off space disp) s =
      .next { s1.takeFault s1.cc s1.ck { code := .space, tval := o' } with acct := .iss })

/-- R125, R126, R123, R127 to R129, R131: the claims ScalarBinaryResults, ScalarOtherResults and PgaResults. -/
def Obligations.ScalarResults : Prop := Said.ScalarBinaryResults ∧ Said.ScalarOtherResults ∧ Said.PgaResults

/-- A condition code of CMP between two values of one width (R78, R132). -/
def Claim.holds (cc : CC) {n : Nat} (a b : BitVec n) : Prop :=
  match cc with
  | .eq => a = b
  | .ne => a ≠ b
  | .lt => a.toInt < b.toInt
  | .ge => b.toInt ≤ a.toInt
  | .ltu => a.toNat < b.toNat
  | .geu => b.toNat ≤ a.toNat
  | .le => a.toInt ≤ b.toInt
  | .gt => b.toInt < a.toInt
  | .leu => a.toNat ≤ b.toNat
  | .gtu => b.toNat < a.toNat
  | .un | .ord => False

/-- The comparison of the .w or the full form (R132). -/
def Claim.compares (w : Bool) (cc : CC) (a b : Word) : Prop :=
  if w then Claim.holds cc (a.setWidth 32) (b.setWidth 32) else Claim.holds cc a b

/-- R132, R133: CMP and CMPI write all bits of the guard; GAND, GOR and GNOT write it where the guard is on. -/
def Obligations.GuardResults : Prop :=
  (∀ g w cc gd a b s s1 s2 s3 u v, Issues (infoOf g 8 1 [a, b] [] [] []) s s1 → Gives (readS a) s1 u s2 →
    Gives (readS b) s2 v s3 → ∃ r : Lane, (Claim.compares w cc u v → r = 0xFFFFFFFF) ∧ (¬Claim.compares w cc u v → r = 0) ∧
      exec (.cmp g w cc gd a b) s = .next ((s3.modMe (fun x => x.setG gd r)).retire 8)) ∧
  (∀ g w cc gd a (imm : Imm) s s1 s2 u, Issues (infoOf g (formLen imm.form) 1 [a] [] [] []) s s1 → Gives (readS a) s1 u s2 →
    ∃ r : Lane, (Claim.compares w cc u imm.val → r = 0xFFFFFFFF) ∧ (¬Claim.compares w cc u imm.val → r = 0) ∧
      exec (.cmpi g w cc gd a imm) s = .next ((s2.modMe (fun x => x.setG gd r)).retire (formLen imm.form))) ∧
  (∀ (g : Guard) (gd ga gb : Fin 8) (i : Instr) (f : Bool → Bool → Bool),
    (i, f) ∈ [(Instr.gand g gd ga gb, fun a b => a && b), (.gor g gd ga gb, fun a b => a || b),
      (.gnot g gd ga, fun a _ => !a)] →
    ∀ s s1, Issues (guardInfo g) s s1 → ∃ r : Lane, exec i s = .next ((s1.modMe (fun x => x.setG gd r)).retire 8) ∧
      ∀ n < 32, r.getLsbD n = if (s1.me.guardBits g).getLsbD n then f ((s1.me.gReg ga).getLsbD n) ((s1.me.gReg gb).getLsbD n)
        else (s1.me.gReg gd).getLsbD n)

/-! ## Vector instructions -/

/-- The operation format of sources with these tags (R162): the one tag that is not RAW, or the default when all are RAW;
none when two tags differ. -/
def Claim.format (dflt : Tag) (ts : List Tag) : Option Tag :=
  match ts.filter (fun t => t != .raw) with
  | [] => some dflt
  | t :: r => if r.all (fun u => u == t) then some t else none

/-- The signed value of an element of `w` bits. -/
def Claim.signed (w x : Nat) : Int := (BitVec.ofNat w x).toInt

/-- An exact integer clamped to the signed or unsigned range of `w` bits, as its pattern (R146). -/
def Claim.sat (uns : Bool) (w : Nat) (v : Int) : Nat :=
  let lo : Int := if uns then 0 else -2 ^ (w - 1)
  let hi : Int := if uns then 2 ^ w - 1 else 2 ^ (w - 1) - 1
  (BitVec.ofInt w (max lo (min hi v))).toNat

/-- The sets F, I and S of R162. -/
def Claim.setF : List Tag := [.fp32, .bf16, .fp16]
/-- The set I (R162). -/
def Claim.setI : List Tag := [.int32, .int16, .int8, .raw]
/-- The set S (R162). -/
def Claim.setS : List Tag := [.fp32, .int32, .raw]

/-- A vector instruction's result per element: from the format, the rounding mode and the elements of its sources. -/
abbrev Claim.Elem1 := Tag → RMd → Nat → Nat × FF
/-- The same on two sources. -/
abbrev Claim.Elem2 := Tag → RMd → Nat → Nat → Nat × FF
/-- The same on three sources. -/
abbrev Claim.Elem3 := Tag → RMd → Nat → Nat → Nat → Nat × FF

/-- The elementwise instructions on two sources (R166 to R168, R174, R182): the tags they accept, the format of RAW sources,
and the result per element. -/
def Claim.vec2 : List ((Guard → VDst → VSrc → VSrc → Instr) × List Tag × Tag × Claim.Elem2) :=
  [(.vadd, Claim.setF, .int32, fun t md => (fmtOf t).add md),
   (.vsub, Claim.setF, .int32, fun t md => (fmtOf t).sub md),
   (.vmul, Claim.setF, .int32, fun t md => (fmtOf t).mul md),
   (.vmin, Claim.setF ++ Claim.setI, .int32, fun t _ x y =>
     if t ∈ Claim.setF then (fmtOf t).minMax false x y
     else (if Claim.signed (widthOf t) x ≤ Claim.signed (widthOf t) y then x else y, 0)),
   (.vmax, Claim.setF ++ Claim.setI, .int32, fun t _ x y =>
     if t ∈ Claim.setF then (fmtOf t).minMax true x y
     else (if Claim.signed (widthOf t) x ≤ Claim.signed (widthOf t) y then y else x, 0)),
   (.vcps, Claim.setF, .int32, fun t _ x y =>
     if ((fmtOf t).num x).isNan then ((fmtOf t).nan, nvIf ((fmtOf t).num x).sig)
     else (x % (fmtOf t).sign + y / (fmtOf t).sign % 2 * (fmtOf t).sign, 0)),
   (.vexpi, [.fp32], .int32, fun _ _ => expi32),
   (fun g => .viadd g .wrap, Claim.setI, .int32, fun t _ x y => ((x + y) % 2 ^ widthOf t, 0)),
   (fun g => .viadd g .s, Claim.setI, .int32, fun t _ x y =>
     (Claim.sat false (widthOf t) (Claim.signed (widthOf t) x + Claim.signed (widthOf t) y), 0)),
   (fun g => .viadd g .us, Claim.setI, .int32, fun t _ x y => (min (x + y) (2 ^ widthOf t - 1), 0)),
   (fun g => .visub g .wrap, Claim.setI, .int32, fun t _ x y => ((x + 2 ^ widthOf t - y) % 2 ^ widthOf t, 0)),
   (fun g => .visub g .s, Claim.setI, .int32, fun t _ x y =>
     (Claim.sat false (widthOf t) (Claim.signed (widthOf t) x - Claim.signed (widthOf t) y), 0)),
   (fun g => .visub g .us, Claim.setI, .int32, fun _ _ x y => (x - y, 0)),
   (.vimul, Claim.setI, .int32, fun t _ x y => (x * y % 2 ^ widthOf t, 0)),
   (.vand, Claim.setI, .raw, fun _ _ x y => (x &&& y, 0)),
   (.vor, Claim.setI, .raw, fun _ _ x y => (x ||| y, 0)),
   (.vxor, Claim.setI, .raw, fun _ _ x y => (x ^^^ y, 0)),
   (.vshl, Claim.setI, .int32, fun t _ x y => (x * 2 ^ (y % widthOf t) % 2 ^ widthOf t, 0)),
   (.vshr, Claim.setI, .int32, fun t _ x y => (x / 2 ^ (y % widthOf t), 0)),
   (.vsar, Claim.setI, .int32, fun t _ x y =>
     ((BitVec.ofInt (widthOf t) (Claim.signed (widthOf t) x / 2 ^ (y % widthOf t))).toNat, 0))]

/-- The elementwise instructions on one source (R168, R172, R173, R176). -/
def Claim.vec1 : List ((Guard → VDst → VSrc → Instr) × List Tag × Claim.Elem1) :=
  [(.vabs, Claim.setF, fun t _ x =>
     if ((fmtOf t).num x).isNan then ((fmtOf t).nan, nvIf ((fmtOf t).num x).sig) else (x % (fmtOf t).sign, 0)),
   (.vneg, Claim.setF, fun t _ x =>
     if ((fmtOf t).num x).isNan then ((fmtOf t).nan, nvIf ((fmtOf t).num x).sig) else (x ^^^ (fmtOf t).sign, 0)),
   (.vrnd, [.fp32], fun _ _ => fp32.rnd),
   (.vfexp, [.fp32], fun _ _ => fexp32),
   (.vlogb, [.fp32], fun _ _ => logb32),
   (.vrcp, [.fp32], fun _ _ => rcp32),
   (.vrsq, [.fp32], fun _ _ => rsq32)]

/-- The elementwise instructions on three sources (R166, R182). -/
def Claim.vec3 : List ((Guard → VDst → VSrc → VSrc → VSrc → Instr) × List Tag × Claim.Elem3) :=
  [(.vfma, Claim.setF, fun t md => (fmtOf t).fma md false),
   (.vfms, Claim.setF, fun t md => (fmtOf t).fma md true),
   (.vimad, Claim.setI, fun t _ x y z => ((x * y + z) % 2 ^ widthOf t, 0))]

/-- A vector instruction completes from `s` with the result of every element `k` of every lane `n` that is guarded on: it
writes the destination under the guard bits with the tag, and raises exactly the flags of those elements (R161). -/
def Claim.VecEnds (o : Out) (s : State) (g : Guard) (vd : VDst) (t : Tag) (ref : Nat → Nat → Nat × FF) : Prop :=
  ∃ (r : BitVec 1024) (f : FF),
    o = .next (((s.putV vd (s.me.guardBits g) r t).modMe (fun x => { x with ff := x.ff ||| f })).retire 8) ∧
    (∀ n < 32, (s.me.guardBits g).getLsbD n = true → ∀ k < elemsOf t,
      elem (getLane r n) (widthOf t) k = (ref n k).1) ∧
    (∀ i < 5, f.getLsbD i = true ↔
      ∃ n < 32, (s.me.guardBits g).getLsbD n = true ∧ ∃ k < elemsOf t, (ref n k).2.getLsbD i = true)

/-- Element `k` of lane `n` of a vector read as a format (R147). -/
def Claim.at (u : VReg) (t : Tag) (n k : Nat) : Nat := elem (getLane u.bits n) (widthOf t) k

/-- R161, R163, R166, R167, R168, R174, R182: every elementwise instruction on two sources. -/
def Said.VectorBinaryResults : Prop :=
  ∀ e ∈ Claim.vec2, ∀ g vd a b s s1 s2 s3 u v t,
    Issues (vecInfo g [a, b] [vd]) s s1 → Gives (readV a) s1 u s2 → Gives (readV b) s2 v s3 → Gives (checkV vd) s3 () s3 →
    u.tag ∈ e.2.1 → v.tag ∈ e.2.1 → Claim.format e.2.2.1 [u.tag, v.tag] = some t →
    Claim.VecEnds (exec (e.1 g vd a b) s) s3 g vd t
      (fun n k => e.2.2.2 t (rmOf s3.me.rm) (Claim.at u t n k) (Claim.at v t n k))

/-- R161, R163, R166, R168, R172, R173, R176, R182: every elementwise instruction on one source or on three. -/
def Said.VectorUnaryAndFusedResults : Prop :=
  (∀ e ∈ Claim.vec1, ∀ g vd a s s1 s2 u,
    Issues (vecInfo g [a] [vd]) s s1 → Gives (readV a) s1 u s2 → Gives (checkV vd) s2 () s2 → u.tag ∈ e.2.1 →
    Claim.VecEnds (exec (e.1 g vd a) s) s2 g vd u.tag (fun n k => e.2.2 u.tag (rmOf s2.me.rm) (Claim.at u u.tag n k))) ∧
  (∀ e ∈ Claim.vec3, ∀ g vd a b c s s1 s2 s3 s4 u v w t,
    Issues (vecInfo g [a, b, c] [vd]) s s1 → Gives (readV a) s1 u s2 → Gives (readV b) s2 v s3 → Gives (readV c) s3 w s4 →
    Gives (checkV vd) s4 () s4 → u.tag ∈ e.2.1 → v.tag ∈ e.2.1 → w.tag ∈ e.2.1 →
    Claim.format .int32 [u.tag, v.tag, w.tag] = some t →
    Claim.VecEnds (exec (e.1 g vd a b c) s) s4 g vd t
      (fun n k => e.2.2 t (rmOf s4.me.rm) (Claim.at u t n k) (Claim.at v t n k) (Claim.at w t n k)))

/-- R161, R163, R166, R167, R168, R174, R182, R172, R173, R176: the claims VectorBinaryResults and VectorUnaryAndFusedResults. -/
def Obligations.ElementwiseResults : Prop := Said.VectorBinaryResults ∧ Said.VectorUnaryAndFusedResults

/-- The rows of R178: source tag, target tag, and the conversion by the mode and by U. -/
def Claim.cvtRows : List (Tag × Tag × (RMd → Bool → Nat → Nat × FF)) :=
  [(.fp32, .int32, fun md u => fp32.toInt md u 32),
   (.int32, .fp32, fun md u x => fp32.ofInt md (if u then (x : Int) else Claim.signed 32 x)),
   (.bf16, .fp16, fun md _ x => fp16.ofNum md (bf16.num x)),
   (.fp16, .bf16, fun md _ x => bf16.ofNum md (fp16.num x)),
   (.bf16, .int16, fun md u => bf16.toInt md u 16),
   (.fp16, .int16, fun md u => fp16.toInt md u 16),
   (.int16, .bf16, fun md u x => bf16.ofInt md (if u then (x : Int) else Claim.signed 16 x)),
   (.int16, .fp16, fun md u x => fp16.ofInt md (if u then (x : Int) else Claim.signed 16 x))]
/-- The rows of R179. -/
def Claim.packRows : List (Tag × Tag × (RMd → Bool → Nat → Nat × FF)) :=
  [(.fp32, .bf16, fun md _ x => bf16.ofNum md (fp32.num x)),
   (.fp32, .fp16, fun md _ x => fp16.ofNum md (fp32.num x)),
   (.int32, .int16, fun _ u x => (Claim.sat u 16 (if u then (x : Int) else Claim.signed 32 x), 0)),
   (.int16, .int8, fun _ u x => (Claim.sat u 8 (if u then (x : Int) else Claim.signed 16 x), 0))]
/-- The rows of R180. -/
def Claim.unpkRows : List (Tag × Tag × (Bool → Nat → Nat × FF)) :=
  [(.bf16, .fp32, fun _ x => fp32.ofNum .ne (bf16.num x)),
   (.fp16, .fp32, fun _ x => fp32.ofNum .ne (fp16.num x)),
   (.int16, .int32, fun u x => (if u ∨ x < 2 ^ 15 then x else x + (2 ^ 32 - 2 ^ 16), 0)),
   (.int8, .int16, fun u x => (if u ∨ x < 2 ^ 7 then x else x + (2 ^ 16 - 2 ^ 8), 0)),
   (.dyad8, .bf16, fun _ x => (bf16.ofDyad x, 0)),
   (.dyad8, .fp16, fun _ x => (fp16.ofDyad x, 0))]

/-- R177 to R180: VCVT, VPACK and VUNPK convert by their rows; a source tag with no row with the target raises FMT on src1. -/
def Said.VectorConversions : Prop :=
  (∀ row ∈ Claim.cvtRows, ∀ g uns m vd a s s1 s2 u,
    Issues (vecInfo g [a] [vd]) s s1 → Gives (readV a) s1 u s2 → Gives (checkV vd) s2 () s2 → u.tag = row.1 →
    Claim.VecEnds (exec (.vcvt g uns m row.2.1 vd a) s) s2 g vd row.2.1
      (fun n k => row.2.2 (if m then rmOf s2.me.rm else .ne) uns (Claim.at u row.1 n k))) ∧
  (∀ row ∈ Claim.packRows, ∀ g uns m vd a b s s1 s2 s3 u v,
    Issues (vecInfo g [a, b] [vd]) s s1 → Gives (readV a) s1 u s2 → Gives (readV b) s2 v s3 → Gives (checkV vd) s3 () s3 →
    u.tag = row.1 → v.tag = row.1 →
    Claim.VecEnds (exec (.vpack g uns m row.2.1 vd a b) s) s3 g vd row.2.1
      (fun n k => row.2.2 (if m then rmOf s3.me.rm else .ne) uns
        (if k < elemsOf row.1 then Claim.at u row.1 n k else Claim.at v row.1 n (k - elemsOf row.1)))) ∧
  (∀ row ∈ Claim.unpkRows, ∀ g uns (h : Bool) vd a s s1 s2 u,
    Issues (vecInfo g [a] [vd]) s s1 → Gives (readV a) s1 u s2 → Gives (checkV vd) s2 () s2 → u.tag = row.1 →
    Claim.VecEnds (exec (.vunpk g uns row.2.1 h vd a) s) s2 g vd row.2.1
      (fun n k => row.2.2 uns (Claim.at u row.1 n (k + if h then elemsOf row.2.1 else 0)))) ∧
  (∀ g uns m t vd a s s1 s2 u, Issues (vecInfo g [a] [vd]) s s1 → Gives (readV a) s1 u s2 →
    (∀ row ∈ Claim.cvtRows, (row.1, row.2.1) ≠ (u.tag, t)) →
    exec (.vcvt g uns m t vd a) s =
      .next { s1.takeFault s1.cc s1.ck { code := .fmt, tval := BitVec.ofNat 64 (tagNum u.tag + 16) } with acct := .iss })

/-- A comparison of two FP32 patterns (R145): −0 equals +0, and a NaN is unordered. -/
def Claim.floatHolds (cc : CC) (x y : Nat) : Prop :=
  let un := (fp32.num x).isNan ∨ (fp32.num y).isNan
  let v (p : Nat) : Int := if p / 2 ^ 31 = 1 then -(p % 2 ^ 31 : Nat) else p
  match cc with
  | .eq => ¬un ∧ v x = v y
  | .ne => un ∨ v x ≠ v y
  | .lt => ¬un ∧ v x < v y
  | .ge => ¬un ∧ v y ≤ v x
  | .le => ¬un ∧ v x ≤ v y
  | .gt => ¬un ∧ v y < v x
  | .un => un
  | .ord => ¬un
  | _ => False

/-- The codes VCMP accepts in a format (R169). -/
def Claim.vcmpCodes (t : Tag) : List CC :=
  if t = .fp32 then [.eq, .ne, .lt, .ge, .le, .gt, .un, .ord] else [.eq, .ne, .lt, .ge, .ltu, .geu, .le, .gt, .leu, .gtu]

/-- R169, R170: VCMP writes the guarded-on bits of gd, or raises FMT for a code of the other kind; VSEL chooses per lane. -/
def Obligations.VectorCompareAndSelect : Prop :=
  (∀ g cc gd a b s s1 s2 s3 u v t, Issues (vecInfo g [a, b] []) s s1 → Gives (readV a) s1 u s2 → Gives (readV b) s2 v s3 →
    u.tag ∈ Claim.setS → v.tag ∈ Claim.setS → Claim.format .int32 [u.tag, v.tag] = some t →
    (cc ∈ Claim.vcmpCodes t → ∃ (r : Lane) (f : FF),
      exec (.vcmp g cc gd a b) s =
        .next (((s3.modMe (fun x => x.setG gd r)).modMe (fun x => { x with ff := x.ff ||| f })).retire 8) ∧
      (∀ n < 32, r.getLsbD n = true ↔
        if (s3.me.guardBits g).getLsbD n then
          if t = .fp32 then Claim.floatHolds cc (getLane u.bits n).toNat (getLane v.bits n).toNat
          else Claim.holds cc (getLane u.bits n) (getLane v.bits n)
        else (s3.me.gReg gd).getLsbD n = true) ∧
      (f = nvIf true ∨ f = 0) ∧
      (f = nvIf true ↔ t = .fp32 ∧ ∃ n < 32, (s3.me.guardBits g).getLsbD n = true ∧
        ((fp32.num (getLane u.bits n).toNat).sig ∨ (fp32.num (getLane v.bits n).toNat).sig))) ∧
    (cc ∉ Claim.vcmpCodes t → exec (.vcmp g cc gd a b) s = .next
      { s1.takeFault s1.cc s1.ck { code := .fmt, tval := BitVec.ofNat 64 (tagNum u.tag + 16) } with acct := .iss })) ∧
  (∀ g vd n a b s s1 s2 s3 u v, Issues (vecInfo g [a, b] [vd]) s s1 → Gives (readV a) s1 u s2 → Gives (readV b) s2 v s3 →
    (v.tag = u.tag → Gives (checkV vd) s3 () s3 → ∃ r : BitVec 1024,
      exec (.vsel g vd n a b) s = .next ((s3.putV vd (s3.me.guardBits g) r u.tag).retire 8) ∧
      ∀ j < 32, getLane r j = if (s1.me.gReg n).getLsbD j then getLane u.bits j else getLane v.bits j) ∧
    (v.tag ≠ u.tag → exec (.vsel g vd n a b) s = .next
      { s1.takeFault s1.cc s1.ck { code := .fmt, tval := BitVec.ofNat 64 (tagNum v.tag + 32) } with acct := .iss }))

/-- R184 to R186 and VDOT4 of R182: the instructions that move lanes, and the dot product of bytes. -/
def Obligations.LaneMovement : Prop :=
  (∀ g vd a t (imm : Imm) s s1 s2 u, Issues (infoOf g (formLen imm.form) allOn [a] [] [] [vd]) s s1 →
    Gives (readS a) s1 u s2 → Gives (checkV vd) s2 () s2 → ∃ r : BitVec 1024,
      exec (.vbcast g vd a t imm) s = .next ((s2.putV vd (s2.me.guardBits g) r t).retire (formLen imm.form)) ∧
      ∀ n < 32, getLane r n = (u + imm.val).setWidth 32) ∧
  (∀ g vd a b s s1 s2 s3 u v, Issues (vecInfo g [a, b] [vd]) s s1 → Gives (readV a) s1 u s2 → Gives (readV b) s2 v s3 →
    Gives (checkV vd) s3 () s3 → v.tag = .int32 ∨ v.tag = .raw → ∃ r : BitVec 1024,
      exec (.vperm g vd a b) s = .next ((s3.putV vd (s3.me.guardBits g) r u.tag).retire 8) ∧
      ∀ n < 32, getLane r n = getLane u.bits ((getLane v.bits n).toNat % 32)) ∧
  (∀ g vd a (k : Fin 32) s s1 s2 u, Issues (vecInfo g [a] [vd]) s s1 → Gives (readV a) s1 u s2 → Gives (checkV vd) s2 () s2 →
    ∃ r : BitVec 1024, exec (.vrot g vd a k) s = .next ((s2.putV vd (s2.me.guardBits g) r u.tag).retire 8) ∧
      ∀ n < 32, getLane r n = getLane u.bits ((n + k.val) % 32)) ∧
  (∀ g sx rd a (k : Fin 32) s s1 s2 u, Issues (infoOf g 8 (BitVec.ofNat 32 (2 ^ k.val)) [] [a] [rd] []) s s1 →
    Gives (readV a) s1 u s2 → Gives (checkS rd) s2 () s2 →
    exec (.vmovs g sx rd a k) s = .next ((s2.putS rd
      (if sx then BitVec.ofInt 64 (getLane u.bits k.val).toInt else BitVec.ofNat 64 (getLane u.bits k.val).toNat)).retire 8)) ∧
  (∀ g vd a (k : Fin 32) t s s1 s2 u, Issues (infoOf g 8 (BitVec.ofNat 32 (2 ^ k.val)) [a] [] [] [vd]) s s1 →
    Gives (readS a) s1 u s2 → Gives (checkV vd) s2 () s2 → ∃ r : BitVec 1024,
      exec (.vins g vd a k t) s = .next ((s2.putV vd (BitVec.ofNat 32 (2 ^ k.val)) r t).retire 8) ∧
      getLane r k.val = u.setWidth 32) ∧
  (∀ g vd a b c s s1 s2 s3 s4 u v w, Issues (vecInfo g [a, b, c] [vd]) s s1 → Gives (readV a) s1 u s2 →
    Gives (readV b) s2 v s3 → Gives (readV c) s3 w s4 → Gives (checkV vd) s4 () s4 →
    u.tag ∈ [Tag.int8, .raw] → v.tag ∈ [Tag.int8, .raw] → w.tag ∈ [Tag.int32, .raw] →
    Claim.VecEnds (exec (.vdot4 g vd a b c) s) s4 g vd .int32 (fun n _ =>
      let p (k : Nat) : Int := Claim.signed 8 (Claim.at u .int8 n k) * Claim.signed 8 (Claim.at v .int8 n k)
      ((BitVec.ofInt 32 ((getLane w.bits n).toInt + p 0 + p 1 + p 2 + p 3)).toNat, 0)))

/-- The sum of two lanes and its flags: FP32 with RoundNE, or wrapping (R158, R187). -/
def Claim.sum2 (t : Tag) (x y : Lane) : Lane × FF :=
  if t = .fp32 then (BitVec.ofNat 32 (fp32.add .ne x.toNat y.toNat).1, (fp32.add .ne x.toNat y.toNat).2)
  else (BitVec.ofNat 32 (x.toNat + y.toNat), 0)
/-- Partial `i` after `n` levels of the tree over the lanes `f`, with the flags of the additions below it (R158). -/
def Claim.tree (t : Tag) (f : Nat → Lane) : Nat → Nat → Lane × FF
  | 0, i => (f i, 0)
  | n + 1, i =>
    let x := Claim.tree t f n (2 * i)
    let y := Claim.tree t f n (2 * i + 1)
    let z := Claim.sum2 t x.1 y.1
    (z.1, z.2 ||| x.2 ||| y.2)
/-- Running sum `n` over the lanes `f`, with the flags of the addition that forms it (R158). -/
def Claim.running (t : Tag) (f : Nat → Lane) : Nat → Lane × FF
  | 0 => Claim.sum2 t (if t = .fp32 then 0x80000000 else 0) (f 0)
  | n + 1 => Claim.sum2 t (Claim.running t f n).1 (f (n + 1))
/-- The lanes that enter a sum: a guarded-off lane enters as −0 or 0 (R158). -/
def Claim.entering (t : Tag) (m : Lane) (u : VReg) (n : Nat) : Lane :=
  if m.getLsbD n then getLane u.bits n else if t = .fp32 then 0x80000000 else 0

/-- R158, R187: VREDA sums the lanes in tree order, VSCAN in lane order, and VREDM takes the maximum of the guarded-on lanes
(an FP32 maximum passes over NaNs, with −0 below +0). -/
def Obligations.Reductions : Prop :=
  ∀ g vd a s s1 s2 u t, Issues (vecInfo g [a] [vd]) s s1 → Gives (readV a) s1 u s2 → Gives (checkV vd) s2 () s2 →
    u.tag ∈ Claim.setS → Claim.format .int32 [u.tag] = some t →
    let m := s2.me.guardBits g
    let ends (i : Instr) (r : BitVec 1024) (f : FF) : Prop :=
      exec i s = .next (((s2.putV vd m r t).modMe (fun x => { x with ff := x.ff ||| f })).retire 8)
    (∃ r, ends (.vreda g vd a) r (Claim.tree t (Claim.entering t m u) 5 0).2 ∧
      ∀ n < 32, getLane r n = (Claim.tree t (Claim.entering t m u) 5 0).1) ∧
    (∃ r f, ends (.vscan g vd a) r f ∧
      (∀ n < 32, m.getLsbD n = true → getLane r n = (Claim.running t (Claim.entering t m u) n).1) ∧
      (∀ i < 5, f.getLsbD i = true ↔
        ∃ n < 32, m.getLsbD n = true ∧ (Claim.running t (Claim.entering t m u) n).2.getLsbD i = true)) ∧
    (∃ r f, ends (.vredm g vd a) r f ∧ (∀ n < 32, getLane r n = getLane r 0) ∧
      (t = .int32 → f = 0 ∧ (∃ n < 32, m.getLsbD n = true ∧ getLane r 0 = getLane u.bits n) ∧
        ∀ n < 32, m.getLsbD n = true → (getLane u.bits n).toInt ≤ (getLane r 0).toInt) ∧
      (t = .fp32 →
        (f = nvIf true ∨ f = 0) ∧
        (f = nvIf true ↔ ∃ n < 32, m.getLsbD n = true ∧ (fp32.num (getLane u.bits n).toNat).sig = true) ∧
        ((∀ n < 32, m.getLsbD n = true → (fp32.num (getLane u.bits n).toNat).isNan = true) →
          getLane r 0 = 0x7FC00000) ∧
        ((∃ n < 32, m.getLsbD n = true ∧ (fp32.num (getLane u.bits n).toNat).isNan = false) →
          (∃ n < 32, m.getLsbD n = true ∧ (fp32.num (getLane u.bits n).toNat).isNan = false ∧
            getLane r 0 = getLane u.bits n) ∧
          ∀ n < 32, m.getLsbD n = true → (fp32.num (getLane u.bits n).toNat).isNan = false →
            fp32.key (getLane u.bits n).toNat ≤ fp32.key (getLane r 0).toNat)))

/-- R88, R161, R162: a source whose tag is not accepted, or differs from the operation format, raises FMT with the tag and
the position of the first such source. -/
def Said.VectorFormatFaults : Prop :=
  (∀ e ∈ Claim.vec2, ∀ g vd a b s s1 s2 s3 u v, Issues (vecInfo g [a, b] [vd]) s s1 → Gives (readV a) s1 u s2 →
    Gives (readV b) s2 v s3 →
    (u.tag ∉ e.2.1 → exec (e.1 g vd a b) s = .next
      { s1.takeFault s1.cc s1.ck { code := .fmt, tval := BitVec.ofNat 64 (tagNum u.tag + 16) } with acct := .iss }) ∧
    (u.tag ∈ e.2.1 → v.tag ∉ e.2.1 ∨ Claim.format .raw [u.tag, v.tag] = none → exec (e.1 g vd a b) s = .next
      { s1.takeFault s1.cc s1.ck { code := .fmt, tval := BitVec.ofNat 64 (tagNum v.tag + 32) } with acct := .iss })) ∧
  (∀ e ∈ Claim.vec1, ∀ g vd a s s1 s2 u, Issues (vecInfo g [a] [vd]) s s1 → Gives (readV a) s1 u s2 → u.tag ∉ e.2.1 →
    exec (e.1 g vd a) s = .next
      { s1.takeFault s1.cc s1.ck { code := .fmt, tval := BitVec.ofNat 64 (tagNum u.tag + 16) } with acct := .iss })

/-- R177 to R180, R88, R161, R162: the claims VectorConversions and VectorFormatFaults. -/
def Obligations.ConversionResults : Prop := Said.VectorConversions ∧ Said.VectorFormatFaults

/-- R172 to R174, R176: the function helpers on zeros, infinities and NaNs. -/
def Said.HelperSpecialValues : Prop :=
  (∀ x < 2 ^ 32, (fp32.num x).isNan = true →
    ∀ f ∈ [fp32.rnd, fexp32, logb32, rcp32, rsq32], f x = (0x7FC00000, if (fp32.num x).sig then 0b10000 else 0)) ∧
  fp32.rnd 0x80000000 = (0x80000000, 0) ∧ fp32.rnd 0 = (0, 0) ∧ fp32.rnd 0x7F800000 = (0x7F800000, 0) ∧
  fp32.rnd 0xFF800000 = (0xFF800000, 0) ∧ fp32.rnd 0xBF000000 = (0x80000000, 0) ∧ fp32.rnd 0x3FC00000 = (0x40000000, 0) ∧
  fexp32 0 = (0x3F800000, 0) ∧ fexp32 0x80000000 = (0x3F800000, 0) ∧ fexp32 0x3F800000 = (0x40000000, 0) ∧
  fexp32 0xBF800000 = (0x3F000000, 0) ∧
  (∀ x < 2 ^ 32, (fp32.num x).isNan = false → 0x3F800000 < x % 2 ^ 31 → fexp32 x = (0x7FC00000, 0b10000)) ∧
  logb32 0 = (0xFF800000, 0b01000) ∧ logb32 0x80000000 = (0xFF800000, 0b01000) ∧ logb32 0x7F800000 = (0x7F800000, 0) ∧
  logb32 0xFF800000 = (0x7F800000, 0) ∧ logb32 1 = (0xC3150000, 0) ∧
  rcp32 0 = (0x7F800000, 0b01000) ∧ rcp32 0x80000000 = (0xFF800000, 0b01000) ∧ rcp32 0x7F800000 = (0, 0) ∧
  rcp32 0xFF800000 = (0x80000000, 0) ∧
  rsq32 0 = (0x7F800000, 0b01000) ∧ rsq32 0x80000000 = (0xFF800000, 0b01000) ∧ rsq32 0x7F800000 = (0, 0) ∧
  (∀ x < 2 ^ 32, (fp32.num x).isNan = false → 2 ^ 31 < x → rsq32 x = (0x7FC00000, 0b10000)) ∧
  (∀ m n, (fp32.num n).isNan = true →
    expi32 m n = (0x7FC00000, if (fp32.num m).sig ∨ (fp32.num n).sig then 0b10000 else 0)) ∧
  (∀ m, expi32 m 0x7F800000 = if (fp32.num m).isNan then (0x7F800000, if (fp32.num m).sig then 0b10000 else 0)
    else if m % 2 ^ 31 = 0 then (0x7FC00000, 0b10000) else (0x7F800000 + m / 2 ^ 31 % 2 * 2 ^ 31, 0))

/-- R148 to R151: a datum that a format holds rounds to itself, in every mode and without a flag. -/
def Said.RoundingIsExactOnTheFormat : Prop :=
  ∀ f ∈ [fp32, bf16, fp16], ∀ md, ∀ b < 2 ^ (f.eb + f.fb + 1), (f.num b).isNan = false → f.ofNum md (f.num b) = (b, 0)

/-- R172 to R174, R176, R148 to R151: the claims HelperSpecialValues and RoundingIsExactOnTheFormat. -/
def Obligations.HelperFunctions : Prop := Said.HelperSpecialValues ∧ Said.RoundingIsExactOnTheFormat

/-! ## Issue, operands, and the end of an instruction -/

/-- R66, R73, R80, R106, R110: when an instruction issues. A control instruction in a delay slot or a REP body raises SLOT, and
one that its context may not execute raises PRIV, whatever the guard. Guarded off it skips. Guarded on, outside an iteration
and with no breakpoint in its cluster, it issues with no effect of its own. A side-effect instruction of the oldest
uncommitted iteration commits it, and of a younger one waits in class WVER. -/
def Said.IssueConditions : Prop :=
  ∀ (i : Info) (s : State),
    (i.bar = true → 0 < s.me.live.left ∨ s.me.live.active = true →
      prologue i s.begun = .error (.fault { code := .slot })) ∧
    ((i.bar = false ∨ s.me.live.left = 0 ∧ s.me.live.active = false) → i.priv = true →
      prologue i s.begun = .error (.fault { code := .priv })) ∧
    ((i.bar = false ∨ s.me.live.left = 0 ∧ s.me.live.active = false) → i.priv = false →
      (s.me.guardBits i.g &&& i.lanes = 0 → s.curIter s.cc s.ck = none → Skips i s s.begun) ∧
      (s.me.guardBits i.g &&& i.lanes ≠ 0 → (s.cluster (s.clusterOf s.cc)).bps = [] →
        (s.curIter s.cc s.ck = none → Issues i s s.begun) ∧
        (∀ f t, s.curIter s.cc s.ck = some (f, t) → i.lds = [] → i.side = true → t.committed = false →
          (t.i = (s.fr s.cc f).setl → Issues i s (s.begun.commit s.cc s.ck)) ∧
          (t.i ≠ (s.fr s.cc f).setl →
            prologue i s.begun = .error (.wait .wver (.oldest s.cc f.val t.i)))) ∧
        (s.curIter s.cc s.ck ≠ none → i.lds = [] → i.side = false → Issues i s s.begun)))

/-- R66: a guarded-off scalar or vector instruction does nothing but count and retire. -/
def Said.GuardedOffRetires : Prop :=
  (∀ e ∈ Claim.scalarOps, ∀ g w rd a b s s1, Skips (binInfo g rd a b) s s1 →
    exec (e.1 g w rd a b) s = .next ((s1.count s1.cc s1.ck 0x09 1).retire 8)) ∧
  (∀ e ∈ Claim.logicOps, ∀ g rd a b s s1, Skips (binInfo g rd a b) s s1 →
    exec (e.1 g rd a b) s = .next ((s1.count s1.cc s1.ck 0x09 1).retire 8)) ∧
  (∀ e ∈ Claim.vec2, ∀ g vd a b s s1, Skips (vecInfo g [a, b] [vd]) s s1 →
    exec (e.1 g vd a b) s = .next ((s1.count s1.cc s1.ck 0x09 1).retire 8)) ∧
  (∀ e ∈ Claim.vec1, ∀ g vd a s s1, Skips (vecInfo g [a] [vd]) s s1 →
    exec (e.1 g vd a) s = .next ((s1.count s1.cc s1.ck 0x09 1).retire 8))

/-- R66, R73, R80, R106, R110: the claims IssueConditions and GuardedOffRetires. -/
def Obligations.IssueAndGuardedOff : Prop := Said.IssueConditions ∧ Said.GuardedOffRetires

/-- R62, R65, R83, R86: the register and special names of a scalar operand, and a queue name: the oldest entry of the queue it
maps to is popped, no mapping raises QUEUE, and an empty queue waits in class WMSG. -/
def Said.OperandReads : Prop :=
  ∀ s : State,
    (∀ r, Gives (readS (.x r)) s (s.me.x.get r) s) ∧ Gives (readS .zero) s 0 s ∧ Gives (readS .lane) s 0 s ∧
    Gives (readS .cid) s (BitVec.ofNat 64 (if s.cc < 8192 then s.me.vcid else 0)) s ∧
    Gives (readS .ctx) s (BitVec.ofNat 64 (if s.cc < 8192 then s.me.vctx else 0)) s ∧
    (s.curIter s.cc s.ck = none → Gives (readS .it) s 0 s) ∧
    (∀ f t, s.curIter s.cc s.ck = some (f, t) → Gives (readS .it) s (BitVec.ofNat 64 t.i) s) ∧
    (∀ r, Gives (readV (.v r)) s (s.me.v.get r) s) ∧ Gives (readV .zero) s { bits := 0, tag := .raw } s ∧
    (∃ u, Gives (readV .lane) s u s ∧ u.tag = .int32 ∧ ∀ n < 32, getLane u.bits n = BitVec.ofNat 32 n) ∧
    (∀ n : Fin 4, s.me.qmap.getLsbD (4 * n.val + 3) = false → readS (.q n) s = .error (.fault { code := .queue })) ∧
    (∀ (n : Fin 4) (q : Fin 8), s.me.qmap.getLsbD (4 * n.val + 3) = true → s.me.qmap.extractLsb' (4 * n.val) 3 = BitVec.ofNat 3 q.val →
      (s.myCore.hwq.get q).vec = false → s.foldReady s.cc = true →
      ((s.myCore.hwq.get q).entries = [] → readS (.q n) s = .error (.wait .wmsg (.qHas s.cc q.val 1))) ∧
      (∀ v r, (s.myCore.hwq.get q).entries = .s v :: r →
        ∃ t, Gives (readS (.q n)) s v t ∧ (t.myCore.hwq.get q).entries = r ∧ t.me = s.me ∧ t.mem = s.mem ∧
          ∀ p, p ≠ q → t.myCore.hwq.get p = s.myCore.hwq.get p))

/-- R95, R102: a loop name at a distance in an iteration, by the rows of the table of R102, and outside every frame. -/
def Said.LoopNameReads : Prop :=
  ∀ (s : State) (r : Fin 16) (d : Fin 8),
    (s.curFrame s.cc s.ck = none → readS (.l r d) s = .error (.fault { code := .frame })) ∧
    (∀ f t, s.curFrame s.cc s.ck = some (f, some t) →
      let F := s.fr s.cc f
      (F.w < d.val → readS (.l r d) s = .error (.fault { code := .illegal })) ∧
      (d.val ≤ F.w → (d.val = 0 → F.ver? r.val t.i = none →
        readS (.l r d) s = .error (.fault { code := .vread0, tval := BitVec.ofNat 64 (32 + r.val) })) ∧
        (0 < d.val → t.retired = true → readS (.l r d) s = .error (.fault { code := .illegal })) ∧
        (d.val = 0 ∨ t.retired = false →
          (∀ v, F.ver? r.val ((t.i : Int) - d.val) = some v → v.need = 0 → Gives (readS (.l r d)) s (v.bits.setWidth 64) s) ∧
          (0 < d.val → (t.i : Int) < d.val → F.ver? r.val ((t.i : Int) - d.val) = none → Gives (readS (.l r d)) s 0 s) ∧
          (0 < d.val → (d.val : Int) ≤ t.i → F.ver? r.val ((t.i : Int) - d.val) = none →
            readS (.l r d) s = .error (.wait .wver (.version s.cc f.val r.val ((t.i : Int) - d.val)))))))

/-- R62, R63, R89, R161: what a destination's write changes of the context, and that it changes nothing else. A scalar register
takes the value; `zero` takes nothing; a vector register takes the guarded-on lanes and the tag. -/
def Said.DestinationWrites : Prop :=
  (∀ (s : State) (r : Fin 32) (v : Word), checkS (.x r) s = .ok ((), s) ∧
    ∃ x, s.putS (.x r) v = s.setCtx s.cc s.ck x ∧ x.x.get r = v ∧ (∀ n, n ≠ r → x.x.get n = s.me.x.get n) ∧
      x = { s.me with x := x.x }) ∧
  (∀ (s : State) (v : Word), checkS .zero s = .ok ((), s) ∧ s.putS .zero v = s) ∧
  (∀ (s : State) (r : Fin 16) (m : Lane) (b : BitVec 1024) (t : Tag), checkV (.v r) s = .ok ((), s) ∧
    ∃ x, s.putV (.v r) m b t = s.setCtx s.cc s.ck x ∧ (x.v.get r).tag = t ∧
      (∀ n < 32, getLane (x.v.get r).bits n = if m.getLsbD n then getLane b n else getLane (s.me.v.get r).bits n) ∧
      (∀ n, n ≠ r → x.v.get n = s.me.v.get n) ∧ x = { s.me with v := x.v }) ∧
  (∀ (s : State) (m : Lane) (b : BitVec 1024) (t : Tag), checkV .zero s = .ok ((), s) ∧ s.putV .zero m b t = s)

/-- R62, R65, R83, R86, R95, R102, R63, R89, R161: the claims OperandReads, LoopNameReads and DestinationWrites. -/
def Obligations.OperandReadsAndWrites : Prop := Said.OperandReads ∧ Said.LoopNameReads ∧ Said.DestinationWrites

/-- R13, R72, R137, R374: an instruction of `len` bytes that completes. Its context's PC goes on, or to the pending target after
the second delay slot, or back to the body's start of a repeat; the step count falls; nothing else changes, but for the
count of the instruction. -/
def Said.CompletionMovesThePc : Prop :=
  ∀ (s : State) (len : Nat),
    let x := s.me
    let n := x.pc + BitVec.ofNat 64 len
    ∃ y : Ctx, (∃ c : Core, s.retire len = (s.setCore s.cc c).setCtx s.cc s.ck y ∧
        c = { s.myCore with cntEv := s.myCore.cntEv ++ [(0x08, s.ck, 1)] }) ∧
      (x.live.left = 0 → x.live.active = false → y.pc = n ∧ y.live = x.live) ∧
      (1 < x.live.left → y.pc = n ∧ y.live = { x.live with left := x.live.left - 1 }) ∧
      (x.live.left = 1 → y.pc = (if x.live.taken then x.live.target else n) ∧ y.live.left = 0) ∧
      (x.live.left = 0 → x.live.active = true →
        (x.live.pos + 1 < x.live.blen → y.pc = n ∧ y.live = { x.live with pos := x.live.pos + 1 }) ∧
        (x.live.pos + 1 = x.live.blen → 1 < x.live.passes.toNat →
          y.pc = x.live.start ∧ y.live = { x.live with pos := 0, passes := x.live.passes - 1 }) ∧
        (x.live.pos + 1 = x.live.blen → x.live.passes.toNat ≤ 1 → y.pc = n ∧ y.live.active = false)) ∧
      (x.dbc.steps = 0 ∨ x.dbc.steps = 0xFFFF → y.dbc = x.dbc ∧ y.stepDue = x.stepDue) ∧
      (x.dbc.steps ≠ 0 → x.dbc.steps ≠ 0xFFFF →
        y.dbc = { x.dbc with steps := x.dbc.steps - 1 } ∧ (y.stepDue = true ↔ x.stepDue = true ∨ x.dbc.steps = 1)) ∧
      y = { x with pc := y.pc, live := y.live, dbc := y.dbc, stepDue := y.stepDue, wait := none, pend := none, walks := []
                   woke := false }

/-! ## Control transfer -/

/-- R75, R79: NOP completes and does nothing; a reserved encoding raises ILLEGAL with TVAL 0, whatever its guard bits. -/
def Said.NopAndReservedEncodings : Prop :=
  (∀ g form lit s s1, Issues { g, len := formLen form } s s1 →
    exec (.nop g form lit) s = .next (s1.retire (formLen form))) ∧
  (∀ s, exec .reservedEncoding s =
    .next { s.begun.takeFault s.cc s.ck { code := .illegal, tval := 0 } with acct := .iss })

/-- A transfer with target `t` whose operands have been read (R72, R135): with the lengths of both delay slots read, it links
`rd` to the address after the second slot and has two slots left before `t`; an unaligned target raises ALIGN. -/
def Claim.Transfers (i : Instr) (len : Nat) (rd : SDst) (s s1 s2 : State) (t : Word) : Prop :=
  ∀ s3 link, Gives (afterInstrs (s1.me.pc + BitVec.ofNat 64 len) 2) s2 link s3 → Gives (checkS rd) s3 () s3 →
    (t.toNat % 4 = 0 → ∃ u, exec i s = .next (u.modMe (fun x => { x with live := { x.live with left := 2, taken := true, target := t } })) ∧
      u = ((s3.putS rd link).trace s3.cc s3.ck 0x01 s1.me.pc t).retire len) ∧
    (t.toNat % 4 ≠ 0 → exec i s =
      .next { s1.takeFault s1.cc s1.ck { code := .align, tval := t } with acct := .iss })

/-- R72, R134, R135: the five control transfers, their targets and links. -/
def Said.ControlTransfers : Prop :=
  (∀ g (imm : Imm) s s1, Issues { infoOf g (formLen imm.form) 1 [] [] [] [] with bar := true } s s1 →
    Claim.Transfers (.br g imm) (formLen imm.form) .zero s s1 s1 (s1.me.pc + 4 * imm.val) ∧
    Claim.Transfers (.bra g imm) (formLen imm.form) .zero s s1 s1 imm.val) ∧
  (∀ g rd (imm : Imm) s s1, Issues { infoOf g (formLen imm.form) 1 [] [] [rd] [] with bar := true } s s1 →
    Claim.Transfers (.jal g rd imm) (formLen imm.form) rd s s1 s1 (s1.me.pc + 4 * imm.val)) ∧
  (∀ g rd a s s1 s2 t, Issues { infoOf g 8 1 [a] [] [rd] [] with bar := true } s s1 → Gives (readS a) s1 t s2 →
    Claim.Transfers (.jalr g rd a) 8 rd s s1 s2 t) ∧
  (∀ g a s s1 s2 t, Issues { infoOf g 8 1 [a] [] [] [] with bar := true } s s1 → Gives (readS a) s1 t s2 →
    Claim.Transfers (.ret g a) 8 .zero s s1 s2 t)

/-- R137: REP with a count makes its body repeat; with count 0 execution continues after the body. -/
def Said.RepStartsOrSkips : Prop :=
  ∀ g a (blen : Fin 64) (imm : Imm) s s1 s2 v,
    Issues { infoOf g (formLen imm.form) 1 [a] [] [] [] with bar := true } s s1 → Gives (readS a) s1 v s2 →
    let n := v + imm.val
    let start := s2.me.pc + BitVec.ofNat 64 (formLen imm.form)
    (n ≠ 0 → exec (.rep g a blen imm) s = .next ((s2.retire (formLen imm.form)).modMe (fun x =>
      { x with live := { x.live with active := true, start, passes := n, blen := blen.val, pos := 0 } }))) ∧
    (n = 0 → ∀ t s3, Gives (afterInstrs start blen.val) s2 t s3 →
      exec (.rep g a blen imm) s = .next ((s3.retire (formLen imm.form)).modMe (fun x => { x with pc := t })))

/-- R13, R72, R137, R374, R75, R79, R134, R135: the claims CompletionMovesThePc, NopAndReservedEncodings, ControlTransfers and RepStartsOrSkips. -/
def Obligations.ControlFlowResults : Prop := Said.CompletionMovesThePc ∧ Said.NopAndReservedEncodings ∧ Said.ControlTransfers ∧ Said.RepStartsOrSkips

/-! ## Exceptions -/

/-- R386: the codes of the faults. -/
def Said.FaultCodes : Prop :=
  [FaultCode.illegal, .slot, .place, .priv, .fmt, .align, .page, .prot, .seg, .space, .vread0, .fnest, .frame, .queue,
    .futpool, .notag, .bind, .stream, .lateframe, .bkpt, .watch, .step, .ue, .trap].map FaultCode.num =
    (List.range 24).map (fun n => n + 1)

/-- R389: the fields of TCAUSE at entry. -/
def Said.CauseLayout : Prop :=
  ∀ f : Cause,
    (f.word.extractLsb' 0 8).toNat = f.code.num ∧ (f.word.extractLsb' 14 2).toNat = f.acc.num ∧
    (f.word.extractLsb' 16 2).toNat = f.kind.val ∧ (f.word.extractLsb' 18 2).toNat = f.level.val ∧
    (f.word.getLsbD 23 = true ↔ f.ctag ≠ none) ∧ (∀ t, f.ctag = some t → (f.word.extractLsb' 24 6).toNat = t.val) ∧
    (f.ctag = none → f.word.extractLsb' 24 6 = 0) ∧ f.word.extractLsb' 8 6 = 0 ∧ f.word.extractLsb' 20 3 = 0 ∧
    f.word.extractLsb' 30 34 = 0

/-- R388, R390: a fault taken with H = 0 and a handler installed enters the trap: the cause registers, the control blocks, H
and the PC change, and the context's other registers stay (its trace tail may gain a record). -/
def Said.TrapEntry : Prop :=
  ∀ (s : State) (c k : Nat) (f : Cause),
    let x := s.ctx c k
    x.h = false → x.tvec.getLsbD 0 = true →
    let t := s.enterTrap c k f
    ∃ tr, t.ctx c k = { x with
      tcause := f.word, tpc := x.pc, tval := f.tval, trap := x.live, live := {}, h := true
      pc := x.tvec.extractLsb' 2 62 ++ 0#2, wait := none, pend := none, walks := [], fetched := [], trace := tr }

/-- R386, R389, R388, R390: the claims FaultCodes, CauseLayout and TrapEntry. -/
def Obligations.ExceptionEntry : Prop := Said.FaultCodes ∧ Said.CauseLayout ∧ Said.TrapEntry

/-- R391: a fault taken with H = 1 sets DF and NCODE, keeps the rest of TCAUSE, TPC, TVAL and the PC, and stops the thread. -/
def Said.DoubleFault : Prop :=
  ∀ (s : State) (c k : Nat) (f : Cause),
    let x := s.ctx c k
    x.h = true →
    let y := (s.enterTrap c k f).ctx c k
    y.tpc = x.tpc ∧ y.tval = x.tval ∧ y.pc = x.pc ∧ y.h = true ∧ y.dbc.stop = true ∧ y.x = x.x ∧ y.live = x.live ∧
    (y.tcause.extractLsb' 40 8).toNat = f.code.num ∧ y.tcause.getLsbD 48 = true ∧
    y.tcause.extractLsb' 0 40 = x.tcause.extractLsb' 0 40

/-- R391: with no handler and H = 0, a context 1 to 15 that is in no crew is terminated with the exit word of its fault, and the
keeper stops with the cause registers written. -/
def Said.FaultWithoutHandler : Prop :=
  ∀ (s : State) (c k : Nat) (f : Cause),
    let x := s.ctx c k
    let t := s.enterTrap c k f
    x.h = false → x.tvec.getLsbD 0 = false → s.memberOf c k = none →
    (0 < x.vctx → x.vctx < 16 → (∀ f, (s.fr c f).st = .free) → x.trace.opened = false →
      (t.ctx c k).run = .vacant ∧ (t.core c).exitq = (s.core c).exitq ++
        [BitVec.ofNat 64 (x.vctx * 2 ^ 60 + (0x0FFF_FFFF_FFFF_FF00 + f.code.num))]) ∧
    (x.vctx = 0 → (t.ctx c k).dbc.stop = true ∧ (t.ctx c k).tcause = f.word ∧ (t.ctx c k).tpc = x.pc ∧
      (t.ctx c k).tval = f.tval ∧ (t.ctx c k).run = x.run ∧ t.sreq = true)

/-- R116, R387: where no iteration runs, and in a committed one, a fault is taken at once; an uncommitted iteration that is not
the oldest holds it, and its member waits in class WVER. -/
def Said.FaultPrecision : Prop :=
  ∀ (s : State) (c k : Nat) (f : Cause),
    (s.curIter c k = none → s.takeFault c k f = s.enterTrap c k f) ∧
    (∀ x t, s.curIter c k = some (x, t) → t.committed = true → s.takeFault c k f = s.enterTrap c k f) ∧
    (∀ x t, s.curIter c k = some (x, t) → t.committed = false → (s.fr c x).rst = false → t.i ≠ (s.fr c x).setl →
      let u := s.takeFault c k f
      (u.ctx c k).wait = some (.wver, .held) ∧ (u.ctx c k).pc = (s.ctx c k).pc ∧ (u.ctx c k).h = (s.ctx c k).h ∧
      (u.fr c x).it? t.i = ((s.fr c x).it? t.i).map (fun i => { i with fault := some f }))

/-- R391, R116, R387: the claims DoubleFault, FaultWithoutHandler and FaultPrecision. -/
def Obligations.ExceptionOutcomes : Prop := Said.DoubleFault ∧ Said.FaultWithoutHandler ∧ Said.FaultPrecision

/-- R140, R386: TRAP n completes and raises TRAP with TVAL n; the return address is that of the next instruction. -/
def Said.TrapInstruction : Prop :=
  ∀ g n s s1, Issues { g, side := true } s s1 → s1.curIter s1.cc s1.ck = none → s1.me.h = false →
    s1.me.tvec.getLsbD 0 = true → s1.me.live.left = 0 → s1.me.live.active = false →
    ∃ t, exec (.trap g n) s = .next t ∧ t.me.tpc = s1.me.pc + 8 ∧ t.me.tval = BitVec.ofNat 64 n.toNat ∧
      (t.me.tcause.extractLsb' 0 8).toNat = 0x18 ∧ t.me.h = true ∧ t.me.pc = s1.me.tvec.extractLsb' 2 62 ++ 0#2 ∧
      t.me.x = s1.me.x ∧ t.mem = s1.mem

/-- R392: TRET outside a handler raises ILLEGAL; inside, with no restart pending, it clears H, brings the live control block
back and returns to TPC. -/
def Said.TrapReturn : Prop :=
  ∀ g s s1, Issues { g } s s1 →
    (s1.me.h = false → exec (.tret g) s =
      .next { s1.takeFault s1.cc s1.ck { code := .illegal } with acct := .iss }) ∧
    (s1.me.h = true → s1.me.foot = [] → (∀ f t, s1.curIter s1.cc s1.ck = some (f, t) → (s1.fr s1.cc f).rst = false) →
      ∃ t, exec (.tret g) s = .next t ∧ t.me.h = false ∧ t.me.pc = s1.me.tpc ∧ t.me.live = s1.me.trap ∧ t.me.trap = {} ∧
        t.me.x = s1.me.x ∧ t.me.g = s1.me.g ∧ t.me.v = s1.me.v ∧ t.me.z = s1.me.z ∧ t.mem = s1.mem)

/-- R140, R386, R392: the claims TrapInstruction and TrapReturn. -/
def Obligations.TrapAndReturn : Prop := Said.TrapInstruction ∧ Said.TrapReturn

/-! ## Versioned loops -/

/-- What LOOP makes (R98, R99): the frame runs from iteration 0 with the claimed contexts as members 1 and up; member m begins
iteration m at the body, and the crew takes the opener's x and g registers. -/
def Claim.LoopRuns (i : Instr) (s s2 : State) (f : Fin 2) (n len : Nat) (w c : Fin 8) (om opn : Bool) (ofs : BitVec 12) :
    Prop :=
  let crew := ((List.range 16).filter (s2.claimable s2.cc)).take (min (c.val + 1) n - 1)
  let old := s2.fr s2.cc f
  let body := s2.me.pc + BitVec.ofNat 64 len
  ∃ t, exec i s = .next t ∧
    (let F := t.fr s2.cc f
     F.st = .run ∧ F.trip = n ∧ F.w = w.val ∧ F.c = c.val + 1 ∧ F.om = om ∧ F.opn = opn ∧ F.body = body ∧
     F.fin = s2.me.pc + BitVec.ofNat 64 (4 * ofs.toNat) ∧ F.setl = 0 ∧ F.rst = false ∧ F.brkd = false ∧ F.held = [] ∧
     F.members = s2.ck :: crew ∧
     F.vers = (if old.st = .exit then [] else old.vers.filter (fun v => decide (v.iter < 0))) ∧
     F.its.map (fun u => (u.i, u.ctx)) = (List.range (crew.length + 1)).zip (s2.ck :: crew)) ∧
    (t.ctx s2.cc s2.ck).pc = body ∧
    (∀ k ∈ crew, (t.ctx s2.cc k).pc = body ∧ (t.ctx s2.cc k).run = .held ∧ (t.ctx s2.cc k).x = s2.me.x ∧
      (t.ctx s2.cc k).g = s2.me.g ∧ (t.ctx s2.cc k).cm = true ∧ (t.ctx s2.cc k).ff = 0)

/-- R97, R98, R99, R115: LOOP and LOOP.open run a frame; with trip count 0 LOOP frees the held frame and goes on after the
loop; in an iteration of a loop with a crew it raises FNEST, which is instruction-precise (R116). -/
def Said.LoopResults : Prop :=
  (∀ w c om ofs n s s1 s2 f, Issues { infoOf noGuard 12 1 [] [] [] [] with bar := true } s s1 → Gives checkNest s1 () s1 →
    Gives claimFrame s1 f s2 → s2.me.run = .held → 0 < n.toNat →
    Claim.LoopRuns (.loop (.lit n) w c om ofs) s s2 f n.toNat 12 w c om false ofs) ∧
  (∀ a w c om ofs v s s1 s1' s2 f, Issues { infoOf noGuard 8 1 [a] [] [] [] with bar := true } s s1 → Gives checkNest s1 () s1 →
    Gives (readS a) s1 v s1' → Gives claimFrame s1' f s2 → s2.me.run = .held → v ≠ 0 →
    Claim.LoopRuns (.loop (.reg a) w c om ofs) s s2 f (min v.toNat (2 ^ 32 - 1)) 8 w c om false ofs) ∧
  (∀ w c om ofs s s1 s2 f, Issues { g := noGuard, bar := true } s s1 → Gives checkNest s1 () s1 →
    Gives claimFrame s1 f s2 → s2.me.run = .held →
    Claim.LoopRuns (.loopOpen w c om ofs) s s2 f (2 ^ 32) 8 w c om true ofs) ∧
  (∀ w c om ofs s s1, Issues { infoOf noGuard 12 1 [] [] [] [] with bar := true } s s1 → Gives checkNest s1 () s1 →
    ∃ t, exec (.loop (.lit 0) w c om ofs) s = .next t ∧ t.me.pc = s1.me.pc + BitVec.ofNat 64 (4 * ofs.toNat) + 8 ∧
      t.me.x = s1.me.x ∧ (∀ f, s1.heldFrame s1.cc s1.ck (s1.levelOf s1.cc s1.ck) = some f → (t.fr s1.cc f).st = .free)) ∧
  (∀ count w c om ofs s s1 f u,
    Issues { infoOf noGuard (LoopCount.len count) 1 (LoopCount.srcs count) [] [] [] with bar := true } s s1 →
    s1.curIter s1.cc s1.ck = some (f, u) → 1 < (s1.fr s1.cc f).a →
    exec (.loop count w c om ofs) s = .next { s1.enterTrap s1.cc s1.ck { code := .fnest } with acct := .iss })

/-- R94, R98, R115: which frame LOOP and VSEED claim: the one the context holds at its level, else the lowest free one; a context that
holds no frame gives way to the lower ones that wait for one; with none free, an opener of another level raises FRAME and
another context waits. -/
def Said.FrameClaims : Prop :=
  ∀ s : State,
    (∀ f, s.heldFrame s.cc s.ck (s.levelOf s.cc s.ck) = some f → Gives claimFrame s f s) ∧
    (s.heldFrame s.cc s.ck (s.levelOf s.cc s.ck) = none →
      let opener := s.heldFrame s.cc s.ck (3 - s.levelOf s.cc s.ck) ≠ none
      let nfree := (if (s.fr s.cc 0).st = .free then 1 else 0) + (if (s.fr s.cc 1).st = .free then 1 else 0)
      let may := opener ∨ s.frameWaiters s.cc s.ck < nfree
      ((s.fr s.cc 0).st = .free → may → ∃ t, Gives claimFrame s 0 t ∧
        t.fr s.cc 0 = { st := .seed, level := s.levelOf s.cc s.ck, opener := s.ck } ∧ t.fr s.cc 1 = s.fr s.cc 1) ∧
      ((s.fr s.cc 0).st ≠ .free → (s.fr s.cc 1).st = .free → may → ∃ t, Gives claimFrame s 1 t ∧
        t.fr s.cc 1 = { st := .seed, level := s.levelOf s.cc s.ck, opener := s.ck } ∧ t.fr s.cc 0 = s.fr s.cc 0) ∧
      (¬may → claimFrame s = .error (.wait .wver (.frameFree s.cc))) ∧
      ((s.fr s.cc 0).st ≠ .free → (s.fr s.cc 1).st ≠ .free → opener → claimFrame s = .error (.trap { code := .frame })))

/-- R97, R98, R99, R115, R94: the claims LoopResults and FrameClaims. -/
def Obligations.LoopStarts : Prop := Said.LoopResults ∧ Said.FrameClaims

/-- R104, R109, R111, R112: ENDL in the oldest iteration of a loop that its opener runs alone. Every version of the iteration is
written or carried, the iteration settles, and the next one begins at the body; after the last one the loop exits, with
the exit view of that iteration, and execution goes on after ENDL. Elsewhere than at the loop's end it raises ILLEGAL. -/
def Said.EndlResults : Prop :=
  ∀ s s1 f u, Issues { g := noGuard, bar := true } s s1 → s1.curIter s1.cc s1.ck = some (f, u) →
    let F := s1.fr s1.cc f
    (s1.me.pc ≠ F.fin → exec .endl s = .next { s1.takeFault s1.cc s1.ck { code := .illegal } with acct := .iss }) ∧
    (s1.me.pc = F.fin → F.st = .run → F.members = [s1.ck] → F.opener = s1.ck → F.its = [u] → u.i = F.setl → u.ctx = s1.ck →
      u.completed = false →
      ∃ t, exec .endl s = .next t ∧
        (let G := t.fr s1.cc f
         G.setl = u.i + 1 ∧ (∀ name < 24, (G.ver? name u.i).isSome = true) ∧
         (u.i + 1 < F.trip → F.rst = false → G.st = .run ∧ G.its.map (fun v => (v.i, v.ctx)) = [(u.i + 1, s1.ck)] ∧
           G.held = F.held.filter (fun h => h.iter != u.i) ∧ t.me.pc = F.body) ∧
         (F.trip ≤ u.i + 1 → G.st = .exit ∧ G.last = u.i ∧ G.brkd = false ∧ G.its = [] ∧ G.held = [] ∧
           t.me.pc = F.fin + 8)))

/-- R105, R113, R119, R120: BRK ends the loop from its oldest iteration, BRK.o the enclosing loop too; IRET marks the iteration
retired; VSEED sets a seed; LFREE frees the level frame in seed or exit state. -/
def Said.LoopEndsAndSeeds : Prop :=
  (∀ g s s1 f u, Issues { g, side := true, bar := true } s s1 → s1.curIter s1.cc s1.ck = some (f, u) →
    u.i = (s1.fr s1.cc f).setl → u.ctx = s1.ck →
    ∃ t, exec (.brk g) s = .next t ∧ (t.fr s1.cc f).st = .exit ∧ (t.fr s1.cc f).brkd = true ∧ (t.fr s1.cc f).last = u.i ∧
      (t.fr s1.cc f).its = [] ∧ (t.ctx s1.cc (s1.fr s1.cc f).opener).pc = (s1.fr s1.cc f).fin + 8) ∧
  (∀ g s s1 f o u v, Issues { g, side := s.innerLoop, bar := true } s s1 → s1.curIter s1.cc s1.ck = some (f, u) →
    (s1.fr s1.cc f).level = 2 → (s1.fr s1.cc f).opener = s1.ck → u.i = (s1.fr s1.cc f).setl → u.ctx = s1.ck → o ≠ f →
    (s1.fr s1.cc f).members = [s1.ck] → (s1.fr s1.cc o).members = [s1.ck] →
    (s1.fr s1.cc o).level = 1 → (s1.fr s1.cc o).opener = s1.ck → (s1.fr s1.cc o).iterOf s1.ck = some v →
    v.i = (s1.fr s1.cc o).setl →
    ∃ t, exec (.brkO g) s = .next t ∧ (t.fr s1.cc f).st = .free ∧ (t.fr s1.cc o).st = .exit ∧ (t.fr s1.cc o).brkd = true ∧
      t.me.pc = (s1.fr s1.cc o).fin + 8) ∧
  (∀ g s s1 f u, Issues { g } s s1 → s1.curIter s1.cc s1.ck = some (f, u) →
    ∃ t : State, exec (.iret g) s = .next (t.retire 8) ∧ t.me = s1.me ∧ t.mem = s1.mem ∧
      (t.fr s1.cc f).its = (s1.fr s1.cc f).its.map (fun v => if v.i = u.i then { v with retired := true } else v) ∧
      (t.fr s1.cc f).vers = (s1.fr s1.cc f).vers) ∧
  (∀ g s s1, (Issues { g } s s1 → s1.curIter s1.cc s1.ck = none →
      exec (.iret g) s = .next { s1.takeFault s1.cc s1.ck { code := .illegal } with acct := .iss }) ∧
    (Issues { g, side := true, bar := true } s s1 → s1.curIter s1.cc s1.ck = none →
      exec (.brk g) s = .next { s1.takeFault s1.cc s1.ck { code := .illegal } with acct := .iss })) ∧
  (∀ g dst (k : Fin 8) src s s1 s2 s3 f v, Issues (seedInfo g src) s s1 → Gives checkNest s1 () s1 → Gives claimFrame s1 f s2 →
    Gives (SeedSrc.read src) (s2.modFr s2.cc f (fun F => { F with
      st := .seed, vers := if F.st = .exit then [] else F.vers })) v s3 → s3.cc = s2.cc →
    ∃ t : State, exec (.vseed g dst k src) s = .next (t.retire (seedInfo g src).len) ∧ t.me = s3.me ∧ t.mem = s3.mem ∧
      (t.fr s2.cc f).ver? (SeedName.num dst) (-(k.val : Int)) =
        some { name := SeedName.num dst, iter := -(k.val : Int), carried := false, need := 0, bits := v.1, tag := v.2 } ∧
      (∀ name i, (name, i) ≠ (SeedName.num dst, -(k.val : Int)) → (t.fr s2.cc f).ver? name i = (s3.fr s2.cc f).ver? name i) ∧
      (t.fr s2.cc f).st = (s3.fr s2.cc f).st) ∧
  (∀ g s s1 f, Issues { g } s s1 → Gives checkNest s1 () s1 →
    s1.heldFrame s1.cc s1.ck (s1.levelOf s1.cc s1.ck) = some f →
    ((s1.fr s1.cc f).st = .seed ∨ (s1.fr s1.cc f).st = .exit → ∃ t : State, exec (.lfree g) s = .next (t.retire 8) ∧
      (t.fr s1.cc f).st = .free ∧ t.me = s1.me ∧ t.mem = s1.mem) ∧
    ((s1.fr s1.cc f).st = .run → exec (.lfree g) s = .next (s1.retire 8)))

/-- R104, R109, R111, R112, R105, R113, R119, R120: the claims EndlResults and LoopEndsAndSeeds. -/
def Obligations.LoopEnds : Prop := Said.EndlResults ∧ Said.LoopEndsAndSeeds

/-! ## System registers and tags -/

/-- The system registers that SYSRD reads (R84, R85), but for FRM, with what each reads for the acting context. -/
def Claim.sysReads : List (Nat × (State → Word)) :=
  [(0x00, fun s => BitVec.ofNat 64 (s.me.ff.toNat + s.me.rm.toNat * 2 ^ 8 + (if s.me.h then 2 ^ 12 else 0) +
     (if s.me.vctx = 0 then 2 ^ 16 else 0) +
     ((List.finRange 2).countP (fun f => (s.fr s.cc f).st != .free && (s.fr s.cc f).opener == s.ck)) * 2 ^ 17 +
     (if s.me.cm then 2 ^ 19 else 0) + s.me.crew % 16 * 2 ^ 20)),
   (0x01, fun s => s.me.tcause), (0x02, fun s => s.me.tpc), (0x03, fun s => s.me.tval), (0x04, fun s => s.me.tvec),
   (0x05, fun s => BitVec.ofNat 64 s.myCore.segb.toNat), (0x06, fun s => BitVec.ofNat 64 s.myCore.segl.toNat),
   (0x07, fun s => BitVec.ofNat 64 (s.myPart % 16)), (0x08, fun s => s.me.ydl),
   (0x09, fun s => (s.core s.myCore.home).cyc), (0x0A, fun s => BitVec.ofNat 64 s.me.qmap.toNat),
   (0x0B, fun s => BitVec.ofNat 64 s.me.bsm.toNat), (0x10, fun s => s.me.cps), (0x11, fun s => s.me.cpd),
   (0x12, fun s => s.me.cpxs), (0x13, fun s => s.me.cpys), (0x14, fun s => s.me.cpsz &&& 0x0000FFFFFFFFFFFF),
   (0x15, fun s => s.me.cpfl &&& 0x000000FF0133FFFF),
   (0x17, fun s => s.myCore.cpdone)]

/-- R6, R84, R85, R90, R91: SYSRD writes the register's value, reserved fields as zero; a reserved number, and CPGO's, raises ILLEGAL,
which is instruction-precise. -/
def Said.SysrdResults : Prop :=
  ∀ g rd (n : Byte) s s1, Issues (infoOf g 8 1 [] [] [rd] []) s s1 →
    (∀ e ∈ Claim.sysReads, n.toNat = e.1 → Gives (checkS rd) s1 () s1 →
      exec (.sysrd g rd n) s = .next ((s1.putS rd (e.2 s1)).retire 8)) ∧
    (n.toNat = 0x0C → Gives (checkS rd) s1 () s1 →
      exec (.sysrd g rd n) s = .next ((s1.putS rd (s1.frm s1.cc s1.ck)).retire 8)) ∧
    (n.toNat ∉ [0x0C] ++ Claim.sysReads.map Prod.fst →
      exec (.sysrd g rd n) s = .next { s1.enterTrap s1.cc s1.ck { code := .illegal } with acct := .iss })

/-- The registers that any thread may write with SYSWR, and what the write leaves in the context (R84 to R86, R235, R388). -/
def Claim.sysWrites : List (Nat × (Ctx → Word → Ctx)) :=
  [(0x04, fun x v => { x with tvec := v &&& 0xFFFFFFFFFFFFFFFD }), (0x0A, fun x v => { x with qmap := v.extractLsb' 0 16 }),
   (0x10, fun x v => { x with cps := v }), (0x11, fun x v => { x with cpd := v }), (0x12, fun x v => { x with cpxs := v }),
   (0x13, fun x v => { x with cpys := v }), (0x09, fun x _ => x), (0x0B, fun x _ => x), (0x0C, fun x _ => x),
   (0x17, fun x _ => x)]

/-- R81, R85, R90: SYSWR writes the fields whose level is held; a write that would change a field whose level is not held
raises PRIV; one that changes no such field completes. -/
def Said.SyswrResults : Prop :=
  ∀ g (n : Byte) a s s1 s2 v, Issues { infoOf g 8 1 [a] [] [] [] with side := true } s s1 → Gives (readS a) s1 v s2 →
    s2.cc < 8192 →
    (∀ e ∈ Claim.sysWrites, n.toNat = e.1 → exec (.syswr g n a) s = .next ((s2.modMe (fun x => e.2 x v)).retire 8)) ∧
    (n.toNat = 0x00 → (s2.me.h = true ∨ v.getLsbD 12 = false →
        exec (.syswr g n a) s = .next ((s2.modMe (fun x => { x with
          h := v.getLsbD 12, rm := v.extractLsb' 8 2, ff := v.extractLsb' 0 5 })).retire 8)) ∧
      (s2.me.h = false → v.getLsbD 12 = true →
        exec (.syswr g n a) s = .next { s1.takeFault s1.cc s1.ck { code := .priv } with acct := .iss })) ∧
    (∀ e ∈ [(0x02, (fun (x : Ctx) (v : Word) => { x with tpc := v }), (fun (x : Ctx) => x.tpc)),
        (0x03, (fun (x : Ctx) (v : Word) => { x with tval := v }), (fun (x : Ctx) => x.tval))], n.toNat = e.1 →
      (s2.me.h = true → exec (.syswr g n a) s = .next ((s2.modMe (fun x => e.2.1 x v)).retire 8)) ∧
      (s2.me.h = false → v ≠ e.2.2 s2.me →
        exec (.syswr g n a) s = .next { s1.takeFault s1.cc s1.ck { code := .priv } with acct := .iss })) ∧
    (n.toNat = 0x01 → s2.me.h = true → exec (.syswr g n a) s =
      .next ((s2.modMe (fun x => { x with tcause := v &&& 0x0001FF003F8FC0FF })).retire 8)) ∧
    (n.toNat = 0x14 → exec (.syswr g n a) s =
      .next ((s2.modMe (fun x => { x with cpsz := x.cpsz.extractLsb' 48 16 ++ v.extractLsb' 0 48 })).retire 8)) ∧
    (n.toNat = 0x15 → exec (.syswr g n a) s = .next ((s2.modMe (fun x =>
      { x with cpfl := (v &&& 0x000000FF0133FFFF) ||| (x.cpfl &&& 0xFFFFFF00FECC0000) })).retire 8)) ∧
    (n.toNat = 0x08 → v ≠ s2.me.ydl →
      exec (.syswr g n a) s = .next { s1.takeFault s1.cc s1.ck { code := .priv } with acct := .iss })

/-- R88, R92: FMTG reads a tag; FMTS changes the tag and no bit. -/
def Said.TagInstructions : Prop :=
  (∀ g rd a s s1 s2 u, Issues (infoOf g 8 1 [] [a] [rd] []) s s1 → Gives (readV a) s1 u s2 → Gives (checkS rd) s2 () s2 →
    exec (.fmtg g rd (.v a)) s = .next ((s2.putS rd (BitVec.ofNat 64 (tagNum u.tag))).retire 8)) ∧
  (∀ g rd (n : Fin 2) s s1, Issues (infoOf g 8 1 [] [] [rd] []) s s1 → Gives (checkS rd) s1 () s1 →
    exec (.fmtg g rd (.z n)) s = .next ((s1.putS rd (BitVec.ofNat 64 (tagNum (s1.me.z.get n).tag))).retire 8)) ∧
  (∀ g (r : Fin 16) t s s1, Issues (infoOf g 8 1 [] [] [] [.v r]) s s1 →
    ∃ u : State, exec (.fmts g (.v (.v r)) t) s = .next (u.retire 8) ∧ (u.me.v.get r).tag = t ∧
      (u.me.v.get r).bits = (s1.me.v.get r).bits ∧ (∀ n, n ≠ r → u.me.v.get n = s1.me.v.get n) ∧
      u = s1.setCtx s1.cc s1.ck { s1.me with v := u.me.v }) ∧
  (∀ g (n : Fin 2) t s s1, Issues (infoOf g 8 1 [] [] [] []) s s1 →
    ∃ u : State, exec (.fmts g (.z n) t) s = .next (u.retire 8) ∧ u.me.z.get n = { s1.me.z.get n with tag := t } ∧
      (∀ m, m ≠ n → u.me.z.get m = s1.me.z.get m) ∧ u = s1.setCtx s1.cc s1.ck { s1.me with z := u.me.z }) ∧
  (∀ g (r : Fin 8) t s s1 f u v, Issues { infoOf g 8 1 [] [] [] [.w r] with lds := [] } s s1 → s.me.guardBits g &&& 1 ≠ 0 →
    s1.curFrame s1.cc s1.ck = some (f, some u) → (s1.fr s1.cc f).ver? (16 + r.val) u.i = some v → v.need = 0 →
    ∃ x : State, exec (.fmts g (.v (.w r)) t) s = .next (x.retire 8) ∧ x.me = s1.me ∧
      (x.fr s1.cc f).ver? (16 + r.val) u.i = some { v with carried := false, tag := t }) ∧
  (List.map tagNum [.raw, .fp32, .bf16, .fp16, .int32, .int16, .int8, .dyad8] = [0, 1, 2, 3, 4, 5, 6, 7])

/-- R6, R84, R85, R90, R91, R81, R88, R92: the claims SysrdResults, SyswrResults and TagInstructions. -/
def Obligations.SystemRegisters : Prop := Said.SysrdResults ∧ Said.SyswrResults ∧ Said.TagInstructions

/-! ## Accumulators and the array -/

/-- R190, R191, R199: ZCLR, ZSCALE, ZRD and ZWR: element (i, j) of an accumulator is element 16 i + j in row order. -/
def Said.AccumulatorMoves : Prop :=
  (∀ g (z : Fin 2) t s s1, Issues (zInfo g [] []) s s1 →
    exec (.zclr g z t) s = .next ((s1.modMe (fun x => x.setZ z 0 t)).retire 8)) ∧
  (∀ g (z : Fin 2) a s s1 s2 v, Issues (zInfo g [] [a]) s s1 → Gives (readV a) s1 v s2 → v.tag = .fp32 →
    (s2.me.z.get z).tag = .fp32 ∨ (s2.me.z.get z).tag = .raw →
    ∃ (r : BitVec 8192) (f : FF), exec (.zscale g z a) s =
        .next (((s2.modMe (fun x => x.setZ z r .fp32)).modMe (fun x => { x with ff := x.ff ||| f })).retire 8) ∧
      (∀ i < 16, ∀ j < 16, (Machine.getElem r (16 * i + j)).toNat =
        (fp32.mul .ne (Machine.getElem (s2.me.z.get z).bits (16 * i + j)).toNat (getLane v.bits j).toNat).1) ∧
      (∀ b < 5, f.getLsbD b = true ↔ ∃ i < 16, ∃ j < 16,
        (fp32.mul .ne (Machine.getElem (s2.me.z.get z).bits (16 * i + j)).toNat (getLane v.bits j).toNat).2.getLsbD b = true)) ∧
  (∀ g vd (z : Fin 2) (p : Fin 8) s s1, Issues (infoOf g 8 allOn [] [] [] [vd]) s s1 → Gives (checkV vd) s1 () s1 →
    ∃ r : BitVec 1024, exec (.zrd g vd z p) s =
        .next ((s1.putV vd (s1.me.guardBits g) r (s1.me.z.get z).tag).retire 8) ∧
      ∀ n < 32, getLane r n = Machine.getElem (s1.me.z.get z).bits (32 * p.val + n)) ∧
  (∀ g (z : Fin 2) a (p : Fin 8) s s1 s2 v, Issues (infoOf g 8 allOn [] [a] [] []) s s1 → Gives (readV a) s1 v s2 →
    v.tag ∈ Claim.setS → ∃ r : BitVec 8192, exec (.zwr g z a p) s = .next ((s2.modMe (fun x => x.setZ z r v.tag)).retire 8) ∧
      ∀ n < 256, Machine.getElem r n = if n / 32 = p.val ∧ (s2.me.guardBits g).getLsbD (n % 32) = true then getLane v.bits (n % 32)
        else Machine.getElem (s2.me.z.get z).bits n)

/-- An instruction has sent its request: it stays at its PC in the state of a reply awaited, and no memory has changed (R222). -/
def Claim.Sent (o : Out) (s : State) (k : PendKind) (cls : SlotClass) (len : Nat) : Prop :=
  ∃ t p, o = .next t ∧ p.kind = k ∧ p.cls = cls ∧ p.len = len ∧ t.cur = s.cur ∧
    t.me = { s.me with pend := some p, wait := none } ∧ t.mem = s.mem

/-- The matrix operations with the rows a cycle and the elements' size (R196, R197). -/
def Claim.mmas : List ((Guard → Fin 2 → SSrc → SSrc → SSrc → Instr) × Nat × (SSrc → List SSrc)) :=
  [(fun g z xa xw _ => .mmab g z xa xw, 1, fun _ => []), (fun g z xa xw _ => .mmai g z xa xw, 2, fun _ => []),
   (fun g z xa xw xs => .mmad g z xa xw xs, 4, fun xs => [xs])]

/-- R192, R197: a matrix operation with a valid descriptor joins the order of the weight buffer and awaits the array; an
invalid descriptor raises ILLEGAL with it in TVAL, and an accumulator of another format FMT with position 0. -/
def Said.MatrixIssue : Prop :=
  ∀ e ∈ Claim.mmas, ∀ g z xa xw xs s s1 s2 s3 s4 a d sc,
    Issues (zInfo g ([xa, xw] ++ e.2.2 xs) []) s s1 → Gives (readS xa) s1 a s2 → Gives (readS xw) s2 d s3 →
    Gives (readS (if e.2.1 = 4 then xs else .zero)) s3 sc s4 →
    let es := if e.2.1 = 1 then 2 else 1
    let cnt := (d.extractLsb' 18 14).toNat + 1
    let off := (d.extractLsb' 0 18).toNat
    let ok := (d.extractLsb' 34 2).toNat + 1 = es ∧ d.getLsbD 32 = false ∧ d.getLsbD 33 = false ∧ d.extractLsb' 36 28 = 0 ∧
      off % 16 = 0 ∧ off + 16 * es * cnt ≤ 2 ^ 18 ∧ cnt % 16 = 0 ∧
      cnt ≤ (if e.2.1 = 1 then 512 else if e.2.1 = 2 then 1024 else 2048)
    let fmt := (s3.me.z.get z).tag = (if e.2.1 = 2 then .int32 else .fp32) ∨ (s3.me.z.get z).tag = .raw
    (¬ok → exec (e.1 g z xa xw xs) s =
      .next { s1.takeFault s1.cc s1.ck { code := .illegal, tval := d } with acct := .iss }) ∧
    (ok → ¬fmt → exec (e.1 g z xa xw xs) s = .next { s1.takeFault s1.cc s1.ck
      { code := .fmt, tval := BitVec.ofNat 64 (tagNum (s3.me.z.get z).tag) } with acct := .iss }) ∧
    (ok → fmt → (s4.cluster (s4.clusterOf s4.cc)).bps = [] → Gives omCheck s4 () s4 →
      ∀ ls s5 ls' s6, Gives (locM { r := true } [0x8] a.toNat (16 * es * cnt) 32) s4 ls s5 →
      Gives (if e.2.1 = 4 then locM { r := true } [0x8] sc.toNat (cnt / 8) 2 else pure []) s5 ls' s6 →
      s6.foldReady s6.cc = true →
      Claim.Sent (exec (e.1 g z xa xw xs) s) s6 .array .wmem 8 ∧
      ∃ t w, exec (e.1 g z xa xw xs) s = .next t ∧ t.myCore.wq = s6.myCore.wq ++ [w] ∧ w.e = e.2.1 ∧ w.desc = d ∧ w.z = z ∧
        w.xa = a ∧ w.ctx = s6.ck ∧ w.lo = off ∧ w.hi = off + 16 * es * cnt ∧ w.started = none)

/-- R157, R196, R197: the array completes MMAI: element (i, j) of the accumulator grows by the sum of the products of row i of
the activations and column j of the tile, as signed bytes, wrapping; the instruction completes. -/
def Said.MatrixCompletes : Prop :=
  ∀ c (s : State) (w : WAcc) st act sc (p : Pend), s.runs c = true → (s.core c).wq = [w] → w.started = some (st, act, sc) → w.dropped = false →
    (s.ctx c w.ctx).pend = some p → p.kind = .array → p.reserve = [] →
    st + descCnt w.desc / w.e - 1 < (s.core (s.core c).home).cyc.toNat →
    let old := ((s.ctx c w.ctx).z.get w.z).bits
    let wb (x : Nat) : Byte := Memory.get (s.core c).wbuf (descOff w.desc + x)
    (w.e = 2 → ∃ t, exec (.matrixComplete c) s = .next t ∧ (t.core c).wq = [] ∧ (t.ctx c w.ctx).pend = none ∧
      ((t.ctx c w.ctx).z.get w.z).tag = .int32 ∧ (t.ctx c w.ctx).x = (s.ctx c w.ctx).x ∧ t.mem = s.mem ∧
      ∀ i < 16, ∀ j < 16, Machine.getElem ((t.ctx c w.ctx).z.get w.z).bits (16 * i + j) =
        Machine.getElem old (16 * i + j) + BitVec.ofInt 32 (((List.range (descCnt w.desc)).map (fun k =>
          (act.getD (descCnt w.desc * i + k) 0).toInt * (wb (16 * k + j)).toInt)).sum)) ∧
    (w.e = 1 ∨ w.e = 4 → ∃ t, exec (.matrixComplete c) s = .next t ∧ (t.core c).wq = [] ∧ (t.ctx c w.ctx).pend = none ∧
      ((t.ctx c w.ctx).z.get w.z).tag = .fp32 ∧ t.mem = s.mem)

/-- R192, R197, R157, R196: the claims MatrixIssue and MatrixCompletes. -/
def Obligations.MatrixMultiply : Prop := Said.MatrixIssue ∧ Said.MatrixCompletes

/-- R193, R194: WBLD and LDT with a valid descriptor and an aligned source wait for the weight buffer in order; an invalid descriptor
raises ILLEGAL with it in TVAL, and an unaligned source of an uncompressed tile ALIGN (no watchpoint being set). -/
def Said.WeightLoadIssue : Prop :=
  ∀ g xd xb (imm : Imm) (tr : Bool) s s1 s2 s3 base d, Issues (weightInfo g xd xb imm) s s1 → Gives (readS xb) s1 base s2 →
    Gives (readS xd) s2 d s3 → (s3.cluster (s3.clusterOf s3.cc)).bps = [] →
    let a := base + imm.val
    let i : Instr := if tr then .ldt g xd xb imm else .wbld g xd xb imm
    let ok := descOk d = true ∧ (d.getLsbD 32 = true → tr = false ∧ descEs d = 1)
    (ok → (d.getLsbD 32 = false → a.toNat % 16 = 0) →
      s3.foldReady s3.cc = true → Claim.Sent (exec i s) s3 .weight .wmem (formLen imm.form) ∧
        ∃ t w, exec i s = .next t ∧ t.myCore.wq = s3.myCore.wq ++ [w] ∧ w.load = some (d, a, tr) ∧ w.ctx = s3.ck) ∧
    (¬ok → exec i s =
      .next { s1.takeFault s1.cc s1.ck { code := .illegal, tval := d } with acct := .iss }) ∧
    (ok → d.getLsbD 32 = false → a.toNat % 16 ≠ 0 → exec i s =
      .next { s1.takeFault s1.cc s1.ck { code := .align, tval := a, acc := .read } with acct := .iss })

/-- R193, R194, R269: WEIGHT_LOAD_COMPLETE of the first access of the order: once the far-read windows admit its source, the rows of its
tile are in the weight buffer, and its instruction completes. -/
def Said.WeightLoadCompletes : Prop :=
  ∀ c k (s : State) (w : WAcc) r d src tr (p : Pend) (u v : State) ok, s.runs c = true → (s.core c).wq = w :: r → w.ctx = k → w.dropped = false →
    w.load = some (d, src, tr) → s.farAsk (.ctx c k) (2 ^ 48) (farNeed (s.weightLines c k d src)) = (ok, v) →
    (ok = false → exec (.weightLoadComplete c k) s = .next v) ∧
    (ok = true → (v.ctx c k).pend = some p → p.kind = .weight → p.reserve = [] →
    v.weightRows c k d tr src 0 src (descCnt d) = (none, u) →
    ∃ t, exec (.weightLoadComplete c k) s = .next t ∧ (t.core c).wq = (u.core c).wq.drop 1 ∧
      (t.core c).wbuf = (u.core c).wbuf ∧ t.mem = u.mem ∧ (t.ctx c k).pend = none)

/-- R193, R194, R269: the claims WeightLoadIssue and WeightLoadCompletes. -/
def Obligations.WeightLoads : Prop := Said.WeightLoadIssue ∧ Said.WeightLoadCompletes

/-- R201: SWAPT leaves its accumulator in its exchange slot until the partner's matches; with equal keys both match. -/
def Said.SwaptIssue : Prop :=
  ∀ g t (zd zs : Fin 2) key s s1, Issues { g, side := true } s s1 →
    let p := s1.cc / 4 * 4 + (3 - s1.cc % 4)
    let j := (s1.physOf p (s1.vOf s1.cc s1.ck)).getD s1.ck
    ((s1.ctx p j).exch = none → ∃ u q, exec (.swapt g t zd zs key) s = .next u ∧
      u.me = { s1.me with pend := some q, wait := none, exch := some { key, t, zd, zs } } ∧ q.kind = .swapt ∧ u.mem = s1.mem) ∧
    (∀ o, (s1.ctx p j).exch = some o → o.matched = none → o.key = key →
      ∃ u e f, exec (.swapt g t zd zs key) s = .next u ∧ u.me.exch = some e ∧ (u.ctx p j).exch = some f ∧
        e.matched.map Prod.snd = some ((s1.ctx p j).z.get o.zs) ∧ f.matched.map Prod.snd = some (s1.me.z.get zs))

/-- R201: SWAPT_COMPLETE after cycle M + 15 of both cores: both writes take effect together, transposed where T says so. -/
def Said.SwaptCompletes : Prop :=
  ∀ c k (s : State) (e f : Exch) m n y z (q r : Pend), s.runs c = true →
    let p := c / 4 * 4 + (3 - c % 4)
    let h := (s.physOf p (s.vOf c k)).getD k
    (s.ctx c k).exch = some e → (s.ctx p h).exch = some f → e.matched = some (m, y) → f.matched = some (n, z) →
    (s.ctx c k).pend = some q → (s.ctx p h).pend = some r → q.reserve = [] → r.reserve = [] →
    m + 15 < (s.core (s.core c).home).cyc.toNat → n + 15 < (s.core (s.core p).home).cyc.toNat →
    ∃ t, exec (.swaptComplete c k) s = .next t ∧ (t.ctx c k).exch = none ∧ (t.ctx p h).exch = none ∧
      (t.ctx c k).pend = none ∧ (t.ctx p h).pend = none ∧
      ((t.ctx c k).z.get e.zd).tag = y.tag ∧ ((t.ctx p h).z.get f.zd).tag = z.tag ∧
      (∀ i < 16, ∀ j < 16,
        Machine.getElem ((t.ctx c k).z.get e.zd).bits (16 * i + j) = Machine.getElem y.bits (if e.t then 16 * j + i else 16 * i + j)) ∧
      (∀ i < 16, ∀ j < 16,
        Machine.getElem ((t.ctx p h).z.get f.zd).bits (16 * i + j) = Machine.getElem z.bits (if f.t then 16 * j + i else 16 * i + j))

/-- R201: the claims SwaptIssue and SwaptCompletes. -/
def Obligations.AccumulatorSwap : Prop := Said.SwaptIssue ∧ Said.SwaptCompletes

/-! ## Loads and stores -/

/-- The addresses of `n` bytes from one on. -/
def Claim.bytesFrom (a : Word) (n : Nat) : List Nat := (List.range n).map (fun i => a.toNat + i)

/-- The scalar loads of R225: bytes, and whether the result is sign-extended. -/
def Claim.scalarLoads : List ((Guard → SDst → SSrc → Imm → Instr) × Nat × Bool) :=
  [(.ld, 8, false), (.ldW, 4, true), (.ldWu, 4, false), (.ldH, 2, true), (.ldHu, 2, false), (.ldB, 1, true), (.ldBu, 1, false)]
/-- The scalar stores of R225. -/
def Claim.scalarStores : List ((Guard → SSrc → SSrc → Imm → Instr) × Nat) := [(.st, 8), (.stW, 4), (.stH, 2), (.stB, 1)]

/-- R221, R222, R225: each scalar load, its address checked, sends its request and leaves the rotation in class WMEM; a
misaligned address raises ALIGN with it in TVAL. -/
def Said.ScalarLoadsAreSent : Prop :=
  ∀ e ∈ Claim.scalarLoads, ∀ g rd xb (imm : Imm) s s1 s2 base, Issues (loadInfo g rd xb imm) s s1 → Gives (readS xb) s1 base s2 →
    let a := base + imm.val
    let n := e.2.1
    (s2.cluster (s2.clusterOf s2.cc)).bps = [] → Gives omCheck s2 () s2 →
    (∀ ls s2' s3 s4, Gives (locM { r := true } allSpaces a.toNat n n) s2 ls s2' → Gives (farCheck [(a.toNat, ls)]) s2' () s3 →
      s4 = s3.count s3.cc s3.ck 0x0A 1 → Gives (checkS rd) s4 () s4 →
      Claim.Sent (exec (e.1 g rd xb imm) s) s4
        (.load [{ locs := ls, own := ls.map (s3.ownByte s3.cc s3.ck) }] (.scalar rd n e.2.2) []) .wmem (formLen imm.form)) ∧
    (spaceOk allSpaces a.toNat n = true → a.toNat % n ≠ 0 → exec (e.1 g rd xb imm) s =
      .next { s1.takeFault s1.cc s1.ck { code := .align, tval := a, acc := .read } with acct := .iss })

/-- R222, R225: the reply of a scalar load to an x register writes the loaded bytes, zero- or sign-extended, and completes the
instruction. -/
def Said.ScalarLoadReplies : Prop :=
  ∀ (s : State) c k cuts (p : Pend) u (r : Fin 32) n sx, (s.ctx c k).pend = some p → p.kind = .load [u] (.scalar (.x r) n sx) [] →
    p.reserve = [] → s.power = .on → s.runs c = true → (s.part (s.core c).partid).preempted = false →
    (s.cluster (s.clusterOf c)).skid = [] → n ≤ 8 →
    let bs := (s.readUnit (s.agentOf c k) (cuts.headD 0) u).1
    ∃ t, exec (.memoryReply c k cuts) s = .next t ∧
      (t.ctx c k).x.get r = (if sx then (BitVec.ofNat (8 * n) (leVal bs)).signExtend 64 else BitVec.ofNat 64 (leVal bs)) ∧
      (∀ q, q ≠ r → (t.ctx c k).x.get q = (s.ctx c k).x.get q) ∧ (t.ctx c k).pend = none ∧
      (t.ctx c k).pc = (nextPc (s.ctx c k) p.len).1 ∧ t.mem.d = s.mem.d

/-- R108, R222, R247 M4: every byte of a unit of a load is the newest held store byte of its iteration, or a write of the
location that the agent may still read: the one its view names, or a newer one that some store holds; its view then names it. -/
def Said.LoadedBytes : Prop :=
  ∀ (m : MemSys) a cut ls,
    let r := m.load a cut ls
    r.1.length = ls.length ∧
    (∀ i (h : i < ls.length), ls.Nodup → ∃ w ∈ m.candidates a ls[i], r.1[i]? = some w.byte ∧
      (m.view a ls[i]).stamp ≤ w.stamp ∧ (r.2.view a ls[i]).stamp = w.stamp) ∧
    (∀ b l, b ≠ a → r.2.view b l = m.view b l) ∧ (∀ l, l ∉ ls → r.2.view a l = m.view a l) ∧
    r.2.d = m.d ∧ r.2.bufs = m.bufs ∧ r.2.g = m.g ∧ r.2.y = m.y

/-- R221, R222, R225, R108, R247: the claims ScalarLoadsAreSent, ScalarLoadReplies and LoadedBytes. -/
def Obligations.ScalarLoads : Prop := Said.ScalarLoadsAreSent ∧ Said.ScalarLoadReplies ∧ Said.LoadedBytes

/-- What a store of units outside an iteration does: one write for each unit, the store counted, the instruction complete. -/
def Claim.Stored (o : Out) (s : State) (units : List (List Host.Cell)) (ext : Option KvExt) (len : Nat) : Prop :=
  o = .next (((s.storeUnits (.ctx s.cc s.ck) units ext).count s.cc s.ck 0x0B 1).retire len)

/-- R107, R221, R222, R225: each scalar store outside an iteration writes its low bytes at its address; in an uncommitted
iteration it takes one entry of the iteration store queue and no memory changes, and guarded off it takes an entry too. -/
def Said.ScalarStores : Prop :=
  (∀ e ∈ Claim.scalarStores, ∀ g rs xb (imm : Imm) s s1 f t, Skips (storeInfo g rs xb imm) s s1 →
    s1.curIter s1.cc s1.ck = some (f, t) → t.committed = false → (s1.fr s1.cc f).held.length < 64 →
    ∃ u, exec (e.1 g rs xb imm) s = .next u ∧ u.mem = s1.mem ∧
      (u.fr s1.cc f).held = (s1.fr s1.cc f).held ++ [{ iter := t.i, units := [] }]) ∧
  ∀ e ∈ Claim.scalarStores, ∀ g rs xb (imm : Imm) s s1 s2 s3 base v, Issues (storeInfo g rs xb imm) s s1 →
    Gives (readS xb) s1 base s2 → Gives (readS rs) s2 v s3 →
    let a := base + imm.val
    let n := e.2
    (s3.cluster (s3.clusterOf s3.cc)).bps = [] →
    (∀ ls s4, Gives (locM { w := true } allSpaces a.toNat n n) s3 ls s4 → Gives (checkWaiters a.toNat ls) s4 () s4 →
      let unit := ls.zip ((List.range n).map (fun i => v.extractLsb' (8 * i) 8))
      (s4.curIter s4.cc s4.ck = none →
        Claim.Stored (exec (e.1 g rs xb imm) s) s4 [unit] (s4.kvExt [a.toNat] n) (formLen imm.form)) ∧
      (∀ f t, s4.curIter s4.cc s4.ck = some (f, t) → t.committed = false → (s4.fr s4.cc f).held.length < 64 →
        ∃ u, exec (e.1 g rs xb imm) s = .next u ∧ u.mem = s4.mem ∧
          (u.fr s4.cc f).held = (s4.fr s4.cc f).held ++
            [{ iter := t.i, units := [unit], ext := s4.kvExt [a.toNat] n, made := s4.mem.next }])) ∧
    (spaceOk allSpaces a.toNat n = true → a.toNat % n ≠ 0 → exec (e.1 g rs xb imm) s =
      .next { s1.takeFault s1.cc s1.ck { code := .align, tval := a, acc := .write } with acct := .iss })

/-- R221, R247 M1: the frame of a store. The agent's view of each stored location takes its byte as a new write that waits in
the agent's buffer; every other location reads as before in every view, no store changes, and no register changes. -/
def Said.StoreFrame : Prop :=
  ∀ (s : State) (a : Agent) (cells : List Host.Cell), (cells.map Prod.fst).Nodup →
    let t := s.storeUnits a [cells] none
    (∀ c ∈ cells, (t.mem.view a c.1).byte = c.2 ∧ (t.mem.view a c.1).stamp = s.mem.next) ∧
    (∀ l, l ∉ cells.map Prod.fst → t.mem.view a l = s.mem.view a l) ∧ (∀ b l, b ≠ a → t.mem.view b l = s.mem.view b l) ∧
    t.mem.bufs = s.mem.bufs ++ [{ agent := a, stamp := s.mem.next, cells }] ∧ t.mem.next = s.mem.next + 1 ∧
    t.mem.d = s.mem.d ∧ t.mem.g = s.mem.g ∧ t.mem.y = s.mem.y ∧ t.mem.empty = s.mem.empty ∧
    t.ctxs = s.ctxs ∧ t.cores = s.cores

/-- R107, R221, R222, R225, R247: the claims ScalarStores and StoreFrame. -/
def Obligations.ScalarStoresAndFrame : Prop := Said.ScalarStores ∧ Said.StoreFrame

/-- The bytes of a lane at its locations (R244). -/
def Claim.laneCell (v : VReg) (l : Nat × List Nat) : List Host.Cell :=
  l.2.zip ((List.range 4).map (fun i => (getLane v.bits l.1).extractLsb' (8 * i) 8))

/-- R226 to R228, R244: LDV, LDL and LDG send one unit of four bytes for each guarded-on lane, in lane order. -/
def Said.VectorLoadsAreSent : Prop :=
  (∀ g vd xb (imm : Imm) s s1 s2 s2' s3 s4 base ls, Issues (infoOf g (formLen imm.form) allOn [xb] [] [] [vd]) s s1 →
    Gives (readS xb) s1 base s2 → (s2.cluster (s2.clusterOf s2.cc)).bps = [] → Gives omCheck s2 () s2 →
    let addr (n : Nat) : Word := base + imm.val + BitVec.ofNat 64 (4 * n)
    Gives (laneLocs { r := true } addr (onLanes (s2.me.guardBits g))) s2 (ls, none) s2' →
    Gives (farCheck (ls.map (fun l => ((addr l.1).toNat, l.2)))) s2' () s3 → s4 = s3.count s3.cc s3.ck 0x0A 1 → Gives (checkV vd) s4 () s4 →
    Claim.Sent (exec (.ldv g vd xb imm) s) s4
      (.load (ls.map (fun l => { locs := l.2, own := l.2.map (s3.ownByte s3.cc s3.ck) })) (.lanes vd (s2.me.guardBits g)) [])
      .wmem (formLen imm.form)) ∧
  (∀ g vd xo (off : BitVec 11) s s1 s2 s2' s3 s4 base ls, Issues (infoOf g 8 allOn [xo] [] [] [vd]) s s1 →
    Gives (readS xo) s1 base s2 → (s2.cluster (s2.clusterOf s2.cc)).bps = [] → Gives omCheck s2 () s2 →
    let o := base + off.setWidth 64
    o.toNat + 4 ≤ 2048 → o.toNat % 4 = 0 →
    let addr (n : Nat) : Word := BitVec.ofNat 64 (0x9 * 2 ^ 60 + n * 2 ^ 16 + o.toNat)
    Gives (laneLocs { r := true } addr (onLanes (s2.me.guardBits g))) s2 (ls, none) s2' →
    Gives (farCheck (ls.map (fun l => ((addr l.1).toNat, l.2)))) s2' () s3 → s4 = s3.count s3.cc s3.ck 0x0A 1 → Gives (checkV vd) s4 () s4 →
    Claim.Sent (exec (.ldl g vd xo off) s) s4
      (.load (ls.map (fun l => { locs := l.2, own := l.2.map (s3.ownByte s3.cc s3.ck) })) (.lanes vd (s2.me.guardBits g)) [])
      .wmem 8) ∧
  (∀ g vd xb vi s s1 s2 s3 s3' s4 s5 base i ls, Issues (infoOf g 8 allOn [xb] [vi] [] [vd]) s s1 → Gives (readS xb) s1 base s2 →
    Gives (readV vi) s2 i s3 → i.tag = .int32 ∨ i.tag = .raw → (s3.cluster (s3.clusterOf s3.cc)).bps = [] →
    Gives omCheck s3 () s3 →
    let addr (n : Nat) : Word := base + (getLane i.bits n).signExtend 64
    Gives (laneLocs { r := true } addr (onLanes (s1.me.guardBits g))) s3 (ls, none) s3' →
    Gives (farCheck (ls.map (fun l => ((addr l.1).toNat, l.2)))) s3' () s4 → s5 = s4.count s4.cc s4.ck 0x0A 1 → Gives (checkV vd) s5 () s5 →
    Claim.Sent (exec (.ldg g vd xb vi) s) s5
      (.load (ls.map (fun l => { locs := l.2, own := l.2.map (s4.ownByte s4.cc s4.ck) })) (.lanes vd (s1.me.guardBits g)) [])
      .wmem 8)

/-- R222, R226: the reply of a vector load to a v register writes each guarded-on lane with the bytes of its unit, keeps the
others, and sets the tag RAW. -/
def Said.VectorLoadReplies : Prop :=
  ∀ (s : State) c k cuts (p : Pend) us (r : Fin 16) (m : Lane), (s.ctx c k).pend = some p →
    p.kind = .load us (.lanes (.v r) m) [] → p.reserve = [] → s.power = .on → s.runs c = true →
    (s.part (s.core c).partid).preempted = false → (s.cluster (s.clusterOf c)).skid = [] →
    us.length = (onLanes m).length →
    let bs := (s.readUnits (s.agentOf c k) cuts us).1
    ∃ t, exec (.memoryReply c k cuts) s = .next t ∧ ((t.ctx c k).v.get r).tag = .raw ∧
      (∀ i (h : i < (onLanes m).length), getLane ((t.ctx c k).v.get r).bits (onLanes m)[i] = BitVec.ofNat 32 (leVal (bs.getD i []))) ∧
      (∀ n < 32, m.getLsbD n = false → getLane ((t.ctx c k).v.get r).bits n = getLane ((s.ctx c k).v.get r).bits n) ∧
      (∀ q, q ≠ r → (t.ctx c k).v.get q = (s.ctx c k).v.get q) ∧ (t.ctx c k).x = (s.ctx c k).x ∧ (t.ctx c k).pend = none

/-- R226 to R228, R244, R222, R226: the claims VectorLoadsAreSent and VectorLoadReplies. -/
def Obligations.VectorLoads : Prop := Said.VectorLoadsAreSent ∧ Said.VectorLoadReplies

/-- R226 to R228, R244: outside an iteration STV and STL write one unit for each guarded-on lane, and STS stores its lanes one
after another in increasing order. -/
def Said.VectorStores : Prop :=
  (∀ g vs xb (imm : Imm) s s1 s2 s3 s4 base v ls,
    Issues { infoOf g (formLen imm.form) allOn [xb] [vs] [] [] with store := true } s s1 →
    Gives (readS xb) s1 base s2 → Gives (readV vs) s2 v s3 → (s3.cluster (s3.clusterOf s3.cc)).bps = [] →
    let addr (n : Nat) : Word := base + imm.val + BitVec.ofNat 64 (4 * n)
    let on := onLanes (s2.me.guardBits g)
    Gives (laneLocs { w := true } addr on) s3 (ls, none) s4 → s4.curIter s4.cc s4.ck = none →
    Claim.Stored (exec (.stv g vs xb imm) s) s4 (ls.map (Claim.laneCell v)) (s4.kvExt (ls.map (fun l => (addr l.1).toNat)) 4)
      (formLen imm.form)) ∧
  (∀ g vs xo (off : BitVec 11) s s1 s2 s3 s4 base v ls,
    Issues { infoOf g 8 allOn [xo] [vs] [] [] with store := true } s s1 →
    Gives (readS xo) s1 base s2 → Gives (readV vs) s2 v s3 → (s3.cluster (s3.clusterOf s3.cc)).bps = [] →
    let o := base + off.setWidth 64
    o.toNat + 4 ≤ 2048 → o.toNat % 4 = 0 →
    Gives (laneLocs { w := true } (fun n => BitVec.ofNat 64 (0x9 * 2 ^ 60 + n * 2 ^ 16 + o.toNat))
      (onLanes (s2.me.guardBits g))) s3 (ls, none) s4 → s4.curIter s4.cc s4.ck = none →
    Claim.Stored (exec (.stl g vs xo off) s) s4 (ls.map (Claim.laneCell v)) none 8) ∧
  (∀ g vs xb vi s s1 s2 s3 s4 s5 base i v ls, Issues (infoOf g 8 allOn [xb] [vi, vs] [] []) s s1 →
    Gives (readS xb) s1 base s2 → Gives (readV vi) s2 i s3 → Gives (readV vs) s3 v s4 → i.tag = .int32 ∨ i.tag = .raw →
    (s4.cluster (s4.clusterOf s4.cc)).bps = [] →
    let addr (n : Nat) : Word := base + (getLane i.bits n).signExtend 64
    Gives (laneLocs { w := true } addr (onLanes (s1.me.guardBits g))) s4 (ls, none) s5 → s5.curIter s5.cc s5.ck = none →
    exec (.sts g vs xb vi) s = .next (((ls.foldl (fun t l =>
      t.storeUnits (.ctx s5.cc s5.ck) [Claim.laneCell v l] (s5.kvExt [(addr l.1).toNat] 4)) s5).count s5.cc s5.ck 0x0B 1).retire 8))

/-- R228: LDL and STL raise SPACE with the lane-0 address beyond the slice, and ALIGN off a multiple of 4. -/
def Said.LaneSliceFaults : Prop :=
  ∀ g vd vs xo (off : BitVec 11) s s1 s2 base, Gives (readS xo) s1 base s2 →
    let o := base + off.setWidth 64
    let a : Word := 0x9000000000000000 ||| o
    (Issues (infoOf g 8 allOn [xo] [] [] [vd]) s s1 →
      (2048 < o.toNat + 4 → exec (.ldl g vd xo off) s =
        .next { s1.takeFault s1.cc s1.ck { code := .space, tval := a, acc := .read } with acct := .iss }) ∧
      (o.toNat + 4 ≤ 2048 → o.toNat % 4 ≠ 0 → exec (.ldl g vd xo off) s =
        .next { s1.takeFault s1.cc s1.ck { code := .align, tval := a, acc := .read } with acct := .iss })) ∧
    (Issues { infoOf g 8 allOn [xo] [vs] [] [] with store := true } s s1 →
      (2048 < o.toNat + 4 → exec (.stl g vs xo off) s =
        .next { s1.takeFault s1.cc s1.ck { code := .space, tval := a, acc := .write } with acct := .iss }) ∧
      (o.toNat + 4 ≤ 2048 → o.toNat % 4 ≠ 0 → exec (.stl g vs xo off) s =
        .next { s1.takeFault s1.cc s1.ck { code := .align, tval := a, acc := .write } with acct := .iss }))

/-- R226 to R228, R244, R228: the claims VectorStores and LaneSliceFaults. -/
def Obligations.VectorStoresAndSlices : Prop := Said.VectorStores ∧ Said.LaneSliceFaults

/-- R200, R229: ZLD sends 256 units of four bytes; ZST outside an iteration makes eight stores of 128 bytes; PREF only
completes. -/
def Said.AccumulatorAccessAndPrefetch : Prop :=
  (∀ g (z : Fin 2) xb t (imm : Imm) s s1 s2 s2' s3 s4 base ls, Issues (infoOf g (formLen imm.form) 1 [xb] [] [] []) s s1 →
    Gives (readS xb) s1 base s2 → (s2.cluster (s2.clusterOf s2.cc)).bps = [] → Gives omCheck s2 () s2 →
    Gives (locM { r := true } allSpaces (base + imm.val).toNat 1024 64) s2 ls s2' →
    Gives (farCheck [((base + imm.val).toNat, ls)]) s2' () s3 → s4 = s3.count s3.cc s3.ck 0x0A 1 →
    Claim.Sent (exec (.zld g z xb t imm) s) s4
      (.load ((List.range 256).map (fun n => s3.unitOf ((ls.drop (4 * n)).take 4))) (.acc z t) []) .wmem (formLen imm.form)) ∧
  (∀ g (z : Fin 2) xb (imm : Imm) s s1 s2 s3 base ls, Issues (infoOf g (formLen imm.form) 1 [xb] [] [] []) s s1 →
    Gives (readS xb) s1 base s2 → (s2.cluster (s2.clusterOf s2.cc)).bps = [] →
    let a := base + imm.val
    Gives (locM { w := true } allSpaces a.toNat 1024 64) s2 ls s3 → Gives (checkWaiters a.toNat ls) s3 () s3 →
    s3.curIter s3.cc s3.ck = none → ls.length = 1024 →
    let cell (n : Nat) : List Host.Cell := (List.range 4).map (fun i =>
      (ls.getD (4 * n + i) 0, (s2.me.z.get z).bits.extractLsb' (8 * (4 * n + i)) 8))
    exec (.zst g z xb imm) s = .next ((((List.range 8).foldl (fun t j => t.storeUnits (.ctx s3.cc s3.ck)
      ((List.range 32).map (fun n => cell (32 * j + n))) (s3.kvExt ((List.range 32).map (fun n => a.toNat + 128 * j + 4 * n)) 4)) s3).count
        s3.cc s3.ck 0x0B 1).retire (formLen imm.form))) ∧
  (∀ g xb (imm : Imm) s s1 s2 base, Issues (infoOf g (formLen imm.form) 1 [xb] [] [] []) s s1 → Gives (readS xb) s1 base s2 →
    exec (.pref g xb imm) s = .next (s2.retire (formLen imm.form)))

/-- R190, R191, R199, R200, R229: the claims AccumulatorMoves and AccumulatorAccessAndPrefetch. -/
def Obligations.AccumulatorResults : Prop := Said.AccumulatorMoves ∧ Said.AccumulatorAccessAndPrefetch

/-- R68 to R70: a pair word whose halves both are on and make no request decides the scalar half, then the vector half, and
takes both effects together, in one instruction of 16 bytes; a half that is off does nothing. -/
def Obligations.PairWordResults : Prop :=
  ∀ g sh vh a b ma mb s s1, halfOf sh = some (a, ma) → halfOf vh = some (b, mb) → Issues (pairInfo g s.me a b) s s1 →
    a.side = false → b.side = false →
    (∀ s2 s3 pa pb, a.on s1.me = true → b.on s1.me = true → Gives ma s1 { puts := pa } s2 → Gives (checkPuts pa) s2 () s2 →
      Gives mb s2 { puts := pb } s3 → Gives (checkPuts pb) s3 () s3 → Gives (checkPuts (pa ++ pb)) s3 () s3 →
      (s3.curIter s3.cc s3.ck = none) →
      exec (.pairWord g sh vh) s = .next ((s3.puts (pa ++ pb)).retire 16)) ∧
    (∀ s2 pb, a.on s1.me = false → b.on s1.me = true → Gives mb s1 { puts := pb } s2 → Gives (checkPuts pb) s2 () s2 →
      (s2.curIter s2.cc s2.ck = none) → exec (.pairWord g sh vh) s = .next ((s2.puts pb).retire 16))

/-! ## Full/empty words, futures and atomics -/

/-- The operations of major 0x11 with the accesses they need (R230, R231). -/
def Claim.feOps : List ((Guard → SDst → SSrc → SSrc → Imm → Instr) × FeOp × Need × (SDst → SDst) × (SSrc → SSrc)) :=
  [(fun g rd xb _ imm => .lde g rd xb imm, .lde, { r := true, w := true }, id, fun _ => .zero),
   (fun g _ xb rs imm => .stf g rs xb imm, .stf, { w := true }, fun _ => .zero, id),
   (fun g rd xb _ imm => .ldf g rd xb imm, .ldf, { r := true }, id, fun _ => .zero),
   (fun g _ xb _ imm => .fempty g xb imm, .fempty, { w := true }, fun _ => .zero, fun _ => .zero),
   (fun g rd xb _ imm => .futr g rd xb imm, .futr, { r := true }, id, fun _ => .zero),
   (fun g rd xb rs imm => .futw g rd rs xb imm, .futw, { w := true }, id, id)]
/-- The atomics of R234. -/
def Claim.atomOps : List ((Guard → Bool → SDst → SSrc → SSrc → SSrc → Instr) × AtomOp × (SSrc → SSrc)) :=
  [(fun g w rd xb rs _ => .aadd g w rd xb rs, .add, fun _ => .zero), (fun g w rd xb rs _ => .amin g w rd xb rs, .min, fun _ => .zero),
   (fun g w rd xb rs _ => .amax g w rd xb rs, .max, fun _ => .zero), (fun g w rd xb rs _ => .axch g w rd xb rs, .xch, fun _ => .zero),
   (.acas, .cas, id), (fun g w rd xb rs _ => .aand g w rd xb rs, .and, fun _ => .zero),
   (fun g w rd xb rs _ => .aor g w rd xb rs, .or, fun _ => .zero)]

/-- R222, R230, R234: every operation of majors 0x11 and 0x12 that passes its checks sends its request. -/
def Said.WordOperationsAreSent : Prop :=
  (∀ e ∈ Claim.feOps, ∀ g rd xb rs (imm : Imm) s s1 s2 s3 s4 base b ls,
    let d := e.2.2.2.1 rd
    let src := e.2.2.2.2 rs
    Issues { infoOf g (formLen imm.form) 1 [xb, src] [] [d] [] with side := true } s s1 → Gives (readS xb) s1 base s2 →
    Gives (readS src) s2 b s3 → (s3.cluster (s3.clusterOf s3.cc)).bps = [] →
    Gives (locM e.2.2.1 [0x8, 0xA, 0xB] (base + imm.val).toNat 8 8) s3 ls s4 → Gives (checkS d) s4 () s4 →
    Claim.Sent (exec (e.1 g rd xb rs imm) s) s4 (.fe e.2.1 (ls.headD 0) (base + imm.val) b d) .wmem (formLen imm.form)) ∧
  (∀ e ∈ Claim.atomOps, ∀ g (w : Bool) rd xb rs rc s s1 s2 s3 s4 s5 a b c ls,
    let src := e.2.2 rc
    let n := if w then 4 else 8
    Issues { infoOf g 8 1 [xb, rs, src] [] [rd] [] with side := true } s s1 → Gives (readS xb) s1 a s2 →
    Gives (readS rs) s2 b s3 → Gives (readS src) s3 c s4 → (s4.cluster (s4.clusterOf s4.cc)).bps = [] →
    Gives (locM { r := true, w := true } [0x0, 0x8, 0x9, 0xA, 0xB] a.toNat n n) s4 ls s5 → Gives (checkS rd) s5 () s5 →
    Claim.Sent (exec (e.1 g w rd xb rs rc) s) s5 (.atom e.2.1 w (ls.headD 0) a.toNat b c rd) .wmem 8)

/-- What an atomic's move leaves in its word (R234): the new value of `n` bits, or none where nothing is written. -/
def Claim.atomNew (op : AtomOp) {n : Nat} (old b c : BitVec n) : Option (BitVec n) :=
  match op with
  | .add => some (BitVec.ofNat n (old.toNat + b.toNat))
  | .min => some (if b.toInt < old.toInt then b else old)
  | .max => some (if old.toInt < b.toInt then b else old)
  | .xch => some b
  | .and => some (old &&& b)
  | .or => some (old ||| b)
  | .cas => if old = c then some b else none

/-- A word of `n` bytes as an agent's view holds it. -/
def Claim.seen (m : MemSys) (a : Agent) (loc n : Nat) : Nat := leVal ((List.range n).map (fun i => (m.view a (loc + i)).byte))

/-- A move on a context's word may be made now (R252): its clocks run, its agent's buffer holds no write of the word, and
no record or replay is under way. -/
def Claim.MayMove (s : State) (c k loc n : Nat) : Prop :=
  s.runs c = true ∧ s.mem.clearOf (s.agentOf c k) ((List.range n).map (fun i => loc + i)) = true ∧
  (s.part (s.core c).partid).replay.mode = .off

/-- R221, R234, R252: an atomic's move reads the newest old value and leaves the new one in its agent's view; the old value
(sign-extended for .w) comes back as the result. An empty word with waiters gives PROT instead, unchanged. -/
def Said.AtomicMoves : Prop :=
  ∀ (s : State) c k (p : Pend) op (w : Bool) loc addr b d rd, (s.ctx c k).pend = some p → p.kind = .atom op w loc addr b d rd →
    let n := if w then 4 else 8
    let a := s.agentOf c k
    let old := leVal ((List.range n).map (fun i => (s.mem.newest (loc + i)).byte))
    Claim.MayMove s c k loc n →
    (s.mem.waited (loc / 8 * 8) = false → ∃ t, exec (.atomicMove c k) s = .next t ∧
      (t.ctx c k).pend = some { p with kind := .value [.s rd
        (if w then (BitVec.ofNat 32 old).signExtend 64 else BitVec.ofNat 64 old)] } ∧
      (match (if w then (Claim.atomNew op (BitVec.ofNat 32 old) (b.setWidth 32) (d.setWidth 32)).map BitVec.toNat
          else (Claim.atomNew op (BitVec.ofNat 64 old) b d).map BitVec.toNat) with
        | some v => Claim.seen t.mem a loc n = v
        | none => leVal ((List.range n).map (fun i => (t.mem.newest (loc + i)).byte)) = old) ∧
      t.mem.empty = s.mem.empty) ∧
    (s.mem.waited (loc / 8 * 8) = true → ∃ t, exec (.atomicMove c k) s = .next t ∧ t.mem = s.mem ∧
      (t.ctx c k).pend = some { p with kind :=
        (.fault { code := .prot, tval := BitVec.ofNat 64 addr, acc := .write, kind := 2 }) })

/-- R222, R230, R234, R221, R252: the claims WordOperationsAreSent and AtomicMoves. -/
def Obligations.AtomicResults : Prop := Said.WordOperationsAreSent ∧ Said.AtomicMoves

/-- R231, R232: the moves of the full/empty operations on a full word, and on an empty word with no waiter. -/
def Said.FullEmptyMoves : Prop :=
  ∀ (s : State) c k (p : Pend) op loc addr b rd, (s.ctx c k).pend = some p → p.kind = .fe op loc addr b rd →
    Claim.MayMove s c k loc 8 →
    let a := s.agentOf c k
    let old := s.mem.wordNow loc
    ∃ t, exec (.atomicMove c k) s = .next t ∧
      (loc ∉ s.mem.empty →
        (∃ v : Word, (t.ctx c k).pend = some { p with kind := .value [.s rd v] } ∧
          v = match op with
            | .lde => BitVec.ofNat 64 old
            | .futr => BitVec.ofNat 64 old
            | .ldf => 1
            | .stf => 0
            | .fempty => 0
            | .futw => 0) ∧
        (loc ∈ t.mem.empty ↔ op = .lde ∨ op = .fempty) ∧
        (op = .lde ∨ op = .fempty → Claim.seen t.mem a loc 8 = 0) ∧ (op = .stf → Claim.seen t.mem a loc 8 = b.toNat) ∧
        (op = .ldf ∨ op = .futr ∨ op = .futw → t.mem.wordNow loc = old)) ∧
      (loc ∈ s.mem.empty → old.testBit 32 = false →
        (op = .ldf → (t.ctx c k).pend = some { p with kind := .value [.s rd 0] } ∧ t.mem.empty = s.mem.empty) ∧
        (op = .fempty → t.mem.empty = s.mem.empty ∧ t.mem.wordNow loc = old) ∧
        (op = .stf ∨ op = .futw → loc ∉ t.mem.empty ∧ Claim.seen t.mem a loc 8 = b.toNat ∧
          (t.ctx c k).pend = some { p with kind := .value [.s rd (if op = .futw then 1 else 0)] }) ∧
        (op = .futr ∨ op = .lde →
          (∀ i, s.freeRec c = some i →
            (t.ctx c k).pend = some { p with kind := .future i rd } ∧ t.mem.empty = s.mem.empty ∧
            Claim.seen t.mem a loc 8 = 2 ^ 32 + c % 8192 * 2 ^ 8 + i % 256 ∧
            tget (t.core c).pool i = some { ctx := k, rd, addr, kind := if op = .lde then .consume else .read }) ∧
          (s.freeRec c = none → t.mem = s.mem ∧
            (t.ctx c k).pend = some { p with kind := (.fault { code := .futpool, tval := addr }) })))

/-- R222: the reply of a request whose move has been made writes its destination and completes; one that brings a fault takes
it with the instruction's PC in TPC. -/
def Said.MoveReplies : Prop :=
  ∀ (s : State) c k cuts (p : Pend), (s.ctx c k).pend = some p → p.reserve = [] → p.popped = [] → s.power = .on →
    s.runs c = true → (s.part (s.core c).partid).preempted = false → (s.cluster (s.clusterOf c)).skid = [] →
    (∀ (r : Fin 32) v, p.kind = .value [.s (.x r) v] → ∃ t, exec (.memoryReply c k cuts) s = .next t ∧
      (t.ctx c k).x.get r = v ∧ (∀ q, q ≠ r → (t.ctx c k).x.get q = (s.ctx c k).x.get q) ∧ (t.ctx c k).pend = none ∧
      (t.ctx c k).pc = (nextPc (s.ctx c k) p.len).1 ∧ t.mem = s.mem) ∧
    (∀ f, p.kind = .fault f → s.curIter c k = none → (s.ctx c k).h = false → (s.ctx c k).tvec.getLsbD 0 = true →
      ∃ t, exec (.memoryReply c k cuts) s = .next t ∧ (t.ctx c k).pend = none ∧ (t.ctx c k).tpc = (s.ctx c k).pc ∧
        (t.ctx c k).tcause = f.word ∧ (t.ctx c k).tval = f.tval ∧ (t.ctx c k).x = (s.ctx c k).x)

/-- R231, R232, R222: the claims FullEmptyMoves and MoveReplies. -/
def Obligations.FullEmptyResults : Prop := Said.FullEmptyMoves ∧ Said.MoveReplies

/-! ## Acquire, release, fence, and the moves of the machine -/

/-- The instructions of major 0x13 (R253). -/
def Claim.orderings : List ((Guard → SDst → SSrc → Instr) × (Guard → SSrc → SSrc → Instr) × (Guard → Instr) × Scope) :=
  [(.acqGroup, .relGroup, .fenceGroup, .group), (.acqDevice, .relDevice, .fenceDevice, .device),
   (.acqSystem, .relSystem, .fenceSystem, .system)]

/-- R221, R254: ACQ, REL and FENCE at each scope check their sync word and wait in class WMEM for their move. -/
def Said.OrderingIsSent : Prop :=
  ∀ e ∈ Claim.orderings,
    (∀ g rd xs s s1 s2 s3 a ls, Issues { infoOf g 8 1 [xs] [] [rd] [] with side := true } s s1 → Gives (readS xs) s1 a s2 →
      (s2.cluster (s2.clusterOf s2.cc)).bps = [] → Gives (locM { r := true } [0x0, 0x8, 0xA, 0xB] a.toNat 8 8) s2 ls s3 →
      Gives (checkS rd) s3 () s3 → Claim.Sent (exec (e.1 g rd xs) s) s3 (.acq e.2.2.2 a (ls.headD 0) rd) .wmem 8) ∧
    (∀ g xs rv s s1 s2 s3 s4 a v ls, Issues { infoOf g 8 1 [xs, rv] [] [] [] with side := true } s s1 →
      Gives (readS xs) s1 a s2 → Gives (readS rv) s2 v s3 → (s3.cluster (s3.clusterOf s3.cc)).bps = [] →
      Gives (locM { w := true } [0x0, 0x8, 0xA, 0xB] a.toNat 8 8) s3 ls s4 → Gives (checkWaiters a.toNat ls) s4 () s4 →
      Claim.Sent (exec (e.2.1 g xs rv) s) s4 (.rel e.2.2.2 a (ls.headD 0) v) .wmem 8) ∧
    (∀ g s s1, Issues { g, side := true } s s1 → Claim.Sent (exec (e.2.2.1 g) s) s1 (.fence e.2.2.2) .wmem 8)

/-- R249: the acquire move returns, byte by byte, the newer of what the scope store holds of the sync word and what the view
names, raises the view there, and raises it at every bound location to what the scope store holds; no view goes back. -/
def Said.AcquireMoves : Prop :=
  ∀ (s : State) c k (p : Pend) sc addr loc rd, (s.ctx c k).pend = some p → p.kind = .acq sc addr loc rd →
    let a := s.agentOf c k
    let g := s.groupOf a
    let part := (s.core c).partid
    s.runs c = true → s.acquireReady a sc loc = true → (s.part part).replay.mode = .off →
    let w (i : Nat) : Held := if (s.mem.view a (loc + i)).stamp < (s.mem.zHeld sc g (loc + i)).stamp
      then s.mem.zHeld sc g (loc + i) else s.mem.view a (loc + i)
    ∃ t, exec (.acquireMove c k) s = .next t ∧
      (t.ctx c k).pend = some { p with kind :=
        (.value [.s rd (BitVec.ofNat 64 (leVal ((List.range 8).map (fun i => (w i).byte))))]) } ∧
      (∀ i < 8, (w i).stamp ≤ (t.mem.view a (loc + i)).stamp) ∧
      (∀ l, s.boundTo part (wordKey c addr) l = true → (s.mem.zHeld sc g l).stamp ≤ (t.mem.view a l).stamp) ∧
      (∀ l, (s.mem.view a l).stamp ≤ (t.mem.view a l).stamp) ∧ (∀ b l, b ≠ a → t.mem.view b l = s.mem.view b l) ∧
      t.mem.d = s.mem.d ∧ t.mem.g = s.mem.g ∧ t.mem.y = s.mem.y ∧ t.mem.bufs = s.mem.bufs ∧ (t.ctx c k).fetched = []

/-- R249, R250: a release waits until every write of its agent to a bound location has reached the scope store; its move gives
the sync word the next stamp in every store up to the scope store and in the agent's view, and touches no other view. -/
def Said.ReleaseMoves : Prop :=
  ∀ (s : State) c k (p : Pend) sc addr loc (v : Word), (s.ctx c k).pend = some p → p.kind = .rel sc addr loc v →
    let a := s.agentOf c k
    let g := s.groupOf a
    let part := (s.core c).partid
    s.runs c = true → (s.part part).replay.mode = .off →
    (s.releaseReady a sc part (wordKey c addr) = true → ∃ t, exec (.releaseMove c k) s = .next t ∧
      (t.ctx c k).pend = some { p with kind := (.value []) } ∧ t.mem.next = s.mem.next + 1 ∧
      (∀ i < 8, t.mem.view a (loc + i) = { stamp := s.mem.next, byte := v.extractLsb' (8 * i) 8 } ∧
        s.mem.next ≤ (t.mem.zHeld sc g (loc + i)).stamp ∧ s.mem.next ≤ (t.mem.gHeld g (loc + i)).stamp) ∧
      (∀ l, (l < loc ∨ loc + 8 ≤ l) → t.mem.view a l = s.mem.view a l ∧ t.mem.dHeld l = s.mem.dHeld l) ∧
      (∀ b l, b ≠ a → t.mem.view b l = s.mem.view b l) ∧ t.mem.bufs = s.mem.bufs) ∧
    (s.releaseReady a sc part (wordKey c addr) = false → exec (.releaseMove c k) s = .next s)

/-- R251: a fence waits for its agent's writes of the open binding, then raises its view of every location of the open binding
to what the scope store holds. -/
def Said.FenceMoves : Prop :=
  ∀ (s : State) c k (p : Pend) sc, (s.ctx c k).pend = some p → p.kind = .fence sc → s.runs c = true →
    let a := s.agentOf c k
    let g := s.groupOf a
    let ob := s.openBinding (s.core c).partid
    (s.mem.reached a sc g ob = true → ∃ t, exec (.fenceMove c k) s = .next t ∧
      (t.ctx c k).pend = some { p with kind := (.value []) } ∧
      (∀ l, ob l = true → (s.mem.zHeld sc g l).stamp ≤ (t.mem.view a l).stamp) ∧
      (∀ l, (s.mem.view a l).stamp ≤ (t.mem.view a l).stamp) ∧ (∀ l, ob l = false → t.mem.view a l = s.mem.view a l) ∧
      t.mem.d = s.mem.d ∧ t.mem.bufs = s.mem.bufs) ∧
    (s.mem.reached a sc g ob = false → exec (.fenceMove c k) s = .next s)

/-- R221, R254, R249, R250, R251: the claims OrderingIsSent, AcquireMoves, ReleaseMoves and FenceMoves. -/
def Obligations.OrderingInstructions : Prop := Said.OrderingIsSent ∧ Said.AcquireMoves ∧ Said.ReleaseMoves ∧ Said.FenceMoves

/-- R246, R247: M2 moves the oldest buffered write of its locations to its agent's group store, which never goes back; M3
offers a write to the next store on the path; neither changes a view. -/
def Obligations.DrainAndLift : Prop :=
  (∀ (s : State) i w, s.power = .on → s.mem.bufs[i]? = some w → s.mem.drainable i = true →
    ∃ t, exec (.drain i) s = .next t ∧ t.mem.bufs = s.mem.bufs.eraseIdx i ∧
      (∀ c ∈ w.cells, w.stamp ≤ (t.mem.gHeld (s.groupOf w.agent) c.1).stamp) ∧
      (∀ g l, (s.mem.gHeld g l).stamp ≤ (t.mem.gHeld g l).stamp) ∧ t.mem.views = s.mem.views ∧ t.mem.d = s.mem.d ∧
      t.mem.y = s.mem.y) ∧
  (∀ (s : State) i, s.power = .on → s.mem.drainable i = false → exec (.drain i) s = .next s) ∧
  (∀ (s : State) g stamp, s.power = .on → g < nGroups → ∃ t, exec (.lift g stamp) s = .next t ∧
    (∀ c ∈ tgetD s.mem.g g [], c.2.stamp = stamp → stamp ≤ (t.mem.dHeld c.1).stamp) ∧
    (∀ l, (s.mem.dHeld l).stamp ≤ (t.mem.dHeld l).stamp) ∧ t.mem.views = s.mem.views ∧ t.mem.g = s.mem.g ∧ t.mem.y = s.mem.y) ∧
  (∀ (s : State) g stamp, s.power = .on → nGroups ≤ g → ∃ t, exec (.lift g stamp) s = .next t ∧
    (∀ c ∈ s.mem.dStamp, c.2 = stamp → (s.mem.dHeld c.1).stamp ≤ (t.mem.yHeld c.1).stamp) ∧
    (∀ l, (s.mem.yHeld l).stamp ≤ (t.mem.yHeld l).stamp) ∧ t.mem.views = s.mem.views ∧ t.mem.d = s.mem.d ∧ t.mem.g = s.mem.g)

/-! ## The copy engine -/

/-- The outcome of an instruction that raises a fault in its slot, from the state its issue leaves (a side-effect instruction has
committed its iteration, R110). -/
def Claim.faults (s : State) (c : Cause) : Out := .next { s.takeFault s.cc s.ck c with acct := .iss }

/-- The outcome of an instruction that waits: its context keeps its PC and tries again (R13, R14). -/
def Claim.waits (s : State) (k : SlotClass) (w : WaitCond) : Out :=
  .next { s.begun.modMe (fun x => { x with wait := some (k, w), woke := false }) with acct := k }

/-- The size and the chunk size of a copy (R235). -/
def Claim.copySize (x : Ctx) : Nat := (x.cpsz.extractLsb' 0 32).toNat * ((x.cpsz.extractLsb' 32 16).toNat + 1)
/-- The chunk size: 512 bytes, or the 64th part of a larger copy (R235). -/
def Claim.chunk (size : Nat) : Nat := max 512 ((size + 63) / 64)

/-- The copy registers that CPGO refuses (R237). -/
def Claim.copyRefused (x : Ctx) : Prop :=
  x.cpsz.extractLsb' 48 16 ≠ 0 ∨ x.cpfl.extractLsb' 40 24 ≠ 0 ∨ x.cpfl.extractLsb' 25 7 ≠ 0 ∨ x.cpfl.extractLsb' 22 2 ≠ 0 ∨
  x.cpfl.extractLsb' 18 2 ≠ 0 ∨ x.cpfl.extractLsb' 20 2 = 3 ∨
  (x.cpfl.getLsbD 24 = true ∧ (x.cpsz.extractLsb' 32 16 ≠ 0 ∨ x.cpd.extractLsb' 60 4 ≠ 8))

/-- R235 to R237: CPW writes two of the six copy registers; CPGO refuses wrong registers with CPFL in TVAL, raises BIND for an
unbound entry, waits for a tag while one is in flight, else raises NOTAG, and launches the copy in the lowest free tag. -/
def Claim.CopyLaunch : Prop :=
  (∀ g (k : Fin 8) a b s s1 s2 s3 u v, k.val = 0 ∨ k.val = 2 ∨ k.val = 4 → Issues (copyInfo g [a, b] [] true) s s1 →
    Gives (readS a) s1 u s2 → Gives (readS b) s2 v s3 →
    exec (.cpw g k a b) s = .next ((s3.modMe (fun x => if k.val = 0 then { x with cps := u, cpd := v }
      else if k.val = 2 then { x with cpxs := u, cpys := v } else { x with cpsz := u, cpfl := v })).retire 8)) ∧
  (∀ g rd s s1, Issues (copyInfo g [] [rd] true) s s1 → (s1.cluster (s1.clusterOf s1.cc)).bps = [] →
    let x := s1.me
    let entry (i : Nat) : Option Binding := tget (s1.part s1.myPart).binds i
    (Claim.copyRefused x → exec (.cpgo g rd) s = Claim.faults s1 { code := .illegal, tval := x.cpfl }) ∧
    (¬Claim.copyRefused x →
      (x.cpfl.getLsbD 16 = true → entry (x.cpfl.extractLsb' 0 8).toNat = none →
        exec (.cpgo g rd) s = Claim.faults s1 { code := .bind }) ∧
      (x.cpfl.getLsbD 16 = false → x.cpfl.getLsbD 17 = true → entry (x.cpfl.extractLsb' 8 8).toNat = none →
        exec (.cpgo g rd) s = Claim.faults s1 { code := .bind }) ∧
      (x.cpfl.getLsbD 16 = false → x.cpfl.getLsbD 17 = false → (∀ t < 64, tget s1.myCore.tags t ≠ none) →
        exec (.cpgo g rd) s = if s1.myCore.tags.any (fun t => t.2.st == .flight) then Claim.waits s .wmem (.tagFree s1.cc)
          else Claim.faults s1 { code := .notag }) ∧
      (∀ aq rl t, aq = (if x.cpfl.getLsbD 16 then (entry (x.cpfl.extractLsb' 0 8).toNat).map Binding.sync else none) →
        rl = (if x.cpfl.getLsbD 17 then (entry (x.cpfl.extractLsb' 8 8).toNat).map Binding.sync else none) →
        (x.cpfl.getLsbD 16 = true → aq ≠ none) → (x.cpfl.getLsbD 17 = true → rl ≠ none) →
        t < 64 → tget s1.myCore.tags t = none → (∀ j < t, tget s1.myCore.tags j ≠ none) →
        let u := s1.launchCopy t aq rl
        Gives (checkS rd) s1 () s1 → Gives (checkS rd) u () u →
        exec (.cpgo g rd) s = .next ((u.putS rd (BitVec.ofNat 64 t)).retire 8) ∧ u.mem.d = s1.mem.d ∧
        ∃ e, tget u.myCore.tags t = some e ∧ e.cps = x.cps ∧ e.cpd = x.cpd ∧ e.cpxs = x.cpxs ∧ e.cpys = x.cpys ∧
          e.cpsz = x.cpsz ∧ e.cpfl = x.cpfl ∧ e.aq = aq ∧ e.rl = rl ∧
          e.st = (if Claim.copySize x = 0 ∧ rl = none then .done else .flight) ∧
          ∀ c < 64, e.map.getLsbD c = (x.cpfl.getLsbD 24 && x.cpxs == 0 ||
            decide ((Claim.copySize x + Claim.chunk (Claim.copySize x) - 1) / Claim.chunk (Claim.copySize x) ≤ c)))))

/-- A table of tags whose first faulted tag of a mask recorded a fault. -/
def Claim.firstFault (tags : Tbl CopyTag) (m : Word) (f : Cause) : Prop :=
  ∃ l t e r, tags = l ++ (t, e) :: r ∧ (∀ p ∈ l, m.getLsbD p.1 = true → p.2.st ≠ .faulted) ∧ m.getLsbD t = true ∧ e.st = .faulted ∧
    e.fault = some f
/-- No tag of a mask is faulted. -/
def Claim.noFault (tags : Tbl CopyTag) (m : Word) : Prop := ∀ p ∈ tags, m.getLsbD p.1 = true → p.2.st ≠ .faulted

/-- R239, R241: CPWANY, CPWALL, CPFF, CPCLR, CPCLR.f and CPCHK. -/
def Claim.CopyWaits : Prop :=
  (∀ g rd a s s1 s2 m, Issues (copyInfo g [a] [rd] false) s s1 → Gives (readS a) s1 m s2 →
    let done := s2.myCore.cpdone
    let tags := s2.myCore.tags
    (m ≠ 0 → done &&& m = 0 → exec (.cpwany g rd a) s = Claim.waits s .wmem (.cpAny s2.cc m)) ∧
    (m = 0 ∨ done &&& m ≠ 0 →
      (∀ f, Claim.firstFault tags (done &&& m) f → exec (.cpwany g rd a) s = Claim.faults s1 f) ∧
      (Claim.noFault tags (done &&& m) → Gives (checkS rd) s2 () s2 →
        exec (.cpwany g rd a) s = .next ((s2.putS rd (done &&& m)).retire 8))) ∧
    (done &&& m ≠ m → exec (.cpwall g rd a) s = Claim.waits s .wmem (.cpAll s2.cc m)) ∧
    (done &&& m = m → (∀ f, Claim.firstFault tags m f → exec (.cpwall g rd a) s = Claim.faults s1 f) ∧
      (Claim.noFault tags m → Gives (checkS rd) s2 () s2 → exec (.cpwall g rd a) s = .next ((s2.putS rd (done &&& m)).retire 8))) ∧
    (done &&& m = 0 → Gives (checkS rd) s2 () s2 → exec (.cpff g rd a) s = .next ((s2.putS rd 64).retire 8)) ∧
    (∀ t < 64, (done &&& m).getLsbD t = true → (∀ j < t, (done &&& m).getLsbD j = false) →
      (∀ f, Claim.firstFault tags (BitVec.twoPow 64 t) f → exec (.cpff g rd a) s = Claim.faults s1 f) ∧
      (Claim.noFault tags (BitVec.twoPow 64 t) → Gives (checkS rd) s2 () s2 →
        exec (.cpff g rd a) s = .next ((s2.putS rd (BitVec.ofNat 64 t)).retire 8))) ∧
    (64 ≤ m.toNat → exec (.cpchk g rd a) s = Claim.faults s1 { code := .illegal }) ∧
    (m.toNat < 64 → Gives (checkS rd) s2 () s2 → exec (.cpchk g rd a) s = .next ((s2.putS rd (match tget tags m.toNat with
      | none => 0
      | some t => if t.cpfl.getLsbD 24 then t.rmap else t.map)).retire 8))) ∧
  (∀ g a s s1 s2 m, Issues (copyInfo g [a] [] true) s s1 → Gives (readS a) s1 m s2 →
    (∃ u : State, exec (.cpclr g a) s = .next (u.retire 8) ∧ u.mem = s2.mem ∧ u.ctxs = s2.ctxs ∧
      u.myCore.cpdone = s2.myCore.cpdone &&& ~~~m ∧
      ∀ t, tget u.myCore.tags t = if (s2.myCore.cpdone &&& m).getLsbD t then none else tget s2.myCore.tags t) ∧
    (∃ u : State, exec (.cpclrF g a) s = .next (u.retire 8) ∧ u.mem = s2.mem ∧ u.ctxs = s2.ctxs ∧
      ∀ tree q, tget (s2.core (m.extractLsb' 0 13).toNat).trees (m.extractLsb' 16 6).toNat = some tree →
        receiverBit (m.extractLsb' 0 13).toNat s2.cc = some q → tree.mask.getLsbD q = true →
        m = (m.extractLsb' 0 13).setWidth 64 ||| (m.extractLsb' 16 6).setWidth 64 <<< 16 →
        tget (u.core (m.extractLsb' 0 13).toNat).trees (m.extractLsb' 16 6).toNat =
          some { tree with frees := tset tree.frees q (tgetD tree.frees q 0 + 1) }))

/-- R235 to R237, R239, R241: what each instruction of major 0x14 does. -/
def Said.CopyInstructions : Prop := Claim.CopyLaunch ∧ Claim.CopyWaits

/-- R238 to R241: a chunk of a copy that may land moves its bytes as the launching agent's writes and sets its bit of the map, or
faults its tag with no write; a copy whose map is full makes its release and is done; the free-back of a tile reaches the
mailbox when every receiver has sent one more. -/
def Said.CopyEngine : Prop :=
  (∀ (s : State) c t chunk (e : CopyTag), tget (s.core c).tags t = some e → s.engineRuns c e.part = true → e.st = .flight →
    e.acquired = true ∨ e.aq = none → isMc e.cpfl = false → chunk < 64 → e.map.getLsbD chunk = false →
    let n := chunkSize (copySize e.cpsz)
    let pieces := copyPieces e (chunk * n) (min n (copySize e.cpsz - chunk * n)) (n + 1)
    (∀ p ∈ pieces, spaceOf p.1.toNat ≠ 0x9 ∧ spaceOf p.2.1.toNat ≠ 0x9 ∧ spaceOf p.1.toNat ≠ 0xC) →
    (∀ f, s.chunkWhere c e.part pieces = .error f → ∃ (u : State) (e' : CopyTag), exec (.copyChunkLand c t chunk) s = .next u ∧
      tget (u.core c).tags t = some e' ∧ e'.st = .faulted ∧ e'.map = e.map ∧
      e'.fault = some { f with ctag := some (Fin.ofNat 64 t) } ∧
      (u.core c).cpdone = (s.core c).cpdone ||| BitVec.twoPow 64 t ∧ u.mem = s.mem ∧ u.ctxs = s.ctxs) ∧
    (∀ ws, s.chunkWhere c e.part pieces = .ok ws →
      let pairs := ws.flatMap (fun w => w.1.zip w.2.1)
      ∃ (u : State) (e' : CopyTag), exec (.copyChunkLand c t chunk) s = .next u ∧
      tget (u.core c).tags t = some e' ∧ e'.st = .flight ∧ e'.map = e.map ||| BitVec.twoPow 64 chunk ∧ u.mem.d = s.mem.d ∧
      (∀ l, l ∉ pairs.map Prod.snd → u.mem.view (.ctx c e.ctx) l = s.mem.view (.ctx c e.ctx) l) ∧
      (∀ a l, a ≠ .ctx c e.ctx → a ≠ .copy c t → u.mem.view a l = s.mem.view a l) ∧
      ((pairs.map Prod.fst ++ pairs.map Prod.snd).Nodup → ∀ p ∈ pairs, ∃ h ∈ s.mem.candidates (.copy c t) p.1,
        (u.mem.view (.ctx c e.ctx) p.2).byte = h.byte))) ∧
  (∀ (s : State) c t (e : CopyTag), tget (s.core c).tags t = some e → s.engineRuns c e.part = true → e.st = .flight →
    isMc e.cpfl = false →
    (e.map ≠ BitVec.allOnes 64 → exec (.copyComplete c t) s = .next s) ∧
    (e.map = BitVec.allOnes 64 → e.rl = none → ∃ u : State, exec (.copyComplete c t) s = .next u ∧
      tget (u.core c).tags t = some { e with st := .done } ∧
      (u.core c).cpdone = (s.core c).cpdone ||| BitVec.twoPow 64 t ∧ u.mem = s.mem) ∧
    (∀ y, e.map = BitVec.allOnes 64 → e.rl = some y → (s.part e.part).replay.mode = .off →
      (s.releaseReady (.ctx c e.ctx) (copyScope e.cpfl) e.part y = false → exec (.copyComplete c t) s = .next s) ∧
      (s.releaseReady (.ctx c e.ctx) (copyScope e.cpfl) e.part y = true →
        (∀ loc, s.copySync c e { w := true } y = .ok loc → ∃ u : State, exec (.copyComplete c t) s = .next u ∧
          tget (u.core c).tags t = some { e with st := .done } ∧ u.mem.next = s.mem.next + 1 ∧
          ∀ i < 8, (u.mem.view (.ctx c e.ctx) (loc + i)).stamp = s.mem.next) ∧
        (∀ f, s.copySync c e { w := true } y = .error f → ∃ (u : State) (e' : CopyTag), exec (.copyComplete c t) s = .next u ∧
          tget (u.core c).tags t = some e' ∧ e'.st = .faulted ∧ e'.fault = some { f with ctag := some (Fin.ofNat 64 t) } ∧
          u.mem = s.mem)))) ∧
  (∀ (s : State) c t tree, tget (s.core c).trees t = some tree → s.runs c = true → tree.mask ≠ 0 →
    let all := ∀ q < 64, tree.mask.getLsbD q = true → tree.forwarded < tgetD tree.frees q 0
    (all → ∃ u : State, exec (.freebackCombine c t) s = .next u ∧ u.mem = s.mem ∧ u.ctxs = s.ctxs ∧
      tget (u.core c).trees t = some { tree with forwarded := tree.forwarded + 1 } ∧
      tgetD (u.core c).mbox tree.fbox {} =
        { tgetD (s.core c).mbox tree.fbox {} with count := (tgetD (s.core c).mbox tree.fbox {}).count + 1 }) ∧
    (¬all → exec (.freebackCombine c t) s = .next s))

/-- R235 to R237, R239, R241, R238 to R241: the claims CopyInstructions and CopyEngine. -/
def Obligations.CopyResults : Prop := Said.CopyInstructions ∧ Said.CopyEngine

/-! ## Contexts and tasks -/

/-- R280 to R282, R286: SPAWN, QUIT, REAP and WAITW. -/
def Obligations.ContextInstructions : Prop :=
  (∀ g gd xpc xc (b : Fin 32) s s1 s2 s3 pc c,
    Issues { taskInfo g [xpc, xc] [] with bar := true, priv := s.me.vctx != 0 } s s1 →
    Gives (readS xpc) s1 pc s2 → Gives (readS xc) s2 c s3 →
    (pc.toNat % 4 ≠ 0 → exec (.spawn g gd xpc xc b) s = Claim.faults s1 { code := .illegal, tval := pc }) ∧
    (pc.toNat % 4 = 0 → 2 ^ 13 ≤ c.toNat → exec (.spawn g gd xpc xc b) s = Claim.faults s1 { code := .illegal, tval := c }) ∧
    (pc.toNat % 4 = 0 → c.toNat < 2 ^ 13 → s3.holdsCore s3.myPart c.toNat = false →
      exec (.spawn g gd xpc xc b) s = Claim.faults s1 { code := .prot, tval := c }) ∧
    (pc.toNat % 4 = 0 → c.toNat < 2 ^ 13 → s3.holdsCore s3.myPart c.toNat = true →
      let s4 := s3.handFrom (s3.agentOf s3.cc s3.ck)
      let args := (List.range 4).map (fun i => s1.me.x.get (Fin.ofNat 32 (b.val + i)))
      ((∀ k < 16, s4.claimable c.toNat k = false) →
        Claim.Sent (exec (.spawn g gd xpc xc b) s) s4 (.value [.g gd allOn 0]) .wmsg 8) ∧
      (∀ k < 16, s4.claimable c.toNat k = true → (∀ j < k, s4.claimable c.toNat j = false) →
        let s5 := s4.startCtx c.toNat k pc args
        Claim.Sent (exec (.spawn g gd xpc xc b) s) s5 (.value [.g gd allOn allOn]) .wmsg 8 ∧
        (s5.ctx c.toNat k).pc = pc ∧ (s5.ctx c.toNat k).run = .held ∧ (s5.ctx c.toNat k).qmap = 0 ∧
        (∀ r : Fin 32, (s5.ctx c.toNat k).x.get r = if r.val < 4 then args.getD r.val 0 else 0) ∧
        s5.mem.d = s4.mem.d ∧ ∀ l, (s4.mem.dHeld l).stamp ≤ (s5.mem.view (.ctx c.toNat k) l).stamp))) ∧
  (∀ g xpc gd xc (b : Fin 32) s, (s.me.live.left = 0 ∧ s.me.live.active = false) → s.me.vctx ≠ 0 →
    exec (.spawn g gd xpc xc b) s = Claim.faults s.begun { code := .priv } ∧
    ∀ rd, exec (.reap g rd) s = Claim.faults s.begun { code := .priv }) ∧
  (∀ g xs s, (s.me.live.left = 0 ∧ s.me.live.active = false) → s.me.vctx = 0 →
    exec (.quit g xs) s = Claim.faults s.begun { code := .priv }) ∧
  (∀ g xs s s1 s2 v, Issues { taskInfo g [xs] [] with bar := true, priv := s.me.vctx == 0 } s s1 → Gives (readS xs) s1 v s2 →
    s2.foldReady s2.cc = true →
    (16 ≤ s2.myCore.exitq.length → exec (.quit g xs) s = Claim.waits s .wmsg (.exitRoom s2.cc)) ∧
    (s2.myCore.exitq.length < 16 → ∃ u : State, exec (.quit g xs) s = .next u ∧
      (u.ctx s2.cc s2.ck).run = .vacant ∧ (u.ctx s2.cc s2.ck).origin = none ∧
      (u.core s2.cc).exitq = s2.myCore.exitq ++ [(v.extractLsb' 0 60).setWidth 64 ||| BitVec.ofNat 64 (s2.me.vctx % 16) <<< 60] ∧
      (∀ p ∈ (u.core s2.cc).pinned, p.1 ≠ s2.ck) ∧
      ∀ n, s2.me.signal = some n → (tgetD (u.cluster (s2.clusterOf s2.cc)).deps n (0, false)).1 =
        (tgetD (s2.cluster (s2.clusterOf s2.cc)).deps n (0, false)).1 -
          (if (tgetD (s2.cluster (s2.clusterOf s2.cc)).deps n (0, false)).1 = 0 then 0 else 1))) ∧
  (∀ g rd s s1, Issues { taskInfo g [] [rd] with priv := s.me.vctx != 0 } s s1 → s1.foldReady s1.cc = true →
    (s1.myCore.exitq = [] → exec (.reap g rd) s = Claim.waits s .wmsg (.exitWord s1.cc)) ∧
    (∀ w r, s1.myCore.exitq = w :: r →
      let s2 := s1.modMyCore (fun y => { y with exitq := r })
      Gives (checkS rd) s2 () s2 → exec (.reap g rd) s = .next ((s2.putS rd w).retire 8))) ∧
  (∀ g s s1, Issues (taskInfo g [] []) s s1 → s1.foldReady s1.cc = true → ∃ u : State, exec (.waitw g) s = .next u ∧
    (∀ p ∈ (u.core s1.cc).pinned, p.1 ≠ s1.ck) ∧ (u.ctx s1.cc s1.ck).origin = none ∧ (u.core s1.cc).exitq = s1.myCore.exitq ∧
    (∀ m, s1.me.vctx = 0 → s1.myCore.startBuf = some m → (u.core s1.cc).startBuf = none ∧ (u.ctx s1.cc s1.ck).pc = m.pc ∧
      ∀ i < 4, (u.ctx s1.cc s1.ck).x.get (Fin.ofNat 32 i) = m.args.getD i 0) ∧
    (s1.me.vctx ≠ 0 ∨ s1.myCore.startBuf = none → (u.ctx s1.cc s1.ck).wait = some (.wmsg, .held) ∧
      (u.cluster (s1.clusterOf s1.cc)).waiters = (s1.cluster (s1.clusterOf s1.cc)).waiters ++ [s1.cur] ∧ u.mem = s1.mem))

/-- R283 to R289: the dispenser takes, for the first waiter there is one for, the ready task of highest priority and then
lowest arrival number that overlaps no pinned range; a task without a footprint begins at once; a footprint that cannot be
copied faults at the task's PC; a ring's oldest record comes into a free entry with its arrival number. -/
def Said.DispenserMoves : Prop :=
  (∀ (s : State) cl c k i t, s.chooseTask cl c k = some (i, t) → (s.part (s.core c).partid).replay.mode = .off →
    let fits (e : Nat × Task) : Prop := s.taskReady cl e.2 = true ∧ s.pinnedOn c e.2.words = false
    (i, t) ∈ (s.cluster cl).sram ∧ fits (i, t) ∧
    ∀ e ∈ (s.cluster cl).sram, fits e → (s.taskq cl e.2.queue).pri < (s.taskq cl t.queue).pri ∨
      ((s.taskq cl e.2.queue).pri = (s.taskq cl t.queue).pri ∧ t.arrival ≤ e.2.arrival)) ∧
  (∀ (s : State) cl c k i t, s.clusterRuns cl = true → s.chooseWaiter cl (s.cluster cl).waiters = some ((c, k), (i, t)) →
    (s.part (s.core c).partid).replay.mode = .off →
    let ws := t.words
    ∃ u : State, exec (.taskDispatch cl) s = .next u ∧ u.mem.d = s.mem.d ∧
      (u.cluster cl).sram = tdel (s.cluster cl).sram i ∧ (c, k) ∉ (u.cluster cl).waiters ∧
      (u.ctx c k).origin = some t.queue ∧ (u.ctx c k).wait = none ∧
      (recSize ws = 0 → (u.ctx c k).pend = none ∧ (u.ctx c k).pc = recWord ws 0 ∧
        ∀ r : Fin 32, (u.ctx c k).x.get r = if r.val < 4 then recWord ws (1 + r.val) else (s.ctx c k).x.get r) ∧
      (recSize ws ≠ 0 → (u.ctx c k).foot = ws ∧ (u.ctx c k).x = (s.ctx c k).x ∧
        (u.core c).pinned = (s.core c).pinned ++ [(k, recOff ws, recSize ws)] ∧
        (u.ctx c k).pend = some { kind := .footprint, len := 0 })) ∧
  (∀ (s : State) cl, s.clusterRuns cl = true → s.chooseWaiter cl (s.cluster cl).waiters = none →
    exec (.taskDispatch cl) s = .next s) ∧
  (∀ (s : State) c k (p : Pend) ws, (s.ctx c k).pend = some p → p.kind = .footprint → s.runs c = true → (s.ctx c k).stopped = false →
    (s.ctx c k).foot = ws → let dst : Word := BitVec.ofNat 64 (0x8 * 2 ^ 60 + recOff ws)
    (∀ f, s.chunkWhere c (s.core c).partid [(recWord ws 5, dst, recSize ws)] = .error f →
      exec (.footprintFetchComplete c k) s = .next ((s.modCtx c k (fun x =>
        { x with pc := recWord ws 0, pend := none })).takeFault c k f)) ∧
    (∀ ps, s.chunkWhere c (s.core c).partid [(recWord ws 5, dst, recSize ws)] = .ok ps →
      ∃ u : State, exec (.footprintFetchComplete c k) s = .next u ∧ (u.ctx c k).pend = none ∧ (u.ctx c k).pc = recWord ws 0 ∧
        u.mem.d = s.mem.d ∧
        ∀ r : Fin 32, (u.ctx c k).x.get r = if r.val < 4 then recWord ws (1 + r.val) else (s.ctx c k).x.get r)) ∧
  (∀ (s : State) cl q i base sz n r ls, s.clusterRuns cl = true → s.refillFrom cl = some q → q < 16 → s.freeSram cl = some i →
    (s.taskq cl q).ring = some (base, sz) → (s.taskq cl q).arrivals = n :: r →
    let c := s.clusterCore cl
    let a := base.toNat + 64 * ((s.taskq cl q).head % 2 ^ sz)
    let at_ := s.locate (s.viaCluster cl c (s.core c).partid) { r := true } [0x0] a 64 64
    let disarmed := ∃ u : State, exec (.ringRefill cl) s = .next u ∧ (u.taskq cl q).armed = false ∧
      (u.taskq cl q).arrivals = n :: r ∧ u.mem = s.mem
    (at_ = .at ls → s.mem.badAt ls ≠ none → disarmed) ∧
    (at_ = .at ls → s.mem.badAt ls = none →
      ∃ (u : State) (e : Task), exec (.ringRefill cl) s = .next u ∧ tget (u.cluster cl).sram i = some e ∧ e.queue = q ∧ e.arrival = n ∧
        (u.taskq cl q).arrivals = r ∧ (u.taskq cl q).head = (s.taskq cl q).head + 1 ∧ u.mem.d = s.mem.d) ∧
    (∀ f, at_ = .fault f → disarmed))

/-- What QCFG does to a task queue, with the bits its operands may have (R294). -/
def Claim.queueSettings : List ((Guard → SSrc → SSrc → Instr) × Word × Word × (Word → Word → TaskQ → TaskQ)) :=
  [(.qcfgPriority, 15, 7, fun _ b t => { t with pri := b.toNat }),
   (.qcfgArm, 15, 0, fun _ _ t => { t with armed := true }),
   (.qcfgOwner, 15, 0xF_1FFF, fun _ b t => { t with owner := some ((b.extractLsb' 0 13).toNat, (b.extractLsb' 16 4).toNat) }),
   (.qcfgRing, 0x1F0F, BitVec.allOnes 64, fun a b t =>
     { t with ring := some (b, (a.extractLsb' 8 5).toNat), armed := true, head := 0 })]

/-- What QSTAT reads (R295). -/
def Claim.queueStates : List ((Guard → SDst → SSrc → Instr) × (State → Word → Nat)) :=
  [(.qstatHwqueue, fun s a => (s.hq s.cc (a.toNat % 8)).entries.length + if (s.hq s.cc (a.toNat % 8)).vec then 256 else 0),
   (.qstatTaskqueue, fun s a => let t := s.taskq (s.clusterOf s.cc) (a.toNat % 16)
     ((s.cluster (s.clusterOf s.cc)).sram.filter (fun e => e.2.queue = a.toNat % 16)).length + (if t.armed then 2048 else 0) +
       4096 * t.pri + 65536 * t.arrivals.length),
   (.qstatCounter, fun s a => let d := tgetD (s.cluster (s.clusterOf s.cc)).deps (a.toNat % 256) (0, false)
     d.1.toNat + if d.2 then 65536 else 0),
   (.qstatExitqueue, fun s _ => s.myCore.exitq.length % 65536),
   (.qstatMailbox, fun s a => let b := tgetD s.myCore.mbox (a.toNat % 256) {}
     b.count.toNat + 2 ^ 32 * b.msgs.length),
   (.qstatPoisonlog, fun s a => match tget (s.cluster (s.clusterOf s.cc)).plog (a.toNat % 16) with
     | some (q, i) => q + 16 * i + 65536
     | none => 0),
   (.qstatDrops, fun s _ => s.myCore.drops.toNat)]

/-- R292, R294, R295: QCFG, QSTAT and QRST. -/
def Claim.QueueSettings : Prop :=
  (∀ e ∈ Claim.queueSettings, ∀ g xa xb s s1 s2 s3 a b, Issues (taskInfo g [xa, xb] []) s s1 → Gives (readS xa) s1 a s2 →
    Gives (readS xb) s2 b s3 →
    (a &&& ~~~e.2.1 ≠ 0 ∨ b &&& ~~~e.2.2.1 ≠ 0 → exec (e.1 g xa xb) s = Claim.faults s1 { code := .illegal }) ∧
    (a &&& ~~~e.2.1 = 0 → b &&& ~~~e.2.2.1 = 0 →
      (e.1 g xa xb = .qcfgOwner g xa xb → s3.inCluster (b.extractLsb' 0 13).toNat = true) →
      (e.1 g xa xb = .qcfgRing g xa xb → 4 ≤ (a.extractLsb' 8 5).toNat ∧ (a.extractLsb' 8 5).toNat ≤ 20 ∧ b.toNat < 2 ^ 56 ∧
        b.toNat % (64 * 2 ^ (a.extractLsb' 8 5).toNat) = 0 ∧ (s3.taskq (s3.clusterOf s3.cc) (a.toNat % 16)).arrivals = []) →
      exec (e.1 g xa xb) s =
        .next ((s3.modTaskq (s3.clusterOf s3.cc) (a.toNat % 16) (e.2.2.2 a b)).retire 8))) ∧
  (∀ g xa xb s s1 s2 s3 a b, Issues (taskInfo g [xa, xb] []) s s1 → Gives (readS xa) s1 a s2 → Gives (readS xb) s2 b s3 →
    (a.toNat < 8 → b.toNat < 2 → s3.foldReady s3.cc = true →
      ((s3.hq s3.cc a.toNat).reserved ≠ 0 →
        exec (.qcfgHwqueueType g xa xb) s = Claim.waits s .wmsg (.qIdle s3.cc a.toNat)) ∧
      ((s3.hq s3.cc a.toNat).reserved = 0 → ∃ u : State, exec (.qcfgHwqueueType g xa xb) s = .next (u.retire 8) ∧
        (u.hq s3.cc a.toNat).entries = [] ∧ (u.hq s3.cc a.toNat).vec = b.getLsbD 0 ∧
        (∀ q < 8, q ≠ a.toNat → u.hq s3.cc q = s3.hq s3.cc q) ∧ u.mem = s3.mem)) ∧
    (a.toNat < 256 → b.toNat < 65536 → ∃ u : State, exec (.qcfgCounter g xa xb) s = .next (u.retire 8) ∧ u.ctxs = s3.ctxs ∧
      u.cores = s3.cores ∧ u.mem = s3.mem ∧ (u.cluster (s3.clusterOf s3.cc)).deps =
        tset (s3.cluster (s3.clusterOf s3.cc)).deps a.toNat (b.setWidth 16, false))) ∧
  (∀ e ∈ Claim.queueStates, ∀ g rd xa s s1 s2 a, Issues (taskInfo g [xa] [rd]) s s1 → Gives (readS xa) s1 a s2 →
    s2.foldReady s2.cc = true → Gives (checkS rd) s2 () s2 →
    exec (e.1 g rd xa) s = .next ((s2.putS rd (BitVec.ofNat 64 (e.2 s2 a))).retire 8)) ∧
  (∀ g rd xa s s1 s2 a, Issues (taskInfo g [xa] [rd]) s s1 → Gives (readS xa) s1 a s2 →
    let c := (a.extractLsb' 0 13).toNat
    (s2.inCluster c = false → exec (.qstatDeque g rd xa) s = Claim.faults s1 { code := .prot, tval := a }) ∧
    (s2.inCluster c = true → s2.foldReady c = false →
      exec (.qstatDeque g rd xa) s = Claim.waits s .wmsg (.fold (s2.core c).home c)) ∧
    (s2.inCluster c = true → s2.foldReady c = true → Gives (checkS rd) s2 () s2 →
      exec (.qstatDeque g rd xa) s = .next ((s2.putS rd (BitVec.ofNat 64 (s2.core c).deque.length)).retire 8))) ∧
  (∀ g xa s s1 s2 a, Issues (taskInfo g [xa] []) s s1 → Gives (readS xa) s1 a s2 →
    (16 ≤ a.toNat → exec (.qrst g xa) s = Claim.faults s1 { code := .illegal }) ∧
    (a.toNat < 16 → ∃ u : State, exec (.qrst g xa) s = .next (u.retire 8) ∧
      (∀ e ∈ (u.cluster (s2.clusterOf s2.cc)).sram, e.2.queue ≠ a.toNat) ∧
      (u.taskq (s2.clusterOf s2.cc) a.toNat).arrivals = [] ∧
      ∀ c k, k < 16 → s2.clusterOf c = s2.clusterOf s2.cc → c * 16 + k ≠ s2.cc * 16 + s2.ck → (s2.ctx c k).origin = some a.toNat →
        (u.ctx c k).run = .vacant))

/-- R284, R293: TASKQ to a queue and to the deque, TAKE from the newest end and STEAL from the oldest. -/
def Claim.QueueMoves : Prop :=
  (∀ g (gd : Fin 8) xs (n : Fin 16) s s1 s2 s3 a ls, Issues (taskInfo g [xs] []) s s1 → Gives (readS xs) s1 a s2 →
    (s2.cluster (s2.clusterOf s2.cc)).bps = [] → Gives (locM { r := true } [0x8] a.toNat 64 64) s2 ls s3 →
    let q := s3.loadUnits (s3.agentOf s3.cc s3.ck) ((List.range 8).map (fun i => (ls.drop (8 * i)).take 8))
    let ws := (List.range 8).map (fun i => BitVec.ofNat 64 (leVal ((q.1.drop (8 * i)).take 8)))
    let s4 := q.2.handFrom (q.2.agentOf q.2.cc q.2.ck)
    (recOk ws = false → exec (.taskq g gd xs n) s = Claim.faults s1 { code := .illegal, tval := a }) ∧
    (recOk ws = true → ∃ (yes : Bool) (u : State), s4.enqueue (s4.clusterOf s4.cc) n.val s4.cc s4.myPart ws = (yes, u) ∧
      exec (.taskq g gd xs n) s = .next ((u.put (.g gd allOn (if yes then allOn else 0))).retire 8) ∧
      (∀ i, s4.freeSram (s4.clusterOf s4.cc) = some i → (s4.taskq (s4.clusterOf s4.cc) n.val).arrivals = [] → yes = true ∧
        (u.cluster (s4.clusterOf s4.cc)).sram = tset (s4.cluster (s4.clusterOf s4.cc)).sram i
          { queue := n.val, arrival := (s4.cluster (s4.clusterOf s4.cc)).arrival, words := ws }) ∧
      (s4.freeSram (s4.clusterOf s4.cc) = none → (s4.taskq (s4.clusterOf s4.cc) n.val).ring = none → yes = false ∧ u = s4))) ∧
  (∀ g (gd : Fin 8) xs s s1 s2 a, Issues (taskInfo g [xs] []) s s1 → Gives (readS xs) s1 a s2 → s2.foldReady s2.cc = true →
    let s3 := s2.handFrom (s2.agentOf s2.cc s2.ck)
    exec (.taskqDeque g gd xs) s = .next (if s3.myCore.deque.length < 32 then
        ((s3.modMyCore (fun y => { y with deque := y.deque ++ [a] })).put (.g gd allOn allOn)).retire 8
      else (s3.put (.g gd allOn 0)).retire 8)) ∧
  (∀ g rd (gd : Fin 8) s s1, Issues (taskInfo g [] [rd]) s s1 → s1.foldReady s1.cc = true → (s1.part s1.myPart).replay.mode = .off →
    (s1.myCore.deque = [] → Gives (checkS rd) s1 () s1 →
      exec (.take g rd gd) s = .next (((s1.putS rd 0).put (.g gd allOn 0)).retire 8)) ∧
    (∀ r v, s1.myCore.deque = r ++ [v] →
      let t := (s1.modCore s1.cc (fun y => { y with deque := r })).modMem (fun m => m.handOff (s1.agentOf s1.cc s1.ck))
      Gives (checkS rd) s1 () s1 → Gives (checkS rd) t () t →
      exec (.take g rd gd) s = .next (((t.putS rd v).put (.g gd allOn allOn)).retire 8))) ∧
  (∀ g rd (gd : Fin 8) xc s s1 s2 c, Issues (taskInfo g [xc] [rd]) s s1 → Gives (readS xc) s1 c s2 → (s2.part s2.myPart).replay.mode = .off →
    (2 ^ 13 ≤ c.toNat → exec (.steal g rd gd xc) s = Claim.faults s1 { code := .illegal }) ∧
    (c.toNat < 2 ^ 13 → s2.inCluster c.toNat = false → exec (.steal g rd gd xc) s = Claim.faults s1 { code := .prot, tval := c }) ∧
    (c.toNat < 2 ^ 13 → s2.inCluster c.toNat = true → s2.foldReady c.toNat = false →
      exec (.steal g rd gd xc) s = Claim.waits s .wmsg (.fold (s2.core c.toNat).home c.toNat)) ∧
    (c.toNat < 2 ^ 13 → s2.inCluster c.toNat = true → s2.foldReady c.toNat = true →
      ((s2.core c.toNat).deque = [] → Gives (checkS rd) s2 () s2 →
        exec (.steal g rd gd xc) s = .next (((s2.putS rd 0).put (.g gd allOn 0)).retire 8)) ∧
      (∀ v r, (s2.core c.toNat).deque = v :: r →
        let t := (s2.modCore c.toNat (fun y => { y with deque := r })).modMem (fun m => m.handOff (s2.agentOf s2.cc s2.ck))
        Gives (checkS rd) s2 () s2 → Gives (checkS rd) t () t →
        exec (.steal g rd gd xc) s = .next (((t.putS rd v).put (.g gd allOn allOn)).retire 8))))

/-- R284, R292 to R295: the instructions on task queues, deques and their settings. -/
def Said.TaskQueueInstructions : Prop := Claim.QueueSettings ∧ Claim.QueueMoves

/-- R284, R292 to R295, R283 to R289: the claims TaskQueueInstructions and DispenserMoves. -/
def Obligations.TaskQueueResults : Prop := Said.TaskQueueInstructions ∧ Said.DispenserMoves

/-! ## Messages -/

/-- A mailbox operand that a sender may name (R296, R297). -/
def Claim.boxOk (s : State) (d : Word) : Prop :=
  d &&& ~~~0xFF_1FFF = 0 ∧ s.holdsCore s.myPart (d.extractLsb' 0 13).toNat = true ∧ (d.extractLsb' 16 8).toNat ≠ 254 ∧
  (d.extractLsb' 16 8).toNat ≠ 255

/-- The fault of a wrong mailbox operand (R296, R297). -/
def Claim.boxFault (s : State) (d : Word) : Cause :=
  if d &&& ~~~0xFF_1FFF ≠ 0 then { code := .illegal }
  else if s.holdsCore s.myPart (d.extractLsb' 0 13).toNat = false then { code := .prot, tval := d }
  else { code := .queue }

/-- The send queue of the acting core after a message (R297). -/
def Claim.queued (s u : State) (d w0 w1 : Word) : Prop :=
  ∃ m : Msg, u.myCore.sendq = s.myCore.sendq ++ [.msg m] ∧ m.dst = (d.extractLsb' 0 13).toNat ∧ m.box = (d.extractLsb' 16 8).toNat ∧
    m.w0 = w0 ∧ m.w1 = w1 ∧ m.src = s.cc ∧ m.sctx = s.me.vctx ∧ u.mem = s.mem

/-- R296 to R300: SEND, RCALL, RREPLY, MRECV and MRECV.r. -/
def Said.MessageInstructions : Prop :=
  (∀ g xd xa xb s s1 s2 s3 s4 d a b, Issues (taskInfo g [xd, xa, xb] []) s s1 → Gives (readS xd) s1 d s2 → Gives (readS xa) s2 a s3 →
    Gives (readS xb) s3 b s4 →
    (¬Claim.boxOk s4 d → exec (.send g xd xa xb) s = Claim.faults s1 (Claim.boxFault s4 d)) ∧
    (Claim.boxOk s4 d → s4.foldReady s4.cc = true →
      (16 ≤ s4.myCore.sendq.length → exec (.send g xd xa xb) s = Claim.waits s .wmsg (.sendRoom s4.cc)) ∧
      (s4.myCore.sendq.length < 16 → ∃ u : State, exec (.send g xd xa xb) s = .next (u.retire 8) ∧ Claim.queued s4 u d a b ∧
        u.ctxs = s4.ctxs))) ∧
  (∀ g rd xd xa (k : Fin 4) s s1 s2 s3 d a, Issues (taskInfo g [xd, xa] [rd]) s s1 → Gives (readS xd) s1 d s2 →
    Gives (readS xa) s2 a s3 →
    let token : Word := BitVec.twoPow 64 63 ||| BitVec.ofNat 64 k.val <<< 20 ||| BitVec.ofNat 64 (s3.me.vctx % 16) <<< 16 |||
      BitVec.ofNat 64 (s3.me.vcid % 8192)
    s3.me.vctx < 16 →
    (¬Claim.boxOk s3 d → exec (.rcall g rd xd xa k) s = Claim.faults s1 (Claim.boxFault s3 d)) ∧
    (Claim.boxOk s3 d → s3.me.replies.get k ≠ .empty → exec (.rcall g rd xd xa k) s = Claim.faults s1 { code := .queue }) ∧
    (Claim.boxOk s3 d → s3.me.replies.get k = .empty → s3.foldReady s3.cc = true → s3.myCore.sendq.length < 16 →
      ∃ u : State, Claim.queued s3 u d a token ∧ u.me = { s3.me with replies := s3.me.replies.set k.val .pending k.isLt } ∧
        (Gives (checkS rd) u () u → Claim.Sent (exec (.rcall g rd xd xa k) s) u (.rcall k rd) .wmsg 8))) ∧
  (∀ g xd xa (k : Fin 4) s s1 s2 s3 d a, Issues (taskInfo g [xd, xa] []) s s1 → Gives (readS xd) s1 d s2 →
    Gives (readS xa) s2 a s3 → Claim.boxOk s3 d → s3.me.replies.get k = .empty → s3.foldReady s3.cc = true →
    s3.myCore.sendq.length < 16 → ∃ (u : State) (t : Word), exec (.rcallN g xd xa k) s = .next (u.retire 8) ∧ Claim.queued s3 u d a t ∧
      u.me = { s3.me with replies := s3.me.replies.set k.val .pending k.isLt }) ∧
  (∀ g xt xv s s1 s2 s3 t v, Issues (taskInfo g [xt, xv] []) s s1 → Gives (readS xt) s1 t s2 → Gives (readS xv) s2 v s3 →
    let ok := t.getLsbD 63 = true ∧ t.extractLsb' 22 41 = 0 ∧ t.extractLsb' 13 3 = 0
    let held := s3.holdsCore s3.myPart (t.extractLsb' 0 13).toNat
    (¬ok → exec (.rreply g xt xv) s = Claim.faults s1 { code := .illegal }) ∧
    (ok → held = false → exec (.rreply g xt xv) s = Claim.faults s1 { code := .prot, tval := t }) ∧
    (ok → held = true → ∃ u : State, exec (.rreply g xt xv) s = .next (u.retire 8) ∧ u.mem = s3.mem ∧ u.ctxs = s3.ctxs ∧
      u.myCore.sendq = s3.myCore.sendq ++ [.reply s3.myPart (t.extractLsb' 0 13).toNat (t.extractLsb' 16 4).toNat
        (Fin.ofNat 4 (t.extractLsb' 20 2).toNat) v])) ∧
  (∀ g (rd : Fin 32) (mb : Byte) s s1, Issues (taskInfo g [] []) s s1 →
    (mb = 253 → exec (.mrecv g rd mb) s = Claim.faults s1 { code := .queue }) ∧
    (mb = 254 → s1.me.events = [] → exec (.mrecv g rd mb) s = Claim.waits s .wmsg (.event s1.cc s1.ck)) ∧
    (∀ w r, mb = 254 → s1.me.events = w :: r → exec (.mrecv g rd mb) s =
      .next ((s1.modMe (fun x => ({ x with events := r }.setX rd w.1).setX (rd + 1) w.2)).retire 8)) ∧
    (mb ≠ 253 → mb ≠ 254 → s1.foldReady s1.cc = true →
      let b := tgetD s1.myCore.mbox mb.toNat {}
      (b.msgs = [] → exec (.mrecv g rd mb) s = Claim.waits s .wmsg (.mail s1.cc mb.toNat)) ∧
      (∀ w r, b.msgs = w :: r → exec (.mrecv g rd mb) s =
        .next (((s1.modMyCore (fun y => { y with mbox := tset y.mbox mb.toNat { b with msgs := r } })).modMe
          (fun x => (x.setX rd w.1).setX (rd + 1) w.2)).retire 8)))) ∧
  (∀ g rd (k : Fin 4) s s1, Issues (taskInfo g [] [rd]) s s1 →
    (s1.me.replies.get k = .empty → exec (.mrecvR g rd k) s = Claim.faults s1 { code := .queue }) ∧
    (s1.me.replies.get k = .pending → exec (.mrecvR g rd k) s = Claim.waits s .wmsg (.reply s1.cc s1.ck k)) ∧
    (∀ v, s1.me.replies.get k = .full v →
      let t := s1.modMe (fun x => { x with replies := x.replies.set k.val .empty k.isLt })
      Gives (checkS rd) t () t → exec (.mrecvR g rd k) s = .next ((t.putS rd v).retire 8)))

/-- R297 to R300: the oldest message leaves its core, one to mailbox 253 to a service core; a message enters its mailbox at the
end while it holds fewer than four and no earlier one of its sender is under way; a reply completes the call that waits for it,
or fills its slot, or is dropped. -/
def Said.MessageMoves : Prop :=
  (∀ (s : State) c e r, (s.core c).sendq = e :: r → s.runs c = true → ∃ u : State, exec (.messageDepart c) s = .next u ∧
    (u.core c).sendq = r ∧ u.mem = s.mem ∧ u.ctxs = s.ctxs ∧ u.net = s.net ++ [match e with
      | .msg m => if m.box = 253 then .forward m (quadOf (s.core m.dst).home) else .msg m
      | e => e]) ∧
  (∀ (s : State) i (m : Msg), s.net[i]? = some (.msg m) → m.dst < 2 ^ 20 → s.runs m.dst = true → (s.core m.dst).partid = m.part →
    (s.part m.part).replay.mode = .off →
    let b := tgetD (s.core m.dst).mbox m.box {}
    (4 ≤ b.msgs.length → exec (.messageEntry i) s = .next s) ∧
    ((∃ j < i, ∃ n : Msg, s.net[j]? = some (.msg n) ∧ n.src = m.src ∧ n.sctx = m.sctx ∧ n.dst = m.dst ∧ n.box = m.box ∧ n.part = m.part) →
      exec (.messageEntry i) s = .next s) ∧
    (b.msgs.length < 4 → (∀ j < i, ∀ n : Msg, s.net[j]? = some (.msg n) →
        ¬(n.src = m.src ∧ n.sctx = m.sctx ∧ n.dst = m.dst ∧ n.box = m.box ∧ n.part = m.part)) →
      ∃ u : State, exec (.messageEntry i) s = .next u ∧ u.net = s.net.eraseIdx i ∧ u.mem = s.mem ∧
        tgetD (u.core m.dst).mbox m.box {} = { msgs := b.msgs ++ [(m.w0, m.w1)], count := b.count + 1 })) ∧
  (∀ (s : State) i part c v k w j, s.net[i]? = some (.reply part c v k w) → s.runs c = true → (s.core c).partid = part →
    s.physOf c v = some j →
    ((s.ctx c j).replies.get k ≠ .pending → ∃ u : State, exec (.replyArrival i) s = .next u ∧ u.net = s.net.eraseIdx i ∧
      u.ctxs = s.ctxs ∧ u.mem = s.mem ∧ (u.core c).drops = (s.core c).drops + 1) ∧
    ((s.ctx c j).replies.get k = .pending →
      (∀ (p : Pend) (r : Fin 32), (s.ctx c j).pend = some p → p.kind = .rcall k (.x r) → p.reserve = [] →
        ∃ u : State, exec (.replyArrival i) s = .next u ∧ u.net = s.net.eraseIdx i ∧ u.mem = s.mem ∧
          (u.ctx c j).x.get r = w ∧ (u.ctx c j).replies.get k = .empty ∧ (u.ctx c j).pend = none) ∧
      ((s.ctx c j).pend = none → ∃ u : State, exec (.replyArrival i) s = .next u ∧ u.net = s.net.eraseIdx i ∧ u.mem = s.mem ∧
        u.ctx c j = { s.ctx c j with replies := (s.ctx c j).replies.set k.val (.full w) k.isLt })))

/-- R296 to R300, R297 to R300: the claims MessageInstructions and MessageMoves. -/
def Obligations.MessageResults : Prop := Said.MessageInstructions ∧ Said.MessageMoves

/-! ## Barrier sets, region bindings and the slot table -/

/-- R330, R333, R334: a set completes its phase at the arrival that reaches N, and at a leave that leaves no member to wait for;
otherwise an arrival marks its member in the current phase. -/
def Claim.BarrierSets : Prop :=
  (∀ (b : BarSet) m, b.arr + 1 = b.n → (b.arrive m).ph = b.ph + 1 ∧ (b.arrive m).arr = 0 ∧ (b.arrive m).n = b.n ∧
    ∀ k, (b.arrive m).arrived k = false) ∧
  (∀ (b : BarSet) m, b.arr + 1 ≠ b.n → (b.arrive m).ph = b.ph ∧ (b.arrive m).arr = b.arr + 1 ∧ (b.arrive m).arrived m = true ∧
    ∀ k, k ≠ m → (b.arrive m).arrived k = b.arrived k) ∧
  (∀ (b : BarSet) m, b.n = 1 → b.leave m = none) ∧
  (∀ (b : BarSet) m, 1 < b.n → b.arrived m = false → b.arr = b.n - 1 → ∃ c : BarSet, b.leave m = some c ∧ c.n = b.n - 1 ∧
    c.ph = b.ph + 1 ∧ c.arr = 0) ∧
  (∀ (b : BarSet) p, b.past p = true ↔ 1 ≤ (b.ph - p).toNat ∧ (b.ph - p).toNat ≤ 2 ^ 31 - 1)

/-- R331, R333 to R335: BSDEF.j defines or joins a set and BSDEF.l leaves it; BARV arrives in its phase once its writes have
reached the set's scope; BWAIT refreshes the view of every location when its phase is past; BARW does both. -/
def Said.BarrierInstructions : Prop := Claim.BarrierSets ∧
  (∀ g xs xc s s1 s2 s3 n c, Issues (tableInfo g [xs, xc] []) s s1 → Gives (readS xs) s1 n s2 → Gives (readS xc) s2 c s3 →
    let i : Instr := .bsdefJ g xs xc
    let num := (c.extractLsb' 0 18).toNat
    let sc := c.extractLsb' 20 2
    let cOk := c &&& ~~~0x33_FFFF = 0 ∧ num ≠ 0 ∧ num ≤ 131072 ∧ sc ≠ 3
    let scope : Scope := if sc = 0 then .group else if sc = 1 then .device else .system
    let x := s3.ctx s3.cc s3.joiner
    let old := s3.barSet s3.myPart n.toNat
    (128 ≤ n.toNat → exec i s = Claim.faults s1 { code := .illegal, tval := n }) ∧
    (n.toNat < 128 → ¬cOk → exec i s = Claim.faults s1 { code := .illegal, tval := c }) ∧
    (n.toNat < 128 → cOk → bsmFind x.bsm n.toNat ≠ none ∨ bsmFree x.bsm = none →
      exec i s = Claim.faults s1 { code := .illegal, tval := n }) ∧
    (∀ j, n.toNat < 128 → cOk → bsmFind x.bsm n.toNat = none → bsmFree x.bsm = some j →
      (∀ b, old = some b → b.n ≠ num ∨ b.scope ≠ scope ∨ b.members.length = b.n →
        exec i s = Claim.faults s1 { code := .illegal, tval := n }) ∧
      (∀ b, old = some b → b.n = num → b.scope = scope → b.members.length ≠ b.n → b.scope = .group →
        b.cl ≠ s3.clusterOf s3.cc → exec i s = Claim.faults s1 { code := .prot, tval := n }) ∧
      (∀ b, (old = none ∧ b = { n := num, scope, cl := s3.clusterOf s3.cc }) ∨ (old = some b ∧ b.n = num ∧ b.scope = scope ∧
          b.members.length ≠ b.n ∧ (b.scope = .group → b.cl = s3.clusterOf s3.cc)) →
        ∃ u : State, exec i s = .next (u.retire 8) ∧ u.mem = s3.mem ∧
          u.barSet s3.myPart n.toNat = some { b with members := tset b.members (ctxKey s3.cc x.vctx) (false, 0) } ∧
          u.ctx s3.cc s3.joiner = { x with bsm := bsmPut x.bsm j (some n.toNat) }))) ∧
  (∀ g xs s s1 s2 n, Issues (tableInfo g [xs] []) s s1 → Gives (readS xs) s1 n s2 →
    (128 ≤ n.toNat → exec (.bsdefL g xs) s = Claim.faults s1 { code := .illegal, tval := n }) ∧
    (n.toNat < 128 → bsmFind (s2.ctx s2.cc s2.joiner).bsm n.toNat = none → exec (.bsdefL g xs) s = .next (s2.retire 8)) ∧
    (∀ j b, n.toNat < 128 → bsmFind (s2.ctx s2.cc s2.joiner).bsm n.toNat = some j → s2.barSet s2.myPart n.toNat = some b →
      ∃ u : State, exec (.bsdefL g xs) s = .next (u.retire 8) ∧ u.mem = s2.mem ∧
        u.ctx s2.cc s2.joiner = { s2.ctx s2.cc s2.joiner with bsm := bsmPut (s2.ctx s2.cc s2.joiner).bsm j none } ∧
        (∀ c, b.leave (ctxKey s2.cc (s2.ctx s2.cc s2.joiner).vctx) = some c → u.barSet s2.myPart n.toNat = some c))) ∧
  (∀ g rd (k : Fin 4) s s1, Issues (tableInfo g [] [rd]) s s1 → bsmSlot (s1.ctx s1.cc s1.joiner).bsm k.val = none →
    exec (.barv g rd k) s = Claim.faults s1 { code := .illegal, tval := BitVec.ofNat 64 k.val }) ∧
  (∀ g rd (k : Fin 4) s s1 n b, Issues (tableInfo g [] [rd]) s s1 → Gives (slotSet k) s1 (n, b) s1 → Gives (checkS rd) s1 () s1 →
    let a := s1.agentOf s1.cc s1.ck
    let m := ctxKey s1.cc (s1.ctx s1.cc s1.joiner).vctx
    let there := s1.mem.reached a b.scope (s1.groupOf a) (fun _ => true)
    (b.arrived m = true → exec (.barv g rd k) s = Claim.waits s .wmsg (.phase s1.myPart n b.ph)) ∧
    (b.arrived m = false → there = false → exec (.barv g rd k) s = Claim.waits s .wmem (.drained a b.scope)) ∧
    (b.arrived m = false → there = true →
      let t := (s1.putSet s1.myPart n (some (b.arrive m))).trace s1.cc s1.ck 0x06 s1.me.pc (BitVec.ofNat 64 (n + b.ph.toNat * 2 ^ 32))
      (Gives (checkS rd) t () t → exec (.barv g rd k) s = .next ((t.putS rd (b.ph.setWidth 64)).retire 8)) ∧
      (s1.me.live.barw = false → (b.arrive m).past b.ph = false → bsmSlot (t.ctx t.cc t.joiner).bsm k.val = some n →
        ∃ u : State, exec (.barw g rd k) s = .next u ∧ u.me.wait = some (.wmsg, .phase s1.myPart n b.ph) ∧
          u.me.live.barw = true ∧ u.me.live.phase = b.ph ∧ u.me.pc = s1.me.pc ∧ u.barSet s1.myPart n = some (b.arrive m)))) ∧
  (∀ g xp rd (k : Fin 4) s s1 s2 n b p, Issues (tableInfo g [xp] []) s s1 → Gives (slotSet k) s1 (n, b) s1 →
    Gives (readS xp) s1 p s2 →
    let a := s2.agentOf s2.cc s2.ck
    (b.past (p.setWidth 32) = false → exec (.bwait g xp k) s = Claim.waits s .wmsg (.phase s2.myPart n (p.setWidth 32))) ∧
    (b.past (p.setWidth 32) = true → ∃ u : State, exec (.bwait g xp k) s = .next (u.retire 8) ∧ u.mem.d = s2.mem.d ∧
      (∀ l, (s2.mem.zHeld b.scope (s2.groupOf a) l).stamp ≤ (u.mem.view a l).stamp ∧
        (s2.mem.view a l).stamp ≤ (u.mem.view a l).stamp) ∧ (∀ c l, c ≠ a → u.mem.view c l = s2.mem.view c l)) ∧
    (s1.me.live.barw = true → b.past s1.me.live.phase = true → Issues (tableInfo g [] [.x rd]) s s1 →
      ∃ u : State, exec (.barw g (.x rd) k) s = .next (u.retire 8) ∧ u.me.x.get rd = s1.me.live.phase.setWidth 64 ∧
        u.me.live.barw = false))

/-- R336 to R339: RBIND and RUNBND send their change, and the table takes it: an overlap gives BIND, a full table all ones,
else the lowest invalid entry is written and its index is the result; RUNBND makes its entry invalid. -/
def Said.BindingInstructions : Prop :=
  (∀ g rd xb xl xs s s1 s2 s3 s4 b l y, Issues (tableInfo g [xb, xl, xs] [rd]) s s1 → Gives (readS xb) s1 b s2 →
    Gives (readS xl) s2 l s3 → Gives (readS xs) s3 y s4 →
    let i : Instr := .rbind g rd xb xl xs
    (b.extractLsb' 60 4 ∉ [0, 8, 10, 11] → exec i s = Claim.faults s1 { code := .space, tval := b }) ∧
    (b.toNat < 2 ^ 56 → b.toNat % 64 ≠ 0 ∨ l.toNat % 64 ≠ 0 ∨ l = 0 → exec i s = Claim.faults s1 { code := .align, tval := b }) ∧
    (b.toNat + l.toNat ≤ 2 ^ 56 → b.toNat % 64 = 0 → l.toNat % 64 = 0 → l ≠ 0 → y.toNat + 8 ≤ 2 ^ 56 → y.toNat % 8 ≠ 0 →
      exec i s = Claim.faults s1 { code := .align, tval := y }) ∧
    (∀ e, Gives (bindCheck b l y) s4 e s4 → Gives (checkS rd) s4 () s4 →
      Claim.Sent (exec i s) s4 (.bind rd) .wmem 8 ∧
      ∃ t : State, exec i s = .next t ∧ (t.part s4.myPart).bindNew = (s4.part s4.myPart).bindNew ++
        [{ core := s4.cc, ctx := s4.ck, entry := some e, idx := 0 }]) ∧
    (b.toNat + l.toNat ≤ 2 ^ 56 → b.toNat % 64 = 0 → l.toNat % 64 = 0 → l ≠ 0 → y.toNat + 8 ≤ 2 ^ 56 → y.toNat % 8 = 0 →
      Gives (bindCheck b l y) s4 { base := b, len := l.toNat, sync := y } s4)) ∧
  (∀ g xi s s1 s2 i, Issues (tableInfo g [xi] []) s s1 → Gives (readS xi) s1 i s2 →
    (256 ≤ i.toNat → exec (.runbnd g xi) s = Claim.faults s1 { code := .illegal, tval := i }) ∧
    (i.toNat < 256 → Claim.Sent (exec (.runbnd g xi) s) s2 (.bind .zero) .wmem 8)) ∧
  (∀ (s : State) part i (b : BindChange) (p : Pend) rd, (s.part part).bindNew[i]? = some b → b.live = true →
    (s.ctx b.core b.ctx).pend = some p → p.kind = .bind rd →
    let t := (s.part part).binds
    ∃ u : State, exec (.bindingChange part i) s = .next u ∧ (u.part part).bindNew = (s.part part).bindNew.eraseIdx i ∧ u.mem = s.mem ∧
    (b.entry = none → (u.part part).binds = tdel t b.idx ∧ (u.ctx b.core b.ctx).pend = some { p with kind := .value [] }) ∧
    (∀ e, b.entry = some e →
      ((∃ o ∈ t, o.2.base.toNat < e.base.toNat + e.len ∧ e.base.toNat < o.2.base.toNat + o.2.len) → (u.part part).binds = t ∧
        (u.ctx b.core b.ctx).pend = some { p with kind := .fault { code := .bind, tval := e.base } }) ∧
      ((∀ o ∈ t, ¬(o.2.base.toNat < e.base.toNat + e.len ∧ e.base.toNat < o.2.base.toNat + o.2.len)) →
        ((∀ j < 256, tget t j ≠ none) → (u.part part).binds = t ∧
          (u.ctx b.core b.ctx).pend = some { p with kind := .value [.s rd (BitVec.allOnes 64)] }) ∧
        (∀ j < 256, tget t j = none → (∀ k < j, tget t k ≠ none) → (u.part part).binds = tset t j e ∧
          (u.ctx b.core b.ctx).pend = some { p with kind := .value [.s rd (BitVec.ofNat 64 j)] }))))

/-- The four words of SLOTW and SLOTRD (R270). -/
def Claim.slotWords : List ((Guard → SSrc → SSrc → Instr) × (Guard → SDst → SSrc → Instr) × Nat) :=
  [(.slotwA, .slotrdA, 0), (.slotwB, .slotrdB, 1), (.slotwE, .slotrdE, 2), (.slotwT, .slotrdT, 3)]

/-- Whether SLOTW takes a value for a word (R271). -/
def Claim.slotValue (s : State) (sel : Nat) (p v : Word) : Prop :=
  let e := s.slot (placeCore p) (placeSlot p)
  let bppl := (v.extractLsb' 16 5).toNat
  let nblk := (v.extractLsb' 0 14).toNat
  match sel with
  | 0 => v.getLsbD 31 = true → v.extractLsb' 21 10 = 0 ∧ v.extractLsb' 14 2 = 0 ∧ 6 ≤ bppl ∧ bppl ≤ 19 ∧ nblk ≤ 8192 ∧
      (v.extractLsb' 32 32).toNat * 2 ^ bppl ≤ nblk * 2 ^ 19 ∧
      s.listOwn (placeCore p) s.myPart (e.b.extractLsb' 0 26).toNat nblk = true
  | 1 => e.a.getLsbD 31 = false ∧ v.toNat < 2 ^ 26 ∧ v.toNat % 8 = 0
  | 2 => v.getLsbD 0 = true → v.extractLsb' 48 8 = 0 ∧ v.extractLsb' 3 16 = 0 ∧
      populated ((v.extractLsb' 19 29).toNat * 2 ^ 19) = true ∧ (v.getLsbD 2 = true ↔ 2 ^ 40 ≤ (v.extractLsb' 19 29).toNat * 2 ^ 19)
  | _ => v.toNat < 2 ^ 16

/-- R264 to R273: SLOTW checks its operands in order and sends its change; SLOTRD answers the word that stands; a change that no
access in progress holds back is made, and its SLOTW may go on, or raises ILLEGAL where its check fails on the slot as it stands then;
the far-read window begins again under the LIMIT that stands, the lines that wait first. -/
def Said.SlotTable : Prop :=
  (∀ e ∈ Claim.slotWords, ∀ g xp xv s s1 s2 s3 p v, Issues (tableInfo g [xp, xv] []) s s1 → Gives (readS xp) s1 p s2 →
    Gives (readS xv) s2 v s3 →
    let fields := p &&& ~~~0x1FFF_00FF_1FFF = 0
    let may := s3.cc < 8192 ∧ ((s3.die (s3.cc / 256)).alloc.toList[s3.myPart]?.getD none) = some (s3.cc % 256) ∧
      (p.extractLsb' 8 5).toNat = s3.cc / 256
    let own := e.2.2 = 3 ∨ s3.holdsCore s3.myPart (placeCore p) = true
    (¬fields → exec (e.1 g xp xv) s = Claim.faults s1 { code := .illegal, tval := p }) ∧
    (fields → ¬may → exec (e.1 g xp xv) s = Claim.faults s1 { code := .priv }) ∧
    (fields → may → ¬own → exec (e.1 g xp xv) s = Claim.faults s1 { code := .prot, tval := p, kind := 1 }) ∧
    (fields → may → own → ¬Claim.slotValue s3 e.2.2 p v → exec (e.1 g xp xv) s = Claim.faults s1 { code := .illegal, tval := v }) ∧
    (fields → may → own → Claim.slotValue s3 e.2.2 p v → Claim.Sent (exec (e.1 g xp xv) s) s3 .slotw .wmem 8 ∧
      ∃ t : State, exec (e.1 g xp xv) s = .next t ∧
        t.slotNew = s3.slotNew ++ [{ core := s3.cc, ctx := s3.ck, place := p, sel := e.2.2, v }])) ∧
  (∀ e ∈ Claim.slotWords, ∀ g rd xp s s1 s2 p, Issues (tableInfo g [xp] [rd]) s s1 → Gives (readS xp) s1 p s2 →
    (p &&& ~~~0x1FFF_00FF_1FFF ≠ 0 → exec (e.2.1 g rd xp) s = Claim.faults s1 { code := .illegal, tval := p }) ∧
    (p &&& ~~~0x1FFF_00FF_1FFF = 0 → e.2.2 = 3 ∨ s2.holdsCore s2.myPart (placeCore p) = true → Gives (checkS rd) s2 () s2 →
      let v : Word := if e.2.2 = 0 then (s2.slot (placeCore p) (placeSlot p)).a
        else if e.2.2 = 1 then (s2.slot (placeCore p) (placeSlot p)).b
        else if e.2.2 = 2 then BitVec.ofNat 64 (leVal ((List.range 8).map (fun i =>
          Memory.get s2.mem.d (s2.listLoc (placeCore p) (placeSlot p) (placeIndex p) + i))))
        else (s2.die (p.extractLsb' 8 5).toNat).frt
      Claim.Sent (exec (e.2.1 g rd xp) s) s2 (.value [.s rd v]) .wmem 8)) ∧
  (∀ (s : State) i (b : SlotChange) (p : Pend), s.slotNew[i]? = some b → b.live = true → (s.ctx b.core b.ctx).pend = some p →
    p.kind = .slotw →
    let ok := b.sel < 2 → s.slotOk b.sel (placeCore b.place) (placeSlot b.place) (s.core b.core).partid b.v = true
    (s.slotBusy b = true → exec (.slotChange i) s = .next s) ∧
    (s.slotBusy b = false → ¬ok → ∃ u : State, exec (.slotChange i) s = .next u ∧ u.slotNew = s.slotNew.eraseIdx i ∧ u.mem = s.mem ∧
      u.cores = s.cores ∧ (u.ctx b.core b.ctx).pend = some { p with kind := .fault { code := .illegal, tval := b.v } }) ∧
    (s.slotBusy b = false → ok → ∃ u : State, exec (.slotChange i) s = .next u ∧ u.slotNew = s.slotNew.eraseIdx i ∧
      (u.ctx b.core b.ctx).pend = some { p with kind := .value [] } ∧
      (b.sel = 0 → (u.slot (placeCore b.place) (placeSlot b.place)) = { s.slot (placeCore b.place) (placeSlot b.place) with
        a := b.v &&& ~~~0x7FE0_C000 }) ∧
      (b.sel = 1 → (u.slot (placeCore b.place) (placeSlot b.place)) = { s.slot (placeCore b.place) (placeSlot b.place) with b := b.v }) ∧
      (b.sel = 3 → (u.die (b.place.extractLsb' 8 5).toNat).frt = b.v) ∧
      (b.sel ≠ 2 → u.mem = s.mem))) ∧
  (∀ (s : State) d, ∃ u : State, exec (.frtWindow d) s = .next u ∧
    ((s.die d).farq = [] → (u.die d).admitted = 0) ∧ ((u.die d).limit ≠ 0 → (u.die d).admitted ≤ (u.die d).limit) ∧
    (u.die d).limit = ((s.die d).frt.extractLsb' 0 16).toNat ∧ u.mem = s.mem ∧ u.ctxs = s.ctxs ∧ u.cores = s.cores)

/-- R331, R333 to R335, R336 to R339, R264 to R273: the claims BarrierInstructions, BindingInstructions and SlotTable. -/
def Obligations.BarrierBindingAndSlotTables : Prop := Said.BarrierInstructions ∧ Said.BindingInstructions ∧ Said.SlotTable

/-! ## Streams -/

/-- A stream operand that names an open stream of the partition (R316). -/
def Claim.openStream (s : State) (v : Word) (st : Stream) : Prop :=
  v.toNat < 2 ^ 14 ∧ s.stream? v.toNat = some st ∧ st.part = s.myPart ∧ st.opened = true

/-- The stream instructions on one operand (R322). -/
def Claim.streamReads : List (Guard → SDst → SSrc → Instr) :=
  [.scurGnc, .scurPbc, .scurTp, .scurNseq, .scurSnapshots, .scurLoss, .scurDrops, .strunc, fun g rd xs => .sframe g 1 rd xs]

/-- What SCUR reads (R325). -/
def Claim.cursors : List ((Guard → SDst → SSrc → Instr) × (Stream → Nat)) :=
  [(.scurGnc, fun st => st.gnc), (.scurPbc, fun st => st.pbc),
   (.scurTp, fun st => st.tpPos + (if st.tpPend then 2 ^ 32 else 0) + if st.tpLate then 2 ^ 33 else 0),
   (.scurNseq, fun st => st.nseq.toNat + 2 ^ 32 * st.avail.length + 2 ^ 40 * st.gap.length),
   (.scurSnapshots, fun st => ((List.range 16).map (fun j => if st.snap j = none then 0 else 2 ^ j)).sum + 2 ^ 16 * st.newest),
   (.scurLoss, fun st => st.loss.toNat), (.scurDrops, fun st => st.drops.toNat)]

/-- A request of a stream unit or tender that has been answered, with the state after it. -/
def Claim.answered (o : Out) (s : State) (ps : List Put) (cls : SlotClass) (post : State → Prop) : Prop :=
  Claim.Sent o s (.value ps) cls 8 ∧ ∀ t : State, o = .next t → post t

/-- R316, R323 to R326: the faults of a stream operand, SFRAME, SEMIT, SCUR and SSNAP. -/
def Claim.StreamReads : Prop :=
  (∀ f ∈ Claim.streamReads, ∀ g rd xs s s1 s2 v, Issues (taskInfo g [xs] [rd]) s s1 → Gives (readS xs) s1 v s2 →
    (2 ^ 14 ≤ v.toNat → exec (f g rd xs) s = Claim.faults s1 { code := .illegal }) ∧
    (v.toNat < 2 ^ 14 → (∀ st, s2.stream? v.toNat = some st → st.part ≠ s2.myPart ∨ st.opened = false) →
      exec (f g rd xs) s = Claim.faults s1 { code := .stream, tval := v })) ∧
  (∀ g gd rd xs s s1 s2 v st, Issues (taskInfo g [xs] [rd]) s s1 → Gives (readS xs) s1 v s2 → Claim.openStream s2 v st →
    Gives (checkS rd) s2 () s2 → (∀ f ∈ st.gap, f.seq ≠ st.nseq) →
    (st.avail = [] → Claim.answered (exec (.sframe g gd rd xs) s) s2 [.s rd 0, .g gd allOn 0] .wmsg
      (fun t => t.stream? v.toNat = some { st with heldEntry := none })) ∧
    (∀ j r, st.avail = j :: r → ∃ t : State, exec (.sframe g gd rd xs) s = .next t ∧
      t.stream? v.toNat = some { st with avail := r, heldEntry := some j } ∧ t.mem.d = s2.mem.d ∧
      ∃ p, t.me.pend = some p ∧ p.kind = .value [.s rd (st.irb + BitVec.ofNat 64 (512 * j)), .g gd allOn allOn])) ∧
  (∀ g gd rd xs xv s s1 s2 s3 v e st, Issues (taskInfo g [xs, xv] [rd]) s s1 → Gives (readS xs) s1 v s2 → Gives (readS xv) s2 e s3 →
    Claim.openStream s3 v st → Gives (checkS rd) s3 () s3 →
    let status := if st.tpPend then 1 else if 64 ≤ st.gnc - st.pbc then 2 else if st.gnc = 2 ^ 32 - 1 then 3 else 0
    Claim.answered (exec (.semit g gd rd xs xv) s) s3
      [.s rd (BitVec.ofNat 64 (status * 2 ^ 56 + st.gnc)), .g gd allOn (if status = 0 then allOn else 0)] .wmsg
      (fun t => t.stream? v.toNat = some (if status = 0 then { st with gnc := st.gnc + 1, out := st.out ++ [(st.gnc, e)] } else st))) ∧
  (∀ f ∈ Claim.cursors, ∀ g rd xs s s1 s2 v st, Issues (taskInfo g [xs] [rd]) s s1 → Gives (readS xs) s1 v s2 →
    Claim.openStream s2 v st → Gives (checkS rd) s2 () s2 →
    Claim.Sent (exec (f.1 g rd xs) s) s2 (.value [.s rd (BitVec.ofNat 64 (f.2 st))]) .wmsg 8) ∧
  (∀ g rd xs xp s s1 s2 s3 v p st, Issues (taskInfo g [xs, xp] [rd]) s s1 → Gives (readS xs) s1 v s2 → Gives (readS xp) s2 p s3 →
    Claim.openStream s3 v st →
    let ok := p.toNat < 2 ^ 32 ∧ p.toNat ≤ st.gnc ∧ (st.snap st.newest).getD 0 ≤ p.toNat
    let j := if ∀ i < 16, st.snap i = none then 0 else (st.newest + 1) % 16
    (¬ok → exec (.ssnap g rd xs xp) s = Claim.faults s1 { code := .illegal, tval := p }) ∧
    (ok → Gives (checkS rd) s3 () s3 → Claim.answered (exec (.ssnap g rd xs xp) s) s3
      [.s rd (st.snb + BitVec.ofNat 64 (0x1_0000 * j))] .wmsg (fun t => ∃ y : Stream, t.stream? v.toNat = some y ∧ y.newest = j ∧
        y.snap j = some p.toNat ∧ y.gnc = st.gnc ∧ ∀ i < 16, i ≠ j → y.snap i = st.snap i)))

/-- R327, R328: STRUNC and SOWN. -/
def Claim.StreamChanges : Prop :=
  (∀ g rd xs s s1 s2 v st, Issues (taskInfo g [xs] [rd]) s s1 → Gives (readS xs) s1 v s2 → Claim.openStream s2 v st →
    Gives (checkS rd) s2 () s2 →
    let i : Instr := .strunc g rd xs
    let P := st.tpPos
    let cut (t : State) : Prop := ∃ y : Stream, t.stream? v.toNat = some y ∧ y.gnc = P ∧ y.tpPend = false ∧
      y.out = st.out.filter (fun r => r.1 < P)
    (st.tpPend = false → Claim.answered (exec i s) s2 [.s rd 0] .wmsg (fun t => t.stream? v.toNat = some st)) ∧
    (st.tpPend = true → st.kvb.getLsbD 63 = false →
      (st.tpLate = true ∨ (∀ j < 16, ∀ q, st.snap j = some q → P < q) →
        Claim.Sent (exec i s) s2 (.late (BitVec.ofNat 64 P)) .wmsg 8 ∧ ∀ t : State, exec i s = .next t → cut t ∧
          ∀ y, t.stream? v.toNat = some y → ∀ j < 16, y.snap j = none) ∧
      (st.tpLate = false → ∀ j q, j < 16 → st.snap j = some q → q ≤ P →
        (∀ k < 16, ∀ r, st.snap k = some r → r ≤ P → r < q ∨ (r = q ∧ (k = j ∨ st.claim.idxOf k < st.claim.idxOf j))) →
        Claim.answered (exec i s) s2 [.s rd (BitVec.ofNat 64 (2 ^ 63 + j * 2 ^ 32 + q))] .wmsg (fun t => cut t ∧
          ∀ y, t.stream? v.toNat = some y → y.newest = j ∧
            ∀ k < 16, y.snap k = (st.snap k).bind (fun r => if r ≤ P then some r else none)))) ∧
    (st.tpPend = true → st.kvb.getLsbD 63 = true → ∃ (t : State) (p : Pend) (w : Word) (late : Option Word),
      exec i s = .next t ∧ cut t ∧ t.me.pend = some p ∧ p.kind = .trunc rd w late ∧
      ∃ c, t.slotNew = s2.slotNew ++ [c] ∧ c.sel = 4 ∧ c.v = BitVec.ofNat 64 P ∧
        placeSlot c.place = (st.kvb.extractLsb' 16 8).toNat)) ∧
  (∀ g xs xo s s1 s2 s3 v d st, Issues (taskInfo g [xs, xo] []) s s1 → Gives (readS xs) s1 v s2 → Gives (readS xo) s2 d s3 →
    (Claim.openStream s3 v st → Gives (checkOwner d 0) s3 () s3 → st.heldEv = [] →
      Claim.answered (exec (.sownOwner g xs xo) s) s3 [] .wmsg (fun t => t.stream? v.toNat = some { st with owner := d, gone := false })) ∧
    (Claim.openStream s3 v st → Claim.answered (exec (.sownClose g xs xo) s) s3 [] .wmsg (fun t =>
      t.stream? v.toNat = some
        { part := st.part, endpoint := st.endpoint, drops := st.drops, loss := st.loss + BitVec.ofNat 32 st.heldEv.length })) ∧
    (v.toNat < 2 ^ 14 → s3.stream? v.toNat = some st → st.part = s3.myPart →
      (st.opened = true → exec (.sownOpen g xs xo) s = Claim.faults s1 { code := .stream, tval := v }) ∧
      (st.opened = false → ∀ ls s4 ws s5, spaceOf d.toNat = 0x8 → d.toNat % 64 = 0 → (s3.cluster (s3.clusterOf s3.cc)).bps = [] →
        Gives (locM { r := true } [0x8, 0xA] d.toNat 64 64) s3 ls s4 → Gives (loadWords ls) s4 ws s5 →
        let w (i : Nat) : Word := ws.getD i 0
        (w 0).toNat < 2 ^ 56 → (w 0).toNat % 0x8000 = 0 → (w 1).toNat < 2 ^ 56 → (w 1).toNat % 0x1_0000 = 0 →
        w 2 &&& ~~~0x8000_0000_00FF_1FFF = 0 → (∀ x ∈ ws.drop 4, x = 0) → Gives (checkOwner (w 3) d) s5 () s5 →
        Claim.answered (exec (.sownOpen g xs xo) s) s5 [] .wmsg (fun t => t.stream? v.toNat = some
          { part := st.part, endpoint := st.endpoint, loss := st.loss, drops := st.drops, opened := true, irb := w 0, snb := w 1,
            kvb := w 2, owner := w 3 }))))

/-- R315, R316, R323 to R328: what the stream instructions answer and leave in the stream unit. -/
def Said.StreamInstructions : Prop := Claim.StreamReads ∧ Claim.StreamChanges

/-- The instruction of the machine that brings a frame of a kind (R317). -/
def Claim.brings (i : Instr) (f : Frame) : Prop :=
  (f.kind = 1 ∧ i = .ackFrame f) ∨ (f.kind = 2 ∧ i = .bargeFrame f) ∨ (f.kind ≠ 1 ∧ f.kind ≠ 2 ∧ i = .inputFrame f)

/-- R317, R318, R320, R321: a well-formed frame in sequence is accepted: an ack raises PBC and frees the records below it, an
input frame enters the next entry of the ring, a barge below GNC marks the truncation, cuts the output and sends a cut frame;
duplicates change nothing, frames ahead wait in the gap buffer, and a frame that breaks a rule is dropped and counted. A frame is
acknowledged, unless it stays unaccepted or the gap buffer has no room for it. -/
def Said.StreamFrames : Prop :=
  (∀ (s : State) (f : Frame) (i : Instr) (st : Stream), Claim.brings i f → let n := f.sid.toNat % 2 ^ 14
    s.stream? n = some st → s.power = .on → f.mode.unused = false → (s.part st.part).replay.mode = .off →
    (∀ g ∈ st.gap, g.seq ≠ st.nseq) →
    let bad := f.endpoint ≠ st.endpoint ∨ st.opened = false ∨ 3 ≤ f.kind.toNat ∨ 496 < f.payload.length ∨
      (f.kind = 1 ∧ f.payload ≠ []) ∨ f.rsv ≠ 0 ∨ 2 ^ 14 ≤ f.sid.toNat
    let p := min (max f.pf.toNat st.pbc) st.gnc
    let delta := (f.seq - st.nseq).toNat
    let now (u : State) : Prop := exec i s = .next u
    let acked (u : State) : Prop := u.ackOut = s.ackOut ++ [{ endpoint := f.endpoint, sid := f.sid, seq := f.seq }]
    let s' := s.uetBytes false (16 + f.payload.length)
    (bad → ∃ u, now u ∧ u.stream? n = some { st with drops := st.drops + 1 } ∧ u.mem = s.mem ∧ acked u) ∧
    (¬bad → 2 ^ 31 ≤ delta → ∃ u, now u ∧ u.streams = s.streams ∧ u.mem = s.mem ∧ acked u) ∧
    (¬bad → 0 < delta → delta < 2 ^ 31 → (∀ g ∈ st.gap, g.seq ≠ f.seq) → 4 ≤ st.gap.length →
      ∃ u y, now u ∧ u.stream? n = some y ∧ y.gap = st.gap ∧ y.nseq = st.nseq ∧ u.ackOut = s.ackOut) ∧
    (¬bad → 0 < delta → delta < 2 ^ 31 → (∀ g ∈ st.gap, g.seq ≠ f.seq) → st.gap.length < 4 →
      ∃ u, now u ∧ u.stream? n = some { st with gap := st.gap ++ [f] } ∧ u.mem = s.mem ∧ acked u) ∧
    (¬bad → delta = 0 → st.gap = [] →
      (f.kind = 1 → ∃ u, now u ∧ acked u ∧ u.mem = s.mem ∧ u.stream? n = some
        { st with nseq := st.nseq + 1, pbc := max st.pbc p, out := st.out.filter (fun r => max st.pbc p ≤ r.1) }) ∧
      (f.kind ≠ 1 → 64 ≤ st.avail.length + (if st.heldEntry.isSome then 1 else 0) →
        ∃ u, now u ∧ u.streams = s.streams ∧ u.mem = s.mem ∧ u.ackOut = s.ackOut) ∧
      (f.kind ≠ 1 → st.avail.length + (if st.heldEntry.isSome then 1 else 0) < 64 →
        (∀ a, s'.fillEntry n st f = .error a → ∃ u y, now u ∧ u.ackOut = s.ackOut ∧ u.stream? n = some y ∧ y.nseq = st.nseq ∧ y.avail = st.avail) ∧
        (∀ t, s'.fillEntry n st f = .ok t → ∃ (u : State) (y : Stream), now u ∧ acked u ∧ u.stream? n = some y ∧ y.nseq = st.nseq + 1 ∧
          y.avail = st.avail ++ [st.nextIn] ∧ y.gnc = st.gnc ∧
          (f.kind = 0 → y.pbc = st.pbc ∧ y.out = st.out ∧ y.tpPend = st.tpPend) ∧
          (f.kind = 2 → y.pbc = max st.pbc p) ∧
          (f.kind = 2 → p < st.gnc → y.tpPend = true ∧ y.tpPos = (if st.tpPend then min st.tpPos p else p) ∧ y.out = [] ∧
            ∃ c, u.frameOut = s.frameOut ++ [c] ∧ c.kind = 4 ∧ c.pos = p ∧ c.sid = n))))) ∧
  (∀ (s : State) n (st : Stream) r, s.stream? n = some st → s.power = .on →
    st.out.find? (fun r => decide (st.sentTo ≤ r.1)) = some r → ∃ u : State, exec (.outputRecordSend n) s = .next u ∧
      u.frameOut = s.frameOut ++ [{ sid := n, kind := 3, pos := r.1, val := r.2 }] ∧
      u.stream? n = some { st with sentTo := r.1 + 1 } ∧ u.mem = s.mem ∧ u.ctxs = s.ctxs)

/-- R315, R316, R323 to R328, R317, R318, R320, R321: the claims StreamInstructions and StreamFrames. -/
def Obligations.StreamResults : Prop := Said.StreamInstructions ∧ Said.StreamFrames

/-! ## Swept tensors -/

/-- A tensor operand that names a declared tensor of the acting cluster (R354). -/
def Claim.tensorNamed (s : State) (v : Word) (e : Tensor) : Prop :=
  v.toNat < 32 ∧ s.tensor? (s.clusterOf s.cc) v.toNat = some e ∧ e.part = s.myPart

/-- The faults of a tensor operand (R354). -/
def Claim.tensorFaults (i : Instr) (s s1 t : State) (v : Word) : Prop :=
  (32 ≤ v.toNat ∨ t.tensor? (t.clusterOf t.cc) v.toNat = none → exec i s = Claim.faults s1 { code := .illegal, tval := v }) ∧
  (∀ e, v.toNat < 32 → t.tensor? (t.clusterOf t.cc) v.toNat = some e → e.part ≠ t.myPart →
    exec i s = Claim.faults s1 { code := .prot, tval := v })

/-- The instructions of major 0x1C on a tensor and another operand (R354). -/
def Claim.tensorPairs : List (Guard → SSrc → SSrc → Instr) := 
  [.swgo, .swgoC, fun g xt xn => .swgoW g false xt xn, .swdeclO]
/-- What SWSTAT reads, by the number of the status (R355). -/
def Claim.tensorStates : List ((Guard → SDst → SSrc → Instr) × Nat × (Tensor → Nat)) :=
  [(.swstatSn, 0, fun e => e.sn.toNat + (if e.run then 2 ^ 32 else 0) + if e.cont then 2 ^ 33 else 0),
   (.swstatPos, 1, fun e => e.pos.getD (2 ^ 64 - 1)), (.swstatPend, 2, fun e => e.pend),
   (.swstatLoss, 3, fun e => e.loss.toNat + 2 ^ 32 * e.ovr.toNat)]

/-- R343, R346, R348, R354, R355: SWDECL, SWGO, SWSTOP and SWSTAT. -/
def Said.SweepInstructions : Prop :=
  (∀ f ∈ Claim.tensorPairs, ∀ g xt xn s s1 s2 s3 v n, Issues (sweepInfo g [xt, xn] []) s s1 → Gives (readS xt) s1 v s2 →
    Gives (readS xn) s2 n s3 → Claim.tensorFaults (f g xt xn) s s1 s3 v) ∧
  (∀ f ∈ Claim.tensorStates, ∀ g rd xt s s1 s2 v, Issues (sweepInfo g [xt] [rd]) s s1 → Gives (readS xt) s1 v s2 →
    Claim.tensorFaults (f.1 g rd xt) s s1 s2 v ∧
    ∀ e, Claim.tensorNamed s2 v e → Gives (checkS rd) s2 () s2 → Claim.Sent (exec (f.1 g rd xt) s) s2
      (.ask (.tensor (s2.clusterOf s2.cc) v.toNat f.2.1 (BitVec.ofNat 64 (f.2.2 e)) rd)) .wmem 8) ∧
  (∀ f ∈ Claim.tensorStates, ∀ (s : State) c k cuts (p : Pend) cl t old (r : Fin 32), (s.ctx c k).pend = some p →
    p.kind = .ask (.tensor cl t f.2.1 old (.x r)) → p.reserve = [] → s.power = .on → s.runs c = true →
    (s.part (s.core c).partid).preempted = false → (s.cluster (s.clusterOf c)).skid = [] →
    ∃ u : State, exec (.memoryReply c k cuts) s = .next u ∧ (u.ctx c k).pend = none ∧ u.mem = s.mem ∧
      (u.ctx c k).x.get r = match s.tensor? cl t with
        | some e => BitVec.ofNat 64 (f.2.2 e)
        | none => old) ∧
  (∀ g xt xn s s1 s2 s3 v n e, Issues (sweepInfo g [xt, xn] []) s s1 → Gives (readS xt) s1 v s2 → Gives (readS xn) s2 n s3 →
    Claim.tensorNamed s3 v e →
    let cl := s3.clusterOf s3.cc
    (e.pend < 2 ^ 32 → ∃ u : State, exec (.swgo g xt xn) s = .next (u.retire 8) ∧ u.mem = s3.mem ∧ u.ctxs = s3.ctxs ∧
      u.tensor? cl v.toNat = some { e with pend := min (e.pend + n.toNat) (2 ^ 32 - 1) } ∧
      (n = 0 → u = s3)) ∧
    (1 ≤ n.toNat → n.toNat < 2 ^ 32 → ∃ u : State, exec (.swgoC g xt xn) s = .next (u.retire 8) ∧ u.ctxs = s3.ctxs ∧
      u.tensor? cl v.toNat = some { e with cont := true, per := n.toNat, since := s3.tenderCyc cl }) ∧
    (n.toNat = 0 ∨ 2 ^ 32 ≤ n.toNat → exec (.swgoC g xt xn) s = Claim.faults s1 { code := .illegal }) ∧
    (exec (.swgoW g true xt xn) s = Claim.faults s1 { code := .illegal, tval := v }) ∧
    (e.count ≤ n.toNat → exec (.swgoW g false xt xn) s = Claim.faults s1 { code := .illegal }) ∧
    (n.toNat < e.count → (s3.part e.part).replay.mode = .off → ∃ (u : State) (f : Tensor),
      exec (.swgoW g false xt xn) s = .next (u.retire 8) ∧ u.tensor? cl v.toNat = some f ∧ n.toNat ∈ f.awake ∧
      (∀ j, j ≠ n.toNat → (j ∈ f.awake ↔ j ∈ e.awake)) ∧ f.sn = e.sn ∧ f.pos = e.pos ∧
      (∀ l, tget e.flags n.toNat = none → s3.flagLoc cl n.toNat e = some l →
        (u.mem.view (.sweep cl v.toNat e.sn.toNat) l).byte.getLsbD 5 = true) ∧
      (tget e.flags n.toNat ≠ none ∨ s3.flagLoc cl n.toNat e = none → (tgetD f.flags n.toNat 0).getLsbD 1 = true ∧ u.mem = s3.mem)) ∧
    (Gives (checkOwner n 0) s3 () s3 → e.held = [] → ∃ u : State, exec (.swdeclO g xt xn) s = .next (u.retire 8) ∧
      u.tensor? cl v.toNat = some { e with owner := n, gone := false } ∧ u.mem = s3.mem ∧ u.ctxs = s3.ctxs)) ∧
  (∀ g xt s s1 s2 v, Issues (sweepInfo g [xt] []) s s1 → Gives (readS xt) s1 v s2 →
    let cl := s2.clusterOf s2.cc
    Claim.tensorFaults (.swstop g xt) s s1 s2 v ∧ Claim.tensorFaults (.swstopD g xt) s s1 s2 v ∧
    ∀ e, Claim.tensorNamed s2 v e →
      (∃ u : State, exec (.swstop g xt) s = .next (u.retire 8) ∧ u.tensor? cl v.toNat = some { e with cont := false, pend := 0 } ∧
        (∀ r ∈ (u.cluster cl).requests, r.2.1 ≠ v.toNat) ∧ u.mem = s2.mem ∧ u.ctxs = s2.ctxs) ∧
      (e.run = false → ∃ u : State, exec (.swstopD g xt) s = .next (u.retire 8) ∧ u.mem = s2.mem ∧
        (u.cluster cl).tensors = tdel (tset (s2.cluster cl).tensors v.toNat { e with cont := false, pend := 0 }) v.toNat) ∧
      (e.run = true → ∃ u : State, exec (.swstopD g xt) s = .next u ∧ u.me.wait = some (.wmsg, .swept cl v.toNat) ∧
        u.me.pc = s1.me.pc)) ∧
  (∀ g rd xa s s1 s2 a, Issues (sweepInfo g [xa] [rd]) s s1 → Gives (readS xa) s1 a s2 →
    (s2.cluster (s2.clusterOf s2.cc)).bps = [] → ∀ ls s3 ws s4, Gives (locM { r := true } allSpaces a.toNat 64 64) s2 ls s3 →
    Gives (loadWords ls) s3 ws s4 → (s4.cluster (s4.clusterOf s4.cc)).bps = [] →
    let e := tensorFrom s4.myPart s4.cc ws
    let n := 8 * ((e.count + 63) / 64)
    (tensorDescOk ws = false → exec (.swdecl g rd xa) s = Claim.faults s1 { code := .illegal, tval := a }) ∧
    (tensorDescOk ws = true → Gives (checkOwner (ws.getD 5 0) a) s4 () s4 →
      (s4.namesAll e.base.toNat ((e.count - 1) * e.stride + e.boff + 32) = false →
        exec (.swdecl g rd xa) s = Claim.faults s1 { code := .prot, tval := e.base, kind := 1 }) ∧
      (s4.namesAll e.base.toNat ((e.count - 1) * e.stride + e.boff + 32) = true → s4.namesAll e.skip.toNat n = true →
        s4.namesAll e.sync.toNat 8 = true → ∀ sl s5 ms s6, Gives (locM { r := true } [0x0, 0xA, 0xB] e.skip.toNat n 8) s4 sl s5 →
        s5.sweepRead (s5.agentOf s5.cc s5.ck) sl = (ms, s6) → Gives (checkS rd) s6 () s6 →
        let cl := s6.clusterOf s6.cc
        ((∀ t < 32, s6.tensor? cl t ≠ none) →
          Claim.Sent (exec (.swdecl g rd xa) s) s6 (.value [.s rd (BitVec.allOnes 64)]) .wmem 8) ∧
        (∀ t < 32, s6.tensor? cl t = none → (∀ j < t, s6.tensor? cl j ≠ none) →
          Claim.answered (exec (.swdecl g rd xa) s) s6 [.s rd (BitVec.ofNat 64 t)] .wmem (fun u => ∃ f : Tensor,
            u.tensor? cl t = some f ∧ f.sn = 0 ∧ f.pend = 0 ∧ f.cont = false ∧ f.home = s4.cc ∧ f.base = ws.getD 0 0 ∧
            ∀ j, j ∈ f.awake ↔ j < e.count ∧ (ms.getD (j / 64) 0).getLsbD (j % 64) = true)))))

/-- R344, R346 to R349, R419: a period makes a request unless its tensor is asked for already; the oldest request's sweep begins
with its acquire; the visit of the lowest awake element above POS is made; the skip map comes before the release, which writes
the sweep's number; every visit ends, within two delay slots of its 32 steps. A visit whose far-tier reads no window has admitted yet asks for them, and comes later. -/
def Said.SweepMoves : Prop :=
  (∀ (s : State) cl t e, s.tensor? cl t = some e → s.power = .on → (s.cluster cl).frozen = false →
    (s.periodDue cl e = false → exec (.sweepPeriod cl t) s = .next s) ∧
    (s.periodDue cl e = true → ∃ u : State, exec (.sweepPeriod cl t) s = .next u ∧
      u.tensor? cl t = some { e with since := e.since + e.per } ∧ u.mem = s.mem ∧
      (u.cluster cl).requests = (s.cluster cl).requests ++ if e.run ∨ (∃ r ∈ (s.cluster cl).requests, r.2.1 = t) then []
        else [(e.since + e.per, t, 1, true)])) ∧
  (∀ (s : State) cl r e ls, s.running cl = none → s.oldestReq cl = some r → s.tensor? cl r.2.1 = some e →
    s.tenderMoves cl r.2.1 e = true → (s.part e.part).replay.mode = .off →
    let e' := { e with sn := e.sn + 1, run := true, pos := none, mapped := false, pend := if r.2.2.2 then e.pend else e.pend - 1 }
    ((s.modTensor cl r.2.1 (fun _ => e')).modCluster cl (fun y => { y with requests := takeReq y.requests r })).sweepLocs cl e'
      { r := true } [0x0, 0xA, 0xB] e.sync.toNat 8 8 = .ok ls →
    ∃ (u : State) (f : Tensor), exec (.sweepStart cl) s = .next u ∧ u.tensor? cl r.2.1 = some f ∧ f.sn = e.sn + 1 ∧ f.run = true ∧
      f.pos = none ∧ f.pend = (if r.2.2.2 then e.pend else e.pend - 1) ∧ f.awake = e.awake ∧ u.mem.d = s.mem.d ∧
      ∀ l, s.boundTo e.part (BitVec.ofNat 64 (normAddr e.home e.sync.toNat)) l = true →
        (s.mem.dHeld l).stamp ≤ (u.mem.view (.sweep cl r.2.1 (e.sn + 1).toNat) l).stamp) ∧
  (∀ (e : Tensor) i, e.nextAwake = some i ↔ i ∈ e.awake ∧ (∀ p, e.pos = some p → p < i) ∧
    ∀ j ∈ e.awake, (∀ p, e.pos = some p → p < j) → i ≤ j) ∧
  (∀ (s : State) cl t e i, s.running cl = some (t, e) → e.nextAwake = some i → s.tenderMoves cl t e = true →
    let ask := s.farAsk (.sweep cl t e.sn.toNat) i (farNeed (s.visit cl t i e).2.2)
    let v := ask.2.visit cl t i e
    (∀ f, v.1.tensor? cl t = some f → (v.1.part f.part).replay.mode = .off) →
    (ask.1 = false → exec (.elementVisit cl) s = .next ask.2 ∧ exec (.visitOverrun cl) s = .next ask.2) ∧
    (ask.1 = true →
      (v.2.1 = false → exec (.elementVisit cl) s = .next v.1 ∧ exec (.visitOverrun cl) s = .next ask.2) ∧
      (v.2.1 = true → exec (.visitOverrun cl) s = .next v.1 ∧ exec (.elementVisit cl) s = .next ask.2))) ∧
  (∀ (v : Visit) s, v.steps = 0 → v.delay = none → (runVisit 36 v s).1.ended = true ∧ (runVisit 36 v s).1.steps ≤ 34) ∧
  (∀ (s : State) cl t e, s.running cl = some (t, e) → s.tensor? cl t = some e → e.nextAwake = none → s.tenderMoves cl t e = true →
    (∀ u, e.mapped = false → s.writeSkip cl t e (List.range ((e.count + 63) / 64)) = .ok u →
      exec (.sweepRelease cl) s = .next (u.modTensor cl t (fun e => { e with mapped := true }))) ∧
    (∀ u c, e.mapped = false → s.writeSkip cl t e (List.range ((e.count + 63) / 64)) = .error (u, c) →
      exec (.sweepRelease cl) s = .next (u.failSweep cl t c)) ∧
    (∀ ls, e.mapped = true → s.sweepLocs cl e { w := true } [0x0, 0xA, 0xB] e.sync.toNat 8 8 = .ok ls →
      (s.part e.part).replay.mode = .off →
      let ag : Agent := .sweep cl t e.sn.toNat
      let ready := s.releaseReady ag .device e.part (BitVec.ofNat 64 (normAddr e.home e.sync.toNat))
      (ready = false → exec (.sweepRelease cl) s = .next s) ∧
      (ready = true → ∃ (u : State) (f : Tensor), exec (.sweepRelease cl) s = .next u ∧ u.tensor? cl t = some f ∧ f.run = false ∧
        f.sn = e.sn ∧ u.mem.next = s.mem.next + 1 ∧
        ∀ k < 8, (u.mem.view ag (ls.headD 0 + k)).byte = (e.sn.setWidth 64).extractLsb' (8 * k) 8)))

/-- R343, R346, R348, R354, R355, R344, R346 to R349, R419: the claims SweepInstructions and SweepMoves. -/
def Obligations.SweepResults : Prop := Said.SweepInstructions ∧ Said.SweepMoves

/-! ## Counters -/

/-- The ids that name a counter (R359). -/
def Claim.counterNamed (n : Nat) : Prop :=
  (n < 0x80 ∧ n % 8 < 5) ∨ (0x80 ≤ n ∧ n ≤ 0x90) ∨ (0xA0 ≤ n ∧ n ≤ 0xA7) ∨ (0xC0 ≤ n ∧ n ≤ 0xC3) ∨ (0xD0 ≤ n ∧ n ≤ 0xD7) ∨
  (0xF0 ≤ n ∧ n ≤ 0xF2)

/-- A counter that is read by a request (R369). -/
def Claim.counterFar : CntId → Prop
  | .l2 _ | .fabric _ => True
  | _ => False

/-- The counter writes of the acting context have all reached its bank (R405). -/
def Claim.bankQuiet (s : State) : Prop := (s.die (dieOf s.myCore.home)).bankNew = []

/-- R359, R365, R368, R369: CNTRD, CNTRD.c and CNTWR. -/
def Claim.CounterReads : Prop :=
  (∀ n, (∃ i, cntId n = some i) ↔ Claim.counterNamed n) ∧
  (∀ g rd (id : BitVec 12) s s1, Issues (cntInfo g [] [rd]) s s1 → Claim.bankQuiet s1 →
    (¬Claim.counterNamed id.toNat → exec (.cntrd g rd id) s = Claim.faults s1 { code := .illegal } ∧
      exec (.cntrdC g rd id) s = Claim.faults s1 { code := .illegal }) ∧
    (∀ i, cntId id.toNat = some i → Gives (checkS rd) s1 () s1 →
      (¬Claim.counterFar i → exec (.cntrd g rd id) s = .next ((s1.putS rd (s1.cntVal i)).retire 8)) ∧
      (Claim.counterFar i → Claim.Sent (exec (.cntrd g rd id) s) s1 (.ask (.cnt id.toNat false rd)) .wmem 8)) ∧
    (∀ n : Fin 8, id.toNat = 0xA0 + n.val → Gives (checkS rd) s1 () s1 →
      exec (.cntrdC g rd id) s = .next ((s1.putS rd (s1.myCore.pcnt.get n).cfg).retire 8)) ∧
    (∀ n : Fin 4, id.toNat = 0xC0 + n.val → Gives (checkS rd) s1 () s1 →
      Claim.Sent (exec (.cntrdC g rd id) s) s1 (.ask (.cnt id.toNat true rd)) .wmem 8) ∧
    (id = 0xF0 → Gives (checkS rd) s1 () s1 → exec (.cntrdC g rd id) s = .next ((s1.putS rd s1.myCore.sampler.cfg).retire 8)) ∧
    (id.toNat < 0xA0 ∨ (0xD0 ≤ id.toNat ∧ id ≠ 0xF0) → exec (.cntrdC g rd id) s = Claim.faults s1 { code := .illegal })) ∧
  (∀ (s : State) c k cuts (p : Pend) id cfg (r : Fin 32), (s.ctx c k).pend = some p → p.kind = .ask (.cnt id cfg (.x r)) →
    p.reserve = [] → s.power = .on → s.runs c = true → (s.part (s.core c).partid).preempted = false →
    (s.cluster (s.clusterOf c)).skid = [] → ∃ t : State, exec (.memoryReply c k cuts) s = .next t ∧ (t.ctx c k).pend = none ∧
      (∀ n, cntId id = some (.l2 n) → (t.ctx c k).x.get r =
        (if cfg then ({ s with cur := (c, k) } : State).myBank n |>.cfg else ({ s with cur := (c, k) } : State).cntVal (.l2 n))) ∧
      (∀ n, cntId id = some (.fabric n) → (t.ctx c k).x.get r = ({ s with cur := (c, k) } : State).cntVal (.fabric n))) ∧
  (∀ (s : State) n, s.myPart ≠ 0 → s.cntVal (.fabric n) = 0) ∧
  (∀ (s : State) v k j, s.physOf s.cc v = some j → k < 5 →
    s.cntVal (.cls v k) = BitVec.ofNat 64 ((s.ctx s.cc j).counts.toList.getD k 0)) ∧
  (∀ g (id : BitVec 12) a s s1 s2 v, Issues (cntInfo g [a] []) s s1 → Gives (readS a) s1 v s2 →
    (Claim.counterNamed id.toNat → id ≠ 0xF1 → (0xD0 ≤ id.toNat → id.toNat ≤ 0xD7 → s2.myPart = 0) → 2 ^ 48 ≤ v.toNat →
      exec (.cntwr g id a) s = Claim.faults s1 { code := .illegal, tval := v }) ∧
    (id.toNat < 0xA8 → Claim.counterNamed id.toNat → v.toNat < 2 ^ 48 → exec (.cntwr g id a) s = .next ((s2.modMyCore (fun y =>
      { y with cntNew := y.cntNew ++ [(id.toNat, some v.toNat, none)] })).retire 8)) ∧
    (∀ n : Fin 4, id.toNat = 0xC0 + n.val → v.toNat < 2 ^ 48 → exec (.cntwr g id a) s =
      .next ((s2.bankChange n.val (some v.toNat) none).retire 8)) ∧
    (∀ n : Fin 8, id.toNat = 0xD0 + n.val → v.toNat < 2 ^ 48 ∨ s2.myPart ≠ 0 → exec (.cntwr g id a) s = .next ((if s2.myPart = 0 then
      { s2 with fabric := s2.fabric.set n.val v.toNat n.isLt } else s2).retire 8)) ∧
    (id = 0xF1 → exec (.cntwr g id a) s = if v.toNat < 2 ^ 56 ∧ v.toNat % (16 * 2 ^ sampS s2.myCore.sampler.cfg) = 0
      then .next ((s2.modMyCore (fun y => { y with cntNew := y.cntNew ++ [(0xF1, some v.toNat, none)] })).retire 8)
      else Claim.faults s1 { code := .illegal, tval := v }))

/-- The configurations CNTCFG takes for a programmable counter (R363), an L2 counter (R364) and the sampler (R366). -/
def Claim.progCfg (v : Word) : Prop :=
  v.extractLsb' 32 32 = 0 ∧ v.extractLsb' 14 2 = 0 ∧ ((v.extractLsb' 0 8).toNat ≤ 6 ∨ (8 ≤ (v.extractLsb' 0 8).toNat ∧ (v.extractLsb' 0 8).toNat ≤ 0x14))
/-- An L2 counter's configuration without reserved bits and events (R364). -/
def Claim.l2Cfg (v : Word) : Prop := v.extractLsb' 29 35 = 0 ∧ v.extractLsb' 10 6 = 0 ∧ (v.extractLsb' 0 8).toNat ≤ 4
/-- The sampler's configuration without reserved bits and periods (R366). -/
def Claim.samplerCfg (v : Word) : Prop :=
  v.extractLsb' 52 12 = 0 ∧ v.extractLsb' 32 16 = 0 ∧ ((v.extractLsb' 0 32).toNat = 0 ∨ 16 ≤ (v.extractLsb' 0 32).toNat)

/-- R363 to R366, R369: CNTCFG, CNTSV and CNTLD. -/
def Claim.CounterWrites : Prop :=
  (∀ g (id : BitVec 12) a s s1 s2 v, Issues (cntInfo g [a] []) s s1 → Gives (readS a) s1 v s2 →
    let due (id : Nat) : Out := .next ((s2.modMyCore (fun y => { y with cntNew := y.cntNew ++ [(id, none, some v)] })).retire 8)
    let refused : Out := Claim.faults s1 { code := .illegal, tval := v }
    (0xA0 ≤ id.toNat → id.toNat ≤ 0xA7 →
      (Claim.progCfg v → exec (.cntcfg g id a) s = due id.toNat) ∧ (¬Claim.progCfg v → exec (.cntcfg g id a) s = refused)) ∧
    (∀ n : Fin 4, id.toNat = 0xC0 + n.val → (¬Claim.l2Cfg v → exec (.cntcfg g id a) s = refused) ∧
      (Claim.l2Cfg v → v ≠ 0 → s2.holdsCore s2.myPart (v.extractLsb' 16 13).toNat = false →
        exec (.cntcfg g id a) s = Claim.faults s1 { code := .prot, tval := v }) ∧
      (Claim.l2Cfg v → s2.holdsCore s2.myPart (v.extractLsb' 16 13).toNat = true →
        exec (.cntcfg g id a) s = .next ((s2.bankChange n.val none (some v)).retire 8))) ∧
    (id = 0xF0 → (Claim.samplerCfg v → exec (.cntcfg g id a) s = due 0xF0) ∧
      (¬Claim.samplerCfg v → exec (.cntcfg g id a) s = refused)) ∧
    (0xD0 ≤ id.toNat → id.toNat ≤ 0xD7 → exec (.cntcfg g id a) s = .next (s2.retire 8)) ∧
    (id.toNat < 0x91 ∨ id = 0xF1 ∨ id = 0xF2 → Claim.counterNamed id.toNat → exec (.cntcfg g id a) s = refused)) ∧
  (∀ g (grp : Fin 4) a s s1 s2 s3 b ls, Issues (cntInfo g [a] []) s s1 → Gives (readS a) s1 b s2 →
    (s2.cluster (s2.clusterOf s2.cc)).bps = [] →
    let n := if grp = 0 then 40 else if grp = 1 then 136 else if grp = 2 then 128 else 64
    (Gives (locM { w := true } [0x8] b.toNat n 64) s2 ls s3 → Gives (checkWaiters b.toNat ls) s3 () s3 →
      Claim.bankQuiet s3 → s3.curIter s3.cc s3.ck = none →
      let pair (p : PCnt) : List Word := [BitVec.ofNat 64 p.val, p.cfg]
      let ws : List Word := if grp = 0 then s3.me.counts.toList.map (BitVec.ofNat 64)
        else if grp = 1 then s3.myCore.hist.toList.map (BitVec.ofNat 64)
        else if grp = 2 then s3.myCore.pcnt.toList.flatMap pair
        else ((List.range 4).map s3.myBank).flatMap pair
      let units := (List.range (n / 8)).map (fun i => ((ls.drop (8 * i)).take 8).zip
        ((List.range 8).map (fun j => (ws.getD i 0).extractLsb' (8 * j) 8)))
      ls.length = n →
      (grp ≠ 3 → Claim.Stored (exec (.cntsv g grp a) s) s3 units none 8) ∧
      (grp = 3 → Claim.Sent (exec (.cntsv g grp a) s) s3 (.ask (.save ls)) .wmem 8 ∧ s3.answer (.save ls) = [.mem units true none])) ∧
    (Gives (locM { r := true } [0x8] b.toNat n 64) s2 ls s3 →
      Claim.Sent (exec (.cntld g grp a) s) s3 (.load ((List.range (n / 8)).map (fun i => s3.unitOf ((ls.drop (8 * i)).take 8)))
        (.counters grp b) []) .wmem 8))

/-- R359, R363 to R366, R368, R369, R405: what the counter instructions do. -/
def Said.CounterInstructions : Prop := Claim.CounterReads ∧ Claim.CounterWrites

/-- R360 to R363, R366, R367, R405: what a counted cycle adds to each counter; a change of a bank arrives after every earlier one of
its context; an overflow event reaches its owner, or a drop counter; a sample's record reaches the device store before the index
passes it. -/
def Said.CounterMoves : Prop :=
  (∀ (s : State) c k mine cls nready, nready < 17 → (s.core c).cntNew = [] →
    let u := s.countCycle c k mine cls nready
    let evs := ((s.core c).cntEv.map (fun e => (e.1, (s.ctx c e.2.1).vctx, e.2.2))) ++ [(0x01, 0, 1)] ++
      (if mine then [(2 + cls.num, (s.ctx c k).vctx, 1)] else [])
    (∀ n : Fin 17, (u.core c).hist.get n = if n.val = nready then ((s.core c).hist.get n + 1) % 2 ^ 48 else (s.core c).hist.get n) ∧
    (∀ n : Fin 8, let p := (s.core c).pcnt.get n
      let amount := if p.cfg.getLsbD 8 = true ∧ p.cfg.extractLsb' 0 8 ≠ 0 then
        (evs.map (fun e => if e.1 = (p.cfg.extractLsb' 0 8).toNat ∧ (e.1 ∈ [0x01, 0x0E, 0x14] ∨ p.cfg.getLsbD (16 + e.2.1) = true)
          then e.2.2 else 0)).sum else 0
      (u.core c).pcnt.get n = { p with val := (p.val + amount) % 2 ^ 48 } ∧
      (2 ^ 48 ≤ p.val + amount → p.cfg.getLsbD 9 = true →
        ((s.core c).partid, c, (p.cfg.extractLsb' 10 4).toNat, 0xA0 + n.val, (s.core (s.core c).home).cyc) ∈ u.ovfDue)) ∧
    (mine = true → ∀ j : Fin 5, (u.ctx c k).counts.get j =
      if j.val = cls.num then ((s.ctx c k).counts.get j + 1) % 2 ^ 48 else (s.ctx c k).counts.get j) ∧
    (mine = false → u.ctxs = s.ctxs) ∧ u.mem = s.mem) ∧
  (∀ (s : State) die i (b : BankWrite), (s.die die).bankNew[i]? = some b →
    ((∃ e ∈ (s.die die).bankNew.take i, e.core = b.core ∧ e.ctx = b.ctx) → exec (.l2BankChange die i) s = .next s) ∧
    ((∀ e ∈ (s.die die).bankNew.take i, ¬(e.core = b.core ∧ e.ctx = b.ctx)) → ∃ u : State, exec (.l2BankChange die i) s = .next u ∧
      (u.die die).bankNew = (s.die die).bankNew.eraseIdx i ∧ u.mem = s.mem ∧ u.ctxs = s.ctxs ∧ u.cores = s.cores ∧
      ((u.die die).bank b.bank).get (Fin.ofNat 4 b.n) =
        { val := b.val.getD (((s.die die).bank b.bank).get (Fin.ofNat 4 b.n)).val
          cfg := b.cfg.getD (((s.die die).bank b.bank).get (Fin.ofNat 4 b.n)).cfg })) ∧
  (∀ (s : State) i p c v id cyc, s.ovfDue[i]? = some (p, c, v, id, cyc) → (s.core c).partid ≠ p →
    exec (.counterOverflow false i) s = .next s) ∧
  (∀ (s : State) i p c v id cyc, s.ovfDue[i]? = some (p, c, v, id, cyc) → s.runs c = true → (s.core c).partid = p →
    ∃ u : State, exec (.counterOverflow false i) s = .next u ∧ u.ovfDue = s.ovfDue.eraseIdx i ∧ u.mem = s.mem ∧
      (s.physOf c v = none → (u.core c).drops = (s.core c).drops + 1 ∧ u.ctxs = s.ctxs) ∧
      (∀ k, s.physOf c v = some k → (s.ctx c k).run = .vacant → (u.core c).drops = (s.core c).drops + 1 ∧ u.ctxs = s.ctxs) ∧
      (∀ k, s.physOf c v = some k → (s.ctx c k).run ≠ .vacant → (s.ctx c k).events.length < 8 → (u.ctx c k).events =
        (s.ctx c k).events ++ [(BitVec.ofNat 64 (0x30 + id * 2 ^ 8 + c % 2 ^ 13 * 2 ^ 20), cyc)])) ∧
  (∀ (s : State) i key owner id cyc, s.l2Pending[i]? = some (key, owner, id, cyc) →
    ((s.part (s.core owner).partid).resident = false → exec (.counterOverflow true i) s = .next s) ∧
    ((s.part (s.core owner).partid).resident = true → (s.core owner).partid = key % 16 → s.runs owner = true →
      ∃ u : State, exec (.counterOverflow true i) s = .next u ∧ u.l2Pending = s.l2Pending.eraseIdx i ∧ u.mem = s.mem)) ∧
  (∀ (s : State) c r l ls, let m := (s.core c).sampler
    m.due = r :: l →
    let t := s.modCore c (fun y => { y with sampler := { m with due := l, index := (m.index + 1) % 2 ^ 48 } })
    t.locate (t.viaCluster (t.clusterOf c) c (t.core c).partid) { w := true } [0x0] (m.base.toNat + 16 * (m.index % 2 ^ sampS m.cfg)) 16 16 = .at ls →
    s.mem.badAt ls = none → ls.length = 16 → ls.Nodup →
    ∃ u : State, exec (.pcSample c) s = .next u ∧ (u.core c).sampler = { m with due := l, index := (m.index + 1) % 2 ^ 48 } ∧
      u.ctxs = s.ctxs ∧ ∀ i < 16, (u.mem.view (.sampler c) (ls.getD i 0)).byte =
        (if i < 8 then r.1.extractLsb' (8 * i) 8 else r.2.extractLsb' (8 * (i - 8)) 8) ∧
        (u.mem.view (.sampler c) (ls.getD i 0)).stamp ≤ (u.mem.dHeld (ls.getD i 0)).stamp)

/-- R359, R363 to R366, R368, R369, R405, R360 to R363, R366, R367: the claims CounterInstructions and CounterMoves. -/
def Obligations.CounterResults : Prop := Said.CounterInstructions ∧ Said.CounterMoves

/-! ## Breakpoints, trace and replay marks -/

/-- A BKPT operand without reserved bits that names an item (R385). -/
def Claim.itemNamed (a : Word) : Prop := a &&& ~~~0x8000_0000_1FFF_0FFF = 0 ∧ (a.extractLsb' 0 8).toNat ≤ 51

/-- The core of a BKPT operand is the issuer's partition's, or firmware issues (R385). -/
def Claim.itemHeld (s : State) (a : Word) : Prop := 8192 ≤ s.cc ∨ s.holdsCore s.myPart (a.extractLsb' 16 13).toNat = true

/-- The BKPT instructions of ops 1, 2, 3 and 5 with a register or a value (R385). -/
def Claim.debugOps (g : Guard) (rd : SDst) (a b : SSrc) : List (Instr × Info) :=
  [(.bkptW g a b, infoOf g 8 1 [a, b] [] [] []), (.bkptR g rd a, infoOf g 8 1 [a] [] [rd] []),
   (.bkptS g a b, infoOf g 8 1 [a, b] [] [] []), (.bkptT g 0 a, infoOf g 8 1 [a] [] [] [])]

/-- R370 to R377, R385: BKPT in all its operations. -/
def Obligations.BreakpointInstructions : Prop :=
  (∀ g (n : BitVec 16) s s1, Issues { g } s s1 → exec (.bkpt g n) s = Claim.faults s1 { code := .bkpt, tval := n.setWidth 64 }) ∧
  (∀ g rd a b, ∀ e ∈ Claim.debugOps g rd a b, ∀ s s1 s2 s3 u v, Issues e.2 s s1 →
    (s1.curIter s1.cc s1.ck ≠ none → exec e.1 s = Claim.faults s1 { code := .illegal }) ∧
    (s1.curIter s1.cc s1.ck = none → Gives (readS a) s1 u s2 → Gives (readS b) s2 v s3 →
      (¬Claim.itemNamed u → exec e.1 s = Claim.faults s1 { code := .illegal, tval := u }) ∧
      (Claim.itemNamed u → ¬Claim.itemHeld s3 u → exec e.1 s = Claim.faults s1 { code := .prot, tval := u }))) ∧
  (∀ g (op : Fin 11) a s s1 s2 u, op ≠ 0 → Issues (infoOf g 8 1 [a] [] [] []) s s1 → Gives (readS a) s1 u s2 →
    exec (.bkptT g op a) s = Claim.faults s1 { code := .illegal, tval := u }) ∧
  (∀ g rd a s s1 s2 u, Issues (infoOf g 8 1 [a] [] [rd] []) s s1 → s1.curIter s1.cc s1.ck = none → Gives (readS a) s1 u s2 →
    Claim.itemNamed u → Claim.itemHeld s2 u → Gives (checkS rd) s2 () s2 →
    let c := (u.extractLsb' 16 13).toNat
    let i := (u.extractLsb' 0 8).toNat
    let unit (k : Nat) : Word × Word := tgetD (s2.cluster (s2.clusterOf c)).bps k (0, 0)
    ∃ v : Word, Claim.Sent (exec (.bkptR g rd a) s) s2 (.value [.s rd v]) .wmsg 8 ∧
      (i < 32 → v = if i % 2 = 0 then (unit (i / 2)).1 else (unit (i / 2)).2) ∧
      (32 ≤ i → i < 48 → v = if i % 2 = 0 then (unit (i / 2)).1 else (unit (i / 2)).2) ∧
      (∀ k, i = 48 → s2.physOf c (u.extractLsb' 8 4).toNat = some k → let d := (s2.ctx c k).dbc
        v.getLsbD 32 = d.stop ∧ v.extractLsb' 16 16 = d.steps ∧ v.getLsbD 5 = d.stt ∧ v.getLsbD 4 = d.wgv ∧ v.extractLsb' 0 4 = d.wg) ∧
      (i = 49 → v = (s2.core c).stopCyc)) ∧
  (∀ g a b s s1 s2 s3 u v, Issues (infoOf g 8 1 [a, b] [] [] []) s s1 → s1.curIter s1.cc s1.ck = none → Gives (readS a) s1 u s2 →
    Gives (readS b) s2 v s3 → Claim.itemNamed u → Claim.itemHeld s3 u →
    let c := (u.extractLsb' 16 13).toNat
    let i := (u.extractLsb' 0 8).toNat
    let j := (u.extractLsb' 8 4).toNat
    (48 < i → exec (.bkptW g a b) s = Claim.faults s1 { code := .illegal, tval := u }) ∧
    (i < 48 → i % 2 = 0 → Claim.answered (exec (.bkptW g a b) s) s3 [] .wmsg (fun t =>
      tgetD (t.cluster (s3.clusterOf c)).bps (i / 2) (0, 0) = (v, (tgetD (s3.cluster (s3.clusterOf c)).bps (i / 2) (0, 0)).2))) ∧
    (i < 32 → i % 2 = 1 → v &&& ~~~0x3F_01FF = 0 → Claim.answered (exec (.bkptW g a b) s) s3 [] .wmsg (fun t =>
      tgetD (t.cluster (s3.clusterOf c)).bps (i / 2) (0, 0) = ((tgetD (s3.cluster (s3.clusterOf c)).bps (i / 2) (0, 0)).1, v))) ∧
    (i < 48 → i % 2 = 1 → v &&& ~~~0x3F_01FF ≠ 0 → exec (.bkptW g a b) s = Claim.faults s1 { code := .illegal, tval := v }) ∧
    (i = 48 → v &&& ~~~0x1_FFFF_003F ≠ 0 → exec (.bkptW g a b) s = Claim.faults s1 { code := .illegal, tval := v }) ∧
    (65536 ≤ v.toNat → exec (.bkptS g a b) s = Claim.faults s1 { code := .illegal, tval := v }) ∧
    (∀ k, v.toNat < 65536 → s3.physOf c j = some k → ∃ t : State, exec (.bkptS g a b) s = .next t ∧ t.mem = s3.mem ∧
      (v = 0 → (t.ctx c k).dbc = { (s3.ctx c k).dbc with stop := true }) ∧
      (v ≠ 0 → (t.ctx c k).dbc = { (s3.ctx c k).dbc with stop := false, steps := v.setWidth 16 }))) ∧
  (∀ g s s1, Issues { g } s s1 → s1.curIter s1.cc s1.ck = none → ∃ u : State, exec (.bkptF g) s = .next u ∧
    u.ctxs = (s1.retire 8).ctxs ∧ u.mem = s1.mem ∧ ∀ d y, (d, y) ∈ (s1.retire 8).cores → y.partid = s1.myPart → d < 8192 →
      (d, { y with foghornDue := true }) ∈ u.cores) ∧
  (∀ g a s s1 s2 u, Issues (infoOf g 8 1 [a] [] [] []) s s1 → s1.curIter s1.cc s1.ck = none → Gives (readS a) s1 u s2 →
    Claim.itemNamed u → Claim.itemHeld s2 u → u.getLsbD 63 = false →
    let cl := s2.clusterOf (u.extractLsb' 16 13).toNat
    Claim.answered (exec (.bkptT g 0 a) s) s2 [] .wmsg (fun t => (t.cluster cl).frozen = false ∧
      ∀ d y, (d, y) ∈ t.cores → clOf y.home = cl → y.halted = false))

/-- R374, R376 to R384: a step that expires stops its thread or raises STEP; a core the foghorn has reached stops and keeps its
record; TMARK's operations, the sending of a tail's oldest record, and RMARK. -/
def Obligations.TraceAndStops : Prop :=
  (∀ (s : State) c k, s.runs c = true → (s.ctx c k).stepDue = true →
    let t := s.modCtx c k (fun x => { x with stepDue := false })
    ((s.ctx c k).dbc.stt = true → exec (.stepExpiry c k) s = .next (t.takeFault c k { code := .step })) ∧
    ((s.ctx c k).dbc.stt = false → ∃ u : State, exec (.stepExpiry c k) s = .next u ∧ (u.ctx c k).dbc.stop = true ∧
      (u.ctx c k).pc = (s.ctx c k).pc ∧ u.mem = s.mem)) ∧
  (∀ (s : State) c, s.power = .on → (s.core c).foghornDue = true → (s.core c).halted = false → ∃ u : State,
    exec (.foghornCoreStop c) s = .next u ∧ (u.core c).halted = true ∧ (u.core c).stopCyc = (s.core (s.core c).home).cyc ∧
    (u.core c).stopSent = (s.core c).sent ∧ (u.core c).stopRecv = (s.core c).recv ∧ u.ctxs = s.ctxs ∧ u.mem = s.mem) ∧
  (∀ (s : State) c k r l, (s.ctx c k).trace.tail = r :: l → s.runs c = true → ∃ u : State, exec (.traceTailSend c k) s = .next u ∧
    (u.ctx c k).trace.tail = l ∧ u.traceOut = s.traceOut ++ [(tracePort (dieOf (s.core c).home), r)] ∧ u.mem = s.mem) ∧
  (∀ g a (imm : Imm) s s1 s2 v, Issues (markInfo g (formLen imm.form) [a]) s s1 → Gives (readS a) s1 v s2 →
    (exec (.tmark g a imm) s =
      .next ((s2.trace s2.cc s2.ck 0x0D s2.me.pc (v + imm.val)).retire (formLen imm.form))) ∧
    (s2.me.trace.opened = false → exec (.tmark g a imm) s = .next (s2.retire (formLen imm.form))) ∧
    (s2.me.trace.opened = true → s2.me.trace.mask.getLsbD 0x0D = true → s2.me.trace.tail = [] → s2.me.trace.loss = 0 →
      ∃ (u : State) (h sent : Word), exec (.tmark g a imm) s = .next u ∧ u.me.trace.tail = [[h, s2.me.pc, sent, v + imm.val]] ∧
        h.extractLsb' 0 8 = 0x0D) ∧
    (exec (.tmarkO g a imm) s = .next ((s2.modMe (fun x => { x with trace :=
      { x.trace with opened := true, mask := (v + imm.val).setWidth 32, loss := 0 } })).retire (formLen imm.form))) ∧
    ((s2.part s2.myPart).replay.mode = .off → exec (.rmark g a imm) s = .next (s2.retire (formLen imm.form)))) ∧
  (∀ g form s s1, Issues (markInfo g (formLen form) []) s s1 → ∃ u : State, exec (.tmarkC g form) s = .next (u.retire (formLen form)) ∧
    u.me.trace.opened = false ∧ u.mem = s1.mem ∧ u.cores = s1.cores ∧
    (s1.me.trace.loss = 0 → u = s1.modMe (fun x => { x with trace := { x.trace with opened := false } })))

/-! ## Pre-emption, images, the cycle -/

/-- R259, R393 to R397: YIELD with and without a deadline, the expiry of a deadline at a boundary, and the completion of a
partition's pre-emption, after which its agents have no buffered write. -/
def Obligations.Preemption : Prop :=
  (∀ g rd s s1 s2, Issues { infoOf g 8 1 [] [] [rd] [] with side := true } s s1 → Gives (checkS rd) s1 () s2 →
    (s1.me.ydl = 0 → exec (.yield g rd) s = .next ((s2.putS rd 0).retire 8)) ∧
    (s1.me.ydl ≠ 0 → let t := (s2.putS rd 1).retire 8
      ∃ u : State, exec (.yield g rd) s = .next u ∧ (u.ctx t.cc t.ck).stopped = true ∧ (u.ctx t.cc t.ck).yielded = true ∧
        (u.ctx t.cc t.ck).forced = false ∧
        (t.loopsOf t.cc t.ck = [] → u.ctx t.cc t.ck = { t.me with stopped := true, forced := false, yielded := true }))) ∧
  (∀ (s : State) c k, s.runs c = true → k ∈ s.ctxsOf c → s.expired c k = true → s.atBoundary c k = true → s.loopsOf c k = [] →
    (∀ j ∈ s.ctxsOf c, j ≠ k → s.expired c j = false) → ∃ u : State, exec (.deadlineExpiry c) s = .next u ∧
      (u.ctx c k).stopped = true ∧ (u.ctx c k).forced = true ∧ (u.ctx c k).yielded = false ∧ (u.ctx c k).pc = (s.ctx c k).pc ∧
      (u.ctx c k).x = (s.ctx c k).x ∧ (u.ctx c k).g = (s.ctx c k).g ∧ (u.ctx c k).v = (s.ctx c k).v ∧
      (u.ctx c k).z = (s.ctx c k).z ∧ ∀ j ∈ s.ctxsOf c, j ≠ k → u.ctx c j = s.ctx c j) ∧
  (∀ (s : State) c, (∀ k ∈ s.ctxsOf c, s.expired c k = true → s.atBoundary c k = false) →
    exec (.deadlineExpiry c) s = .next s) ∧
  (∀ (s : State) p, let q := s.part p
    (s.power = .on ∧ q.started = true ∧ q.resident = true ∧ q.stopping = true ∧ q.preempted = false ∧
      (∀ c ∈ s.coresIn p, s.coreStopped c = true) → ∃ u : State, exec (.preemptionComplete p) s = .next u ∧
      u.parts = tset s.parts p { q with preempted := true } ∧ u.ctxs = s.ctxs ∧
      (∀ c, u.core c = if c ∈ s.coresIn p then { s.core c with wq := [] } else s.core c) ∧
      (∀ w ∈ u.mem.bufs, w ∈ s.mem.bufs ∧ (w.agent ∈ s.mem.own.map Prod.fst → s.agentPart w.agent ≠ some p)) ∧
      ∀ w ∈ s.mem.bufs, s.agentPart w.agent = some p → ∀ x ∈ w.cells,
        x.1 ∈ ((aget s.mem.own w.agent).getD []).map Prod.fst → w.stamp ≤ (u.mem.dHeld x.1).stamp) ∧
    (∀ c ∈ s.coresIn p, s.coreStopped c = false → exec (.preemptionComplete p) s = .next s))

/-- R401, R402: the faults of CSAVE and CREST, the bytes that CSAVE stores, and CREST of an image that is well-formed and of
one that is not. -/
def Said.ContextSaveAndRestore : Prop :=
  ∀ g xa xc s s1 s2 s3 a t, Issues (imgInfo g xa xc s) s s1 → Gives (readS xa) s1 a s2 → Gives (readS xc) s2 t s3 →
    let k := (t.extractLsb' 16 4).toNat
    let c := s3.ownerOn (t.extractLsb' 0 13).toNat k
    let both (f : Cause) : Prop := exec (.csave g xa xc) s = Claim.faults s1 f ∧ exec (.crest g xa xc) s = Claim.faults s1 f
    (t &&& ~~~0xF_1FFF ≠ 0 → both { code := .illegal }) ∧
    (t &&& ~~~0xF_1FFF = 0 →
      (spaceOf a.toNat ≠ 0x0 ∧ spaceOf a.toNat ≠ 0xB → both { code := .space, tval := a }) ∧
      (spaceOf a.toNat = 0x0 ∨ spaceOf a.toNat = 0xB →
        (a.toNat % 128 ≠ 0 → both { code := .align, tval := a }) ∧
        (a.toNat % 128 = 0 →
          (savable (s3.ctx c k) = false → exec (.csave g xa xc) s = Claim.faults s1 { code := .illegal }) ∧
          ((s3.ctx c k).run ≠ .vacant → exec (.crest g xa xc) s = Claim.faults s1 { code := .illegal }) ∧
          (savable (s3.ctx c k) = true → (s3.cluster (s3.clusterOf s3.cc)).bps = [] → ∀ ls s4, let bs := s3.image c k
            Gives (locM { w := true } [0x0, 0xB] a.toNat bs.length 128) s3 ls s4 →
            Gives (checkWaiters a.toNat ls) s4 () s4 → ls.length = bs.length → ls.Nodup →
            ∃ (u : State) (q : Pend), exec (.csave g xa xc) s = .next u ∧ u.me.pend = some q ∧ q.kind = .value [] ∧
              q.cls = .wmem ∧ u.me.pc = s4.me.pc ∧ (u.ctx c k).trace.tail = [] ∧
              ∀ i < bs.length, (u.mem.view (s4.agentOf s4.cc s4.ck) (ls.getD i 0)).byte = bs.getD i 0) ∧
          ((s3.ctx c k).run = .vacant → ∀ head bs s4 s5, Gives (loadBytes a.toNat (imgLen 0)) s3 head s4 →
            Gives (loadBytes a.toNat (imgLen (min (imgAt head 0x1340 8) 2))) s4 bs s5 →
            (s5.imageLoad (t.extractLsb' 0 13).toNat k bs = none →
              exec (.crest g xa xc) s = Claim.faults s1 { code := .illegal, tval := a }) ∧
            (∀ v : State, s5.imageLoad (t.extractLsb' 0 13).toNat k bs = some v → ∃ (u : State) (q : Pend),
              exec (.crest g xa xc) s = .next u ∧ u.me.pend = some q ∧ q.kind = .value [] ∧ q.cls = .wmem ∧
              u.mem = v.mem ∧ u.me.pc = v.me.pc)))))

/-- R398, R399, R402: where an image has the registers of its context, and what a context has when its image is loaded: the
registers of those places, pre-empted. A nonzero reserved byte makes an image ill-formed. -/
def Said.ContextImage : Prop :=
  (∀ (s : State) c k, (s.ctx c k).events.length ≤ 8 → let bs := s.image c k
    let x := s.ctx c k
    (bs.take (imgLen 0)).length = imgLen 0 ∧ (∀ n : Fin 32, imgWord bs (8 * n.val) = x.x.get n) ∧
    (∀ n : Fin 7, imgAt bs (0x100 + 4 * n.val) 4 = (x.g.get n).toNat) ∧
    (∀ n : Fin 16, imgAt bs (0x120 + 128 * n.val) 128 = (x.v.get n).bits.toNat) ∧
    (∀ n : Fin 2, imgAt bs (0x920 + 1024 * n.val) 1024 = (x.z.get n).bits.toNat) ∧ imgWord bs 0x1130 = x.pc ∧
    imgWord bs 0x1140 = x.tcause ∧ imgWord bs 0x1148 = x.tpc ∧ imgWord bs 0x1150 = x.tval ∧
    imgWord bs 0x1240 = x.dbc.word ∧ imgWord bs 0x1248 = x.checksum) ∧
  (∀ (s : State) p k bs t, s.imageLoad p k bs = some t →
    (imgAt bs 0x1230 8 % 2 = 1 → t = s.modCtx (s.ownerOn p k) k (fun x =>
      { x with run := .vacant, counts := Vector.ofFn (fun (i : Fin 5) => imgAt bs (0x1250 + 8 * i.val) 8) })) ∧
    (imgAt bs 0x1230 8 % 2 = 0 → let v := imgAt bs 0x1230 8 / 2 ^ 16 % 2 ^ 13
      let x := t.ctx v k
      (∀ n : Fin 32, x.x.get n = imgWord bs (8 * n.val)) ∧ (∀ n : Fin 7, (x.g.get n).toNat = imgAt bs (0x100 + 4 * n.val) 4 % 2 ^ 32) ∧
      (∀ n : Fin 16, (x.v.get n).bits.toNat = imgAt bs (0x120 + 128 * n.val) 128 % 2 ^ 1024) ∧ x.pc = imgWord bs 0x1130 ∧
      x.tcause = imgWord bs 0x1140 ∧ x.tpc = imgWord bs 0x1148 ∧ x.tval = imgWord bs 0x1150 ∧ x.run = .held ∧ x.stopped = true ∧
      x.vcid = v ∧ x.vctx = imgAt bs 0x1230 8 / 2 ^ 32 % 16 ∧ t.mem = s.mem)) ∧
  (∀ (s : State) p k bs, (∃ i, 0x1348 ≤ i ∧ i < 0x1380 ∧ bs.getD i 0 ≠ 0) → s.imageLoad p k bs = none)

/-- R401, R402, R398, R399: the claims ContextSaveAndRestore and ContextImage. -/
def Obligations.ContextImages : Prop := Said.ContextSaveAndRestore ∧ Said.ContextImage

/-- R12, R13, R71, R208, R216, R393, R417: a slot is its context's to issue in or goes unused, a context whose deadline has passed issues
nothing more while its core's other slots go on; a fetch block comes by a load of each of its bytes; the requests whose page a walk
decides get its result together; a queue image comes in on request. -/
def Obligations.MachineCycle : Prop :=
  (∀ (s : State) p, (s.clocked p = false → exec (.coreCycle p) s = .next s) ∧
    (s.clocked p = true → let k := (s.core p).cyc.toNat % 16
      let c := s.ownerOn p k
      (s.expired c k = true → s.ready c k = false) ∧
      ((s.ctx c k).stepDue = false → s.periodFirst p = false →
        (s.ready c k = true → exec (.coreCycle p) s = .next { s with issue := some (c, k) }) ∧
        (s.ready c k = false → (s.core c).home = p → (s.ctx c k).wait = none →
          ∃ u : State, exec (.coreCycle p) s = .next u ∧ (u.core p).cyc = (s.core p).cyc + 1 ∧ u.issue = s.issue)))) ∧
  (∀ (s : State) c k block cut, let b := blockOf block.toNat
    let ls := s.blockLocs (s.viaThread c k) b
    s.runs c = true → (s.ctx c k).run = .held → (∀ f ∈ (s.ctx c k).fetched, f.1.toNat ≠ b) →
    ((∀ l ∈ ls, l = none) → exec (.instructionFetch c k block cut) s = .next s) ∧
    ((∃ l, some l ∈ ls) → ∃ (u : State) (bs : List Byte), exec (.instructionFetch c k block cut) s = .next u ∧
      (u.ctx c k).fetched = (s.ctx c k).fetched ++ [(BitVec.ofNat 64 b, bs)] ∧ bs.length = ls.length ∧
      (∀ i : Nat, ls[i]? = some none → bs[i]? = some 0) ∧ u.mem.d = s.mem.d ∧
      ((ls.filterMap id).Nodup → ∀ (i : Nat) l, ls[i]? = some (some l) →
        ∃ w ∈ s.mem.candidates (s.agentOf c k) l, bs[i]? = some w.byte))) ∧
  (∀ (s : State) cl i m, (s.cluster cl).misses[i]? = some m → s.power = .on → (s.cluster cl).frozen = false →
    ((s.die (dieOfCl cl)).walkq.take 64).contains (cl, m.part, m.page) = true → (s.cluster cl).missWait = [] →
    let r := s.walk m.part (m.page * 2 ^ 19)
    ∃ u : State, exec (.tlbWalkComplete cl i) s = .next u ∧ (u.cluster cl).misses = (s.cluster cl).misses.eraseIdx i ∧
      (∀ l, r = .leaf l → l ∈ (u.cluster cl).tlb) ∧ (∀ lv b, r = .fault lv b → (u.cluster cl).tlb = (s.cluster cl).tlb) ∧
      (∀ j ∈ m.joined, (s.ctx j.1 j.2.1).wait.map Prod.snd = some (.walked cl m.part j.2.2) → r.covers m.page j.2.2 = true →
        (j.2.2, r) ∈ (u.ctx j.1 j.2.1).walks) ∧
      u.mem = s.mem) ∧
  (∀ (s : State) p v cls k, s.runs p = true → (s.core v).home = p → (s.core p).image.getD p ≠ v →
    k ∈ s.ctxsOf v → (s.ctx v k).wait = some (cls, .fold p v) →
    ((s.core ((s.core p).image.getD p)).wq = [] → s.laneBusy ((s.core p).image.getD p) = false → ∃ u : State, exec (.foldSwap p v) s = .next u ∧ u.foldReady v = true ∧
      u.ctxs = s.ctxs ∧ u.mem = s.mem) ∧
    ((s.core ((s.core p).image.getD p)).wq ≠ [] ∨ s.laneBusy ((s.core p).image.getD p) = true → exec (.foldSwap p v) s = .next s))

/-! ## Boot, health, errors -/

/-- R409 to R411: the boot, the loss of the supply, the commit of a staged image, and attestation's use of its key indices. -/
def Obligations.BootAndPower : Prop :=
  (∀ s : State, s.power = .off →
    (s.torn = false ∧ Config.verifies s.store = true → ∃ u : State, exec .powerOn s = .next u ∧ u.power = .on ∧ u.recov = false ∧
      (u.part 0).started = true ∧ (u.part 0).resident = true ∧ (∀ n < 128, (tgetD u.services n {}).released = !svcGone n s.fresh ∧ (tgetD u.services n {}).gone = svcGone n s.fresh) ∧
      (tgetD u.services 0 {}).released = true ∧
      u.mem = s.mem ∧ u.ctxs = s.ctxs) ∧
    (s.torn = true ∨ Config.verifies s.store = false → exec .powerOn s = .next { s with power := .recovery, recov := true })) ∧
  (∀ s : State, s.power ≠ .off → exec .powerOn s = .next s ∧ ∃ u : State, exec .powerLoss s = .next u ∧ u.power = .off ∧
    u.store = s.store ∧ u.keyNext = s.keyNext ∧ u.keyUsed = s.keyNext ∧ u.keyWindow = s.keyNext ∧ u.repl = s.repl ∧ u.mem = {} ∧
    u.cores = [] ∧ u.ctxs = [] ∧ u.parts = [] ∧ u.net = [] ∧ u.sessions = [] ∧ u.streams = [] ∧ (s.torn = true → u.torn = true) ∧
    u.hostOut = s.hostOut ∧ u.ackOut = s.ackOut ∧ u.packetOut = s.packetOut ∧ u.roundOut = s.roundOut ∧
    ∀ d, (u.die d).failed = (s.die d).failed ∧ (u.die d).spares = (s.die d).spares) ∧
  (∀ s : State, s.power = .recovery →
    (Config.verifies s.staged = true → ∃ u : State, exec .commit s = .next u ∧ u.store = s.staged ∧ u.staging = [] ∧
      u.torn = false ∧ u.power = .on ∧ (u.part 0).started = true) ∧
    (Config.verifies s.staged = false → exec .commit s = .next s)) ∧
  (∀ (s : State) nonce, s.power = .on → let n := if s.keyUsed < s.keyWindow then s.keyUsed else s.keyNext
    (2 ^ 40 < n + 1024 → exec (.attestation nonce) s = .next { s with keyx := true }) ∧
    (n + 1024 ≤ 2 ^ 40 → ∃ (u : State) (e : Nat × List Byte), exec (.attestation nonce) s = .next u ∧ u.attest = s.attest ++ [e] ∧
      e.1 = n ∧ u.keyUsed = n + 1 ∧ u.keyNext = (if s.keyUsed < s.keyWindow then s.keyNext else s.keyNext + 1024) ∧
      (s.keyUsed ≤ s.keyNext ∧ s.keyWindow ≤ s.keyNext → n < u.keyNext) ∧ u.mem = s.mem))

/-- R291, R302, R308, R412, R413: a link goes up or down, a packet for another module is forwarded or dropped, a word is
scrubbed or poisoned, and an entry or counter of the queue SRAM is poisoned. -/
def Obligations.LinksAndErrors : Prop :=
  (∀ (s : State) (port : Fin 32) up, s.power = .on → ∃ u : State, exec (.linkEvent port up) s = .next u ∧
    (∀ i < 32, u.links.getLsbD i = if i = port.val then up else s.links.getLsbD i) ∧
    (up = false → ∀ e ∈ tgetD u.fwd (port.val / 8) [], e.2.getLsbD (port.val % 8) = false) ∧
    (∀ d, d ≠ port.val / 8 → tgetD u.fwd d [] = tgetD s.fwd d []) ∧ (∃ e, tget u.uet port.val = some e) ∧
    (∀ p, p ≠ port.val → tget u.uet p = tget s.uet p) ∧ u.mem = s.mem ∧ u.ctxs = s.ctxs) ∧
  (∀ (s : State) (die : Fin 4) (dst : BitVec 32) (p : Packet), s.power = .on → let ports := tgetD (tgetD s.fwd die.val []) dst.toNat (0 : BitVec 8)
    let n := p.payload.length
    ∃ u : State, exec (.relayForward die dst p) s = .next u ∧ u.mem = s.mem ∧ u.ctxs = s.ctxs ∧
      (∀ i : Fin 8, i.val = 2 * die.val + 1 → ∃ again, u.fabric.get i = (s.fabric.get i + n * (1 + again)) % 2 ^ 48) ∧
      (ports = 0 ∨ p.mode = .unreliable ∨ p.mode = .idempotent → u.pktDrops = s.pktDrops + 1 ∧ u.packetOut = s.packetOut) ∧
      (ports ≠ 0 → p.mode = .rod ∨ p.mode = .rud → u.pktDrops = s.pktDrops ∧
        (∃ q, q < 8 ∧ ports.getLsbD q = true ∧
          u.packetOut = s.packetOut ++ [{ port := 8 * die.val + q, dst, payload := p.payload }]) ∧
        ∀ i : Fin 8, i.val = 2 * die.val → ∃ again, u.fabric.get i = (s.fabric.get i + n * (1 + again)) % 2 ^ 48)) ∧
  (∀ (s : State) loc, s.power = .on →
    (∃ u : State, exec (.scrub loc true) s = .next u ∧ loc / 8 * 8 ∈ u.mem.bad ∧ u.sreq = true ∧ u.mem.d = s.mem.d ∧
      (∀ w, w ≠ loc / 8 * 8 → (w ∈ u.mem.bad ↔ w ∈ s.mem.bad)) ∧ u.ctxs = s.ctxs) ∧
    (∃ u : State, exec (.scrub loc false) s = .next u ∧ u.corrected = s.corrected + 1 ∧ u.mem.d = s.mem.d ∧
      u.mem.bad = s.mem.bad ∧ u.ctxs = s.ctxs)) ∧
  (∀ (s : State) cl i, s.power = .on →
    (i < 256 → ∃ u : State, exec (.queueSramError cl true i) s = .next u ∧ u.sreq = true ∧ u.mem = s.mem ∧
      tgetD (u.cluster cl).deps i (0, false) = ((tgetD (s.cluster cl).deps i (0, false)).1, true)) ∧
    (∀ e, tget (s.cluster cl).sram i = some e → e.poisoned = false → ∃ u : State, exec (.queueSramError cl false i) s = .next u ∧
      tget (u.cluster cl).sram i = some { e with poisoned := true } ∧
      tget (u.cluster cl).plog (s.cluster cl).plogAt = some (e.queue, i) ∧
      (u.cluster cl).plogAt = ((s.cluster cl).plogAt + 1) % 16 ∧ u.ctxs = s.ctxs ∧ u.mem = s.mem))

/-! ## Host requests -/

/-- The commands of R305: the instruction of a request, its opcode, whether only partition 0 may ask for it, and what a service
core does for it; nothing while accesses under way must complete first (R218). -/
def Claim.command (i : Instr) (r : HostReq) (op : Nat) (p0 : Bool) (f : State → Option Ans) : Prop :=
  (i = .launch r ∧ op = 1 ∧ p0 = false ∧ f = fun s => some (cmdLaunch r s)) ∨
  (i = .write r ∧ op = 2 ∧ p0 = false ∧ f = fun s => some (cmdWrite r s)) ∨
  (i = .read r ∧ op = 3 ∧ p0 = false ∧ f = fun s => some (cmdRead r s)) ∨
  (i = .map r ∧ op = 4 ∧ p0 = false ∧ f = cmdMap r) ∨ (i = .unmap r ∧ op = 5 ∧ p0 = false ∧ f = cmdUnmap r) ∨
  (i = .share r ∧ op = 6 ∧ p0 = true ∧ f = cmdShare r) ∨
  (i = .group r ∧ op = 7 ∧ p0 = true ∧ f = fun s => some (cmdGroup r s)) ∨
  (i = .sessionDefine r ∧ numAt r.body 2 1 ≠ 1 ∧ op = 8 ∧ p0 = false ∧ f = fun s => some (cmdDefine r s)) ∨
  (i = .sessionRemove r ∧ numAt r.body 2 1 = 1 ∧ op = 8 ∧ p0 = false ∧ f = fun s => some (cmdRemove r s)) ∨
  (i = .pstart r ∧ op = 9 ∧ p0 = true ∧ f = fun s => some (cmdPstart r s)) ∨
  (i = .pstop r ∧ op = 10 ∧ p0 = true ∧ f = fun s => some (cmdPstop r s)) ∨
  (i = .status r ∧ op = 11 ∧ p0 = false ∧ f = fun s => some (cmdStatus r s))

/-- The last reply is to that request, with that status and those bytes (R303, R306). -/
def Claim.replied (s u : State) (r : HostReq) (st : Word) (data : List Byte) : Prop :=
  ∃ h : HostReply, u.hostOut = s.hostOut ++ [h] ∧ h.ver = r.ver ∧ h.flags = r.flags ∧ h.scn = r.scn ∧ h.op = r.op ||| 0x80 ∧
    h.part = r.part ∧ h.seq = r.seq ∧ h.htag = r.htag ∧ h.len = 8 + data.length ∧
    h.body = (List.range 8).map (fun i => st.extractLsb' (8 * i) 8) ++ data

/-- A header of R303: version 1, no flag but bit 0, a partition number, zero in the reserved field, the body's length. -/
def Claim.header (r : HostReq) : Prop :=
  r.ver = 1 ∧ r.flags < 2 ∧ r.part < 16 ∧ r.rsv = 0 ∧ r.len ≤ 1048576 ∧ r.len = r.body.length

/-- The state in which a service core begins a request: the request's bytes are counted, and its view is the device store's
(R258, R365). -/
def Claim.heard (s : State) (r : HostReq) : State := (s.uetBytes false (32 + r.len)).svcBegin r.scn

/-- R21, R218, R258, R301, R303 to R306, R410: a request whose OP is no command, one with a bad header and one for a service core
that is not there are BADCMD; one that asks for a delivery mode the module does not use is dropped and counted; one for partition 0's
use by another is NOTHELD; else the service core performs its command and answers with its status and bytes, a LAUNCH that is taken
later; MAP, UNMAP and SHARE wait for accesses under way; recovery takes WRITE and STATUS only. -/
def Obligations.HostRequests : Prop :=
  ∀ i r op p0 f, Claim.command i r op p0 f → ∀ s : State,
    let here := r.scn < 128 ∧ (tgetD s.services r.scn {}).gone = false
    (s.power = .on → f (s.svcBegin r.scn) = none → exec i s = .next s) ∧
    (s.power = .on → (f (s.svcBegin r.scn)).isSome = true →
      (r.mode.unused = true → exec i s = .next { s with pktDrops := s.pktDrops + 1 }) ∧
      (r.mode.unused = false → r.op ≠ op → 1 ≤ r.op → r.op ≤ 11 → exec i s = .next s) ∧
      (r.mode.unused = false → r.op = op ∨ r.op = 0 ∨ 11 < r.op →
        (¬here ∨ ¬Claim.header r ∨ r.op ≠ op → ∃ u : State, exec i s = .next u ∧ Claim.replied s u r 1 [] ∧
          u.mem = s.mem ∧ u.parts = s.parts) ∧
        (here → Claim.header r → r.op = op → (tgetD s.services r.scn {}).released = true →
          (p0 = true → r.part ≠ 0 → ∃ u : State, exec i s = .next u ∧ Claim.replied s u r 2 [] ∧ u.mem = s.mem ∧
            u.parts = s.parts) ∧
          ((p0 = true → r.part = 0) → s.present r.part = true → (s.part r.part).replay.mode = .off →
            ∀ a, f (Claim.heard s r) = some a → ∃ u : State, exec i s = .next u ∧
              u.mem = (a.st.svcEnd r.scn (r.flags == 1)).mem ∧ u.ctxs = a.st.ctxs ∧ u.parts = a.st.parts ∧
              (a.later = false → Claim.replied a.st u r a.status a.data) ∧
              (a.later = true → u.hostOut = a.st.hostOut ∧ u.net = a.st.net ∧ u.launches = a.st.launches))))) ∧
    (s.power = .recovery → r.mode.unused = false → here → Claim.header r → r.op = op → op ≠ 2 → op ≠ 11 →
      ∃ u : State, exec i s = .next u ∧ Claim.replied s u r 1 [] ∧ u.mem = s.mem ∧ u.staging = s.staging)

/-- R306: a refused command, answered BADCMD, NOTHELD or NOSPACE, changes nothing. -/
def Obligations.RefusedCommandsChangeNothing : Prop :=
  ∀ i r op p0 f, Claim.command i r op p0 f → ∀ (s : State) a, f s = some a → a.status = 1 ∨ a.status = 2 ∨ a.status = 4 → a.st = s

/-- The status FAULT with its address in bits 63:8 (R306). -/
def Claim.faultStatus (a : Word) : Word := 3 + (a <<< 8)

/-- R221, R258, R305, R306: WRITE stores its bytes one after another and stops at the first that faults, READ answers the bytes. -/
def Said.HostMemoryCommands : Prop :=
  (∀ (r : HostReq) (s : State), let a := wordAt r.body 0
    let ds := r.body.drop 8
    (r.len < 8 ∨ spaceOf a.toNat ∉ [0x0, 0xA, 0xB, 0xC] → (cmdWrite r s).status = 1) ∧
    (8 ≤ r.len → spaceOf a.toNat ∈ [0x0, 0xA, 0xB, 0xC] → ∀ ls : List Nat, ls.Nodup → ls.length ≤ ds.length →
      (ls.length ≤ 1 ∨ ∀ l ∈ ls, l / 8 * 8 ∉ s.mem.empty) →
      (∀ i < ls.length, spaceOf (a + BitVec.ofNat 64 i).toNat ≠ 0xC ∧
        s.svcByte r.part { w := true } [0x0, 0xA, 0xB, 0xC] (a + BitVec.ofNat 64 i) = .ok (ls.getD i 0)) →
      (ls.length < ds.length →
        s.svcByte r.part { w := true } [0x0, 0xA, 0xB, 0xC] (a + BitVec.ofNat 64 ls.length) = .error
          (Claim.faultStatus (a + BitVec.ofNat 64 ls.length))) →
      (cmdWrite r s).status = (if ls.length = ds.length then 0 else Claim.faultStatus (a + BitVec.ofNat 64 ls.length)) ∧
      (∀ i < ls.length, ((cmdWrite r s).st.mem.view (.svc r.scn) (ls.getD i 0)).byte = ds.getD i 0) ∧
      (∀ l, l ∉ ls → (cmdWrite r s).st.mem.view (.svc r.scn) l = s.mem.view (.svc r.scn) l) ∧
      (cmdWrite r s).st.mem.d = s.mem.d)) ∧
  (∀ (r : HostReq) (s : State), let a := wordAt r.body 0
    let n := numAt r.body 8 4
    (r.len ≠ 16 ∨ n = 0 ∨ 1048568 < n ∨ spaceOf a.toNat ∉ [0x0, 0xA, 0xB, 0xC] → (cmdRead r s).status = 1) ∧
    (r.len = 16 → zerosAt r.body 12 4 = true → 1 ≤ n → n ≤ 1048568 → spaceOf a.toNat ∈ [0x0, 0xA, 0xB, 0xC] →
      ∀ ls : List Nat, ls.Nodup → ls.length = n →
      (∀ i < n, s.svcByte r.part { r := true } [0x0, 0xA, 0xB, 0xC] (a + BitVec.ofNat 64 i) = .ok (ls.getD i 0)) →
      s.mem.badAt ls = none → (cmdRead r s).status = 0 ∧ (cmdRead r s).data.length = n ∧ (cmdRead r s).st.mem.d = s.mem.d ∧
        ∀ i < n, ∃ w ∈ s.mem.candidates (.svc r.scn) (ls.getD i 0), (cmdRead r s).data[i]? = some w.byte)) ∧
  (∀ (r : HostReq) (s : State), r.scn < 128 → (tgetD s.services r.scn {}).gone = false → r.mode.unused = false → r.op = 2 →
    Claim.header r → s.power = .recovery →
    (r.part = 0 → 8 ≤ r.len → ∃ u : State, exec (.write r) s = .next u ∧ Claim.replied s u r 0 [] ∧ u.mem = s.mem ∧
      u.store = s.store ∧ (s.staging = [] → ∀ i < r.len - 8,
        Memory.get u.staging (numAt r.body 0 8 + i) = r.body.getD (8 + i) 0)))

/-- No cached translation of a partition meets a range (R218). -/
def Claim.forgotten (s : State) (part v n : Nat) : Prop :=
  (∀ c ∈ s.cores, ∀ l ∈ c.2.tlb, l.part = part → l.base + l.size ≤ v ∨ v + n ≤ l.base) ∧
  (∀ c ∈ s.clusters, ∀ l ∈ c.2.tlb, l.part = part → l.base + l.size ≤ v ∨ v + n ≤ l.base)

/-- The service core's view of a table entry is its new value (R258). -/
def Claim.entryIs (s : State) (scn pa : Nat) (e : Word) : Prop :=
  ∀ i < 8, (s.mem.view (.svc scn) (locPA pa + i)).byte = e.extractLsb' (8 * i) 8

/-- R212, R218, R305: MAP of one record, UNMAP and SHARE of one page write the entry in one write and drop the partition's cached
translations of the range; none is taken while an access through the old entry is under way. -/
def Said.HostTableCommands : Prop :=
  (∀ (r : HostReq) (s : State) level old, let pa := numAt r.body 8 8
    let e := wordAt r.body 16
    let v := numAt r.body 24 8
    r.len = 32 → numAt r.body 0 4 = 1 → zerosAt r.body 4 4 = true → pa % 8 = 0 → v < 2 ^ 56 →
    ((∀ x ∈ s.path r.part v, x.2.1 ≠ pa) → ∃ h, cmdMap r s = some h ∧ h.status = 2) ∧
    ((s.path r.part v).find? (fun x => x.2.1 == pa) = some (level, pa, old) → v % pageSize level = 0 → s.holdsPA r.part pa 8 = true →
      s.entryHeld r.part level e = true →
      s.leavesIn r.part v (pageSize level) (pageSize level / 2 ^ 19) = [] → ∃ h, cmdMap r s = some h ∧ h.status = 0 ∧
        Claim.entryIs h.st r.scn pa e ∧ Claim.forgotten h.st r.part v (pageSize level))) ∧
  (∀ (r : HostReq) (s : State) pa e, let v := numAt r.body 0 8
    r.len = 16 → v % 2 ^ 19 = 0 → numAt r.body 8 8 = 2 ^ 19 → v + 2 ^ 19 ≤ 2 ^ 56 →
    (s.path r.part v).getLast? = some (3, pa, e) → e % 4 = 3 → malformedEntry 3 e = false →
    (s.entryBusy r.part 3 e = true → cmdUnmap r s = none) ∧
    (s.entryBusy r.part 3 e = false → ∃ h, cmdUnmap r s = some h ∧ h.status = 0 ∧ Claim.entryIs h.st r.scn pa 0 ∧
      Claim.forgotten h.st r.part v (2 ^ 19))) ∧
  (∀ (r : HostReq) (s : State), r.len ≠ 16 ∨ numAt r.body 0 8 % 2 ^ 19 ≠ 0 ∨ numAt r.body 8 8 % 2 ^ 19 ≠ 0 ∨ numAt r.body 8 8 = 0 →
    ∃ h, cmdUnmap r s = some h ∧ h.status = 1) ∧
  (∀ (r : HostReq) (s : State) l pa old, let v := numAt r.body 0 8
    let w := numAt r.body 24 8
    let p2 := numAt r.body 16 1
    let perm := numAt r.body 17 1
    r.len = 32 → v % 2 ^ 19 = 0 → numAt r.body 8 8 = 2 ^ 19 → v + 2 ^ 19 ≤ 2 ^ 56 → 1 ≤ p2 → p2 ≤ 15 → perm ≤ 7 →
    zerosAt r.body 18 6 = true → w % 2 ^ 19 = 0 → w + 2 ^ 19 ≤ 2 ^ 56 →
    ((s.part p2).started = false → ∃ h, cmdShare r s = some h ∧ h.status = 2) ∧
    ((s.part p2).started = true → s.walk r.part v = .leaf l → (∀ x pb e, (s.path p2 w).getLast? = some (x, pb, e) → x ≠ 3) →
      ∃ h, cmdShare r s = some h ∧ h.status = 4) ∧
    ((s.part p2).started = true → s.walk r.part v = .leaf l → (s.path p2 w).getLast? = some (3, pa, old) →
      (s.entryBusy p2 3 old = true → cmdShare r s = none) ∧
      (s.entryBusy p2 3 old = false → ∃ h, cmdShare r s = some h ∧ h.status = 0 ∧
        Claim.entryIs h.st r.scn pa (BitVec.ofNat 64 (3 + 4 * perm + (if l.nc then 32 else 0) + (l.pa + (v - l.base)))) ∧
        Claim.forgotten h.st p2 w (2 ^ 19))))

/-- R221, R258, R305, R306, R212, R218: the claims HostMemoryCommands and HostTableCommands. -/
def Obligations.HostMemoryAndTables : Prop := Said.HostMemoryCommands ∧ Said.HostTableCommands

/-- R204, R305, R306, R382, R415, R418: PSTART, PSTOP, STATUS, GROUP and SESSION. -/
def Obligations.HostPartitionCommands : Prop :=
  (∀ (r : HostReq) (s : State), let b := r.body
    let p := numAt b 0 1
    (pstartOk r = true → (s.part p).started = true → (cmdPstart r s).status = 2) ∧
    (r.len < 176 ∨ p = 0 ∨ 15 < p ∨ 1 < numAt b 1 1 ∨ 2 < numAt b 2 1 → (cmdPstart r s).status = 1) ∧
    (pstartOk r = true → (s.part p).started = false →
      s.freeFor (numAt b 1 1 == 1) (bitsAt b 40 64) (bitsAt b 104 64) (rangesOf b (numAt b 168 4)) = true →
      s.routeAll (Config.peersOf p) = none → (cmdPstart r s).status = 4) ∧
    (numAt b 24 8 < 0x1000_0000_0000 ∨ 0x1400_0000_0000 ≤ numAt b 24 8 → (cmdPstart r s).status = 1) ∧
    (pstartOk r = true → (s.part p).started = false → (s.routeAll (Config.peersOf p)).isSome = true →
      s.freeFor (numAt b 1 1 == 1) (bitsAt b 40 64) (bitsAt b 104 64) (rangesOf b (numAt b 168 4)) = true →
      let t := (cmdPstart r s).st
      (cmdPstart r s).status = 0 ∧ (t.part p).started = true ∧ (t.part p).clusters = bitsAt b 40 64 ∧
      (t.part p).granules = bitsAt b 104 64 ∧ (t.part p).ranges = rangesOf b (numAt b 168 4) ∧
      (t.part p).trt = wordAt b 16 &&& 0x0000_FFFF_FFFF_0001 ∧ (t.part p).sets = [] ∧ (t.part p).binds = [] ∧
      (∀ g ∈ rangesOf b (numAt b 168 4), ∀ i < g.2, Memory.get t.mem.d (g.1 + i) = 0) ∧
      ((∀ q ∈ s.parts, q.2.started = false ∨ q.2.resident = false ∨ ∀ c ∈ bitsAt b 40 64, c ∉ q.2.clusters) →
        (t.part p).resident = true ∧ ∀ cl ∈ bitsAt b 40 64, t.cluster cl = {} ∧ ∀ c ∈ coresOf cl,
          (∃ q, (q = p ∨ q = 16) ∧ t.core c = { home := c, partid := q, cyc := (s.core c).cyc }) ∧
          ∀ k < 16, t.ctx c k = { vcid := c, vctx := k }))) ∧
  (∀ (r : HostReq) (s : State), let p := numAt r.body 0 1
    (r.len ≠ 8 ∨ p = 0 ∨ 15 < p → (cmdPstop r s).status = 1) ∧
    (r.len = 8 → zerosAt r.body 1 7 = true → 1 ≤ p → p ≤ 15 →
      ((s.part p).started = false → (cmdPstop r s).status = 2) ∧
      ((s.part p).started = true → let t := (cmdPstop r s).st
        (cmdPstop r s).status = 0 ∧ (t.part p).started = false ∧ (∀ x ∈ t.streams, x.2.part ≠ p) ∧
        (∀ x ∈ t.sessions, x.2.part ≠ p) ∧ (∀ x ∈ t.launches, x.req.part ≠ p) ∧
        ((s.part p).resident = true → ∀ cl ∈ (s.part p).clusters, t.cluster cl = {} ∧ ∀ c ∈ coresOf cl, (t.core c).partid ≠ p)))) ∧
  (∀ (r : HostReq) (s : State), (r.len ≠ 0 → (cmdStatus r s).status = 1) ∧
    (r.len = 0 → let o := cmdStatus r s
      let h := s.health
      o.status = 0 ∧ o.data.take 8 = (List.range 8).map (fun i => h.extractLsb' (8 * i) 8) ∧ h.getLsbD 0 = s.repl ∧
      h.getLsbD 1 = s.sreq ∧ (s.power = .recovery → h.getLsbD 2 = true) ∧ h.getLsbD 3 = s.keyx ∧ h.extractLsb' 8 32 = s.links ∧
      h.extractLsb' 40 24 = 0 ∧
      (r.part = 0 → (tgetD o.st.services r.scn {}).reports = []) ∧
      (∀ e ∈ (tgetD o.st.services r.scn {}).reports, e ∈ (tgetD s.services r.scn {}).reports ∧ e.2.1 ≠ r.part) ∧
      (tgetD o.st.services r.scn {}).dropped = 0 ∧ (s.sreq = false → o.st.sreq = false))) ∧
  (∀ (r : HostReq) (s : State), (cmdGroup r s).status = 0 → let ms := (List.range (numAt r.body 2 2)).map (fun i => numAt r.body (8 + 4 * i) 4)
    Config.moduleId.toNat ∈ ms ∧ tget (cmdGroup r s).st.groups (numAt r.body 0 1) = some ms) ∧
  (∀ (r : HostReq) (s : State), (cmdDefine r s).status = 0 → ∃ e, tget (cmdDefine r s).st.sessions (numAt r.body 0 2) = some e ∧
    e.part = r.part ∧ e.kind = numAt r.body 8 1 ∧ e.grp = numAt r.body 9 1 ∧ e.n = numAt r.body 10 2 ∧ e.ca = wordAt r.body 16 ∧
    e.cs = wordAt r.body 24 ∧ e.ra = wordAt r.body 32 ∧ e.rs = wordAt r.body 40 ∧ e.round = 0 ∧ e.refused = false ∧
    e.kind ≤ 5 ∧ (e.kind = 0 → 4 ≤ e.n ∧ e.n ≤ 65536 ∧ e.n % 4 = 0) ∧ (e.kind = 5 → 1 ≤ e.n ∧ e.n ≤ 128) ∧
    (1 ≤ e.kind → e.kind ≤ 4 → 1 ≤ e.n ∧ e.n ≤ 1024)) ∧
  (∀ (r : HostReq) (s : State), (cmdRemove r s).status = 0 → (s.sessions.map Prod.fst).Nodup →
    tget (cmdRemove r s).st.sessions (numAt r.body 0 2) = none)

/-- R23, R25, R58, R305, R307, R391, R418: a LAUNCH that is taken sends its start messages, the placement of sections, a keeper's
start, the reply when the completion word is reached, requests through mailbox 253, and stop reports. -/
def Obligations.LaunchAndReports : Prop :=
  (∀ (r : HostReq) (s : State), let n := numAt r.body 56 4
    let cores := (List.range n).map (fun i => numAt r.body (64 + 2 * i) 2)
    (n = 0 ∨ 8192 < n ∨ r.len ≠ 64 + 2 * n ∨ ¬cores.Nodup ∨ (wordAt r.body 0).toNat % 64 ≠ 0 ∨ (wordAt r.body 48).toNat % 8 ≠ 0 →
      (cmdLaunch r s).status = 1) ∧
    ((cmdLaunch r s).status = 0 → (cmdLaunch r s).later = true ∧ (∀ c ∈ cores, s.holdsCore r.part c = true) ∧
      ∃ pc view, (cmdLaunch r s).st.net = s.net ++ cores.map (fun c => .start
        { part := r.part, core := c, pc, args := (List.range 4).map (fun i => wordAt r.body (16 + 8 * i)), view := some view }) ∧
      (cmdLaunch r s).st.launches = s.launches ++ [{ scn := r.scn, req := r, cw := wordAt r.body 48, ncore := n }])) ∧
  (∀ (ss : List Sect) base, (placeSects ss base).length = ss.length ∧
    ∀ (i : Nat) (x : Sect) (a : Nat), ss[i]? = some x → (placeSects ss base)[i]? = some a →
      (x.core = true → a = 2 ^ 63 + x.coff) ∧
      (x.core = false → a % 2 ^ x.algl = 0 ∧ base ≤ a ∧ (∀ (j : Nat) (y : Sect) (b : Nat), j < i → ss[j]? = some y → y.core = false →
        (placeSects ss base)[j]? = some b → b + y.size ≤ a) ∧
        ∃ lo, (lo = base ∨ ∃ (j : Nat) (y : Sect) (b : Nat), j < i ∧ ss[j]? = some y ∧ y.core = false ∧ (placeSects ss base)[j]? = some b ∧ lo = b + y.size) ∧
          lo ≤ a ∧ a < lo + 2 ^ x.algl)) ∧
  (∀ (s : State) i m, s.net[i]? = some (.start m) → s.runs m.core = true → (s.core m.core).partid = m.part →
    (∀ e ∈ s.net.take i, ∀ n, e = .start n → n.core = m.core → n.part ≠ m.part) → (s.part m.part).preempted = false →
    let k := s.keeper m.core
    (s.keeperIdle m.core k = true → (s.ctx m.core k).stopped = false → m.args.length = 4 → ∃ u : State,
      exec (.startMessage i) s = .next u ∧ u.net = s.net.eraseIdx i ∧ (u.ctx m.core k).pc = m.pc ∧ (u.ctx m.core k).run = .held ∧
      (∀ n : Fin 32, (u.ctx m.core k).x.get n = if n.val < 4 then m.args.getD n.val 0 else 0) ∧
      (∀ t, m.view = some t → ∀ x ∈ t, x.2.stamp ≤ (u.mem.view (.ctx m.core k) x.1).stamp) ∧
      (m.view = none → ∀ l, (s.mem.dHeld l).stamp ≤ (u.mem.view (.ctx m.core k) l).stamp)) ∧
    (s.keeperIdle m.core k = false ∨ (s.ctx m.core k).stopped = true → (s.core m.core).startBuf = none → ∃ u : State, exec (.startMessage i) s = .next u ∧
      u.net = s.net.eraseIdx i ∧ (u.core m.core).startBuf = some m ∧ u.ctxs = s.ctxs ∧ u.mem = s.mem) ∧
    ((s.core m.core).startBuf ≠ none → exec (.startMessage i) s = .next s)) ∧
  (∀ (s : State) i (l : LaunchRec) ls, s.launches[i]? = some l → s.power = .on → s.present l.req.part = true →
    s.locate (s.viaEngine 0 l.req.part) { r := true } [0x0, 0xA, 0xB] l.cw.toNat 8 8 = .at ls →
    let v := leVal (ls.map (Memory.get s.mem.d))
    (v < l.ncore → exec (.launchComplete i) s = .next s) ∧
    (l.ncore ≤ v → ∃ u : State, exec (.launchComplete i) s = .next u ∧ u.launches = s.launches.eraseIdx i ∧
      Claim.replied s u l.req 0 [] ∧ u.mem = s.mem ∧ u.ctxs = s.ctxs)) ∧
  (∀ (s : State) i m scn a, s.net[i]? = some (.forward m scn) → s.power = .on → (tgetD s.services scn {}).released = true →
    s.present m.part = true → (s.part m.part).replay.mode = .off →
    (({ s with net := s.net.eraseIdx i } : State).svcBegin scn).tenantCmd (m.w0.extractLsb' 0 8).toNat scn m.part (m.w0 &&& ~~~0xFF) = some a →
    a.st.net = s.net.eraseIdx i → ∃ u : State, exec (.mailboxRequest i) s = .next u ∧ u.mem = (a.st.svcEnd scn false).mem ∧
      (m.call = false → u.net = s.net.eraseIdx i) ∧
      (m.call = true → ∃ k : Fin 4, k.val = (m.w1.extractLsb' 20 2).toNat ∧
        u.net = s.net.eraseIdx i ++ [.reply m.part m.src m.sctx k a.status])) ∧
  (∀ (s : State) i scn core part w0 w1, s.net[i]? = some (.stop scn core part w0 w1) → s.power = .on →
    (tgetD s.services scn {}).released = true → ∃ u : State, exec (.stopReport i) s = .next u ∧ u.net = s.net.eraseIdx i ∧
      u.sreq = true ∧ u.mem = s.mem ∧
      ((tgetD s.services scn {}).reports.length < 64 →
        (tgetD u.services scn {}).reports = (tgetD s.services scn {}).reports ++ [(core, part, w0, w1)]) ∧
      (64 ≤ (tgetD s.services scn {}).reports.length → (tgetD u.services scn {}).reports = (tgetD s.services scn {}).reports ∧
        (tgetD u.services scn {}).dropped = (tgetD s.services scn {}).dropped + 1))

/-! ## World switch and the fabric -/

/-- R403, R404: a world switch writes the deadlines of a partition that runs and asks it to stop; it then saves it, frees its
contexts and restores the other partition, whose held contexts go on with their new deadlines. -/
def Obligations.WorldSwitch : Prop :=
  (∀ (s : State) out inn slice homes, let p := s.part out
    s.power = .on → p.started = true → p.sliced = true → p.resident = true → p.stopping = false → ∃ u : State,
      exec (.worldSwitch out inn slice homes) s = .next u ∧ (u.part out).stopping = true ∧ u.mem = s.mem ∧ u.cores = s.cores ∧
      ∀ c k, k < 16 → (c ∈ s.coresIn out → (s.ctx c k).run ≠ .vacant → (u.ctx c k) = { s.ctx c k with ydl := slice }) ∧
        (c ∉ s.coresIn out → u.ctx c k = s.ctx c k)) ∧
  (∀ (s : State) out inn slice homes a seats, let p := s.part out
    s.power = .on → p.started = true → p.sliced = true → p.resident = true → p.stopping = true → p.preempted = true → out ≠ inn →
    (s.part inn).saved = some a → seatsOf a homes = some seats → s.clustersFree inn = true ∨ (∀ q ∈ s.parts, q.1 = out ∨ q.1 = inn) →
    (seats.map Seat.v).Nodup → (∀ e ∈ seats, (e.ctxs.map Prod.snd).Nodup ∧ ∀ x ∈ e.ctxs, x.2 < 16) → rising (s.parts.map Prod.fst) = true →
    ∃ (u : State) (o : SaveArea), exec (.worldSwitch out inn slice homes) s = .next u ∧ (u.part inn).resident = true ∧
      (u.part inn).saved = none ∧ (u.part inn).preempted = false ∧ (u.part out).resident = false ∧ (u.part out).saved = some o ∧
      (∀ c ∈ s.coresIn out, ∀ k ∈ s.ctxsOf c, ∀ x, tget s.ctxs (c * 16 + k) = some x →
        tget o.ctxs (c * 16 + k) = some { x with trace := { x.trace with tail := [] } }) ∧
      ∀ e ∈ seats, ∀ x ∈ e.ctxs, (tgetD a.ctxs (e.v * 16 + x.1) {}).run ≠ .vacant →
        (u.ctx e.v x.2).ydl = slice ∧ (u.ctx e.v x.2).stopped = false ∧
        (u.ctx e.v x.2).tvec = (tgetD a.ctxs (e.v * 16 + x.1) {}).tvec) ∧
  (∀ (s : State) out inn slice homes, s.power = .on → (s.part out).stopping = true ∧ (s.part out).preempted = false →
    (s.part inn).saved = none → exec (.worldSwitch out inn slice homes) s = .next s)

/-- R311, R313, R314: the identity of each kind, and the combination of a node, element by element; a fault of an input is the
node's. -/
def Said.CombiningTree : Prop :=
  (∀ n : Nat, identity 1 n = (List.replicate n 0x8000_0000, 0) ∧ identity 2 n = (List.replicate n 0, 0) ∧
    identity 3 n = (List.replicate n 0x7FC0_0000, 0) ∧ identity 4 n = (List.replicate n 0x8000_0000, 0) ∧
    identity 5 n = (0xFF80_0000 :: List.replicate (n + 1) 0, 0) ∧ (identity 0 n).2.getLsbD 3 = true) ∧
  (∀ kind (a b : List Lane × BitVec 5), (a.2 ||| b.2) &&& 24 ≠ 0 → combine kind a b = ([], a.2 ||| b.2)) ∧
  (∀ kind (a b : List Lane × BitVec 5), (a.2 ||| b.2) &&& 24 = 0 → a.1.length = b.1.length → ∀ i x y, a.1[i]? = some x → b.1[i]? = some y →
    (kind = 1 → (combine kind a b).1[i]? = some (BitVec.ofNat 32 (fp32.add .ne x.toNat y.toNat).1)) ∧
    (kind = 2 → (combine kind a b).1[i]? = some (x + y)) ∧
    (kind = 3 → (combine kind a b).1[i]? = some (BitVec.ofNat 32 (fp32.minMax true x.toNat y.toNat).1)) ∧
    (kind = 4 → (combine kind a b).1[i]? = some (if x.toInt < y.toInt then y else x)) ∧
    (kind = 0 → (combine kind a b).1[i]? = some x) ∧
    (kind = 5 → 1 ≤ i → ∀ ma mb, a.1[0]? = some ma → b.1[0]? = some mb →
      ((fp32.num ma.toNat).isNan = true ∨ (fp32.num mb.toNat).isNan = true → (combine kind a b).1[i]? = some 0x7FC0_0000) ∧
      ((fp32.num ma.toNat).isNan = false → (fp32.num mb.toNat).isNan = false →
        let m := (fp32.minMax true ma.toNat mb.toNat).1
        (combine kind a b).1[0]? = some (BitVec.ofNat 32 m) ∧ (combine kind a b).1[i]? = some (BitVec.ofNat 32 (fp32.ofNum .ne
          (((fp32.num x.toNat).mul (fp32.num (scaleOf m ma.toNat).1)).add .ne ((fp32.num y.toNat).mul (fp32.num (scaleOf m mb.toNat).1)))).1)))) ∧
  (∀ kind n, combine kind (identity kind n) (identity kind n) = identity kind n)

/-- The relay's view of RS is the value k | F << 32 (R312). -/
def Claim.released (u : State) (sid loc k : Nat) (f : BitVec 5) : Prop :=
  ∀ i < 8, (u.mem.view (relayOf sid) (loc + i)).byte = (BitVec.ofNat 64 (k + f.toNat * 2 ^ 32)).extractLsb' (8 * i) 8

/-- R309, R311 to R314: a round of a session on this module: the contribution when CS shows its number, the nodes that are combined
here, the values that go up and down the tree, the result with RS, and an unreachable member. Which member combines a node and which
branch a copy takes is the model's placement (log 113). -/
def Said.SessionRounds : Prop :=
  ∀ (s : State) sid e, tget s.sessions sid = some e → s.sessionRuns e = true → (s.part e.part).replay.mode = .off →
    let n := (s.members e).length
    let idx := s.memberIdx e
    let member (i : Nat) := (s.members e).getD i 0
    (∀ loc, e.contributed = false → (e.kind = 0 → idx = 0) → s.sessionWord e { r := true } e.cs = some loc →
      s.acquireReady (relayOf sid) .device loc = true →
      let a := (s.used (s.viaEngine 0 e.part) 16 e.cs.toNat (locsFrom loc 8)).acquireBy (relayOf sid) .device e.part loc e.cs
      let v := a.1
      (v.toNat % 2 ^ 32 ≠ e.round + 1 → ∃ u : State, exec (.roundContribution sid) s = .next u ∧ tget u.sessions sid = some e ∧
        u.mem = a.2.mem ∧ u.roundOut = s.roundOut) ∧
      (v.toNat % 2 ^ 32 = e.round + 1 → ∃ (u : State) (x : List Lane × BitVec 5), exec (.roundContribution sid) s = .next u ∧
        tget u.sessions sid = some { e with contributed := true, values := e.values ++ [((0, idx), x)] } ∧
        u.mem.d = s.mem.d ∧ (v.getLsbD 63 = true → x = identity e.kind e.n) ∧
        (v.getLsbD 63 = false → x.1.length = elemsOfKind e.kind e.n ∧ x.2 = 0 ∨ x = ([], 8)) ∧
        (idx % 2 = 0 → u.roundOut = s.roundOut) ∧
        (idx % 2 = 1 → u.roundOut = s.roundOut ++
          [{ dst := member (idx - 1), sid, round := e.round + 1, node := some (0, idx), value := x.1, flags := x.2 }]))) ∧
    (∀ level node, 0 < level → node < nodesAt n level → node * 2 ^ level = idx → aget e.values (level, node) = none → ∀ a,
      aget e.values (level - 1, 2 * node) = some a →
      (∀ b, aget e.values (level - 1, 2 * node + 1) = some b → ∃ u : State, exec (.treeCombine sid level node []) s = .next u ∧
        tget u.sessions sid = some { e with values := e.values ++ [((level, node), combine e.kind a b)] } ∧ u.mem = s.mem) ∧
      (aget e.values (level - 1, 2 * node + 1) = none → nodesAt n (level - 1) = 2 * node + 1 → ∃ u : State,
        exec (.treeCombine sid level node []) s = .next u ∧
        tget u.sessions sid = some { e with values := e.values ++ [((level, node), a)] } ∧ u.mem = s.mem) ∧
      (aget e.values (level - 1, 2 * node + 1) = none → 2 * node + 1 < nodesAt n (level - 1) → ∃ u : State,
        exec (.treeCombine sid level node []) s = .next u ∧ tget u.sessions sid = some e ∧ u.mem = s.mem)) ∧
    (∀ level node, node * 2 ^ level ≠ idx → ∃ u : State, exec (.treeCombine sid level node []) s = .next u ∧
      tget u.sessions sid = some e ∧ u.mem = s.mem ∧ u.roundOut = s.roundOut) ∧
    (∀ l k x f, aget e.values (l, k) = none → ¬(l = 0 ∧ k = idx) → ∃ u : State,
      exec (.treeCombine sid 0 0 [(l, k, x, f)]) s = .next u ∧
      tget u.sessions sid = some { e with values := e.values ++ [((l, k), x, f)] } ∧ u.mem = s.mem) ∧
    (∀ rs v, e.contributed = true → s.sessionWord e { w := true } e.rs = some rs → aget e.values (rootLevel n, 0) = some v →
      (v.2 &&& 24 ≠ 0 → ∃ u : State, exec (.roundResult sid none) s = .next u ∧ Claim.released u sid rs (e.round + 1) v.2 ∧
        tget u.sessions sid = some { e with round := e.round + 1, contributed := false, values := [] } ∧
        ∀ l, (∀ i < 8, l ≠ rs + i) → u.mem.view (relayOf sid) l = s.mem.view (relayOf sid) l) ∧
      (v.2 &&& 24 = 0 → v.1.length = elemsOfKind e.kind e.n →
        (∀ l < rootLevel n, idx % 2 ^ (l + 1) = 0 → idx + 2 ^ l < n → ∃ u : State, exec (.roundResult sid none) s = .next u ∧
          { dst := member (idx + 2 ^ l), sid, round := e.round + 1, node := none, value := v.1, flags := v.2 } ∈ u.roundOut) ∧
        ((∀ ls, s.locate (s.viaEngine 0 e.part) { w := true } [0x0, 0xA, 0xB] e.ra.toNat (4 * v.1.length) 1 ≠ .at ls) →
          ∃ u : State, exec (.roundResult sid none) s = .next u ∧ Claim.released u sid rs (e.round + 1) (v.2 ||| 8)) ∧
        ∀ ls, s.locate (s.viaEngine 0 e.part) { w := true } [0x0, 0xA, 0xB] e.ra.toNat (4 * v.1.length) 1 = .at ls →
        (∀ l ∈ ls, s.mem.waited (l / 8 * 8) = false) → s.mem.badAt ls = none →
        ls.length = 4 * v.1.length → ls.Nodup → (∀ i < 8, rs + i ∉ ls) →
        ∃ u : State, exec (.roundResult sid none) s = .next u ∧ Claim.released u sid rs (e.round + 1) v.2 ∧
          tget u.sessions sid = some { e with round := e.round + 1, contributed := false, values := [] } ∧
          ∀ i < ls.length, (u.mem.view (relayOf sid) (ls.getD i 0)).byte = (v.1.getD (i / 4) 0).extractLsb' (8 * (i % 4)) 8)) ∧
    (∀ rs, s.sessionWord e { w := true } e.rs = some rs → ∃ u : State, exec (.memberUnreachable sid) s = .next u ∧
      Claim.released u sid rs (e.round + 1) 16 ∧ tget u.sessions sid =
        some { e with round := e.round + 1, contributed := false, values := [], refused := true } ∧
      u.sessionRuns { e with round := e.round + 1, contributed := false, values := [], refused := true } = false)

/-- R311, R313, R314, R309, R311 to R314: the claims CombiningTree and SessionRounds. -/
def Obligations.CollectiveRounds : Prop := Said.CombiningTree ∧ Said.SessionRounds

/-! ## Encodings, reset, one step, and what every step keeps -/

/-- Words that the spec prints, with the instructions they stand for (R59 to R80). -/
def Claim.knownWords : List (Nat × Instr) :=
  [(0x0000_0805_0280_8010, .add ⟨false, 0⟩ true (.x 8) (.l 0 2) (.l 0 2)),
   (0x0000_0180_58D4_9010, .shl ⟨false, 0⟩ false (.x 9) .it (.x 11)),
   (0x0000_6190_0008_1018, .cmpi ⟨false, 0⟩ false .gtu 1 (.x 2) ⟨.h64, 6⟩),
   (0xFFFF_0030_0001_F104, .jal ⟨false, 1⟩ (.x 31) ⟨.h64, -16⟩),
   (0x0000_0050_007C_0004, .ret ⟨false, 0⟩ (.x 31)),
   (0x0000_9000_0000_500C, .sysrd ⟨false, 0⟩ (.x 5) 9),
   (0x0000_0010_0000_0008, .endl),
   (0x0000_0010_1004_3020, .vsub ⟨false, 0⟩ (.v 3) (.v 1) (.v 2)),
   (0x0000_0020_1010_5024, .vexpi ⟨false, 0⟩ (.v 5) (.v 4) (.v 2)),
   (0x0000_0000_1808_0030, .mmab ⟨false, 0⟩ 0 (.x 2) (.x 3)),
   (0x0010_5040_0000_1034, .swapt ⟨false, 0⟩ true 1 0 5),
   (0x0000_0080_0000_0078, .tret ⟨false, 0⟩)]

/-- R59, R60, R62, R63, R64, R67, R76, R77, R78: words that the spec prints decode to the instructions they stand for, and a
word of zeros to none (R79). -/
def Obligations.DecodeKnownWords : Prop :=
  (∀ e ∈ Claim.knownWords, decodeTableWord 64 e.1 = some e.2) ∧
  decodeTableWord 96 0x0000_0000_0000_0010_0000_4015 = some (.li ⟨false, 0⟩ (.x 4) ⟨.h96, 0⟩) ∧
  decodeTableWord 128 0x8000_0000_0000_2000_0000_0010_0000_A016 =
    some (.li ⟨false, 0⟩ (.x 10) ⟨.h128, 0x8000_0000_0000_2000⟩) ∧
  decodeTableWord 64 0 = none

/-- R59 to R80: every well-formed instruction that has an encoding decodes from it as itself, whatever bytes follow, and only
events and the reserved encoding have none. -/
def Obligations.DecodeEncode : Prop :=
  (∀ i, i.wf = true → ∀ bs, encode i = some bs → ∀ rest,
    (decode (bs ++ rest)).map (fun d => (d.1.instr, d.2)) = some (i, bs.length)) ∧
  (∀ i, i.wf = true → (encode i = none ↔ isEvent i = true ∨ i = .reservedEncoding))

/-- The majors of R76. -/
def Claim.majors : List Nat :=
  [0x01, 0x02, 0x03, 0x04, 0x05, 0x06, 0x08, 0x09, 0x0A, 0x0B, 0x0C, 0x0D, 0x10, 0x11, 0x12, 0x13, 0x14, 0x18, 0x19, 0x1A,
   0x1B, 0x1C, 0x1D, 0x1E]

/-- R76, R77, R79: a head with a major that no barrel core runs, minor bit 7 outside the majors that have .w forms, or bits
above a pair word's halves, decodes to nothing; every word decodes to a well-formed
instruction or to none. -/
def Obligations.ReservedWords : Prop :=
  (∀ lo hi : Nat, lo % 4 ≠ 3 → lo / 2 ^ 2 % 2 ^ 6 ∉ Claim.majors → decodeWord lo hi = none) ∧
  (∀ lo hi : Nat, lo % 4 ≠ 3 → 0x80 ≤ lo / 2 ^ 36 % 2 ^ 8 → lo / 2 ^ 2 % 2 ^ 6 ∉ [0x04, 0x05, 0x06, 0x12] →
    decodeWord lo hi = none) ∧
  (∀ lo hi : Nat, lo % 4 = 3 → hi / 2 ^ 58 % 2 ^ 6 ≠ 0 → decodeWord lo hi = none) ∧
  (∀ lo hi d, decodeWord lo hi = some d → d.instr.wf = true)

/-- R20, R82, R84, R203, R409: what reset leaves: every register the rules give a value at it, the supply off, and memory that
lists nothing. That an unwritten byte reads as 0 and that registers without a stated value are 0 is the model's (log 2, log 10). -/
def Said.ResetValues : Prop :=
  State.reset.power = .off ∧ State.reset.mem.d = [] ∧ State.reset.mem.empty = [] ∧
  (∀ l, Memory.get State.reset.mem.d l = 0) ∧
  (∀ c k, let x := State.reset.ctx c k
    x.vcid = c ∧ x.vctx = k ∧ x.pc = 0 ∧ x.h = false ∧ x.rm = 0 ∧ x.ff = 0 ∧ x.tvec = 0 ∧ x.ydl = 0 ∧ x.qmap = 0 ∧
    x.run = .vacant ∧ (∀ r, x.x.get r = 0) ∧ (∀ n, x.gReg n = if n = 0 then BitVec.allOnes 32 else 0) ∧
    (∀ r, x.v.get r = { bits := 0, tag := .raw }) ∧ (∀ n, x.z.get n = { bits := 0, tag := .raw })) ∧
  (∀ c, let y := State.reset.core c
    y.home = c ∧ y.segb = 0 ∧ y.segl = 0x100000 ∧ y.cyc = 0 ∧ y.cpdone = 0 ∧ y.partid = 0)

/-- R246 (log 2): the memory of the reset state is in canonical form. -/
def Said.ResetIsSound : Prop := State.reset.Sound

/-- R20, R82, R84, R203, R409, R246: the claims ResetValues and ResetIsSound. -/
def Obligations.ResetState : Prop := Said.ResetValues ∧ Said.ResetIsSound

/-- R246: every step keeps the memory's canonical form: rising addresses, no listed byte that equals what an unlisted one
reads as. -/
def Obligations.StepKeepsSound : Prop := ∀ s t : State, s.Sound → step s = .next t → t.Sound

/-- R12, R15, R59, R71, R79, R409, R417: a step with a slot to issue fetches at the PC of its context, raises PLACE for an instruction that
does not fit its block, and else executes what the bytes decode to, a reserved word as ILLEGAL; then its cycle ends. Without
the supply only the boot happens; else the step takes the next event. -/
def Obligations.StepRunsDecoded : Prop :=
  (∀ s c k, s.power ≠ .off → s.issue = some (c, k) →
    let s0 : State := { s with issue := none, cur := (c, k), acct := .iss }
    let pc := (s.ctx c k).pc
    (∀ n s1, Gives (lengthAt pc) s0 n s1 →
      (32 < pc.toNat % 32 + n →
        step s = .next (State.endCycle { s0.takeFault c k { code := .place } with acct := .iss } c k true)) ∧
      (pc.toNat % 32 + n ≤ 32 → ∀ bs t, Gives (fetchBytes pc.toNat n) s1 bs t →
        (∀ i m, decode bs = some (i, m) →
          step s = afterIssue c k (exec i.instr t) ∧
          ∀ u, exec i.instr t = .next u → step s = .next (u.endCycle c k (u.acct == .iss))) ∧
        (decode bs = none → step s = afterIssue c k (exec .reservedEncoding t)))) ∧
    (∀ n s1, Gives (lengthAt pc) s0 n s1 → ∃ b : Byte, n = if b.toNat % 4 = 0 then 8 else if b.toNat % 4 = 1 then 12 else 16) ∧
    (∀ blk n, s0.me.fetched.find? (fun f => f.1.toNat == pc.toNat / 32 * 32) = some blk → pc.toNat / 2 ^ 60 ≠ 0x8 →
      Gives (fetchBytes pc.toNat n) s0 ((blk.2.drop (pc.toNat % 32)).take n) s0)) ∧
  (∀ s : State, s.power = .off → (s.issue ≠ none ∨ s.agenda ≠ [] → step s = .fault .unpowered) ∧
    (s.issue = none → s.agenda = [] → step s = exec .powerOn s)) ∧
  (∀ (s : State) (i : Instr) (r : List Instr), s.power ≠ .off → s.issue = none → s.agenda = i :: r → isEvent i = true →
    step s = exec i { s with agenda := r })

/-- What an instruction on registers leaves as it was, from `s` to `t`, with the acting context's new registers `x`: every
byte of memory and all of the ordering machine, every other context and core, every cluster, die, stream, partition and
table, and of its own core all but the queues its operands name, the frames that hold loop names, and the event counts. -/
def Claim.Framed (s t : State) (x : Ctx) (queues loops : Bool) : Prop :=
  let me := s.cc * 16 + s.ck
  t.me = retireCtx x 8 ∧ t.mem = s.mem ∧ t.cur = s.cur ∧
  (∀ n, n ≠ me → tget t.ctxs n = tget s.ctxs n) ∧ (∀ c, c ≠ s.cc → t.core c = s.core c) ∧
  t.core s.cc = { s.core s.cc with
    hwq := (t.core s.cc).hwq, frames := (t.core s.cc).frames, cntEv := (t.core s.cc).cntEv } ∧
  (queues = false → (t.core s.cc).hwq = (s.core s.cc).hwq) ∧ (loops = false → (t.core s.cc).frames = (s.core s.cc).frames) ∧
  t = { s with ctxs := t.ctxs, cores := t.cores, acct := .iss }

/-- A scalar destination's new value, in the registers of a context. -/
def Claim.withS (x : Ctx) (rd : SDst) (v : Word) : Ctx :=
  match rd with
  | .x r => { x with x := x.x.set r.val v r.isLt }
  | _ => x

/-- The operand is a queue name, or the destination is. -/
def Claim.queueS (rd : SDst) (l : List SSrc) : Bool :=
  (match rd with | .q _ => true | _ => false) || l.any (fun a => match a with | .q _ => true | _ => false)

/-- The destination is a loop name. -/
def Claim.loopS (rd : SDst) : Bool := match rd with | .l _ => true | _ => false

/-- R66, R89, R122, R161: the frame of the scalar and elementwise vector instructions. Outside replay each completes, and
what it leaves changed is its destination, the queues its operands pop and push, for vectors FF, the PC and the control
state that completion moves; all else, and all memory, is as before. -/
def Obligations.RegisterFrame : Prop :=
  (∀ e ∈ Claim.scalarOps, ∀ g w rd a b s s1 s2 s3 u v,
    Issues (binInfo g rd a b) s s1 → Gives (readS a) s1 u s2 → Gives (readS b) s2 v s3 → Gives (checkS rd) s3 () s3 →
    (s.part s.myPart).replay.mode = .off →
    ∃ t r, exec (e.1 g w rd a b) s = .next t ∧
      Claim.Framed s t (Claim.withS s.me rd r) (Claim.queueS rd [a, b]) (Claim.loopS rd)) ∧
  (∀ e ∈ Claim.logicOps, ∀ g rd a b s s1 s2 s3 u v,
    Issues (binInfo g rd a b) s s1 → Gives (readS a) s1 u s2 → Gives (readS b) s2 v s3 → Gives (checkS rd) s3 () s3 →
    (s.part s.myPart).replay.mode = .off →
    ∃ t r, exec (e.1 g rd a b) s = .next t ∧
      Claim.Framed s t (Claim.withS s.me rd r) (Claim.queueS rd [a, b]) (Claim.loopS rd)) ∧
  (∀ e ∈ Claim.vec2, ∀ g (d : Fin 16) (a b : Fin 16) s s1 t,
    Issues (vecInfo g [.v a, .v b] [.v d]) s s1 → (s.me.v.get a).tag ∈ e.2.1 → (s.me.v.get b).tag ∈ e.2.1 →
    Claim.format e.2.2.1 [(s.me.v.get a).tag, (s.me.v.get b).tag] = some t →
    ∃ u r f, exec (e.1 g (.v d) (.v a) (.v b)) s = .next u ∧
      Claim.Framed s u { s.me with v := s.me.v.set d.val r d.isLt, ff := s.me.ff ||| f } false false ∧ r.tag = t ∧
      ∀ n < 32, (s.me.guardBits g).getLsbD n = false → getLane r.bits n = getLane (s.me.v.get d).bits n) ∧
  (∀ e ∈ Claim.vec1, ∀ g (d a : Fin 16) s s1,
    Issues (vecInfo g [.v a] [.v d]) s s1 → (s.me.v.get a).tag ∈ e.2.1 →
    ∃ u r f, exec (e.1 g (.v d) (.v a)) s = .next u ∧
      Claim.Framed s u { s.me with v := s.me.v.set d.val r d.isLt, ff := s.me.ff ||| f } false false ∧
      r.tag = (s.me.v.get a).tag ∧
      ∀ n < 32, (s.me.guardBits g).getLsbD n = false → getLane r.bits n = getLane (s.me.v.get d).bits n) ∧
  (∀ e ∈ Claim.vec3, ∀ g (d a b c : Fin 16) s s1 t,
    Issues (vecInfo g [.v a, .v b, .v c] [.v d]) s s1 → (s.me.v.get a).tag ∈ e.2.1 → (s.me.v.get b).tag ∈ e.2.1 →
    (s.me.v.get c).tag ∈ e.2.1 → Claim.format .int32 [(s.me.v.get a).tag, (s.me.v.get b).tag, (s.me.v.get c).tag] = some t →
    ∃ u r f, exec (e.1 g (.v d) (.v a) (.v b) (.v c)) s = .next u ∧
      Claim.Framed s u { s.me with v := s.me.v.set d.val r d.isLt, ff := s.me.ff ||| f } false false ∧ r.tag = t ∧
      ∀ n < 32, (s.me.guardBits g).getLsbD n = false → getLane r.bits n = getLane (s.me.v.get d).bits n)

/-! ## Forms that complete -/

/-- The acting context's instruction is guarded on, and no breakpoint unit of its cluster is set. -/
def Claim.calm (s : State) (g : Guard) : Prop :=
  (s.me.guardBits g).getLsbD 0 = true ∧ (s.cluster (s.clusterOf s.cc)).bps = []

/-- What a scalar operand that is neither a queue nor a loop name reads (R62). -/
def Claim.value (s : State) : SSrc → Option Word
  | .x r => some (s.me.x.get r)
  | .zero | .lane => some 0
  | .it => some (BitVec.ofNat 64 (s.itOf s.cc s.ck))
  | .cid => some (BitVec.ofNat 64 (s.cidOf s.cc s.ck))
  | .ctx => some (BitVec.ofNat 64 (s.ctxOf s.cc s.ck))
  | .l _ _ | .q _ => none

/-- The destination is a register, or the one that discards writes (R62). -/
def Claim.register : SDst → Prop
  | .x _ | .zero => True
  | .l _ | .q _ => False

/-- The instruction completes in its slot: its context goes on after `len` bytes with the destination written, and no memory
changes. -/
def Claim.writes (i : Instr) (s : State) (rd : SDst) (v : Word) (len : Nat) : Prop :=
  ∃ t, exec i s = .next t ∧ t.me = retireCtx (Claim.withS s.me rd v) len ∧ t.mem = s.mem

/-- R123 to R129, R131: ADD, SUB, MUL, MULH, MULHU, DIV, DIVU, REM, REMU, SHL, SHR, SAR, ROL, MIN, MAX, MINU, MAXU, AND, OR, XOR, ANDN,
ORN, CLZ, CTZ, POPC, MOV, ADDI, LI, EXTF, INSF, SEL and PGA complete on registers, with the stated result. -/
def Said.ScalarsComplete : Prop :=
  ∀ (s : State) g rd, Claim.calm s g → Claim.register rd →
    (∀ a b u v, Claim.value s a = some u → Claim.value s b = some v →
      (∀ e ∈ Claim.scalarOps, ∀ w, Claim.writes (e.1 g w rd a b) s rd (Claim.wide w e.2 u v) 8) ∧
      (∀ e ∈ Claim.logicOps, ∃ r : Word, (∀ i < 64, r.getLsbD i = e.2 (u.getLsbD i) (v.getLsbD i)) ∧
        Claim.writes (e.1 g rd a b) s rd r 8) ∧
      (∀ n, Claim.writes (.sel g rd n a b) s rd (if (s.me.gReg n).getLsbD 0 then u else v) 8) ∧
      (∀ pos len : Fin 64, pos.val + len.val < 64 → ∃ r : Word,
        (∀ i < 64, r.getLsbD i = if pos.val ≤ i ∧ i ≤ pos.val + len.val then v.getLsbD (i - pos.val) else u.getLsbD i) ∧
        Claim.writes (.insf g rd a b pos len) s rd r 8) ∧
      (∀ c space (disp : Imm) x, let o := v + if disp.form = .h64 then 0 else disp.val
        Claim.pgaAddr space u o = some x →
        c = false ∨ (o.toNat / 2 ^ (Claim.pgaFields space).2 = 0 ∧ u &&& ~~~(Claim.pgaFields space).1 = 0) →
        Claim.writes (.pga g c rd a b space disp) s rd x (formLen disp.form))) ∧
    (∀ a u, Claim.value s a = some u →
      (∀ e ∈ Claim.countOps, ∀ w, Claim.writes (e.1 g w rd a) s rd (BitVec.ofNat 64 (if w then e.2 32 (u.setWidth 32) else e.2 64 u)) 8) ∧
      Claim.writes (.mov g rd a) s rd u 8 ∧
      (∀ w (imm : Imm), Claim.writes (.addi g w rd a imm) s rd
        (if w then ((u + imm.val).setWidth 32).signExtend 64 else u + imm.val) (formLen imm.form)) ∧
      (∀ sx (pos len : Fin 64), pos.val + len.val < 64 → ∃ r : Word,
        (∀ i < 64, r.getLsbD i = if i ≤ len.val then u.getLsbD (pos.val + i) else sx && u.getLsbD (pos.val + len.val)) ∧
        Claim.writes (.extf g sx rd a pos len) s rd r 8)) ∧
    (∀ imm : Imm, Claim.writes (.li g rd imm) s rd imm.val (formLen imm.form))

/-- A request of the acting context has been sent, and its context waits for the reply (R222). -/
def Claim.asked (i : Instr) (s : State) (q : Pend) (t : State) : Prop :=
  exec i s = .next t ∧ t.me = { s.me with pend := some q, wait := none }

/-- R193 to R195: WBLD and LDT outside a loop are sent and join the order of the weight buffer; WEIGHT_LOAD_COMPLETE of a tile in the core's
own store, first in the order, completes the instruction. -/
def Said.WeightLoadsComplete : Prop :=
  (∀ (s : State) g xd xb (imm : Imm) d b tr, Claim.calm s g → s.curIter s.cc s.ck = none → Claim.value s xd = some d →
    Claim.value s xb = some b → (tr = true → descC d = false) → (descC d = true → descEs d = 1) → descOk d = true →
    (descC d = false → (b + imm.val).toNat % 16 = 0) → s.foldReady s.cc = true →
    ∃ t q, Claim.asked (if tr then .ldt g xd xb imm else .wbld g xd xb imm) s q t ∧ q.kind = .weight ∧ q.cls = .wmem ∧
      t.mem = s.mem ∧ ∃ w, t.myCore.wq = s.myCore.wq ++ [w] ∧ w.ctx = s.ck ∧ w.load = some (d, b + imm.val, tr)) ∧
  (∀ (s : State) c k (w : WAcc) r d src (p : Pend), k < 16 → s.runs c = true → (s.core c).wq = w :: r → w.ctx = k → w.dropped = false →
    w.load = some (d, src, false) → descC d = false → spaceOf src.toNat = 0x8 → src.toNat / 2 ^ 20 % 2 ^ 40 = 0 →
    let n := src.toNat % 2 ^ 20 + 16 * descEs d * descCnt d
    n ≤ (s.core c).segl.toNat → (s.core c).segb.toNat + n ≤ 2 ^ 20 → s.mem.bad = [] → (s.ctx c k).pend = some p → p.kind = .weight →
    ∃ t, exec (.weightLoadComplete c k) s = .next t ∧ (t.core c).wq = r ∧ t.ctx c k = retireCtx (s.ctx c k) p.len ∧
      t.mem.d = s.mem.d)

/-- A change of a counter of the acting core is due at the end of the cycle, and the instruction completes (R369). -/
def Claim.changes (i : Instr) (s : State) (id : Nat) (v : Option Nat) (cfg : Option Word) : Prop :=
  ∃ t, exec i s = .next t ∧ t.me = retireCtx s.me 8 ∧ t.mem = s.mem ∧ t.myCore.cntNew = s.myCore.cntNew ++ [(id, v, cfg)]

/-- R359, R363, R365 to R369, R405: CNTRD, CNTRD.c, CNTWR, CNTCFG, CNTSV and CNTLD complete or are sent outside a loop;
L2_BANK_CHANGE, COUNTER_OVERFLOW and PC_SAMPLE act on the change, the event or the record that is due. -/
def Said.CountersComplete : Prop :=
  (∀ (s : State) g, Claim.calm s g → s.curIter s.cc s.ck = none →
    (∀ rd (id : BitVec 12) i, Claim.register rd → cntId id.toNat = some i →
      ((∀ n, i ≠ .l2 n ∧ i ≠ .fabric n) → Claim.writes (.cntrd g rd id) s rd (s.cntVal i) 8) ∧
      (∀ n, i = .l2 n ∨ i = .fabric n → ∃ t q, Claim.asked (.cntrd g rd id) s q t ∧ q.kind = .ask (.cnt id.toNat false rd) ∧ q.cls = .wmem) ∧
      (∀ n, i = .prog n → Claim.writes (.cntrdC g rd id) s rd (s.myCore.pcnt.get (Fin.ofNat 8 n)).cfg 8) ∧
      (i = .sampCfg → Claim.writes (.cntrdC g rd id) s rd s.myCore.sampler.cfg 8) ∧
      (∀ n, i = .l2 n → ∃ t q, Claim.asked (.cntrdC g rd id) s q t ∧ q.kind = .ask (.cnt id.toNat true rd) ∧ q.cls = .wmem)) ∧
    (∀ (id : BitVec 12) a v, Claim.value s a = some v →
      ((∃ n, cntId id.toNat = some (.hist n) ∨ cntId id.toNat = some (.prog n) ∨ ∃ j, cntId id.toNat = some (.cls n j)) → v.toNat < 2 ^ 48 →
        Claim.changes (.cntwr g id a) s id.toNat (some v.toNat) none) ∧
      (∀ n, cntId id.toNat = some (.prog n) → v.toNat < 2 ^ 32 → v.extractLsb' 14 2 = 0 →
        (v.extractLsb' 0 8).toNat ≤ 0x14 → (v.extractLsb' 0 8).toNat ≠ 7 →
        Claim.changes (.cntcfg g id a) s id.toNat none (some v)) ∧
      (∀ n, cntId id.toNat = some (.fabric n) → ∃ t, exec (.cntcfg g id a) s = .next t ∧ t.me = retireCtx s.me 8 ∧ t.mem = s.mem)) ∧
    (∀ (grp : Fin 4) a v, Claim.value s a = some v → spaceOf v.toNat = 0x8 → v.toNat / 2 ^ 20 % 2 ^ 40 = 0 → v.toNat % 64 = 0 →
      let n := v.toNat % 2 ^ 20 + (if grp = 0 then 40 else if grp = 1 then 136 else if grp = 2 then 128 else 64)
      n ≤ s.myCore.segl.toNat → s.myCore.segb.toNat + n ≤ 2 ^ 20 → s.mem.bad = [] → s.mem.empty = [] →
      (grp ≠ 3 → ∃ t, exec (.cntsv g grp a) s = .next t ∧ t.me = retireCtx s.me 8 ∧ t.mem.d = s.mem.d) ∧
      (grp = 3 → ∃ t q, Claim.asked (.cntsv g grp a) s q t ∧ q.cls = .wmem) ∧
      (∃ t q, Claim.asked (.cntld g grp a) s q t ∧ q.cls = .wmem ∧ t.mem = s.mem))) ∧
  (∀ (s : State) die b r, (s.die die).bankNew = b :: r → ∃ t, exec (.l2BankChange die 0) s = .next t ∧ (t.die die).bankNew = r ∧
    t.ctxs = s.ctxs ∧ t.mem = s.mem ∧ ∀ v, b.val = some v → (((t.die die).bank b.bank).get (Fin.ofNat 4 b.n)).val = v) ∧
  (∀ (s : State) p c v id cyc r, s.ovfDue = (p, c, v, id, cyc) :: r → s.runs c = true → (s.core c).partid = p →
    ∃ t, exec (.counterOverflow false 0) s = .next t ∧ t.ovfDue = r ∧ t.mem = s.mem) ∧
  (∀ (s : State) c r l, (s.core c).sampler.due = r :: l → ∃ t, exec (.pcSample c) s = .next t ∧
    (t.core c).sampler = { (s.core c).sampler with due := l, index := ((s.core c).sampler.index + 1) % 2 ^ 48 } ∧ t.ctxs = s.ctxs)

/-- R12, R202, R216, R417: CORE_CYCLE gives a ready context its slot, INSTRUCTION_FETCH reads a block of the core's own store,
TLB_WALK_COMPLETE ends the first walk of a cluster, FOLD_SWAP brings in the image that a context waits for. -/
def Said.EventsComplete : Prop :=
  (∀ (s : State) p, s.power = .on → s.clocked p = true → let k := (s.core p).cyc.toNat % 16
    let c := s.ownerOn p k
    (s.ctx c k).stepDue = false → s.periodFirst p = false → s.ready c k = true →
    exec (.coreCycle p) s = .next { s with issue := some (c, k) }) ∧
  (∀ (s : State) c k (block : Word) cut, s.runs c = true → (s.ctx c k).run = .held → (s.ctx c k).fetched = [] →
    spaceOf block.toNat = 0x8 → block.toNat / 2 ^ 20 % 2 ^ 40 = 0 → block.toNat % 32 = 0 →
    let n := block.toNat % 2 ^ 20 + 32
    n ≤ (s.core c).segl.toNat → (s.core c).segb.toNat + n ≤ 2 ^ 20 →
    ∃ t bs, exec (.instructionFetch c k block cut) s = .next t ∧ (t.ctx c k).fetched = [(block, bs)] ∧ bs.length = 32 ∧
      t.mem.d = s.mem.d) ∧
  (∀ (s : State) cl m r q, s.power = .on → (s.cluster cl).frozen = false → (s.cluster cl).misses = m :: r →
    (s.cluster cl).missWait = [] → (s.die (dieOfCl cl)).walkq = (cl, m.part, m.page) :: q →
    ∃ t, exec (.tlbWalkComplete cl 0) s = .next t ∧ (t.cluster cl).misses = r ∧ (t.die (dieOfCl cl)).walkq = q ∧ t.mem = s.mem) ∧
  (∀ (s : State) p v cls k, s.runs p = true → (s.core v).home = p → (s.core p).image.getD p ≠ v → k < 16 →
    tget s.ctxs (v * 16 + k) = some { s.ctx v k with wait := some (cls, .fold p v) } →
    (s.core ((s.core p).image.getD p)).wq = [] → s.laneBusy ((s.core p).image.getD p) = false →
    ∃ t, exec (.foldSwap p v) s = .next t ∧ t.foldReady v = true ∧ t.ctxs = s.ctxs ∧ t.mem = s.mem)

/-- R123 to R129, R131, R193 to R195, R359, R363, R365 to R369, R405, R12, R202, R216, R417: the claims ScalarsComplete, WeightLoadsComplete, CountersComplete and EventsComplete. -/
def Obligations.FormsThatComplete : Prop := Said.ScalarsComplete ∧ Said.WeightLoadsComplete ∧ Said.CountersComplete ∧ Said.EventsComplete
end

