-- ==== Sys2Proof/Laws/Decode.lean ====
section
/-! SUPPORT. Decoding what has been encoded: the operand fields, the fields of heads and halves, and the bytes of words. -/

namespace Sys2Proof

section

set_option linter.unusedSimpArgs false
set_option Elab.async false

@[simp] theorem guardOf_code (g : Guard) : guardOf g.code = g := by
  rcases g with ⟨n, r⟩
  revert n r
  decide

@[simp] theorem ssrcOf_code (a : SSrc) : ssrcOf a.code a.dist = some a := by
  cases a with
  | x r => revert r; decide
  | l r d => revert r d; decide
  | q n => revert n; decide
  | _ => decide

@[simp] theorem sdstOf_code (a : SDst) : sdstOf a.code = some a := by
  cases a with
  | x r => revert r; decide
  | l r => revert r; decide
  | q n => revert n; decide
  | _ => decide

@[simp] theorem vsrcOf_code (a : VSrc) : vsrcOf a.code a.dist = some a := by
  cases a with
  | v r => revert r; decide
  | w r d => revert r d; decide
  | q n => revert n; decide
  | _ => decide

@[simp] theorem vdstOf_code (a : VDst) : vdstOf a.code = some a := by
  cases a with
  | v r => revert r; decide
  | w r => revert r; decide
  | q n => revert n; decide
  | _ => decide

@[simp] theorem tagOf_code (t : Tag) : tagOf t.code = some t := by cases t <;> rfl
@[simp] theorem ccOf_code (c : CC) : ccOf c.code = some c := by cases c <;> rfl
@[simp] theorem satOf_code (m : SatMode) : satOf m.code = some m := by cases m <;> rfl
@[simp] theorem finO_val (n : Nat) (x : Fin n) : finO n x.val = some x := by simp [finO]
@[simp] theorem bvO_toNat (w : Nat) (x : BitVec w) : bvO w x.toNat = some x := by simp [bvO, x.isLt]
theorem gdOf_val (x : Fin 8) (h : x ≠ 0) : gdOf x.val = some x := by
  have : 0 < x.val := Nat.pos_of_ne_zero (fun e => h (Fin.ext e))
  simp [gdOf, this]

theorem Guard.code_lt (g : Guard) : g.code < 16 := by rcases g with ⟨n, r⟩; revert n r; decide
theorem SSrc.code_lt (a : SSrc) : a.code < 64 := by
  cases a <;> simp only [SSrc.code] <;> omega
theorem SSrc.dist_lt (a : SSrc) : a.dist < 8 := by cases a <;> simp only [SSrc.dist] <;> omega
theorem SDst.code_lt (a : SDst) : a.code < 64 := by cases a <;> simp only [SDst.code] <;> omega
theorem VSrc.code_lt (a : VSrc) : a.code < 64 := by cases a <;> simp only [VSrc.code] <;> omega
theorem VSrc.dist_lt (a : VSrc) : a.dist < 8 := by cases a <;> simp only [VSrc.dist] <;> omega
theorem VDst.code_lt (a : VDst) : a.code < 64 := by cases a <;> simp only [VDst.code] <;> omega
theorem Tag.code_lt (t : Tag) : t.code < 8 := by cases t <;> decide
theorem CC.code_lt (c : CC) : c.code < 12 := by cases c <;> decide
theorem SatMode.code_lt (m : SatMode) : m.code < 4 := by cases m <;> decide

/-- The fields of a head lie in their widths, and its literal in its form (R59, R60). -/
def Raw.Fits (h : Raw) : Prop :=
  h.major < 2 ^ 6 ∧ h.minor < 2 ^ 8 ∧ h.guard < 2 ^ 4 ∧ h.dest < 2 ^ 6 ∧ h.s1 < 2 ^ 6 ∧ h.d1 < 2 ^ 3 ∧ h.s2 < 2 ^ 6 ∧ h.d2 < 2 ^ 3 ∧
    h.imm < 2 ^ 20 ∧ litFits h.form h.lit = true

theorem Imm.field_lt (i : Imm) : i.field < 2 ^ 20 := by
  rcases i with ⟨f, v⟩
  cases f <;> simp [Imm.field]
  omega

theorem zTagOf_code (t : Tag) (h : t.acc = true) : zTagOf t.code = some t := by revert h; cases t <;> decide
theorem scalarCC_code (c : CC) (h : c.scalar = true) : scalarCC c.code = some c := by revert h; cases c <;> decide

theorem sextField_mod (w n : Nat) : sextField w (n % 2 ^ w) = sextField w n := by
  unfold sextField
  congr 1
  exact BitVec.eq_of_toNat_eq (by simp)

@[simp] theorem litFits_h64 : litFits .h64 0#64 = true := rfl

@[simp] theorem Imm.litFits (i : Imm) : Sys2Proof.litFits i.form i.lit = true := by
  rcases i with ⟨f, v⟩
  cases f <;> simp [Imm.lit, Sys2Proof.litFits]
  omega

theorem immS_field (i : Imm) (h : i.fitsS = true) : immS i.form i.field i.lit = some i := by
  rcases i with ⟨f, v⟩
  cases f with
  | h64 =>
    have e : sextField 20 v.toNat = v := by simpa [Imm.fitsS] using h
    simp only [immS, Imm.field, sextField_mod, e]
  | h96 =>
    have e : sextField 32 v.toNat = v := by simpa [Imm.fitsS] using h
    have : (BitVec.ofNat 64 (v.toNat % 2 ^ 32)).toNat = v.toNat % 2 ^ 32 := by simp only [BitVec.toNat_ofNat]; omega
    simp only [immS, Imm.field, Imm.lit, this, sextField_mod, e, if_true]
  | h128 => rfl

theorem immU_field (i : Imm) (h : i.fitsU = true) : immU i.form i.field i.lit = some i := by
  rcases i with ⟨f, v⟩
  cases f <;> simp [immU, Imm.field, Imm.lit, Imm.fitsU] at h ⊢ <;> bv_omega

theorem immF_lit (i : Imm) (h : i.fitsF = true) : immF i.form i.lit = some i := by
  rcases i with ⟨f, v⟩
  cases f with
  | h64 =>
    have e : v = 0 := by simpa [Imm.fitsF] using h
    subst e
    rfl
  | h96 =>
    have e : sextField 32 v.toNat = v := by simpa [Imm.fitsF] using h
    have : (BitVec.ofNat 64 (v.toNat % 2 ^ 32)).toNat = v.toNat % 2 ^ 32 := by simp only [BitVec.toNat_ofNat]; omega
    simp only [immF, Imm.lit, this, sextField_mod, e]
  | h128 => rfl

@[simp] theorem need_eq (b : Bool) : need b = if b = true then some () else none := rfl
@[simp] theorem Raw.grd_eq (h : Raw) : h.grd = guardOf h.guard := rfl
@[simp] theorem Raw.sh_eq (h : Raw) : h.sh = (h.form == .h64) := rfl
@[simp] theorem Raw.zd_eq (h : Raw) : h.zd = need (h.dest == 0) := rfl
@[simp] theorem Raw.z1_eq (h : Raw) : h.z1 = need (h.s1 == 0 && h.d1 == 0) := rfl
@[simp] theorem Raw.z2_eq (h : Raw) : h.z2 = need (h.s2 == 0 && h.d2 == 0) := rfl
@[simp] theorem Raw.iz_eq (h : Raw) : h.iz = need (h.sh && h.imm == 0) := rfl
@[simp] theorem Raw.ik_eq (h : Raw) (k : Nat) : h.ik k = need (h.sh && h.imm == k) := rfl
@[simp] theorem Raw.rS_eq (h : Raw) : h.rS = sdstOf h.dest := rfl
@[simp] theorem Raw.rV_eq (h : Raw) : h.rV = vdstOf h.dest := rfl
@[simp] theorem Raw.aS_eq (h : Raw) : h.aS = ssrcOf h.s1 h.d1 := rfl
@[simp] theorem Raw.bS_eq (h : Raw) : h.bS = ssrcOf h.s2 h.d2 := rfl
@[simp] theorem Raw.cS_eq (h : Raw) : h.cS = (need (decide (h.imm < 512))).bind (fun _ => ssrcOf (h.imm % 64) (h.imm / 64)) := rfl
@[simp] theorem Raw.aV_eq (h : Raw) : h.aV = vsrcOf h.s1 h.d1 := rfl
@[simp] theorem Raw.bV_eq (h : Raw) : h.bV = vsrcOf h.s2 h.d2 := rfl
@[simp] theorem Raw.cV_eq (h : Raw) : h.cV = (need (decide (h.imm < 512))).bind (fun _ => vsrcOf (h.imm % 64) (h.imm / 64)) := rfl

theorem leBytes_length (n x : Nat) : (leBytes n x).length = n := by
  induction n generalizing x with
  | zero => rfl
  | succ n ih => simp [leBytes, ih]

theorem leNat_leBytes (n x : Nat) : leNat (leBytes n x) = x % 256 ^ n := by
  induction n generalizing x with
  | zero => simp [leBytes, leNat, Nat.mod_one]
  | succ n ih =>
    simp only [leBytes, leNat, ih, BitVec.toNat_ofNat]
    rw [show 256 ^ (n + 1) = 256 * 256 ^ n by rw [Nat.pow_succ, Nat.mul_comm], Nat.mod_mul]

theorem Raw.head_lt {h : Raw} (f : h.Fits) : h.head < 2 ^ 64 := by
  obtain ⟨a, b, c, d, e, g, i, j, k, -⟩ := f
  have : h.form.code < 3 := by cases h.form <;> decide
  simp only [Raw.head]
  omega

theorem Raw.ofHead_head {h : Raw} (f : h.Fits) : Raw.ofHead h.form h.head h.lit = h := by
  obtain ⟨a, b, c, d, e, g, i, j, k, -⟩ := f
  have : h.form.code < 3 := by cases h.form <;> decide
  rcases h with ⟨⟩
  simp only [Raw.ofHead, Raw.head] at *
  congr 1 <;> omega

theorem Raw.head_mod {h : Raw} : h.head % 4 = h.form.code := by
  have : h.form.code < 3 := by cases h.form <;> decide
  simp only [Raw.head]
  omega

theorem Raw.ofScalarHalf_half {h : Raw} (f : h.Fits) (hf : h.form = .h64) (hl : h.lit = 0) :
    Raw.ofScalarHalf h.scalarHalf = h := by
  obtain ⟨a, b, c, d, e, g, i, j, k, -⟩ := f
  rcases h with ⟨⟩
  simp only [Raw.ofScalarHalf, Raw.scalarHalf] at *
  subst hf hl
  congr 1 <;> omega

theorem Raw.ofVectorHalf_half {h : Raw} (f : h.Fits) (hf : h.form = .h64) (hl : h.lit = 0) :
    Raw.ofVectorHalf h.guard h.vectorHalf = h := by
  obtain ⟨a, b, c, d, e, g, i, j, k, -⟩ := f
  rcases h with ⟨⟩
  simp only [Raw.ofVectorHalf, Raw.vectorHalf] at *
  subst hf hl
  congr 1 <;> omega

theorem Raw.scalarHalf_lt {h : Raw} (f : h.Fits) : h.scalarHalf < 2 ^ 64 ∧ h.scalarHalf % 4 = 3 := by
  obtain ⟨a, b, c, d, e, g, i, j, k, -⟩ := f
  simp only [Raw.scalarHalf]
  omega

theorem Raw.vectorHalf_lt {h : Raw} (f : h.Fits) : h.vectorHalf < 2 ^ 58 := by
  obtain ⟨a, b, c, d, e, g, i, j, k, -⟩ := f
  simp only [Raw.vectorHalf]
  omega

/-- The length of a form. -/
def Form.bytes : Form → Nat
  | .h64 => 8
  | .h96 => 12
  | .h128 => 16

theorem Raw.bytes_length (h : Raw) : h.bytes.length = h.form.bytes := by
  unfold Raw.bytes
  cases h.form <;> simp [leBytes_length, Form.bytes]

theorem decode_leBytes (x : Nat) (l rest : List Byte) (hl : 8 + l.length = lengthOf (BitVec.ofNat 8 x)) :
    decode (leBytes 8 x ++ l ++ rest) = (decodeWord (x % 2 ^ 64) (leNat l)).map (fun i => (i, 8 + l.length)) := by
  have e : leBytes 8 x ++ l ++ rest = BitVec.ofNat 8 x :: (leBytes 7 (x / 256) ++ l ++ rest) := rfl
  rw [e]
  simp only [decode]
  rw [← hl, ← e]
  have h8 := leBytes_length 8 x
  rw [if_neg (by simp only [List.length_append, h8]; omega)]
  have t1 : (leBytes 8 x ++ l ++ rest).take 8 = leBytes 8 x := by
    rw [List.append_assoc, List.take_append_of_le_length (by omega), List.take_of_length_le (by omega)]
  have t2 : ((leBytes 8 x ++ l ++ rest).take (8 + l.length)).drop 8 = l := by
    rw [List.take_append_of_le_length (by simp only [List.length_append, h8]; omega),
      List.take_of_length_le (by simp only [List.length_append, h8]; omega), List.drop_left' h8]
  rw [t1, t2, leNat_leBytes, show 256 ^ 8 = 2 ^ 64 by decide]

theorem lengthOf_ofNat (x : Nat) : lengthOf (BitVec.ofNat 8 x) = if x % 4 = 0 then 8 else if x % 4 = 1 then 12 else 16 := by
  have : (BitVec.ofNat 8 x).toNat % 4 = x % 4 := by simp only [BitVec.toNat_ofNat]; omega
  rw [lengthOf, this]
  have : x % 4 < 4 := Nat.mod_lt _ (by decide)
  rcases (by omega : x % 4 = 0 ∨ x % 4 = 1 ∨ x % 4 = 2 ∨ x % 4 = 3) with e | e | e | e <;> rw [e] <;> rfl

theorem decode_bytes {h : Raw} (f : h.Fits) (rest : List Byte) :
    decode (h.bytes ++ rest) = (decodeHead h).map (fun d => (d, h.bytes.length)) := by
  have hm := Raw.head_mod (h := h)
  have hlt := Raw.head_lt f
  have hh := Raw.ofHead_head f
  have hlit := f.2.2.2.2.2.2.2.2.2
  have hl := lengthOf_ofNat h.head
  rw [hm] at hl
  rw [Raw.bytes_length]
  unfold Raw.bytes
  cases hf : h.form with
  | h64 =>
    rw [hf] at hm hl hh hlit
    have := decode_leBytes h.head [] rest (by rw [hl]; rfl)
    rw [List.append_nil] at this
    simp only [this, Nat.mod_eq_of_lt hlt, decodeWord, hm, Form.code]
    have e : h.lit = 0 := by simpa [litFits] using hlit
    rw [e] at hh
    rw [hh]
    rfl
  | h96 =>
    rw [hf] at hm hl hh hlit
    have := decode_leBytes h.head (leBytes 4 h.lit.toNat) rest (by rw [hl, leBytes_length]; rfl)
    have e : BitVec.ofNat 64 (h.lit.toNat % 256 ^ 4 % 2 ^ 32) = h.lit := by
      have : h.lit.toNat < 2 ^ 32 := by simpa [litFits] using hlit
      apply BitVec.eq_of_toNat_eq
      simp only [BitVec.toNat_ofNat]
      omega
    simp only [this, Nat.mod_eq_of_lt hlt, decodeWord, hm, Form.code, leNat_leBytes, leBytes_length, e, hh]
    rfl
  | h128 =>
    rw [hf] at hm hl hh hlit
    have := decode_leBytes h.head (leBytes 8 h.lit.toNat) rest (by rw [hl, leBytes_length]; rfl)
    have e : BitVec.ofNat 64 (h.lit.toNat % 256 ^ 8) = h.lit := by
      have := h.lit.isLt
      apply BitVec.eq_of_toNat_eq
      simp only [BitVec.toNat_ofNat]
      omega
    simp only [this, Nat.mod_eq_of_lt hlt, decodeWord, hm, Form.code, leNat_leBytes, leBytes_length, e, hh]
    rfl

theorem Form.eq_h64 {f : Form} (h : (f == .h64) = true) : f = .h64 := by
  cases f <;> first | rfl | cases h

theorem encodeRaw_half (i : Instr) (g : Guard) (hg : i.halfGuard = some g) (h : Raw) (he : encodeRaw i = some h) :
    h.form = .h64 ∧ h.guard = g.code := by
  cases i <;> first
    | (cases hg; done)
    | (obtain rfl := Option.some.inj he; obtain rfl := Option.some.inj hg; exact ⟨rfl, rfl⟩)
    | (obtain rfl := Option.some.inj he
       simp only [Instr.halfGuard] at hg
       split at hg
       · obtain rfl := Option.some.inj hg
         rename_i c
         first
           | exact ⟨Form.eq_h64 c, rfl⟩
           | exact ⟨Form.eq_h64 (Bool.and_eq_true _ _ ▸ c).1, rfl⟩
       · cases hg)

theorem scalarHalf_guard {i : Instr} {g : Guard} (h : i.scalarHalf g = true) : i.halfGuard = some g := by
  simp only [Instr.scalarHalf, Bool.and_eq_true, beq_iff_eq] at h
  exact h.1

theorem vectorHalf_guard {i : Instr} {g : Guard} (h : i.vectorHalf g = true) : i.halfGuard = some g := by
  unfold Instr.vectorHalf at h
  split at h
  · exact eq_of_beq h
  · simp only [Bool.and_eq_true, beq_iff_eq] at h
    exact h.1

theorem decode_pair {g : Guard} {sh vh : Instr} {a b : Raw} (ha : encodeRaw sh = some a) (hb : encodeRaw vh = some b)
    (fa : a.Fits) (fb : b.Fits) (da : decodeRaw a = some sh) (db : decodeRaw b = some vh)
    (hs : sh.scalarHalf g = true) (hv : vh.vectorHalf g = true) (hp : pairOk sh vh = true) (rest : List Byte) :
    decode (leBytes 8 a.scalarHalf ++ leBytes 8 b.vectorHalf ++ rest) = some (.pair g sh vh, 16) := by
  obtain ⟨f1, g1⟩ := encodeRaw_half sh g (scalarHalf_guard hs) a ha
  obtain ⟨f2, g2⟩ := encodeRaw_half vh g (vectorHalf_guard hv) b hb
  have l1 : a.lit = 0 := by simpa [litFits, f1] using fa.2.2.2.2.2.2.2.2.2
  have l2 : b.lit = 0 := by simpa [litFits, f2] using fb.2.2.2.2.2.2.2.2.2
  have lt1 := Raw.scalarHalf_lt fa
  have lt2 := Raw.vectorHalf_lt fb
  have hl := lengthOf_ofNat a.scalarHalf
  rw [lt1.2] at hl
  have e := decode_leBytes a.scalarHalf (leBytes 8 b.vectorHalf) rest (by rw [hl, leBytes_length]; rfl)
  have m1 : leNat (leBytes 8 b.vectorHalf) = b.vectorHalf := by rw [leNat_leBytes]; omega
  have h1 := Raw.ofScalarHalf_half fa f1 l1
  have h2 := Raw.ofVectorHalf_half fb f2 l2
  have m2 : b.vectorHalf / 2 ^ 58 % 2 ^ 6 = 0 := by omega
  rw [e, m1, leBytes_length, Nat.mod_eq_of_lt lt1.1]
  have gg : guardOf g.code = g := by
    clear hs hv hp e h1 h2 hl da db g1 g2
    rcases g with ⟨n, r⟩
    revert n r
    decide
  rw [g2, ← g1] at h2
  simp only [decodeWord, lt1.2, h1, h2, da, db, m2]
  simp [need, Raw.grd, g1, gg, hs, hv, hp]
theorem decodeRaw_of_head {h : Raw} {i : Instr} (e : (decodeHead h).map Decoded.instr = some i) (g : i.halfGuard ≠ none) :
    decodeRaw h = some i := by
  unfold decodeHead at e
  cases hr : decodeRaw h with
  | some j =>
    rw [hr] at e
    exact e
  | none =>
    rw [hr] at e
    cases hc : decCrest h with
    | none => rw [hc] at e; cases e
    | some d =>
      rw [hc] at e
      have hd : ∃ g xa xc, d = .crest g xa xc := by
        simp only [decCrest, bind, Option.bind_eq_some_iff] at hc
        obtain ⟨_, _, _, _, xa, _, xc, _, _, _, e⟩ := hc
        exact ⟨_, _, _, (Option.some.inj e).symm⟩
      obtain ⟨g', xa, xc, rfl⟩ := hd
      obtain rfl := Option.some.inj e
      exact absurd rfl g

end

end Sys2Proof
end

