-- ==== Sys2Proof/Laws/Table.lean ====
section
/-! SUPPORT. Tables: reading after writing, and the canonical form of a memory that every operation keeps. -/

namespace Sys2Proof.Machine

variable {α β : Type}

/-! Reading after writing. -/

@[simp] theorem tget_tset_self (t : Tbl α) (k : Nat) (a : α) : tget (tset t k a) k = some a := by
  induction t with
  | nil => simp [tset, tget]
  | cons e r ih =>
    obtain ⟨j, b⟩ := e
    simp only [tset]
    split
    · simp [tget]
    · split
      · simp [tget]
      · simp [tget, *]

theorem tget_tset_of_ne (t : Tbl α) {k l : Nat} (a : α) (h : l ≠ k) : tget (tset t k a) l = tget t l := by
  induction t with
  | nil => simp [tset, tget, Ne.symm h]
  | cons e r ih =>
    obtain ⟨j, b⟩ := e
    simp only [tset]
    split
    · simp [tget, Ne.symm h]
    · split
      · subst j; simp [tget, Ne.symm h]
      · simp only [tget, ih]

@[simp] theorem tset_tset (t : Tbl α) (k : Nat) (a b : α) : tset (tset t k a) k b = tset t k b := by
  induction t with
  | nil => simp [tset]
  | cons e r ih =>
    obtain ⟨j, c⟩ := e
    by_cases h1 : k < j
    · simp [tset, h1]
    · by_cases h2 : j = k
      · simp [tset, h2]
      · simp [tset, h1, h2, ih]

@[simp] theorem tgetD_tset_self (t : Tbl α) (k : Nat) (a d : α) : tgetD (tset t k a) k d = a := by simp [tgetD]

theorem tgetD_tset_of_ne (t : Tbl α) {k l : Nat} (a d : α) (h : l ≠ k) : tgetD (tset t k a) l d = tgetD t l d := by
  simp [tgetD, tget_tset_of_ne _ _ h]

/-! Rising keys. -/

/-- Every key of a table is above a bound. -/
def above (n : Nat) (t : Tbl α) : Prop := ∀ e ∈ t, n < e.1

/-- The keys of a table rise strictly. -/
def Rising : Tbl α → Prop
  | [] => True
  | e :: r => above e.1 r ∧ Rising r

theorem above_mono {n m : Nat} {t : Tbl α} (h : above m t) (hn : n ≤ m) : above n t :=
  fun e he => Nat.lt_of_le_of_lt hn (h e he)

theorem rising_iff (t : Tbl α) : rising (t.map Prod.fst) = true ↔ Rising t := by
  induction t with
  | nil => simp [rising, Rising]
  | cons e r ih =>
    cases r with
    | nil => simp [rising, Rising, above]
    | cons f r =>
      have step : rising ((e :: f :: r).map Prod.fst) = true ↔
          e.1 < f.1 ∧ rising ((f :: r).map Prod.fst) = true := by simp [rising]
      rw [step, ih]
      constructor
      · rintro ⟨hef, hf, hr⟩
        refine ⟨?_, hf, hr⟩
        intro g hg
        rcases List.mem_cons.1 hg with rfl | hg
        · exact hef
        · exact Nat.lt_trans hef (hf g hg)
      · rintro ⟨he, hf⟩
        exact ⟨he f (by simp), hf⟩

theorem mem_tset {t : Tbl α} {k : Nat} {a : α} {e : Nat × α} (h : e ∈ tset t k a) : e = (k, a) ∨ e ∈ t := by
  induction t with
  | nil => simp [tset] at h; exact .inl h
  | cons f r ih =>
    obtain ⟨j, b⟩ := f
    simp only [tset] at h
    split at h
    · rcases List.mem_cons.1 h with h | h
      · exact .inl h
      · exact .inr h
    · split at h
      · rcases List.mem_cons.1 h with h | h
        · exact .inl h
        · exact .inr (List.mem_cons_of_mem _ h)
      · rcases List.mem_cons.1 h with h | h
        · exact .inr (by simp [h])
        · rcases ih h with h | h
          · exact .inl h
          · exact .inr (List.mem_cons_of_mem _ h)

theorem mem_tdel {t : Tbl α} {k : Nat} {e : Nat × α} (h : e ∈ tdel t k) : e ∈ t := by
  induction t with
  | nil => simp [tdel] at h
  | cons f r ih =>
    obtain ⟨j, b⟩ := f
    simp only [tdel] at h
    split at h
    · exact List.mem_cons_of_mem _ h
    · rcases List.mem_cons.1 h with h | h
      · simp [h]
      · exact List.mem_cons_of_mem _ (ih h)

theorem rising_tset {t : Tbl α} (k : Nat) (a : α) (h : Rising t) : Rising (tset t k a) := by
  induction t with
  | nil => simp [tset, Rising, above]
  | cons e r ih =>
    obtain ⟨j, b⟩ := e
    obtain ⟨ha, hr⟩ := h
    simp only [tset]
    split
    · rename_i hk
      exact ⟨by
        intro f hf
        rcases List.mem_cons.1 hf with rfl | hf
        · exact hk
        · exact Nat.lt_trans hk (ha f hf), ha, hr⟩
    · split
      · rename_i hj
        subst hj
        exact ⟨ha, hr⟩
      · rename_i h1 h2
        refine ⟨?_, ih hr⟩
        intro f hf
        rcases mem_tset hf with rfl | hf
        · exact Nat.lt_of_le_of_ne (Nat.le_of_not_lt h1) h2
        · exact ha f hf

theorem rising_tdel {t : Tbl α} (k : Nat) (h : Rising t) : Rising (tdel t k) := by
  induction t with
  | nil => exact h
  | cons e r ih =>
    obtain ⟨j, b⟩ := e
    obtain ⟨ha, hr⟩ := h
    simp only [tdel]
    split
    · exact hr
    · exact ⟨fun f hf => ha f (mem_tdel hf), ih hr⟩

theorem rising_filter {t : Tbl α} (p : Nat × α → Bool) (h : Rising t) : Rising (t.filter p) := by
  induction t with
  | nil => exact h
  | cons e r ih =>
    obtain ⟨ha, hr⟩ := h
    simp only [List.filter_cons]
    split
    · exact ⟨fun f hf => ha f (List.mem_filter.1 hf).1, ih hr⟩
    · exact ih hr

theorem tget_of_above {t : Tbl α} {k : Nat} (h : above k t) : tget t k = none := by
  induction t with
  | nil => rfl
  | cons e r ih =>
    have he := h e (by simp)
    simp only [tget]
    rw [if_neg (Nat.ne_of_gt he)]
    exact ih (fun f hf => h f (List.mem_cons_of_mem _ hf))

theorem tget_tdel_self {t : Tbl α} (k : Nat) (h : Rising t) : tget (tdel t k) k = none := by
  induction t with
  | nil => rfl
  | cons e r ih =>
    obtain ⟨j, b⟩ := e
    obtain ⟨ha, hr⟩ := h
    simp only [tdel]
    split
    · rename_i hj
      subst hj
      exact tget_of_above ha
    · rename_i hj
      simpa [tget, hj] using ih hr

theorem tget_tdel_of_ne (t : Tbl α) {k l : Nat} (h : l ≠ k) : tget (tdel t k) l = tget t l := by
  induction t with
  | nil => rfl
  | cons e r ih =>
    obtain ⟨j, b⟩ := e
    simp only [tdel]
    split
    · rename_i hj
      subst hj
      simp [tget, Ne.symm h]
    · simp only [tget, ih]

/-! The canonical memory. -/

/-- The canonical form, as a proposition: rising locations, no listed 0. -/
theorem Memory.wf_iff (m : Memory) : m.wf = true ↔ Rising m ∧ ∀ c ∈ m, c.2 ≠ 0 := by
  rw [Memory.wf, Bool.and_eq_true, rising_iff]
  simp only [List.all_eq_true, decide_eq_true_eq]

/-- A byte written keeps the canonical form. -/
theorem Memory.set_wf {m : Memory} (l : Nat) (b : Byte) (h : m.wf = true) : (m.set l b).wf = true := by
  obtain ⟨hr, hz⟩ := (Memory.wf_iff m).1 h
  rw [Memory.wf_iff, Memory.set]
  split
  · exact ⟨rising_tdel l hr, fun c hc => hz c (mem_tdel hc)⟩
  · rename_i hb
    refine ⟨rising_tset l b hr, fun c hc => ?_⟩
    rcases mem_tset hc with rfl | hc
    · exact hb
    · exact hz c hc

/-- Bytes taken out keep the canonical form. -/
theorem outside_wf {m : Memory} (p : Nat → Bool) (h : m.wf = true) : Memory.wf (outside p m) = true := by
  obtain ⟨hr, hz⟩ := (Memory.wf_iff m).1 h
  rw [Memory.wf_iff]
  exact ⟨rising_filter _ hr, fun c hc => hz c (List.mem_filter.1 hc).1⟩

/-- A read after a write to the same place gives the value written. -/
theorem Memory.get_set_self {m : Memory} (l : Nat) (b : Byte) (h : m.wf = true) : (m.set l b).get l = b := by
  obtain ⟨hr, -⟩ := (Memory.wf_iff m).1 h
  simp only [Memory.set, Memory.get, tgetD]
  split
  · rename_i hb
    rw [tget_tdel_self l hr, hb]
    rfl
  · simp

/-- A write leaves every other place alone. -/
theorem Memory.get_set_of_ne (m : Memory) {l k : Nat} (b : Byte) (h : k ≠ l) : (m.set l b).get k = m.get k := by
  simp only [Memory.set, Memory.get, tgetD]
  split
  · rw [tget_tdel_of_ne _ h]
  · rw [tget_tset_of_ne _ _ h]

/-- The empty memory is canonical. -/
theorem Memory.nil_wf : Memory.wf [] = true := rfl

/-! Association lists. -/

@[simp] theorem aget_aset_self [DecidableEq β] (t : List (β × α)) (k : β) (a : α) : aget (aset t k a) k = some a := by
  induction t with
  | nil => simp [aset, aget]
  | cons e r ih =>
    obtain ⟨j, b⟩ := e
    simp only [aset]
    split
    · simp [aget]
    · simp [aget, *]

theorem aget_aset_of_ne [DecidableEq β] (t : List (β × α)) {k l : β} (a : α) (h : l ≠ k) :
    aget (aset t k a) l = aget t l := by
  induction t with
  | nil => simp [aset, aget, Ne.symm h]
  | cons e r ih =>
    obtain ⟨j, b⟩ := e
    simp only [aset]
    split
    · subst j; simp [aget, Ne.symm h]
    · simp only [aget, ih]

end Sys2Proof.Machine
end

