-- ==== Sys2Proof/Laws/Memory.lean ====
section
/-! SUPPORT. The ordering machine keeps the device store in canonical form, and what its moves do to a location. -/

namespace Sys2Proof.Machine

/-- The device store is in canonical form. -/
def MemSys.Sound (m : MemSys) : Prop := Memory.wf m.d = true

namespace MemSys

variable {m : MemSys}

/-- A fold of steps that keep the device store canonical keeps it. -/
theorem foldl_sound {α : Type} (f : MemSys → α → MemSys) (hf : ∀ m a, m.Sound → (f m a).Sound) (l : List α) :
    ∀ m : MemSys, m.Sound → (l.foldl f m).Sound := by
  induction l with
  | nil => exact fun _ h => h
  | cons a r ih => exact fun m h => ih _ (hf m a h)

theorem offerG_sound (g l : Nat) (x : Held) (h : m.Sound) : (m.offerG g l x).Sound := by
  unfold offerG; split <;> exact h

theorem offerD_sound (l : Nat) (x : Held) (h : m.Sound) : (m.offerD l x).Sound := by
  unfold offerD; split
  · exact Memory.set_wf _ _ h
  · exact h

theorem offerY_sound (l : Nat) (x : Held) (h : m.Sound) : (m.offerY l x).Sound := by
  unfold offerY; split <;> exact h

theorem setView_sound (a : Agent) (l : Nat) (x : Held) (h : m.Sound) : (m.setView a l x).Sound := h

theorem raiseView_sound (a : Agent) (l : Nat) (x : Held) (h : m.Sound) : (m.raiseView a l x).Sound := by
  unfold raiseView; split <;> exact h

theorem setOwn_sound (a : Agent) (l st : Nat) (h : m.Sound) : (m.setOwn a l st).Sound := h

theorem write_sound (a : Agent) (cells : List Host.Cell) (h : m.Sound) : (m.write a cells).Sound :=
  foldl_sound _ (fun _ _ h => setOwn_sound _ _ _ (setView_sound _ _ _ h)) cells _ h

theorem drain_sound (i g : Nat) (h : m.Sound) : (m.drain i g).Sound := by
  unfold drain; split
  · exact h
  · exact foldl_sound _ (fun _ _ h => offerG_sound _ _ _ h) _ _ h

theorem liftG_sound (g st : Nat) (h : m.Sound) : (m.liftG g st).Sound := by
  refine foldl_sound _ (fun m c h => ?_) _ _ h
  split
  · exact offerD_sound _ _ h
  · exact h

theorem liftD_sound (st : Nat) (h : m.Sound) : (m.liftD st).Sound := by
  refine foldl_sound _ (fun m c h => ?_) _ _ h
  split
  · exact offerY_sound _ _ h
  · exact h

theorem load_sound (a : Agent) (cut : Nat) (ls : List Nat) (h : m.Sound) : (m.load a cut ls).2.Sound := by
  unfold load
  dsimp only
  generalize ls.zip (m.chosen a cut ls) = ps
  exact foldl_sound _ (fun _ _ h => raiseView_sound _ _ _ h) ps _ h

theorem loadEach_sound (a : Agent) (cut : Nat) (ls : List Nat) :
    ∀ {m : MemSys} (i : Nat), m.Sound → (m.loadEach a cut ls i).2.Sound := by
  induction ls with
  | nil => exact fun _ h => h
  | cons l r ih => exact fun i h => ih _ (load_sound _ _ _ h)

theorem refresh_sound (a : Agent) (sc : Scope) (g : Nat) (p : Nat → Bool) (h : m.Sound) : (m.refresh a sc g p).Sound := by
  refine foldl_sound _ (fun m l h => ?_) _ _ h
  split
  · exact raiseView_sound _ _ _ h
  · exact h

theorem acquire_sound (a : Agent) (sc : Scope) (g : Nat) (word : List Nat) (p : Nat → Bool) (h : m.Sound) :
    (m.acquire a sc g word p).2.Sound :=
  refresh_sound _ _ _ _ (foldl_sound _ (fun _ _ h => raiseView_sound _ _ _ h) _ _ h)

theorem place_sound (sc : Scope) (g l : Nat) (x : Held) (h : m.Sound) : (m.place sc g l x).Sound := by
  cases sc
  · exact offerG_sound _ _ _ h
  · exact offerD_sound _ _ (offerG_sound _ _ _ h)
  · exact offerY_sound _ _ (offerD_sound _ _ (offerG_sound _ _ _ h))

theorem release_sound (a : Agent) (sc : Scope) (g : Nat) (cells : List Host.Cell) (h : m.Sound) :
    (m.release a sc g cells).Sound :=
  foldl_sound _ (fun _ _ h => setOwn_sound _ _ _ (setView_sound _ _ _ (place_sound _ _ _ _ h))) _ _ h

theorem placeAll_sound (l : Nat) (x : Held) (h : m.Sound) : (m.placeAll l x).Sound := by
  have := offerD_sound l x h
  unfold placeAll; dsimp only; split <;> exact this

theorem atomRead_sound (a : Agent) (word : List Nat) (h : m.Sound) : (m.atomRead a word).2.Sound :=
  foldl_sound _ (fun _ _ h => raiseView_sound _ _ _ (placeAll_sound _ _ h)) _ _ h

theorem atomWrite_sound (a : Agent) (cells : List Host.Cell) (h : m.Sound) : (m.atomWrite a cells).Sound :=
  foldl_sound _ (fun _ _ h => setOwn_sound _ _ _ (setView_sound _ _ _ (placeAll_sound _ _ h))) _ _ h

theorem drainAll_sound (a : Agent) (g n : Nat) : ∀ {m : MemSys}, m.Sound → (m.drainAll a g n).Sound := by
  induction n with
  | zero => exact fun h => h
  | succ n ih =>
    intro m h
    unfold drainAll; split
    · exact h
    · exact ih (drain_sound _ _ h)

theorem flush_sound (a : Agent) (g : Nat) (h : m.Sound) : (m.flush a g).Sound :=
  foldl_sound _ (fun _ _ h => offerD_sound _ _ h) _ _ (drainAll_sound _ _ _ h)

theorem flushSystem_sound (a : Agent) (g : Nat) (h : m.Sound) : (m.flushSystem a g).Sound :=
  foldl_sound _ (fun _ _ h => offerY_sound _ _ h) _ _ (flush_sound _ _ h)

theorem handOff_sound (a : Agent) (h : m.Sound) : (m.handOff a).Sound := refresh_sound _ _ _ _ h

theorem clear_sound (p : Nat → Bool) (h : m.Sound) : (m.clear p).Sound := outside_wf p h

theorem drainFor_sound (a : Agent) (g : Nat) (n : Nat) :
    ∀ {m : MemSys} (ls : List Nat), m.Sound → (m.drainFor a g ls n).Sound := by
  induction n with
  | zero => exact fun _ h => h
  | succ n ih =>
    intro m ls h
    unfold drainFor
    split
    · exact h
    · split
      · exact ih _ (drain_sound _ _ h)
      · exact ih _ h

theorem move_sound (a : Agent) (loc n : Nat) (f : Nat → Option Nat) (h : m.Sound) : (m.move a loc n f).2.Sound := by
  unfold move
  dsimp only
  split
  · exact atomRead_sound _ _ h
  · exact atomWrite_sound _ _ (atomRead_sound _ _ h)

theorem writeD_sound (loc : Nat) (v : Word) (h : m.Sound) : (m.writeD loc v).Sound := by
  have h' : MemSys.Sound { m with next := m.next + 1 } := h
  unfold writeD
  generalize (locsFrom loc 8).zip (bytesOf 8 v) = l
  exact foldl_sound _ (fun _ _ h => offerD_sound _ _ h) l _ h'

end MemSys

end Sys2Proof.Machine
end

