-- ==== Sys2Proof/Laws/State.lean ====
section
/-! SUPPORT. One lemma per field and update of the state and of a context: what an update leaves as it was. -/

namespace Sys2Proof.Machine

variable (s : State)

@[simp] theorem State.setCore_ctxs (c : Nat) (x : Core) : (s.setCore c x).ctxs = s.ctxs := rfl
@[simp] theorem State.setCore_clusters (c : Nat) (x : Core) : (s.setCore c x).clusters = s.clusters := rfl
@[simp] theorem State.setCore_dies (c : Nat) (x : Core) : (s.setCore c x).dies = s.dies := rfl
@[simp] theorem State.setCore_parts (c : Nat) (x : Core) : (s.setCore c x).parts = s.parts := rfl
@[simp] theorem State.setCore_streams (c : Nat) (x : Core) : (s.setCore c x).streams = s.streams := rfl
@[simp] theorem State.setCore_services (c : Nat) (x : Core) : (s.setCore c x).services = s.services := rfl
@[simp] theorem State.setCore_mem (c : Nat) (x : Core) : (s.setCore c x).mem = s.mem := rfl
@[simp] theorem State.setCore_net (c : Nat) (x : Core) : (s.setCore c x).net = s.net := rfl
@[simp] theorem State.setCore_slotNew (c : Nat) (x : Core) : (s.setCore c x).slotNew = s.slotNew := rfl
@[simp] theorem State.setCore_launches (c : Nat) (x : Core) : (s.setCore c x).launches = s.launches := rfl
@[simp] theorem State.setCore_links (c : Nat) (x : Core) : (s.setCore c x).links = s.links := rfl
@[simp] theorem State.setCore_uet (c : Nat) (x : Core) : (s.setCore c x).uet = s.uet := rfl
@[simp] theorem State.setCore_fwd (c : Nat) (x : Core) : (s.setCore c x).fwd = s.fwd := rfl
@[simp] theorem State.setCore_groups (c : Nat) (x : Core) : (s.setCore c x).groups = s.groups := rfl
@[simp] theorem State.setCore_sessions (c : Nat) (x : Core) : (s.setCore c x).sessions = s.sessions := rfl
@[simp] theorem State.setCore_fabric (c : Nat) (x : Core) : (s.setCore c x).fabric = s.fabric := rfl
@[simp] theorem State.setCore_pktDrops (c : Nat) (x : Core) : (s.setCore c x).pktDrops = s.pktDrops := rfl
@[simp] theorem State.setCore_frameDrops (c : Nat) (x : Core) : (s.setCore c x).frameDrops = s.frameDrops := rfl
@[simp] theorem State.setCore_power (c : Nat) (x : Core) : (s.setCore c x).power = s.power := rfl
@[simp] theorem State.setCore_store (c : Nat) (x : Core) : (s.setCore c x).store = s.store := rfl
@[simp] theorem State.setCore_staging (c : Nat) (x : Core) : (s.setCore c x).staging = s.staging := rfl
@[simp] theorem State.setCore_torn (c : Nat) (x : Core) : (s.setCore c x).torn = s.torn := rfl
@[simp] theorem State.setCore_keyNext (c : Nat) (x : Core) : (s.setCore c x).keyNext = s.keyNext := rfl
@[simp] theorem State.setCore_keyWindow (c : Nat) (x : Core) : (s.setCore c x).keyWindow = s.keyWindow := rfl
@[simp] theorem State.setCore_keyUsed (c : Nat) (x : Core) : (s.setCore c x).keyUsed = s.keyUsed := rfl
@[simp] theorem State.setCore_repl (c : Nat) (x : Core) : (s.setCore c x).repl = s.repl := rfl
@[simp] theorem State.setCore_sreq (c : Nat) (x : Core) : (s.setCore c x).sreq = s.sreq := rfl
@[simp] theorem State.setCore_recov (c : Nat) (x : Core) : (s.setCore c x).recov = s.recov := rfl
@[simp] theorem State.setCore_keyx (c : Nat) (x : Core) : (s.setCore c x).keyx = s.keyx := rfl
@[simp] theorem State.setCore_corrected (c : Nat) (x : Core) : (s.setCore c x).corrected = s.corrected := rfl
@[simp] theorem State.setCore_ovfDue (c : Nat) (x : Core) : (s.setCore c x).ovfDue = s.ovfDue := rfl
@[simp] theorem State.setCore_l2Pending (c : Nat) (x : Core) : (s.setCore c x).l2Pending = s.l2Pending := rfl
@[simp] theorem State.setCore_hostOut (c : Nat) (x : Core) : (s.setCore c x).hostOut = s.hostOut := rfl
@[simp] theorem State.setCore_frameOut (c : Nat) (x : Core) : (s.setCore c x).frameOut = s.frameOut := rfl
@[simp] theorem State.setCore_ackOut (c : Nat) (x : Core) : (s.setCore c x).ackOut = s.ackOut := rfl
@[simp] theorem State.setCore_packetOut (c : Nat) (x : Core) : (s.setCore c x).packetOut = s.packetOut := rfl
@[simp] theorem State.setCore_roundOut (c : Nat) (x : Core) : (s.setCore c x).roundOut = s.roundOut := rfl
@[simp] theorem State.setCore_traceOut (c : Nat) (x : Core) : (s.setCore c x).traceOut = s.traceOut := rfl
@[simp] theorem State.setCore_attest (c : Nat) (x : Core) : (s.setCore c x).attest = s.attest := rfl
@[simp] theorem State.setCore_agenda (c : Nat) (x : Core) : (s.setCore c x).agenda = s.agenda := rfl
@[simp] theorem State.setCore_tick (c : Nat) (x : Core) : (s.setCore c x).tick = s.tick := rfl
@[simp] theorem State.setCore_fresh (c : Nat) (x : Core) : (s.setCore c x).fresh = s.fresh := rfl
@[simp] theorem State.setCore_cur (c : Nat) (x : Core) : (s.setCore c x).cur = s.cur := rfl
@[simp] theorem State.setCore_issue (c : Nat) (x : Core) : (s.setCore c x).issue = s.issue := rfl
@[simp] theorem State.setCore_acct (c : Nat) (x : Core) : (s.setCore c x).acct = s.acct := rfl

@[simp] theorem State.modCore_ctxs (c : Nat) (f : Core → Core) : (s.modCore c f).ctxs = s.ctxs := rfl
@[simp] theorem State.modCore_clusters (c : Nat) (f : Core → Core) : (s.modCore c f).clusters = s.clusters := rfl
@[simp] theorem State.modCore_dies (c : Nat) (f : Core → Core) : (s.modCore c f).dies = s.dies := rfl
@[simp] theorem State.modCore_parts (c : Nat) (f : Core → Core) : (s.modCore c f).parts = s.parts := rfl
@[simp] theorem State.modCore_streams (c : Nat) (f : Core → Core) : (s.modCore c f).streams = s.streams := rfl
@[simp] theorem State.modCore_services (c : Nat) (f : Core → Core) : (s.modCore c f).services = s.services := rfl
@[simp] theorem State.modCore_mem (c : Nat) (f : Core → Core) : (s.modCore c f).mem = s.mem := rfl
@[simp] theorem State.modCore_net (c : Nat) (f : Core → Core) : (s.modCore c f).net = s.net := rfl
@[simp] theorem State.modCore_slotNew (c : Nat) (f : Core → Core) : (s.modCore c f).slotNew = s.slotNew := rfl
@[simp] theorem State.modCore_launches (c : Nat) (f : Core → Core) : (s.modCore c f).launches = s.launches := rfl
@[simp] theorem State.modCore_links (c : Nat) (f : Core → Core) : (s.modCore c f).links = s.links := rfl
@[simp] theorem State.modCore_uet (c : Nat) (f : Core → Core) : (s.modCore c f).uet = s.uet := rfl
@[simp] theorem State.modCore_fwd (c : Nat) (f : Core → Core) : (s.modCore c f).fwd = s.fwd := rfl
@[simp] theorem State.modCore_groups (c : Nat) (f : Core → Core) : (s.modCore c f).groups = s.groups := rfl
@[simp] theorem State.modCore_sessions (c : Nat) (f : Core → Core) : (s.modCore c f).sessions = s.sessions := rfl
@[simp] theorem State.modCore_fabric (c : Nat) (f : Core → Core) : (s.modCore c f).fabric = s.fabric := rfl
@[simp] theorem State.modCore_pktDrops (c : Nat) (f : Core → Core) : (s.modCore c f).pktDrops = s.pktDrops := rfl
@[simp] theorem State.modCore_frameDrops (c : Nat) (f : Core → Core) : (s.modCore c f).frameDrops = s.frameDrops := rfl
@[simp] theorem State.modCore_power (c : Nat) (f : Core → Core) : (s.modCore c f).power = s.power := rfl
@[simp] theorem State.modCore_store (c : Nat) (f : Core → Core) : (s.modCore c f).store = s.store := rfl
@[simp] theorem State.modCore_staging (c : Nat) (f : Core → Core) : (s.modCore c f).staging = s.staging := rfl
@[simp] theorem State.modCore_torn (c : Nat) (f : Core → Core) : (s.modCore c f).torn = s.torn := rfl
@[simp] theorem State.modCore_keyNext (c : Nat) (f : Core → Core) : (s.modCore c f).keyNext = s.keyNext := rfl
@[simp] theorem State.modCore_keyWindow (c : Nat) (f : Core → Core) : (s.modCore c f).keyWindow = s.keyWindow := rfl
@[simp] theorem State.modCore_keyUsed (c : Nat) (f : Core → Core) : (s.modCore c f).keyUsed = s.keyUsed := rfl
@[simp] theorem State.modCore_repl (c : Nat) (f : Core → Core) : (s.modCore c f).repl = s.repl := rfl
@[simp] theorem State.modCore_sreq (c : Nat) (f : Core → Core) : (s.modCore c f).sreq = s.sreq := rfl
@[simp] theorem State.modCore_recov (c : Nat) (f : Core → Core) : (s.modCore c f).recov = s.recov := rfl
@[simp] theorem State.modCore_keyx (c : Nat) (f : Core → Core) : (s.modCore c f).keyx = s.keyx := rfl
@[simp] theorem State.modCore_corrected (c : Nat) (f : Core → Core) : (s.modCore c f).corrected = s.corrected := rfl
@[simp] theorem State.modCore_ovfDue (c : Nat) (f : Core → Core) : (s.modCore c f).ovfDue = s.ovfDue := rfl
@[simp] theorem State.modCore_l2Pending (c : Nat) (f : Core → Core) : (s.modCore c f).l2Pending = s.l2Pending := rfl
@[simp] theorem State.modCore_hostOut (c : Nat) (f : Core → Core) : (s.modCore c f).hostOut = s.hostOut := rfl
@[simp] theorem State.modCore_frameOut (c : Nat) (f : Core → Core) : (s.modCore c f).frameOut = s.frameOut := rfl
@[simp] theorem State.modCore_ackOut (c : Nat) (f : Core → Core) : (s.modCore c f).ackOut = s.ackOut := rfl
@[simp] theorem State.modCore_packetOut (c : Nat) (f : Core → Core) : (s.modCore c f).packetOut = s.packetOut := rfl
@[simp] theorem State.modCore_roundOut (c : Nat) (f : Core → Core) : (s.modCore c f).roundOut = s.roundOut := rfl
@[simp] theorem State.modCore_traceOut (c : Nat) (f : Core → Core) : (s.modCore c f).traceOut = s.traceOut := rfl
@[simp] theorem State.modCore_attest (c : Nat) (f : Core → Core) : (s.modCore c f).attest = s.attest := rfl
@[simp] theorem State.modCore_agenda (c : Nat) (f : Core → Core) : (s.modCore c f).agenda = s.agenda := rfl
@[simp] theorem State.modCore_tick (c : Nat) (f : Core → Core) : (s.modCore c f).tick = s.tick := rfl
@[simp] theorem State.modCore_fresh (c : Nat) (f : Core → Core) : (s.modCore c f).fresh = s.fresh := rfl
@[simp] theorem State.modCore_cur (c : Nat) (f : Core → Core) : (s.modCore c f).cur = s.cur := rfl
@[simp] theorem State.modCore_issue (c : Nat) (f : Core → Core) : (s.modCore c f).issue = s.issue := rfl
@[simp] theorem State.modCore_acct (c : Nat) (f : Core → Core) : (s.modCore c f).acct = s.acct := rfl

@[simp] theorem State.setCtx_cores (c k : Nat) (x : Ctx) : (s.setCtx c k x).cores = s.cores := rfl
@[simp] theorem State.setCtx_clusters (c k : Nat) (x : Ctx) : (s.setCtx c k x).clusters = s.clusters := rfl
@[simp] theorem State.setCtx_dies (c k : Nat) (x : Ctx) : (s.setCtx c k x).dies = s.dies := rfl
@[simp] theorem State.setCtx_parts (c k : Nat) (x : Ctx) : (s.setCtx c k x).parts = s.parts := rfl
@[simp] theorem State.setCtx_streams (c k : Nat) (x : Ctx) : (s.setCtx c k x).streams = s.streams := rfl
@[simp] theorem State.setCtx_services (c k : Nat) (x : Ctx) : (s.setCtx c k x).services = s.services := rfl
@[simp] theorem State.setCtx_mem (c k : Nat) (x : Ctx) : (s.setCtx c k x).mem = s.mem := rfl
@[simp] theorem State.setCtx_net (c k : Nat) (x : Ctx) : (s.setCtx c k x).net = s.net := rfl
@[simp] theorem State.setCtx_slotNew (c k : Nat) (x : Ctx) : (s.setCtx c k x).slotNew = s.slotNew := rfl
@[simp] theorem State.setCtx_launches (c k : Nat) (x : Ctx) : (s.setCtx c k x).launches = s.launches := rfl
@[simp] theorem State.setCtx_links (c k : Nat) (x : Ctx) : (s.setCtx c k x).links = s.links := rfl
@[simp] theorem State.setCtx_uet (c k : Nat) (x : Ctx) : (s.setCtx c k x).uet = s.uet := rfl
@[simp] theorem State.setCtx_fwd (c k : Nat) (x : Ctx) : (s.setCtx c k x).fwd = s.fwd := rfl
@[simp] theorem State.setCtx_groups (c k : Nat) (x : Ctx) : (s.setCtx c k x).groups = s.groups := rfl
@[simp] theorem State.setCtx_sessions (c k : Nat) (x : Ctx) : (s.setCtx c k x).sessions = s.sessions := rfl
@[simp] theorem State.setCtx_fabric (c k : Nat) (x : Ctx) : (s.setCtx c k x).fabric = s.fabric := rfl
@[simp] theorem State.setCtx_pktDrops (c k : Nat) (x : Ctx) : (s.setCtx c k x).pktDrops = s.pktDrops := rfl
@[simp] theorem State.setCtx_frameDrops (c k : Nat) (x : Ctx) : (s.setCtx c k x).frameDrops = s.frameDrops := rfl
@[simp] theorem State.setCtx_power (c k : Nat) (x : Ctx) : (s.setCtx c k x).power = s.power := rfl
@[simp] theorem State.setCtx_store (c k : Nat) (x : Ctx) : (s.setCtx c k x).store = s.store := rfl
@[simp] theorem State.setCtx_staging (c k : Nat) (x : Ctx) : (s.setCtx c k x).staging = s.staging := rfl
@[simp] theorem State.setCtx_torn (c k : Nat) (x : Ctx) : (s.setCtx c k x).torn = s.torn := rfl
@[simp] theorem State.setCtx_keyNext (c k : Nat) (x : Ctx) : (s.setCtx c k x).keyNext = s.keyNext := rfl
@[simp] theorem State.setCtx_keyWindow (c k : Nat) (x : Ctx) : (s.setCtx c k x).keyWindow = s.keyWindow := rfl
@[simp] theorem State.setCtx_keyUsed (c k : Nat) (x : Ctx) : (s.setCtx c k x).keyUsed = s.keyUsed := rfl
@[simp] theorem State.setCtx_repl (c k : Nat) (x : Ctx) : (s.setCtx c k x).repl = s.repl := rfl
@[simp] theorem State.setCtx_sreq (c k : Nat) (x : Ctx) : (s.setCtx c k x).sreq = s.sreq := rfl
@[simp] theorem State.setCtx_recov (c k : Nat) (x : Ctx) : (s.setCtx c k x).recov = s.recov := rfl
@[simp] theorem State.setCtx_keyx (c k : Nat) (x : Ctx) : (s.setCtx c k x).keyx = s.keyx := rfl
@[simp] theorem State.setCtx_corrected (c k : Nat) (x : Ctx) : (s.setCtx c k x).corrected = s.corrected := rfl
@[simp] theorem State.setCtx_ovfDue (c k : Nat) (x : Ctx) : (s.setCtx c k x).ovfDue = s.ovfDue := rfl
@[simp] theorem State.setCtx_l2Pending (c k : Nat) (x : Ctx) : (s.setCtx c k x).l2Pending = s.l2Pending := rfl
@[simp] theorem State.setCtx_hostOut (c k : Nat) (x : Ctx) : (s.setCtx c k x).hostOut = s.hostOut := rfl
@[simp] theorem State.setCtx_frameOut (c k : Nat) (x : Ctx) : (s.setCtx c k x).frameOut = s.frameOut := rfl
@[simp] theorem State.setCtx_ackOut (c k : Nat) (x : Ctx) : (s.setCtx c k x).ackOut = s.ackOut := rfl
@[simp] theorem State.setCtx_packetOut (c k : Nat) (x : Ctx) : (s.setCtx c k x).packetOut = s.packetOut := rfl
@[simp] theorem State.setCtx_roundOut (c k : Nat) (x : Ctx) : (s.setCtx c k x).roundOut = s.roundOut := rfl
@[simp] theorem State.setCtx_traceOut (c k : Nat) (x : Ctx) : (s.setCtx c k x).traceOut = s.traceOut := rfl
@[simp] theorem State.setCtx_attest (c k : Nat) (x : Ctx) : (s.setCtx c k x).attest = s.attest := rfl
@[simp] theorem State.setCtx_agenda (c k : Nat) (x : Ctx) : (s.setCtx c k x).agenda = s.agenda := rfl
@[simp] theorem State.setCtx_tick (c k : Nat) (x : Ctx) : (s.setCtx c k x).tick = s.tick := rfl
@[simp] theorem State.setCtx_fresh (c k : Nat) (x : Ctx) : (s.setCtx c k x).fresh = s.fresh := rfl
@[simp] theorem State.setCtx_cur (c k : Nat) (x : Ctx) : (s.setCtx c k x).cur = s.cur := rfl
@[simp] theorem State.setCtx_issue (c k : Nat) (x : Ctx) : (s.setCtx c k x).issue = s.issue := rfl
@[simp] theorem State.setCtx_acct (c k : Nat) (x : Ctx) : (s.setCtx c k x).acct = s.acct := rfl

@[simp] theorem State.modCtx_cores (c k : Nat) (f : Ctx → Ctx) : (s.modCtx c k f).cores = s.cores := rfl
@[simp] theorem State.modCtx_clusters (c k : Nat) (f : Ctx → Ctx) : (s.modCtx c k f).clusters = s.clusters := rfl
@[simp] theorem State.modCtx_dies (c k : Nat) (f : Ctx → Ctx) : (s.modCtx c k f).dies = s.dies := rfl
@[simp] theorem State.modCtx_parts (c k : Nat) (f : Ctx → Ctx) : (s.modCtx c k f).parts = s.parts := rfl
@[simp] theorem State.modCtx_streams (c k : Nat) (f : Ctx → Ctx) : (s.modCtx c k f).streams = s.streams := rfl
@[simp] theorem State.modCtx_services (c k : Nat) (f : Ctx → Ctx) : (s.modCtx c k f).services = s.services := rfl
@[simp] theorem State.modCtx_mem (c k : Nat) (f : Ctx → Ctx) : (s.modCtx c k f).mem = s.mem := rfl
@[simp] theorem State.modCtx_net (c k : Nat) (f : Ctx → Ctx) : (s.modCtx c k f).net = s.net := rfl
@[simp] theorem State.modCtx_slotNew (c k : Nat) (f : Ctx → Ctx) : (s.modCtx c k f).slotNew = s.slotNew := rfl
@[simp] theorem State.modCtx_launches (c k : Nat) (f : Ctx → Ctx) : (s.modCtx c k f).launches = s.launches := rfl
@[simp] theorem State.modCtx_links (c k : Nat) (f : Ctx → Ctx) : (s.modCtx c k f).links = s.links := rfl
@[simp] theorem State.modCtx_uet (c k : Nat) (f : Ctx → Ctx) : (s.modCtx c k f).uet = s.uet := rfl
@[simp] theorem State.modCtx_fwd (c k : Nat) (f : Ctx → Ctx) : (s.modCtx c k f).fwd = s.fwd := rfl
@[simp] theorem State.modCtx_groups (c k : Nat) (f : Ctx → Ctx) : (s.modCtx c k f).groups = s.groups := rfl
@[simp] theorem State.modCtx_sessions (c k : Nat) (f : Ctx → Ctx) : (s.modCtx c k f).sessions = s.sessions := rfl
@[simp] theorem State.modCtx_fabric (c k : Nat) (f : Ctx → Ctx) : (s.modCtx c k f).fabric = s.fabric := rfl
@[simp] theorem State.modCtx_pktDrops (c k : Nat) (f : Ctx → Ctx) : (s.modCtx c k f).pktDrops = s.pktDrops := rfl
@[simp] theorem State.modCtx_frameDrops (c k : Nat) (f : Ctx → Ctx) : (s.modCtx c k f).frameDrops = s.frameDrops := rfl
@[simp] theorem State.modCtx_power (c k : Nat) (f : Ctx → Ctx) : (s.modCtx c k f).power = s.power := rfl
@[simp] theorem State.modCtx_store (c k : Nat) (f : Ctx → Ctx) : (s.modCtx c k f).store = s.store := rfl
@[simp] theorem State.modCtx_staging (c k : Nat) (f : Ctx → Ctx) : (s.modCtx c k f).staging = s.staging := rfl
@[simp] theorem State.modCtx_torn (c k : Nat) (f : Ctx → Ctx) : (s.modCtx c k f).torn = s.torn := rfl
@[simp] theorem State.modCtx_keyNext (c k : Nat) (f : Ctx → Ctx) : (s.modCtx c k f).keyNext = s.keyNext := rfl
@[simp] theorem State.modCtx_keyWindow (c k : Nat) (f : Ctx → Ctx) : (s.modCtx c k f).keyWindow = s.keyWindow := rfl
@[simp] theorem State.modCtx_keyUsed (c k : Nat) (f : Ctx → Ctx) : (s.modCtx c k f).keyUsed = s.keyUsed := rfl
@[simp] theorem State.modCtx_repl (c k : Nat) (f : Ctx → Ctx) : (s.modCtx c k f).repl = s.repl := rfl
@[simp] theorem State.modCtx_sreq (c k : Nat) (f : Ctx → Ctx) : (s.modCtx c k f).sreq = s.sreq := rfl
@[simp] theorem State.modCtx_recov (c k : Nat) (f : Ctx → Ctx) : (s.modCtx c k f).recov = s.recov := rfl
@[simp] theorem State.modCtx_keyx (c k : Nat) (f : Ctx → Ctx) : (s.modCtx c k f).keyx = s.keyx := rfl
@[simp] theorem State.modCtx_corrected (c k : Nat) (f : Ctx → Ctx) : (s.modCtx c k f).corrected = s.corrected := rfl
@[simp] theorem State.modCtx_ovfDue (c k : Nat) (f : Ctx → Ctx) : (s.modCtx c k f).ovfDue = s.ovfDue := rfl
@[simp] theorem State.modCtx_l2Pending (c k : Nat) (f : Ctx → Ctx) : (s.modCtx c k f).l2Pending = s.l2Pending := rfl
@[simp] theorem State.modCtx_hostOut (c k : Nat) (f : Ctx → Ctx) : (s.modCtx c k f).hostOut = s.hostOut := rfl
@[simp] theorem State.modCtx_frameOut (c k : Nat) (f : Ctx → Ctx) : (s.modCtx c k f).frameOut = s.frameOut := rfl
@[simp] theorem State.modCtx_ackOut (c k : Nat) (f : Ctx → Ctx) : (s.modCtx c k f).ackOut = s.ackOut := rfl
@[simp] theorem State.modCtx_packetOut (c k : Nat) (f : Ctx → Ctx) : (s.modCtx c k f).packetOut = s.packetOut := rfl
@[simp] theorem State.modCtx_roundOut (c k : Nat) (f : Ctx → Ctx) : (s.modCtx c k f).roundOut = s.roundOut := rfl
@[simp] theorem State.modCtx_traceOut (c k : Nat) (f : Ctx → Ctx) : (s.modCtx c k f).traceOut = s.traceOut := rfl
@[simp] theorem State.modCtx_attest (c k : Nat) (f : Ctx → Ctx) : (s.modCtx c k f).attest = s.attest := rfl
@[simp] theorem State.modCtx_agenda (c k : Nat) (f : Ctx → Ctx) : (s.modCtx c k f).agenda = s.agenda := rfl
@[simp] theorem State.modCtx_tick (c k : Nat) (f : Ctx → Ctx) : (s.modCtx c k f).tick = s.tick := rfl
@[simp] theorem State.modCtx_fresh (c k : Nat) (f : Ctx → Ctx) : (s.modCtx c k f).fresh = s.fresh := rfl
@[simp] theorem State.modCtx_cur (c k : Nat) (f : Ctx → Ctx) : (s.modCtx c k f).cur = s.cur := rfl
@[simp] theorem State.modCtx_issue (c k : Nat) (f : Ctx → Ctx) : (s.modCtx c k f).issue = s.issue := rfl
@[simp] theorem State.modCtx_acct (c k : Nat) (f : Ctx → Ctx) : (s.modCtx c k f).acct = s.acct := rfl

@[simp] theorem State.modMe_cores (f : Ctx → Ctx) : (s.modMe f).cores = s.cores := rfl
@[simp] theorem State.modMe_clusters (f : Ctx → Ctx) : (s.modMe f).clusters = s.clusters := rfl
@[simp] theorem State.modMe_dies (f : Ctx → Ctx) : (s.modMe f).dies = s.dies := rfl
@[simp] theorem State.modMe_parts (f : Ctx → Ctx) : (s.modMe f).parts = s.parts := rfl
@[simp] theorem State.modMe_streams (f : Ctx → Ctx) : (s.modMe f).streams = s.streams := rfl
@[simp] theorem State.modMe_services (f : Ctx → Ctx) : (s.modMe f).services = s.services := rfl
@[simp] theorem State.modMe_mem (f : Ctx → Ctx) : (s.modMe f).mem = s.mem := rfl
@[simp] theorem State.modMe_net (f : Ctx → Ctx) : (s.modMe f).net = s.net := rfl
@[simp] theorem State.modMe_slotNew (f : Ctx → Ctx) : (s.modMe f).slotNew = s.slotNew := rfl
@[simp] theorem State.modMe_launches (f : Ctx → Ctx) : (s.modMe f).launches = s.launches := rfl
@[simp] theorem State.modMe_links (f : Ctx → Ctx) : (s.modMe f).links = s.links := rfl
@[simp] theorem State.modMe_uet (f : Ctx → Ctx) : (s.modMe f).uet = s.uet := rfl
@[simp] theorem State.modMe_fwd (f : Ctx → Ctx) : (s.modMe f).fwd = s.fwd := rfl
@[simp] theorem State.modMe_groups (f : Ctx → Ctx) : (s.modMe f).groups = s.groups := rfl
@[simp] theorem State.modMe_sessions (f : Ctx → Ctx) : (s.modMe f).sessions = s.sessions := rfl
@[simp] theorem State.modMe_fabric (f : Ctx → Ctx) : (s.modMe f).fabric = s.fabric := rfl
@[simp] theorem State.modMe_pktDrops (f : Ctx → Ctx) : (s.modMe f).pktDrops = s.pktDrops := rfl
@[simp] theorem State.modMe_frameDrops (f : Ctx → Ctx) : (s.modMe f).frameDrops = s.frameDrops := rfl
@[simp] theorem State.modMe_power (f : Ctx → Ctx) : (s.modMe f).power = s.power := rfl
@[simp] theorem State.modMe_store (f : Ctx → Ctx) : (s.modMe f).store = s.store := rfl
@[simp] theorem State.modMe_staging (f : Ctx → Ctx) : (s.modMe f).staging = s.staging := rfl
@[simp] theorem State.modMe_torn (f : Ctx → Ctx) : (s.modMe f).torn = s.torn := rfl
@[simp] theorem State.modMe_keyNext (f : Ctx → Ctx) : (s.modMe f).keyNext = s.keyNext := rfl
@[simp] theorem State.modMe_keyWindow (f : Ctx → Ctx) : (s.modMe f).keyWindow = s.keyWindow := rfl
@[simp] theorem State.modMe_keyUsed (f : Ctx → Ctx) : (s.modMe f).keyUsed = s.keyUsed := rfl
@[simp] theorem State.modMe_repl (f : Ctx → Ctx) : (s.modMe f).repl = s.repl := rfl
@[simp] theorem State.modMe_sreq (f : Ctx → Ctx) : (s.modMe f).sreq = s.sreq := rfl
@[simp] theorem State.modMe_recov (f : Ctx → Ctx) : (s.modMe f).recov = s.recov := rfl
@[simp] theorem State.modMe_keyx (f : Ctx → Ctx) : (s.modMe f).keyx = s.keyx := rfl
@[simp] theorem State.modMe_corrected (f : Ctx → Ctx) : (s.modMe f).corrected = s.corrected := rfl
@[simp] theorem State.modMe_ovfDue (f : Ctx → Ctx) : (s.modMe f).ovfDue = s.ovfDue := rfl
@[simp] theorem State.modMe_l2Pending (f : Ctx → Ctx) : (s.modMe f).l2Pending = s.l2Pending := rfl
@[simp] theorem State.modMe_hostOut (f : Ctx → Ctx) : (s.modMe f).hostOut = s.hostOut := rfl
@[simp] theorem State.modMe_frameOut (f : Ctx → Ctx) : (s.modMe f).frameOut = s.frameOut := rfl
@[simp] theorem State.modMe_ackOut (f : Ctx → Ctx) : (s.modMe f).ackOut = s.ackOut := rfl
@[simp] theorem State.modMe_packetOut (f : Ctx → Ctx) : (s.modMe f).packetOut = s.packetOut := rfl
@[simp] theorem State.modMe_roundOut (f : Ctx → Ctx) : (s.modMe f).roundOut = s.roundOut := rfl
@[simp] theorem State.modMe_traceOut (f : Ctx → Ctx) : (s.modMe f).traceOut = s.traceOut := rfl
@[simp] theorem State.modMe_attest (f : Ctx → Ctx) : (s.modMe f).attest = s.attest := rfl
@[simp] theorem State.modMe_agenda (f : Ctx → Ctx) : (s.modMe f).agenda = s.agenda := rfl
@[simp] theorem State.modMe_tick (f : Ctx → Ctx) : (s.modMe f).tick = s.tick := rfl
@[simp] theorem State.modMe_fresh (f : Ctx → Ctx) : (s.modMe f).fresh = s.fresh := rfl
@[simp] theorem State.modMe_cur (f : Ctx → Ctx) : (s.modMe f).cur = s.cur := rfl
@[simp] theorem State.modMe_issue (f : Ctx → Ctx) : (s.modMe f).issue = s.issue := rfl
@[simp] theorem State.modMe_acct (f : Ctx → Ctx) : (s.modMe f).acct = s.acct := rfl

@[simp] theorem State.modMyCore_ctxs (f : Core → Core) : (s.modMyCore f).ctxs = s.ctxs := rfl
@[simp] theorem State.modMyCore_clusters (f : Core → Core) : (s.modMyCore f).clusters = s.clusters := rfl
@[simp] theorem State.modMyCore_dies (f : Core → Core) : (s.modMyCore f).dies = s.dies := rfl
@[simp] theorem State.modMyCore_parts (f : Core → Core) : (s.modMyCore f).parts = s.parts := rfl
@[simp] theorem State.modMyCore_streams (f : Core → Core) : (s.modMyCore f).streams = s.streams := rfl
@[simp] theorem State.modMyCore_services (f : Core → Core) : (s.modMyCore f).services = s.services := rfl
@[simp] theorem State.modMyCore_mem (f : Core → Core) : (s.modMyCore f).mem = s.mem := rfl
@[simp] theorem State.modMyCore_net (f : Core → Core) : (s.modMyCore f).net = s.net := rfl
@[simp] theorem State.modMyCore_slotNew (f : Core → Core) : (s.modMyCore f).slotNew = s.slotNew := rfl
@[simp] theorem State.modMyCore_launches (f : Core → Core) : (s.modMyCore f).launches = s.launches := rfl
@[simp] theorem State.modMyCore_links (f : Core → Core) : (s.modMyCore f).links = s.links := rfl
@[simp] theorem State.modMyCore_uet (f : Core → Core) : (s.modMyCore f).uet = s.uet := rfl
@[simp] theorem State.modMyCore_fwd (f : Core → Core) : (s.modMyCore f).fwd = s.fwd := rfl
@[simp] theorem State.modMyCore_groups (f : Core → Core) : (s.modMyCore f).groups = s.groups := rfl
@[simp] theorem State.modMyCore_sessions (f : Core → Core) : (s.modMyCore f).sessions = s.sessions := rfl
@[simp] theorem State.modMyCore_fabric (f : Core → Core) : (s.modMyCore f).fabric = s.fabric := rfl
@[simp] theorem State.modMyCore_pktDrops (f : Core → Core) : (s.modMyCore f).pktDrops = s.pktDrops := rfl
@[simp] theorem State.modMyCore_frameDrops (f : Core → Core) : (s.modMyCore f).frameDrops = s.frameDrops := rfl
@[simp] theorem State.modMyCore_power (f : Core → Core) : (s.modMyCore f).power = s.power := rfl
@[simp] theorem State.modMyCore_store (f : Core → Core) : (s.modMyCore f).store = s.store := rfl
@[simp] theorem State.modMyCore_staging (f : Core → Core) : (s.modMyCore f).staging = s.staging := rfl
@[simp] theorem State.modMyCore_torn (f : Core → Core) : (s.modMyCore f).torn = s.torn := rfl
@[simp] theorem State.modMyCore_keyNext (f : Core → Core) : (s.modMyCore f).keyNext = s.keyNext := rfl
@[simp] theorem State.modMyCore_keyWindow (f : Core → Core) : (s.modMyCore f).keyWindow = s.keyWindow := rfl
@[simp] theorem State.modMyCore_keyUsed (f : Core → Core) : (s.modMyCore f).keyUsed = s.keyUsed := rfl
@[simp] theorem State.modMyCore_repl (f : Core → Core) : (s.modMyCore f).repl = s.repl := rfl
@[simp] theorem State.modMyCore_sreq (f : Core → Core) : (s.modMyCore f).sreq = s.sreq := rfl
@[simp] theorem State.modMyCore_recov (f : Core → Core) : (s.modMyCore f).recov = s.recov := rfl
@[simp] theorem State.modMyCore_keyx (f : Core → Core) : (s.modMyCore f).keyx = s.keyx := rfl
@[simp] theorem State.modMyCore_corrected (f : Core → Core) : (s.modMyCore f).corrected = s.corrected := rfl
@[simp] theorem State.modMyCore_ovfDue (f : Core → Core) : (s.modMyCore f).ovfDue = s.ovfDue := rfl
@[simp] theorem State.modMyCore_l2Pending (f : Core → Core) : (s.modMyCore f).l2Pending = s.l2Pending := rfl
@[simp] theorem State.modMyCore_hostOut (f : Core → Core) : (s.modMyCore f).hostOut = s.hostOut := rfl
@[simp] theorem State.modMyCore_frameOut (f : Core → Core) : (s.modMyCore f).frameOut = s.frameOut := rfl
@[simp] theorem State.modMyCore_ackOut (f : Core → Core) : (s.modMyCore f).ackOut = s.ackOut := rfl
@[simp] theorem State.modMyCore_packetOut (f : Core → Core) : (s.modMyCore f).packetOut = s.packetOut := rfl
@[simp] theorem State.modMyCore_roundOut (f : Core → Core) : (s.modMyCore f).roundOut = s.roundOut := rfl
@[simp] theorem State.modMyCore_traceOut (f : Core → Core) : (s.modMyCore f).traceOut = s.traceOut := rfl
@[simp] theorem State.modMyCore_attest (f : Core → Core) : (s.modMyCore f).attest = s.attest := rfl
@[simp] theorem State.modMyCore_agenda (f : Core → Core) : (s.modMyCore f).agenda = s.agenda := rfl
@[simp] theorem State.modMyCore_tick (f : Core → Core) : (s.modMyCore f).tick = s.tick := rfl
@[simp] theorem State.modMyCore_fresh (f : Core → Core) : (s.modMyCore f).fresh = s.fresh := rfl
@[simp] theorem State.modMyCore_cur (f : Core → Core) : (s.modMyCore f).cur = s.cur := rfl
@[simp] theorem State.modMyCore_issue (f : Core → Core) : (s.modMyCore f).issue = s.issue := rfl
@[simp] theorem State.modMyCore_acct (f : Core → Core) : (s.modMyCore f).acct = s.acct := rfl

@[simp] theorem State.modCluster_cores (c : Nat) (f : Cluster → Cluster) : (s.modCluster c f).cores = s.cores := rfl
@[simp] theorem State.modCluster_ctxs (c : Nat) (f : Cluster → Cluster) : (s.modCluster c f).ctxs = s.ctxs := rfl
@[simp] theorem State.modCluster_dies (c : Nat) (f : Cluster → Cluster) : (s.modCluster c f).dies = s.dies := rfl
@[simp] theorem State.modCluster_parts (c : Nat) (f : Cluster → Cluster) : (s.modCluster c f).parts = s.parts := rfl
@[simp] theorem State.modCluster_streams (c : Nat) (f : Cluster → Cluster) : (s.modCluster c f).streams = s.streams := rfl
@[simp] theorem State.modCluster_services (c : Nat) (f : Cluster → Cluster) : (s.modCluster c f).services = s.services := rfl
@[simp] theorem State.modCluster_mem (c : Nat) (f : Cluster → Cluster) : (s.modCluster c f).mem = s.mem := rfl
@[simp] theorem State.modCluster_net (c : Nat) (f : Cluster → Cluster) : (s.modCluster c f).net = s.net := rfl
@[simp] theorem State.modCluster_slotNew (c : Nat) (f : Cluster → Cluster) : (s.modCluster c f).slotNew = s.slotNew := rfl
@[simp] theorem State.modCluster_launches (c : Nat) (f : Cluster → Cluster) : (s.modCluster c f).launches = s.launches := rfl
@[simp] theorem State.modCluster_links (c : Nat) (f : Cluster → Cluster) : (s.modCluster c f).links = s.links := rfl
@[simp] theorem State.modCluster_uet (c : Nat) (f : Cluster → Cluster) : (s.modCluster c f).uet = s.uet := rfl
@[simp] theorem State.modCluster_fwd (c : Nat) (f : Cluster → Cluster) : (s.modCluster c f).fwd = s.fwd := rfl
@[simp] theorem State.modCluster_groups (c : Nat) (f : Cluster → Cluster) : (s.modCluster c f).groups = s.groups := rfl
@[simp] theorem State.modCluster_sessions (c : Nat) (f : Cluster → Cluster) : (s.modCluster c f).sessions = s.sessions := rfl
@[simp] theorem State.modCluster_fabric (c : Nat) (f : Cluster → Cluster) : (s.modCluster c f).fabric = s.fabric := rfl
@[simp] theorem State.modCluster_pktDrops (c : Nat) (f : Cluster → Cluster) : (s.modCluster c f).pktDrops = s.pktDrops := rfl
@[simp] theorem State.modCluster_frameDrops (c : Nat) (f : Cluster → Cluster) : (s.modCluster c f).frameDrops = s.frameDrops := rfl
@[simp] theorem State.modCluster_power (c : Nat) (f : Cluster → Cluster) : (s.modCluster c f).power = s.power := rfl
@[simp] theorem State.modCluster_store (c : Nat) (f : Cluster → Cluster) : (s.modCluster c f).store = s.store := rfl
@[simp] theorem State.modCluster_staging (c : Nat) (f : Cluster → Cluster) : (s.modCluster c f).staging = s.staging := rfl
@[simp] theorem State.modCluster_torn (c : Nat) (f : Cluster → Cluster) : (s.modCluster c f).torn = s.torn := rfl
@[simp] theorem State.modCluster_keyNext (c : Nat) (f : Cluster → Cluster) : (s.modCluster c f).keyNext = s.keyNext := rfl
@[simp] theorem State.modCluster_keyWindow (c : Nat) (f : Cluster → Cluster) : (s.modCluster c f).keyWindow = s.keyWindow := rfl
@[simp] theorem State.modCluster_keyUsed (c : Nat) (f : Cluster → Cluster) : (s.modCluster c f).keyUsed = s.keyUsed := rfl
@[simp] theorem State.modCluster_repl (c : Nat) (f : Cluster → Cluster) : (s.modCluster c f).repl = s.repl := rfl
@[simp] theorem State.modCluster_sreq (c : Nat) (f : Cluster → Cluster) : (s.modCluster c f).sreq = s.sreq := rfl
@[simp] theorem State.modCluster_recov (c : Nat) (f : Cluster → Cluster) : (s.modCluster c f).recov = s.recov := rfl
@[simp] theorem State.modCluster_keyx (c : Nat) (f : Cluster → Cluster) : (s.modCluster c f).keyx = s.keyx := rfl
@[simp] theorem State.modCluster_corrected (c : Nat) (f : Cluster → Cluster) : (s.modCluster c f).corrected = s.corrected := rfl
@[simp] theorem State.modCluster_ovfDue (c : Nat) (f : Cluster → Cluster) : (s.modCluster c f).ovfDue = s.ovfDue := rfl
@[simp] theorem State.modCluster_l2Pending (c : Nat) (f : Cluster → Cluster) : (s.modCluster c f).l2Pending = s.l2Pending := rfl
@[simp] theorem State.modCluster_hostOut (c : Nat) (f : Cluster → Cluster) : (s.modCluster c f).hostOut = s.hostOut := rfl
@[simp] theorem State.modCluster_frameOut (c : Nat) (f : Cluster → Cluster) : (s.modCluster c f).frameOut = s.frameOut := rfl
@[simp] theorem State.modCluster_ackOut (c : Nat) (f : Cluster → Cluster) : (s.modCluster c f).ackOut = s.ackOut := rfl
@[simp] theorem State.modCluster_packetOut (c : Nat) (f : Cluster → Cluster) : (s.modCluster c f).packetOut = s.packetOut := rfl
@[simp] theorem State.modCluster_roundOut (c : Nat) (f : Cluster → Cluster) : (s.modCluster c f).roundOut = s.roundOut := rfl
@[simp] theorem State.modCluster_traceOut (c : Nat) (f : Cluster → Cluster) : (s.modCluster c f).traceOut = s.traceOut := rfl
@[simp] theorem State.modCluster_attest (c : Nat) (f : Cluster → Cluster) : (s.modCluster c f).attest = s.attest := rfl
@[simp] theorem State.modCluster_agenda (c : Nat) (f : Cluster → Cluster) : (s.modCluster c f).agenda = s.agenda := rfl
@[simp] theorem State.modCluster_tick (c : Nat) (f : Cluster → Cluster) : (s.modCluster c f).tick = s.tick := rfl
@[simp] theorem State.modCluster_fresh (c : Nat) (f : Cluster → Cluster) : (s.modCluster c f).fresh = s.fresh := rfl
@[simp] theorem State.modCluster_cur (c : Nat) (f : Cluster → Cluster) : (s.modCluster c f).cur = s.cur := rfl
@[simp] theorem State.modCluster_issue (c : Nat) (f : Cluster → Cluster) : (s.modCluster c f).issue = s.issue := rfl
@[simp] theorem State.modCluster_acct (c : Nat) (f : Cluster → Cluster) : (s.modCluster c f).acct = s.acct := rfl

@[simp] theorem State.modDie_cores (d : Nat) (f : Die → Die) : (s.modDie d f).cores = s.cores := rfl
@[simp] theorem State.modDie_ctxs (d : Nat) (f : Die → Die) : (s.modDie d f).ctxs = s.ctxs := rfl
@[simp] theorem State.modDie_clusters (d : Nat) (f : Die → Die) : (s.modDie d f).clusters = s.clusters := rfl
@[simp] theorem State.modDie_parts (d : Nat) (f : Die → Die) : (s.modDie d f).parts = s.parts := rfl
@[simp] theorem State.modDie_streams (d : Nat) (f : Die → Die) : (s.modDie d f).streams = s.streams := rfl
@[simp] theorem State.modDie_services (d : Nat) (f : Die → Die) : (s.modDie d f).services = s.services := rfl
@[simp] theorem State.modDie_mem (d : Nat) (f : Die → Die) : (s.modDie d f).mem = s.mem := rfl
@[simp] theorem State.modDie_net (d : Nat) (f : Die → Die) : (s.modDie d f).net = s.net := rfl
@[simp] theorem State.modDie_slotNew (d : Nat) (f : Die → Die) : (s.modDie d f).slotNew = s.slotNew := rfl
@[simp] theorem State.modDie_launches (d : Nat) (f : Die → Die) : (s.modDie d f).launches = s.launches := rfl
@[simp] theorem State.modDie_links (d : Nat) (f : Die → Die) : (s.modDie d f).links = s.links := rfl
@[simp] theorem State.modDie_uet (d : Nat) (f : Die → Die) : (s.modDie d f).uet = s.uet := rfl
@[simp] theorem State.modDie_fwd (d : Nat) (f : Die → Die) : (s.modDie d f).fwd = s.fwd := rfl
@[simp] theorem State.modDie_groups (d : Nat) (f : Die → Die) : (s.modDie d f).groups = s.groups := rfl
@[simp] theorem State.modDie_sessions (d : Nat) (f : Die → Die) : (s.modDie d f).sessions = s.sessions := rfl
@[simp] theorem State.modDie_fabric (d : Nat) (f : Die → Die) : (s.modDie d f).fabric = s.fabric := rfl
@[simp] theorem State.modDie_pktDrops (d : Nat) (f : Die → Die) : (s.modDie d f).pktDrops = s.pktDrops := rfl
@[simp] theorem State.modDie_frameDrops (d : Nat) (f : Die → Die) : (s.modDie d f).frameDrops = s.frameDrops := rfl
@[simp] theorem State.modDie_power (d : Nat) (f : Die → Die) : (s.modDie d f).power = s.power := rfl
@[simp] theorem State.modDie_store (d : Nat) (f : Die → Die) : (s.modDie d f).store = s.store := rfl
@[simp] theorem State.modDie_staging (d : Nat) (f : Die → Die) : (s.modDie d f).staging = s.staging := rfl
@[simp] theorem State.modDie_torn (d : Nat) (f : Die → Die) : (s.modDie d f).torn = s.torn := rfl
@[simp] theorem State.modDie_keyNext (d : Nat) (f : Die → Die) : (s.modDie d f).keyNext = s.keyNext := rfl
@[simp] theorem State.modDie_keyWindow (d : Nat) (f : Die → Die) : (s.modDie d f).keyWindow = s.keyWindow := rfl
@[simp] theorem State.modDie_keyUsed (d : Nat) (f : Die → Die) : (s.modDie d f).keyUsed = s.keyUsed := rfl
@[simp] theorem State.modDie_repl (d : Nat) (f : Die → Die) : (s.modDie d f).repl = s.repl := rfl
@[simp] theorem State.modDie_sreq (d : Nat) (f : Die → Die) : (s.modDie d f).sreq = s.sreq := rfl
@[simp] theorem State.modDie_recov (d : Nat) (f : Die → Die) : (s.modDie d f).recov = s.recov := rfl
@[simp] theorem State.modDie_keyx (d : Nat) (f : Die → Die) : (s.modDie d f).keyx = s.keyx := rfl
@[simp] theorem State.modDie_corrected (d : Nat) (f : Die → Die) : (s.modDie d f).corrected = s.corrected := rfl
@[simp] theorem State.modDie_ovfDue (d : Nat) (f : Die → Die) : (s.modDie d f).ovfDue = s.ovfDue := rfl
@[simp] theorem State.modDie_l2Pending (d : Nat) (f : Die → Die) : (s.modDie d f).l2Pending = s.l2Pending := rfl
@[simp] theorem State.modDie_hostOut (d : Nat) (f : Die → Die) : (s.modDie d f).hostOut = s.hostOut := rfl
@[simp] theorem State.modDie_frameOut (d : Nat) (f : Die → Die) : (s.modDie d f).frameOut = s.frameOut := rfl
@[simp] theorem State.modDie_ackOut (d : Nat) (f : Die → Die) : (s.modDie d f).ackOut = s.ackOut := rfl
@[simp] theorem State.modDie_packetOut (d : Nat) (f : Die → Die) : (s.modDie d f).packetOut = s.packetOut := rfl
@[simp] theorem State.modDie_roundOut (d : Nat) (f : Die → Die) : (s.modDie d f).roundOut = s.roundOut := rfl
@[simp] theorem State.modDie_traceOut (d : Nat) (f : Die → Die) : (s.modDie d f).traceOut = s.traceOut := rfl
@[simp] theorem State.modDie_attest (d : Nat) (f : Die → Die) : (s.modDie d f).attest = s.attest := rfl
@[simp] theorem State.modDie_agenda (d : Nat) (f : Die → Die) : (s.modDie d f).agenda = s.agenda := rfl
@[simp] theorem State.modDie_tick (d : Nat) (f : Die → Die) : (s.modDie d f).tick = s.tick := rfl
@[simp] theorem State.modDie_fresh (d : Nat) (f : Die → Die) : (s.modDie d f).fresh = s.fresh := rfl
@[simp] theorem State.modDie_cur (d : Nat) (f : Die → Die) : (s.modDie d f).cur = s.cur := rfl
@[simp] theorem State.modDie_issue (d : Nat) (f : Die → Die) : (s.modDie d f).issue = s.issue := rfl
@[simp] theorem State.modDie_acct (d : Nat) (f : Die → Die) : (s.modDie d f).acct = s.acct := rfl

@[simp] theorem State.modPart_cores (p : Nat) (f : Partition → Partition) : (s.modPart p f).cores = s.cores := rfl
@[simp] theorem State.modPart_ctxs (p : Nat) (f : Partition → Partition) : (s.modPart p f).ctxs = s.ctxs := rfl
@[simp] theorem State.modPart_clusters (p : Nat) (f : Partition → Partition) : (s.modPart p f).clusters = s.clusters := rfl
@[simp] theorem State.modPart_dies (p : Nat) (f : Partition → Partition) : (s.modPart p f).dies = s.dies := rfl
@[simp] theorem State.modPart_streams (p : Nat) (f : Partition → Partition) : (s.modPart p f).streams = s.streams := rfl
@[simp] theorem State.modPart_services (p : Nat) (f : Partition → Partition) : (s.modPart p f).services = s.services := rfl
@[simp] theorem State.modPart_mem (p : Nat) (f : Partition → Partition) : (s.modPart p f).mem = s.mem := rfl
@[simp] theorem State.modPart_net (p : Nat) (f : Partition → Partition) : (s.modPart p f).net = s.net := rfl
@[simp] theorem State.modPart_slotNew (p : Nat) (f : Partition → Partition) : (s.modPart p f).slotNew = s.slotNew := rfl
@[simp] theorem State.modPart_launches (p : Nat) (f : Partition → Partition) : (s.modPart p f).launches = s.launches := rfl
@[simp] theorem State.modPart_links (p : Nat) (f : Partition → Partition) : (s.modPart p f).links = s.links := rfl
@[simp] theorem State.modPart_uet (p : Nat) (f : Partition → Partition) : (s.modPart p f).uet = s.uet := rfl
@[simp] theorem State.modPart_fwd (p : Nat) (f : Partition → Partition) : (s.modPart p f).fwd = s.fwd := rfl
@[simp] theorem State.modPart_groups (p : Nat) (f : Partition → Partition) : (s.modPart p f).groups = s.groups := rfl
@[simp] theorem State.modPart_sessions (p : Nat) (f : Partition → Partition) : (s.modPart p f).sessions = s.sessions := rfl
@[simp] theorem State.modPart_fabric (p : Nat) (f : Partition → Partition) : (s.modPart p f).fabric = s.fabric := rfl
@[simp] theorem State.modPart_pktDrops (p : Nat) (f : Partition → Partition) : (s.modPart p f).pktDrops = s.pktDrops := rfl
@[simp] theorem State.modPart_frameDrops (p : Nat) (f : Partition → Partition) : (s.modPart p f).frameDrops = s.frameDrops := rfl
@[simp] theorem State.modPart_power (p : Nat) (f : Partition → Partition) : (s.modPart p f).power = s.power := rfl
@[simp] theorem State.modPart_store (p : Nat) (f : Partition → Partition) : (s.modPart p f).store = s.store := rfl
@[simp] theorem State.modPart_staging (p : Nat) (f : Partition → Partition) : (s.modPart p f).staging = s.staging := rfl
@[simp] theorem State.modPart_torn (p : Nat) (f : Partition → Partition) : (s.modPart p f).torn = s.torn := rfl
@[simp] theorem State.modPart_keyNext (p : Nat) (f : Partition → Partition) : (s.modPart p f).keyNext = s.keyNext := rfl
@[simp] theorem State.modPart_keyWindow (p : Nat) (f : Partition → Partition) : (s.modPart p f).keyWindow = s.keyWindow := rfl
@[simp] theorem State.modPart_keyUsed (p : Nat) (f : Partition → Partition) : (s.modPart p f).keyUsed = s.keyUsed := rfl
@[simp] theorem State.modPart_repl (p : Nat) (f : Partition → Partition) : (s.modPart p f).repl = s.repl := rfl
@[simp] theorem State.modPart_sreq (p : Nat) (f : Partition → Partition) : (s.modPart p f).sreq = s.sreq := rfl
@[simp] theorem State.modPart_recov (p : Nat) (f : Partition → Partition) : (s.modPart p f).recov = s.recov := rfl
@[simp] theorem State.modPart_keyx (p : Nat) (f : Partition → Partition) : (s.modPart p f).keyx = s.keyx := rfl
@[simp] theorem State.modPart_corrected (p : Nat) (f : Partition → Partition) : (s.modPart p f).corrected = s.corrected := rfl
@[simp] theorem State.modPart_ovfDue (p : Nat) (f : Partition → Partition) : (s.modPart p f).ovfDue = s.ovfDue := rfl
@[simp] theorem State.modPart_l2Pending (p : Nat) (f : Partition → Partition) : (s.modPart p f).l2Pending = s.l2Pending := rfl
@[simp] theorem State.modPart_hostOut (p : Nat) (f : Partition → Partition) : (s.modPart p f).hostOut = s.hostOut := rfl
@[simp] theorem State.modPart_frameOut (p : Nat) (f : Partition → Partition) : (s.modPart p f).frameOut = s.frameOut := rfl
@[simp] theorem State.modPart_ackOut (p : Nat) (f : Partition → Partition) : (s.modPart p f).ackOut = s.ackOut := rfl
@[simp] theorem State.modPart_packetOut (p : Nat) (f : Partition → Partition) : (s.modPart p f).packetOut = s.packetOut := rfl
@[simp] theorem State.modPart_roundOut (p : Nat) (f : Partition → Partition) : (s.modPart p f).roundOut = s.roundOut := rfl
@[simp] theorem State.modPart_traceOut (p : Nat) (f : Partition → Partition) : (s.modPart p f).traceOut = s.traceOut := rfl
@[simp] theorem State.modPart_attest (p : Nat) (f : Partition → Partition) : (s.modPart p f).attest = s.attest := rfl
@[simp] theorem State.modPart_agenda (p : Nat) (f : Partition → Partition) : (s.modPart p f).agenda = s.agenda := rfl
@[simp] theorem State.modPart_tick (p : Nat) (f : Partition → Partition) : (s.modPart p f).tick = s.tick := rfl
@[simp] theorem State.modPart_fresh (p : Nat) (f : Partition → Partition) : (s.modPart p f).fresh = s.fresh := rfl
@[simp] theorem State.modPart_cur (p : Nat) (f : Partition → Partition) : (s.modPart p f).cur = s.cur := rfl
@[simp] theorem State.modPart_issue (p : Nat) (f : Partition → Partition) : (s.modPart p f).issue = s.issue := rfl
@[simp] theorem State.modPart_acct (p : Nat) (f : Partition → Partition) : (s.modPart p f).acct = s.acct := rfl

@[simp] theorem State.setStream_cores (n : Nat) (x : Stream) : (s.setStream n x).cores = s.cores := rfl
@[simp] theorem State.setStream_ctxs (n : Nat) (x : Stream) : (s.setStream n x).ctxs = s.ctxs := rfl
@[simp] theorem State.setStream_clusters (n : Nat) (x : Stream) : (s.setStream n x).clusters = s.clusters := rfl
@[simp] theorem State.setStream_dies (n : Nat) (x : Stream) : (s.setStream n x).dies = s.dies := rfl
@[simp] theorem State.setStream_parts (n : Nat) (x : Stream) : (s.setStream n x).parts = s.parts := rfl
@[simp] theorem State.setStream_services (n : Nat) (x : Stream) : (s.setStream n x).services = s.services := rfl
@[simp] theorem State.setStream_mem (n : Nat) (x : Stream) : (s.setStream n x).mem = s.mem := rfl
@[simp] theorem State.setStream_net (n : Nat) (x : Stream) : (s.setStream n x).net = s.net := rfl
@[simp] theorem State.setStream_slotNew (n : Nat) (x : Stream) : (s.setStream n x).slotNew = s.slotNew := rfl
@[simp] theorem State.setStream_launches (n : Nat) (x : Stream) : (s.setStream n x).launches = s.launches := rfl
@[simp] theorem State.setStream_links (n : Nat) (x : Stream) : (s.setStream n x).links = s.links := rfl
@[simp] theorem State.setStream_uet (n : Nat) (x : Stream) : (s.setStream n x).uet = s.uet := rfl
@[simp] theorem State.setStream_fwd (n : Nat) (x : Stream) : (s.setStream n x).fwd = s.fwd := rfl
@[simp] theorem State.setStream_groups (n : Nat) (x : Stream) : (s.setStream n x).groups = s.groups := rfl
@[simp] theorem State.setStream_sessions (n : Nat) (x : Stream) : (s.setStream n x).sessions = s.sessions := rfl
@[simp] theorem State.setStream_fabric (n : Nat) (x : Stream) : (s.setStream n x).fabric = s.fabric := rfl
@[simp] theorem State.setStream_pktDrops (n : Nat) (x : Stream) : (s.setStream n x).pktDrops = s.pktDrops := rfl
@[simp] theorem State.setStream_frameDrops (n : Nat) (x : Stream) : (s.setStream n x).frameDrops = s.frameDrops := rfl
@[simp] theorem State.setStream_power (n : Nat) (x : Stream) : (s.setStream n x).power = s.power := rfl
@[simp] theorem State.setStream_store (n : Nat) (x : Stream) : (s.setStream n x).store = s.store := rfl
@[simp] theorem State.setStream_staging (n : Nat) (x : Stream) : (s.setStream n x).staging = s.staging := rfl
@[simp] theorem State.setStream_torn (n : Nat) (x : Stream) : (s.setStream n x).torn = s.torn := rfl
@[simp] theorem State.setStream_keyNext (n : Nat) (x : Stream) : (s.setStream n x).keyNext = s.keyNext := rfl
@[simp] theorem State.setStream_keyWindow (n : Nat) (x : Stream) : (s.setStream n x).keyWindow = s.keyWindow := rfl
@[simp] theorem State.setStream_keyUsed (n : Nat) (x : Stream) : (s.setStream n x).keyUsed = s.keyUsed := rfl
@[simp] theorem State.setStream_repl (n : Nat) (x : Stream) : (s.setStream n x).repl = s.repl := rfl
@[simp] theorem State.setStream_sreq (n : Nat) (x : Stream) : (s.setStream n x).sreq = s.sreq := rfl
@[simp] theorem State.setStream_recov (n : Nat) (x : Stream) : (s.setStream n x).recov = s.recov := rfl
@[simp] theorem State.setStream_keyx (n : Nat) (x : Stream) : (s.setStream n x).keyx = s.keyx := rfl
@[simp] theorem State.setStream_corrected (n : Nat) (x : Stream) : (s.setStream n x).corrected = s.corrected := rfl
@[simp] theorem State.setStream_ovfDue (n : Nat) (x : Stream) : (s.setStream n x).ovfDue = s.ovfDue := rfl
@[simp] theorem State.setStream_l2Pending (n : Nat) (x : Stream) : (s.setStream n x).l2Pending = s.l2Pending := rfl
@[simp] theorem State.setStream_hostOut (n : Nat) (x : Stream) : (s.setStream n x).hostOut = s.hostOut := rfl
@[simp] theorem State.setStream_frameOut (n : Nat) (x : Stream) : (s.setStream n x).frameOut = s.frameOut := rfl
@[simp] theorem State.setStream_ackOut (n : Nat) (x : Stream) : (s.setStream n x).ackOut = s.ackOut := rfl
@[simp] theorem State.setStream_packetOut (n : Nat) (x : Stream) : (s.setStream n x).packetOut = s.packetOut := rfl
@[simp] theorem State.setStream_roundOut (n : Nat) (x : Stream) : (s.setStream n x).roundOut = s.roundOut := rfl
@[simp] theorem State.setStream_traceOut (n : Nat) (x : Stream) : (s.setStream n x).traceOut = s.traceOut := rfl
@[simp] theorem State.setStream_attest (n : Nat) (x : Stream) : (s.setStream n x).attest = s.attest := rfl
@[simp] theorem State.setStream_agenda (n : Nat) (x : Stream) : (s.setStream n x).agenda = s.agenda := rfl
@[simp] theorem State.setStream_tick (n : Nat) (x : Stream) : (s.setStream n x).tick = s.tick := rfl
@[simp] theorem State.setStream_fresh (n : Nat) (x : Stream) : (s.setStream n x).fresh = s.fresh := rfl
@[simp] theorem State.setStream_cur (n : Nat) (x : Stream) : (s.setStream n x).cur = s.cur := rfl
@[simp] theorem State.setStream_issue (n : Nat) (x : Stream) : (s.setStream n x).issue = s.issue := rfl
@[simp] theorem State.setStream_acct (n : Nat) (x : Stream) : (s.setStream n x).acct = s.acct := rfl

@[simp] theorem State.modMem_cores (f : MemSys → MemSys) : (s.modMem f).cores = s.cores := rfl
@[simp] theorem State.modMem_ctxs (f : MemSys → MemSys) : (s.modMem f).ctxs = s.ctxs := rfl
@[simp] theorem State.modMem_clusters (f : MemSys → MemSys) : (s.modMem f).clusters = s.clusters := rfl
@[simp] theorem State.modMem_dies (f : MemSys → MemSys) : (s.modMem f).dies = s.dies := rfl
@[simp] theorem State.modMem_parts (f : MemSys → MemSys) : (s.modMem f).parts = s.parts := rfl
@[simp] theorem State.modMem_streams (f : MemSys → MemSys) : (s.modMem f).streams = s.streams := rfl
@[simp] theorem State.modMem_services (f : MemSys → MemSys) : (s.modMem f).services = s.services := rfl
@[simp] theorem State.modMem_net (f : MemSys → MemSys) : (s.modMem f).net = s.net := rfl
@[simp] theorem State.modMem_slotNew (f : MemSys → MemSys) : (s.modMem f).slotNew = s.slotNew := rfl
@[simp] theorem State.modMem_launches (f : MemSys → MemSys) : (s.modMem f).launches = s.launches := rfl
@[simp] theorem State.modMem_links (f : MemSys → MemSys) : (s.modMem f).links = s.links := rfl
@[simp] theorem State.modMem_uet (f : MemSys → MemSys) : (s.modMem f).uet = s.uet := rfl
@[simp] theorem State.modMem_fwd (f : MemSys → MemSys) : (s.modMem f).fwd = s.fwd := rfl
@[simp] theorem State.modMem_groups (f : MemSys → MemSys) : (s.modMem f).groups = s.groups := rfl
@[simp] theorem State.modMem_sessions (f : MemSys → MemSys) : (s.modMem f).sessions = s.sessions := rfl
@[simp] theorem State.modMem_fabric (f : MemSys → MemSys) : (s.modMem f).fabric = s.fabric := rfl
@[simp] theorem State.modMem_pktDrops (f : MemSys → MemSys) : (s.modMem f).pktDrops = s.pktDrops := rfl
@[simp] theorem State.modMem_frameDrops (f : MemSys → MemSys) : (s.modMem f).frameDrops = s.frameDrops := rfl
@[simp] theorem State.modMem_power (f : MemSys → MemSys) : (s.modMem f).power = s.power := rfl
@[simp] theorem State.modMem_store (f : MemSys → MemSys) : (s.modMem f).store = s.store := rfl
@[simp] theorem State.modMem_staging (f : MemSys → MemSys) : (s.modMem f).staging = s.staging := rfl
@[simp] theorem State.modMem_torn (f : MemSys → MemSys) : (s.modMem f).torn = s.torn := rfl
@[simp] theorem State.modMem_keyNext (f : MemSys → MemSys) : (s.modMem f).keyNext = s.keyNext := rfl
@[simp] theorem State.modMem_keyWindow (f : MemSys → MemSys) : (s.modMem f).keyWindow = s.keyWindow := rfl
@[simp] theorem State.modMem_keyUsed (f : MemSys → MemSys) : (s.modMem f).keyUsed = s.keyUsed := rfl
@[simp] theorem State.modMem_repl (f : MemSys → MemSys) : (s.modMem f).repl = s.repl := rfl
@[simp] theorem State.modMem_sreq (f : MemSys → MemSys) : (s.modMem f).sreq = s.sreq := rfl
@[simp] theorem State.modMem_recov (f : MemSys → MemSys) : (s.modMem f).recov = s.recov := rfl
@[simp] theorem State.modMem_keyx (f : MemSys → MemSys) : (s.modMem f).keyx = s.keyx := rfl
@[simp] theorem State.modMem_corrected (f : MemSys → MemSys) : (s.modMem f).corrected = s.corrected := rfl
@[simp] theorem State.modMem_ovfDue (f : MemSys → MemSys) : (s.modMem f).ovfDue = s.ovfDue := rfl
@[simp] theorem State.modMem_l2Pending (f : MemSys → MemSys) : (s.modMem f).l2Pending = s.l2Pending := rfl
@[simp] theorem State.modMem_hostOut (f : MemSys → MemSys) : (s.modMem f).hostOut = s.hostOut := rfl
@[simp] theorem State.modMem_frameOut (f : MemSys → MemSys) : (s.modMem f).frameOut = s.frameOut := rfl
@[simp] theorem State.modMem_ackOut (f : MemSys → MemSys) : (s.modMem f).ackOut = s.ackOut := rfl
@[simp] theorem State.modMem_packetOut (f : MemSys → MemSys) : (s.modMem f).packetOut = s.packetOut := rfl
@[simp] theorem State.modMem_roundOut (f : MemSys → MemSys) : (s.modMem f).roundOut = s.roundOut := rfl
@[simp] theorem State.modMem_traceOut (f : MemSys → MemSys) : (s.modMem f).traceOut = s.traceOut := rfl
@[simp] theorem State.modMem_attest (f : MemSys → MemSys) : (s.modMem f).attest = s.attest := rfl
@[simp] theorem State.modMem_agenda (f : MemSys → MemSys) : (s.modMem f).agenda = s.agenda := rfl
@[simp] theorem State.modMem_tick (f : MemSys → MemSys) : (s.modMem f).tick = s.tick := rfl
@[simp] theorem State.modMem_fresh (f : MemSys → MemSys) : (s.modMem f).fresh = s.fresh := rfl
@[simp] theorem State.modMem_cur (f : MemSys → MemSys) : (s.modMem f).cur = s.cur := rfl
@[simp] theorem State.modMem_issue (f : MemSys → MemSys) : (s.modMem f).issue = s.issue := rfl
@[simp] theorem State.modMem_acct (f : MemSys → MemSys) : (s.modMem f).acct = s.acct := rfl

@[simp] theorem State.modMem_mem (f : MemSys → MemSys) : (s.modMem f).mem = f s.mem := rfl

variable (x : Ctx)

@[simp] theorem Ctx.setX_g (r : Fin 32) (w : Word) : (x.setX r w).g = x.g := rfl
@[simp] theorem Ctx.setX_v (r : Fin 32) (w : Word) : (x.setX r w).v = x.v := rfl
@[simp] theorem Ctx.setX_z (r : Fin 32) (w : Word) : (x.setX r w).z = x.z := rfl
@[simp] theorem Ctx.setX_pc (r : Fin 32) (w : Word) : (x.setX r w).pc = x.pc := rfl
@[simp] theorem Ctx.setX_h (r : Fin 32) (w : Word) : (x.setX r w).h = x.h := rfl
@[simp] theorem Ctx.setX_rm (r : Fin 32) (w : Word) : (x.setX r w).rm = x.rm := rfl
@[simp] theorem Ctx.setX_ff (r : Fin 32) (w : Word) : (x.setX r w).ff = x.ff := rfl
@[simp] theorem Ctx.setX_crew (r : Fin 32) (w : Word) : (x.setX r w).crew = x.crew := rfl
@[simp] theorem Ctx.setX_cm (r : Fin 32) (w : Word) : (x.setX r w).cm = x.cm := rfl
@[simp] theorem Ctx.setX_tcause (r : Fin 32) (w : Word) : (x.setX r w).tcause = x.tcause := rfl
@[simp] theorem Ctx.setX_tpc (r : Fin 32) (w : Word) : (x.setX r w).tpc = x.tpc := rfl
@[simp] theorem Ctx.setX_tval (r : Fin 32) (w : Word) : (x.setX r w).tval = x.tval := rfl
@[simp] theorem Ctx.setX_tvec (r : Fin 32) (w : Word) : (x.setX r w).tvec = x.tvec := rfl
@[simp] theorem Ctx.setX_ydl (r : Fin 32) (w : Word) : (x.setX r w).ydl = x.ydl := rfl
@[simp] theorem Ctx.setX_qmap (r : Fin 32) (w : Word) : (x.setX r w).qmap = x.qmap := rfl
@[simp] theorem Ctx.setX_bsm (r : Fin 32) (w : Word) : (x.setX r w).bsm = x.bsm := rfl
@[simp] theorem Ctx.setX_cps (r : Fin 32) (w : Word) : (x.setX r w).cps = x.cps := rfl
@[simp] theorem Ctx.setX_cpd (r : Fin 32) (w : Word) : (x.setX r w).cpd = x.cpd := rfl
@[simp] theorem Ctx.setX_cpxs (r : Fin 32) (w : Word) : (x.setX r w).cpxs = x.cpxs := rfl
@[simp] theorem Ctx.setX_cpys (r : Fin 32) (w : Word) : (x.setX r w).cpys = x.cpys := rfl
@[simp] theorem Ctx.setX_cpsz (r : Fin 32) (w : Word) : (x.setX r w).cpsz = x.cpsz := rfl
@[simp] theorem Ctx.setX_cpfl (r : Fin 32) (w : Word) : (x.setX r w).cpfl = x.cpfl := rfl
@[simp] theorem Ctx.setX_live (r : Fin 32) (w : Word) : (x.setX r w).live = x.live := rfl
@[simp] theorem Ctx.setX_trap (r : Fin 32) (w : Word) : (x.setX r w).trap = x.trap := rfl
@[simp] theorem Ctx.setX_counts (r : Fin 32) (w : Word) : (x.setX r w).counts = x.counts := rfl
@[simp] theorem Ctx.setX_origin (r : Fin 32) (w : Word) : (x.setX r w).origin = x.origin := rfl
@[simp] theorem Ctx.setX_events (r : Fin 32) (w : Word) : (x.setX r w).events = x.events := rfl
@[simp] theorem Ctx.setX_replies (r : Fin 32) (w : Word) : (x.setX r w).replies = x.replies := rfl
@[simp] theorem Ctx.setX_dbc (r : Fin 32) (w : Word) : (x.setX r w).dbc = x.dbc := rfl
@[simp] theorem Ctx.setX_stepDue (r : Fin 32) (w : Word) : (x.setX r w).stepDue = x.stepDue := rfl
@[simp] theorem Ctx.setX_checksum (r : Fin 32) (w : Word) : (x.setX r w).checksum = x.checksum := rfl
@[simp] theorem Ctx.setX_trace (r : Fin 32) (w : Word) : (x.setX r w).trace = x.trace := rfl
@[simp] theorem Ctx.setX_exch (r : Fin 32) (w : Word) : (x.setX r w).exch = x.exch := rfl
@[simp] theorem Ctx.setX_forced (r : Fin 32) (w : Word) : (x.setX r w).forced = x.forced := rfl
@[simp] theorem Ctx.setX_yielded (r : Fin 32) (w : Word) : (x.setX r w).yielded = x.yielded := rfl
@[simp] theorem Ctx.setX_vcid (r : Fin 32) (w : Word) : (x.setX r w).vcid = x.vcid := rfl
@[simp] theorem Ctx.setX_vctx (r : Fin 32) (w : Word) : (x.setX r w).vctx = x.vctx := rfl
@[simp] theorem Ctx.setX_run (r : Fin 32) (w : Word) : (x.setX r w).run = x.run := rfl
@[simp] theorem Ctx.setX_stopped (r : Fin 32) (w : Word) : (x.setX r w).stopped = x.stopped := rfl
@[simp] theorem Ctx.setX_wait (r : Fin 32) (w : Word) : (x.setX r w).wait = x.wait := rfl
@[simp] theorem Ctx.setX_pend (r : Fin 32) (w : Word) : (x.setX r w).pend = x.pend := rfl
@[simp] theorem Ctx.setX_fetched (r : Fin 32) (w : Word) : (x.setX r w).fetched = x.fetched := rfl
@[simp] theorem Ctx.setX_walks (r : Fin 32) (w : Word) : (x.setX r w).walks = x.walks := rfl
@[simp] theorem Ctx.setX_woke (r : Fin 32) (w : Word) : (x.setX r w).woke = x.woke := rfl
@[simp] theorem Ctx.setX_signal (r : Fin 32) (w : Word) : (x.setX r w).signal = x.signal := rfl
@[simp] theorem Ctx.setX_foot (r : Fin 32) (w : Word) : (x.setX r w).foot = x.foot := rfl

@[simp] theorem Ctx.setV_x (r : Fin 16) (m : Lane) (b : BitVec 1024) (t : Tag) : (x.setV r m b t).x = x.x := rfl
@[simp] theorem Ctx.setV_g (r : Fin 16) (m : Lane) (b : BitVec 1024) (t : Tag) : (x.setV r m b t).g = x.g := rfl
@[simp] theorem Ctx.setV_z (r : Fin 16) (m : Lane) (b : BitVec 1024) (t : Tag) : (x.setV r m b t).z = x.z := rfl
@[simp] theorem Ctx.setV_pc (r : Fin 16) (m : Lane) (b : BitVec 1024) (t : Tag) : (x.setV r m b t).pc = x.pc := rfl
@[simp] theorem Ctx.setV_h (r : Fin 16) (m : Lane) (b : BitVec 1024) (t : Tag) : (x.setV r m b t).h = x.h := rfl
@[simp] theorem Ctx.setV_rm (r : Fin 16) (m : Lane) (b : BitVec 1024) (t : Tag) : (x.setV r m b t).rm = x.rm := rfl
@[simp] theorem Ctx.setV_ff (r : Fin 16) (m : Lane) (b : BitVec 1024) (t : Tag) : (x.setV r m b t).ff = x.ff := rfl
@[simp] theorem Ctx.setV_crew (r : Fin 16) (m : Lane) (b : BitVec 1024) (t : Tag) : (x.setV r m b t).crew = x.crew := rfl
@[simp] theorem Ctx.setV_cm (r : Fin 16) (m : Lane) (b : BitVec 1024) (t : Tag) : (x.setV r m b t).cm = x.cm := rfl
@[simp] theorem Ctx.setV_tcause (r : Fin 16) (m : Lane) (b : BitVec 1024) (t : Tag) : (x.setV r m b t).tcause = x.tcause := rfl
@[simp] theorem Ctx.setV_tpc (r : Fin 16) (m : Lane) (b : BitVec 1024) (t : Tag) : (x.setV r m b t).tpc = x.tpc := rfl
@[simp] theorem Ctx.setV_tval (r : Fin 16) (m : Lane) (b : BitVec 1024) (t : Tag) : (x.setV r m b t).tval = x.tval := rfl
@[simp] theorem Ctx.setV_tvec (r : Fin 16) (m : Lane) (b : BitVec 1024) (t : Tag) : (x.setV r m b t).tvec = x.tvec := rfl
@[simp] theorem Ctx.setV_ydl (r : Fin 16) (m : Lane) (b : BitVec 1024) (t : Tag) : (x.setV r m b t).ydl = x.ydl := rfl
@[simp] theorem Ctx.setV_qmap (r : Fin 16) (m : Lane) (b : BitVec 1024) (t : Tag) : (x.setV r m b t).qmap = x.qmap := rfl
@[simp] theorem Ctx.setV_bsm (r : Fin 16) (m : Lane) (b : BitVec 1024) (t : Tag) : (x.setV r m b t).bsm = x.bsm := rfl
@[simp] theorem Ctx.setV_cps (r : Fin 16) (m : Lane) (b : BitVec 1024) (t : Tag) : (x.setV r m b t).cps = x.cps := rfl
@[simp] theorem Ctx.setV_cpd (r : Fin 16) (m : Lane) (b : BitVec 1024) (t : Tag) : (x.setV r m b t).cpd = x.cpd := rfl
@[simp] theorem Ctx.setV_cpxs (r : Fin 16) (m : Lane) (b : BitVec 1024) (t : Tag) : (x.setV r m b t).cpxs = x.cpxs := rfl
@[simp] theorem Ctx.setV_cpys (r : Fin 16) (m : Lane) (b : BitVec 1024) (t : Tag) : (x.setV r m b t).cpys = x.cpys := rfl
@[simp] theorem Ctx.setV_cpsz (r : Fin 16) (m : Lane) (b : BitVec 1024) (t : Tag) : (x.setV r m b t).cpsz = x.cpsz := rfl
@[simp] theorem Ctx.setV_cpfl (r : Fin 16) (m : Lane) (b : BitVec 1024) (t : Tag) : (x.setV r m b t).cpfl = x.cpfl := rfl
@[simp] theorem Ctx.setV_live (r : Fin 16) (m : Lane) (b : BitVec 1024) (t : Tag) : (x.setV r m b t).live = x.live := rfl
@[simp] theorem Ctx.setV_trap (r : Fin 16) (m : Lane) (b : BitVec 1024) (t : Tag) : (x.setV r m b t).trap = x.trap := rfl
@[simp] theorem Ctx.setV_counts (r : Fin 16) (m : Lane) (b : BitVec 1024) (t : Tag) : (x.setV r m b t).counts = x.counts := rfl
@[simp] theorem Ctx.setV_origin (r : Fin 16) (m : Lane) (b : BitVec 1024) (t : Tag) : (x.setV r m b t).origin = x.origin := rfl
@[simp] theorem Ctx.setV_events (r : Fin 16) (m : Lane) (b : BitVec 1024) (t : Tag) : (x.setV r m b t).events = x.events := rfl
@[simp] theorem Ctx.setV_replies (r : Fin 16) (m : Lane) (b : BitVec 1024) (t : Tag) : (x.setV r m b t).replies = x.replies := rfl
@[simp] theorem Ctx.setV_dbc (r : Fin 16) (m : Lane) (b : BitVec 1024) (t : Tag) : (x.setV r m b t).dbc = x.dbc := rfl
@[simp] theorem Ctx.setV_stepDue (r : Fin 16) (m : Lane) (b : BitVec 1024) (t : Tag) : (x.setV r m b t).stepDue = x.stepDue := rfl
@[simp] theorem Ctx.setV_checksum (r : Fin 16) (m : Lane) (b : BitVec 1024) (t : Tag) : (x.setV r m b t).checksum = x.checksum := rfl
@[simp] theorem Ctx.setV_trace (r : Fin 16) (m : Lane) (b : BitVec 1024) (t : Tag) : (x.setV r m b t).trace = x.trace := rfl
@[simp] theorem Ctx.setV_exch (r : Fin 16) (m : Lane) (b : BitVec 1024) (t : Tag) : (x.setV r m b t).exch = x.exch := rfl
@[simp] theorem Ctx.setV_forced (r : Fin 16) (m : Lane) (b : BitVec 1024) (t : Tag) : (x.setV r m b t).forced = x.forced := rfl
@[simp] theorem Ctx.setV_yielded (r : Fin 16) (m : Lane) (b : BitVec 1024) (t : Tag) : (x.setV r m b t).yielded = x.yielded := rfl
@[simp] theorem Ctx.setV_vcid (r : Fin 16) (m : Lane) (b : BitVec 1024) (t : Tag) : (x.setV r m b t).vcid = x.vcid := rfl
@[simp] theorem Ctx.setV_vctx (r : Fin 16) (m : Lane) (b : BitVec 1024) (t : Tag) : (x.setV r m b t).vctx = x.vctx := rfl
@[simp] theorem Ctx.setV_run (r : Fin 16) (m : Lane) (b : BitVec 1024) (t : Tag) : (x.setV r m b t).run = x.run := rfl
@[simp] theorem Ctx.setV_stopped (r : Fin 16) (m : Lane) (b : BitVec 1024) (t : Tag) : (x.setV r m b t).stopped = x.stopped := rfl
@[simp] theorem Ctx.setV_wait (r : Fin 16) (m : Lane) (b : BitVec 1024) (t : Tag) : (x.setV r m b t).wait = x.wait := rfl
@[simp] theorem Ctx.setV_pend (r : Fin 16) (m : Lane) (b : BitVec 1024) (t : Tag) : (x.setV r m b t).pend = x.pend := rfl
@[simp] theorem Ctx.setV_fetched (r : Fin 16) (m : Lane) (b : BitVec 1024) (t : Tag) : (x.setV r m b t).fetched = x.fetched := rfl
@[simp] theorem Ctx.setV_walks (r : Fin 16) (m : Lane) (b : BitVec 1024) (t : Tag) : (x.setV r m b t).walks = x.walks := rfl
@[simp] theorem Ctx.setV_woke (r : Fin 16) (m : Lane) (b : BitVec 1024) (t : Tag) : (x.setV r m b t).woke = x.woke := rfl
@[simp] theorem Ctx.setV_signal (r : Fin 16) (m : Lane) (b : BitVec 1024) (t : Tag) : (x.setV r m b t).signal = x.signal := rfl
@[simp] theorem Ctx.setV_foot (r : Fin 16) (m : Lane) (b : BitVec 1024) (t : Tag) : (x.setV r m b t).foot = x.foot := rfl

@[simp] theorem Ctx.setZ_x (n : Fin 2) (b : BitVec 8192) (t : Tag) : (x.setZ n b t).x = x.x := rfl
@[simp] theorem Ctx.setZ_g (n : Fin 2) (b : BitVec 8192) (t : Tag) : (x.setZ n b t).g = x.g := rfl
@[simp] theorem Ctx.setZ_v (n : Fin 2) (b : BitVec 8192) (t : Tag) : (x.setZ n b t).v = x.v := rfl
@[simp] theorem Ctx.setZ_pc (n : Fin 2) (b : BitVec 8192) (t : Tag) : (x.setZ n b t).pc = x.pc := rfl
@[simp] theorem Ctx.setZ_h (n : Fin 2) (b : BitVec 8192) (t : Tag) : (x.setZ n b t).h = x.h := rfl
@[simp] theorem Ctx.setZ_rm (n : Fin 2) (b : BitVec 8192) (t : Tag) : (x.setZ n b t).rm = x.rm := rfl
@[simp] theorem Ctx.setZ_ff (n : Fin 2) (b : BitVec 8192) (t : Tag) : (x.setZ n b t).ff = x.ff := rfl
@[simp] theorem Ctx.setZ_crew (n : Fin 2) (b : BitVec 8192) (t : Tag) : (x.setZ n b t).crew = x.crew := rfl
@[simp] theorem Ctx.setZ_cm (n : Fin 2) (b : BitVec 8192) (t : Tag) : (x.setZ n b t).cm = x.cm := rfl
@[simp] theorem Ctx.setZ_tcause (n : Fin 2) (b : BitVec 8192) (t : Tag) : (x.setZ n b t).tcause = x.tcause := rfl
@[simp] theorem Ctx.setZ_tpc (n : Fin 2) (b : BitVec 8192) (t : Tag) : (x.setZ n b t).tpc = x.tpc := rfl
@[simp] theorem Ctx.setZ_tval (n : Fin 2) (b : BitVec 8192) (t : Tag) : (x.setZ n b t).tval = x.tval := rfl
@[simp] theorem Ctx.setZ_tvec (n : Fin 2) (b : BitVec 8192) (t : Tag) : (x.setZ n b t).tvec = x.tvec := rfl
@[simp] theorem Ctx.setZ_ydl (n : Fin 2) (b : BitVec 8192) (t : Tag) : (x.setZ n b t).ydl = x.ydl := rfl
@[simp] theorem Ctx.setZ_qmap (n : Fin 2) (b : BitVec 8192) (t : Tag) : (x.setZ n b t).qmap = x.qmap := rfl
@[simp] theorem Ctx.setZ_bsm (n : Fin 2) (b : BitVec 8192) (t : Tag) : (x.setZ n b t).bsm = x.bsm := rfl
@[simp] theorem Ctx.setZ_cps (n : Fin 2) (b : BitVec 8192) (t : Tag) : (x.setZ n b t).cps = x.cps := rfl
@[simp] theorem Ctx.setZ_cpd (n : Fin 2) (b : BitVec 8192) (t : Tag) : (x.setZ n b t).cpd = x.cpd := rfl
@[simp] theorem Ctx.setZ_cpxs (n : Fin 2) (b : BitVec 8192) (t : Tag) : (x.setZ n b t).cpxs = x.cpxs := rfl
@[simp] theorem Ctx.setZ_cpys (n : Fin 2) (b : BitVec 8192) (t : Tag) : (x.setZ n b t).cpys = x.cpys := rfl
@[simp] theorem Ctx.setZ_cpsz (n : Fin 2) (b : BitVec 8192) (t : Tag) : (x.setZ n b t).cpsz = x.cpsz := rfl
@[simp] theorem Ctx.setZ_cpfl (n : Fin 2) (b : BitVec 8192) (t : Tag) : (x.setZ n b t).cpfl = x.cpfl := rfl
@[simp] theorem Ctx.setZ_live (n : Fin 2) (b : BitVec 8192) (t : Tag) : (x.setZ n b t).live = x.live := rfl
@[simp] theorem Ctx.setZ_trap (n : Fin 2) (b : BitVec 8192) (t : Tag) : (x.setZ n b t).trap = x.trap := rfl
@[simp] theorem Ctx.setZ_counts (n : Fin 2) (b : BitVec 8192) (t : Tag) : (x.setZ n b t).counts = x.counts := rfl
@[simp] theorem Ctx.setZ_origin (n : Fin 2) (b : BitVec 8192) (t : Tag) : (x.setZ n b t).origin = x.origin := rfl
@[simp] theorem Ctx.setZ_events (n : Fin 2) (b : BitVec 8192) (t : Tag) : (x.setZ n b t).events = x.events := rfl
@[simp] theorem Ctx.setZ_replies (n : Fin 2) (b : BitVec 8192) (t : Tag) : (x.setZ n b t).replies = x.replies := rfl
@[simp] theorem Ctx.setZ_dbc (n : Fin 2) (b : BitVec 8192) (t : Tag) : (x.setZ n b t).dbc = x.dbc := rfl
@[simp] theorem Ctx.setZ_stepDue (n : Fin 2) (b : BitVec 8192) (t : Tag) : (x.setZ n b t).stepDue = x.stepDue := rfl
@[simp] theorem Ctx.setZ_checksum (n : Fin 2) (b : BitVec 8192) (t : Tag) : (x.setZ n b t).checksum = x.checksum := rfl
@[simp] theorem Ctx.setZ_trace (n : Fin 2) (b : BitVec 8192) (t : Tag) : (x.setZ n b t).trace = x.trace := rfl
@[simp] theorem Ctx.setZ_exch (n : Fin 2) (b : BitVec 8192) (t : Tag) : (x.setZ n b t).exch = x.exch := rfl
@[simp] theorem Ctx.setZ_forced (n : Fin 2) (b : BitVec 8192) (t : Tag) : (x.setZ n b t).forced = x.forced := rfl
@[simp] theorem Ctx.setZ_yielded (n : Fin 2) (b : BitVec 8192) (t : Tag) : (x.setZ n b t).yielded = x.yielded := rfl
@[simp] theorem Ctx.setZ_vcid (n : Fin 2) (b : BitVec 8192) (t : Tag) : (x.setZ n b t).vcid = x.vcid := rfl
@[simp] theorem Ctx.setZ_vctx (n : Fin 2) (b : BitVec 8192) (t : Tag) : (x.setZ n b t).vctx = x.vctx := rfl
@[simp] theorem Ctx.setZ_run (n : Fin 2) (b : BitVec 8192) (t : Tag) : (x.setZ n b t).run = x.run := rfl
@[simp] theorem Ctx.setZ_stopped (n : Fin 2) (b : BitVec 8192) (t : Tag) : (x.setZ n b t).stopped = x.stopped := rfl
@[simp] theorem Ctx.setZ_wait (n : Fin 2) (b : BitVec 8192) (t : Tag) : (x.setZ n b t).wait = x.wait := rfl
@[simp] theorem Ctx.setZ_pend (n : Fin 2) (b : BitVec 8192) (t : Tag) : (x.setZ n b t).pend = x.pend := rfl
@[simp] theorem Ctx.setZ_fetched (n : Fin 2) (b : BitVec 8192) (t : Tag) : (x.setZ n b t).fetched = x.fetched := rfl
@[simp] theorem Ctx.setZ_walks (n : Fin 2) (b : BitVec 8192) (t : Tag) : (x.setZ n b t).walks = x.walks := rfl
@[simp] theorem Ctx.setZ_woke (n : Fin 2) (b : BitVec 8192) (t : Tag) : (x.setZ n b t).woke = x.woke := rfl
@[simp] theorem Ctx.setZ_signal (n : Fin 2) (b : BitVec 8192) (t : Tag) : (x.setZ n b t).signal = x.signal := rfl
@[simp] theorem Ctx.setZ_foot (n : Fin 2) (b : BitVec 8192) (t : Tag) : (x.setZ n b t).foot = x.foot := rfl

@[simp] theorem Ctx.setG_x (n : Fin 8) (m : Lane) : (x.setG n m).x = x.x := by unfold Ctx.setG; split <;> rfl
@[simp] theorem Ctx.setG_v (n : Fin 8) (m : Lane) : (x.setG n m).v = x.v := by unfold Ctx.setG; split <;> rfl
@[simp] theorem Ctx.setG_z (n : Fin 8) (m : Lane) : (x.setG n m).z = x.z := by unfold Ctx.setG; split <;> rfl
@[simp] theorem Ctx.setG_pc (n : Fin 8) (m : Lane) : (x.setG n m).pc = x.pc := by unfold Ctx.setG; split <;> rfl
@[simp] theorem Ctx.setG_h (n : Fin 8) (m : Lane) : (x.setG n m).h = x.h := by unfold Ctx.setG; split <;> rfl
@[simp] theorem Ctx.setG_rm (n : Fin 8) (m : Lane) : (x.setG n m).rm = x.rm := by unfold Ctx.setG; split <;> rfl
@[simp] theorem Ctx.setG_ff (n : Fin 8) (m : Lane) : (x.setG n m).ff = x.ff := by unfold Ctx.setG; split <;> rfl
@[simp] theorem Ctx.setG_crew (n : Fin 8) (m : Lane) : (x.setG n m).crew = x.crew := by unfold Ctx.setG; split <;> rfl
@[simp] theorem Ctx.setG_cm (n : Fin 8) (m : Lane) : (x.setG n m).cm = x.cm := by unfold Ctx.setG; split <;> rfl
@[simp] theorem Ctx.setG_tcause (n : Fin 8) (m : Lane) : (x.setG n m).tcause = x.tcause := by unfold Ctx.setG; split <;> rfl
@[simp] theorem Ctx.setG_tpc (n : Fin 8) (m : Lane) : (x.setG n m).tpc = x.tpc := by unfold Ctx.setG; split <;> rfl
@[simp] theorem Ctx.setG_tval (n : Fin 8) (m : Lane) : (x.setG n m).tval = x.tval := by unfold Ctx.setG; split <;> rfl
@[simp] theorem Ctx.setG_tvec (n : Fin 8) (m : Lane) : (x.setG n m).tvec = x.tvec := by unfold Ctx.setG; split <;> rfl
@[simp] theorem Ctx.setG_ydl (n : Fin 8) (m : Lane) : (x.setG n m).ydl = x.ydl := by unfold Ctx.setG; split <;> rfl
@[simp] theorem Ctx.setG_qmap (n : Fin 8) (m : Lane) : (x.setG n m).qmap = x.qmap := by unfold Ctx.setG; split <;> rfl
@[simp] theorem Ctx.setG_bsm (n : Fin 8) (m : Lane) : (x.setG n m).bsm = x.bsm := by unfold Ctx.setG; split <;> rfl
@[simp] theorem Ctx.setG_cps (n : Fin 8) (m : Lane) : (x.setG n m).cps = x.cps := by unfold Ctx.setG; split <;> rfl
@[simp] theorem Ctx.setG_cpd (n : Fin 8) (m : Lane) : (x.setG n m).cpd = x.cpd := by unfold Ctx.setG; split <;> rfl
@[simp] theorem Ctx.setG_cpxs (n : Fin 8) (m : Lane) : (x.setG n m).cpxs = x.cpxs := by unfold Ctx.setG; split <;> rfl
@[simp] theorem Ctx.setG_cpys (n : Fin 8) (m : Lane) : (x.setG n m).cpys = x.cpys := by unfold Ctx.setG; split <;> rfl
@[simp] theorem Ctx.setG_cpsz (n : Fin 8) (m : Lane) : (x.setG n m).cpsz = x.cpsz := by unfold Ctx.setG; split <;> rfl
@[simp] theorem Ctx.setG_cpfl (n : Fin 8) (m : Lane) : (x.setG n m).cpfl = x.cpfl := by unfold Ctx.setG; split <;> rfl
@[simp] theorem Ctx.setG_live (n : Fin 8) (m : Lane) : (x.setG n m).live = x.live := by unfold Ctx.setG; split <;> rfl
@[simp] theorem Ctx.setG_trap (n : Fin 8) (m : Lane) : (x.setG n m).trap = x.trap := by unfold Ctx.setG; split <;> rfl
@[simp] theorem Ctx.setG_counts (n : Fin 8) (m : Lane) : (x.setG n m).counts = x.counts := by unfold Ctx.setG; split <;> rfl
@[simp] theorem Ctx.setG_origin (n : Fin 8) (m : Lane) : (x.setG n m).origin = x.origin := by unfold Ctx.setG; split <;> rfl
@[simp] theorem Ctx.setG_events (n : Fin 8) (m : Lane) : (x.setG n m).events = x.events := by unfold Ctx.setG; split <;> rfl
@[simp] theorem Ctx.setG_replies (n : Fin 8) (m : Lane) : (x.setG n m).replies = x.replies := by unfold Ctx.setG; split <;> rfl
@[simp] theorem Ctx.setG_dbc (n : Fin 8) (m : Lane) : (x.setG n m).dbc = x.dbc := by unfold Ctx.setG; split <;> rfl
@[simp] theorem Ctx.setG_stepDue (n : Fin 8) (m : Lane) : (x.setG n m).stepDue = x.stepDue := by unfold Ctx.setG; split <;> rfl
@[simp] theorem Ctx.setG_checksum (n : Fin 8) (m : Lane) : (x.setG n m).checksum = x.checksum := by unfold Ctx.setG; split <;> rfl
@[simp] theorem Ctx.setG_trace (n : Fin 8) (m : Lane) : (x.setG n m).trace = x.trace := by unfold Ctx.setG; split <;> rfl
@[simp] theorem Ctx.setG_exch (n : Fin 8) (m : Lane) : (x.setG n m).exch = x.exch := by unfold Ctx.setG; split <;> rfl
@[simp] theorem Ctx.setG_forced (n : Fin 8) (m : Lane) : (x.setG n m).forced = x.forced := by unfold Ctx.setG; split <;> rfl
@[simp] theorem Ctx.setG_yielded (n : Fin 8) (m : Lane) : (x.setG n m).yielded = x.yielded := by unfold Ctx.setG; split <;> rfl
@[simp] theorem Ctx.setG_vcid (n : Fin 8) (m : Lane) : (x.setG n m).vcid = x.vcid := by unfold Ctx.setG; split <;> rfl
@[simp] theorem Ctx.setG_vctx (n : Fin 8) (m : Lane) : (x.setG n m).vctx = x.vctx := by unfold Ctx.setG; split <;> rfl
@[simp] theorem Ctx.setG_run (n : Fin 8) (m : Lane) : (x.setG n m).run = x.run := by unfold Ctx.setG; split <;> rfl
@[simp] theorem Ctx.setG_stopped (n : Fin 8) (m : Lane) : (x.setG n m).stopped = x.stopped := by unfold Ctx.setG; split <;> rfl
@[simp] theorem Ctx.setG_wait (n : Fin 8) (m : Lane) : (x.setG n m).wait = x.wait := by unfold Ctx.setG; split <;> rfl
@[simp] theorem Ctx.setG_pend (n : Fin 8) (m : Lane) : (x.setG n m).pend = x.pend := by unfold Ctx.setG; split <;> rfl
@[simp] theorem Ctx.setG_fetched (n : Fin 8) (m : Lane) : (x.setG n m).fetched = x.fetched := by unfold Ctx.setG; split <;> rfl
@[simp] theorem Ctx.setG_walks (n : Fin 8) (m : Lane) : (x.setG n m).walks = x.walks := by unfold Ctx.setG; split <;> rfl
@[simp] theorem Ctx.setG_woke (n : Fin 8) (m : Lane) : (x.setG n m).woke = x.woke := by unfold Ctx.setG; split <;> rfl
@[simp] theorem Ctx.setG_signal (n : Fin 8) (m : Lane) : (x.setG n m).signal = x.signal := by unfold Ctx.setG; split <;> rfl
@[simp] theorem Ctx.setG_foot (n : Fin 8) (m : Lane) : (x.setG n m).foot = x.foot := by unfold Ctx.setG; split <;> rfl

@[simp] theorem stepDown_x : (stepDown x).x = x.x := by unfold stepDown; split <;> rfl
@[simp] theorem stepDown_g : (stepDown x).g = x.g := by unfold stepDown; split <;> rfl
@[simp] theorem stepDown_v : (stepDown x).v = x.v := by unfold stepDown; split <;> rfl
@[simp] theorem stepDown_z : (stepDown x).z = x.z := by unfold stepDown; split <;> rfl
@[simp] theorem stepDown_pc : (stepDown x).pc = x.pc := by unfold stepDown; split <;> rfl
@[simp] theorem stepDown_h : (stepDown x).h = x.h := by unfold stepDown; split <;> rfl
@[simp] theorem stepDown_rm : (stepDown x).rm = x.rm := by unfold stepDown; split <;> rfl
@[simp] theorem stepDown_ff : (stepDown x).ff = x.ff := by unfold stepDown; split <;> rfl
@[simp] theorem stepDown_crew : (stepDown x).crew = x.crew := by unfold stepDown; split <;> rfl
@[simp] theorem stepDown_cm : (stepDown x).cm = x.cm := by unfold stepDown; split <;> rfl
@[simp] theorem stepDown_tcause : (stepDown x).tcause = x.tcause := by unfold stepDown; split <;> rfl
@[simp] theorem stepDown_tpc : (stepDown x).tpc = x.tpc := by unfold stepDown; split <;> rfl
@[simp] theorem stepDown_tval : (stepDown x).tval = x.tval := by unfold stepDown; split <;> rfl
@[simp] theorem stepDown_tvec : (stepDown x).tvec = x.tvec := by unfold stepDown; split <;> rfl
@[simp] theorem stepDown_ydl : (stepDown x).ydl = x.ydl := by unfold stepDown; split <;> rfl
@[simp] theorem stepDown_qmap : (stepDown x).qmap = x.qmap := by unfold stepDown; split <;> rfl
@[simp] theorem stepDown_bsm : (stepDown x).bsm = x.bsm := by unfold stepDown; split <;> rfl
@[simp] theorem stepDown_cps : (stepDown x).cps = x.cps := by unfold stepDown; split <;> rfl
@[simp] theorem stepDown_cpd : (stepDown x).cpd = x.cpd := by unfold stepDown; split <;> rfl
@[simp] theorem stepDown_cpxs : (stepDown x).cpxs = x.cpxs := by unfold stepDown; split <;> rfl
@[simp] theorem stepDown_cpys : (stepDown x).cpys = x.cpys := by unfold stepDown; split <;> rfl
@[simp] theorem stepDown_cpsz : (stepDown x).cpsz = x.cpsz := by unfold stepDown; split <;> rfl
@[simp] theorem stepDown_cpfl : (stepDown x).cpfl = x.cpfl := by unfold stepDown; split <;> rfl
@[simp] theorem stepDown_live : (stepDown x).live = x.live := by unfold stepDown; split <;> rfl
@[simp] theorem stepDown_trap : (stepDown x).trap = x.trap := by unfold stepDown; split <;> rfl
@[simp] theorem stepDown_counts : (stepDown x).counts = x.counts := by unfold stepDown; split <;> rfl
@[simp] theorem stepDown_origin : (stepDown x).origin = x.origin := by unfold stepDown; split <;> rfl
@[simp] theorem stepDown_events : (stepDown x).events = x.events := by unfold stepDown; split <;> rfl
@[simp] theorem stepDown_replies : (stepDown x).replies = x.replies := by unfold stepDown; split <;> rfl
@[simp] theorem stepDown_checksum : (stepDown x).checksum = x.checksum := by unfold stepDown; split <;> rfl
@[simp] theorem stepDown_trace : (stepDown x).trace = x.trace := by unfold stepDown; split <;> rfl
@[simp] theorem stepDown_exch : (stepDown x).exch = x.exch := by unfold stepDown; split <;> rfl
@[simp] theorem stepDown_forced : (stepDown x).forced = x.forced := by unfold stepDown; split <;> rfl
@[simp] theorem stepDown_yielded : (stepDown x).yielded = x.yielded := by unfold stepDown; split <;> rfl
@[simp] theorem stepDown_vcid : (stepDown x).vcid = x.vcid := by unfold stepDown; split <;> rfl
@[simp] theorem stepDown_vctx : (stepDown x).vctx = x.vctx := by unfold stepDown; split <;> rfl
@[simp] theorem stepDown_run : (stepDown x).run = x.run := by unfold stepDown; split <;> rfl
@[simp] theorem stepDown_stopped : (stepDown x).stopped = x.stopped := by unfold stepDown; split <;> rfl
@[simp] theorem stepDown_wait : (stepDown x).wait = x.wait := by unfold stepDown; split <;> rfl
@[simp] theorem stepDown_pend : (stepDown x).pend = x.pend := by unfold stepDown; split <;> rfl
@[simp] theorem stepDown_fetched : (stepDown x).fetched = x.fetched := by unfold stepDown; split <;> rfl
@[simp] theorem stepDown_walks : (stepDown x).walks = x.walks := by unfold stepDown; split <;> rfl
@[simp] theorem stepDown_woke : (stepDown x).woke = x.woke := by unfold stepDown; split <;> rfl
@[simp] theorem stepDown_signal : (stepDown x).signal = x.signal := by unfold stepDown; split <;> rfl
@[simp] theorem stepDown_foot : (stepDown x).foot = x.foot := by unfold stepDown; split <;> rfl

@[simp] theorem retireCtx_x (n : Nat) : (retireCtx x n).x = x.x := by simp [retireCtx]
@[simp] theorem retireCtx_g (n : Nat) : (retireCtx x n).g = x.g := by simp [retireCtx]
@[simp] theorem retireCtx_v (n : Nat) : (retireCtx x n).v = x.v := by simp [retireCtx]
@[simp] theorem retireCtx_z (n : Nat) : (retireCtx x n).z = x.z := by simp [retireCtx]
@[simp] theorem retireCtx_h (n : Nat) : (retireCtx x n).h = x.h := by simp [retireCtx]
@[simp] theorem retireCtx_rm (n : Nat) : (retireCtx x n).rm = x.rm := by simp [retireCtx]
@[simp] theorem retireCtx_ff (n : Nat) : (retireCtx x n).ff = x.ff := by simp [retireCtx]
@[simp] theorem retireCtx_crew (n : Nat) : (retireCtx x n).crew = x.crew := by simp [retireCtx]
@[simp] theorem retireCtx_cm (n : Nat) : (retireCtx x n).cm = x.cm := by simp [retireCtx]
@[simp] theorem retireCtx_tcause (n : Nat) : (retireCtx x n).tcause = x.tcause := by simp [retireCtx]
@[simp] theorem retireCtx_tpc (n : Nat) : (retireCtx x n).tpc = x.tpc := by simp [retireCtx]
@[simp] theorem retireCtx_tval (n : Nat) : (retireCtx x n).tval = x.tval := by simp [retireCtx]
@[simp] theorem retireCtx_tvec (n : Nat) : (retireCtx x n).tvec = x.tvec := by simp [retireCtx]
@[simp] theorem retireCtx_ydl (n : Nat) : (retireCtx x n).ydl = x.ydl := by simp [retireCtx]
@[simp] theorem retireCtx_qmap (n : Nat) : (retireCtx x n).qmap = x.qmap := by simp [retireCtx]
@[simp] theorem retireCtx_bsm (n : Nat) : (retireCtx x n).bsm = x.bsm := by simp [retireCtx]
@[simp] theorem retireCtx_cps (n : Nat) : (retireCtx x n).cps = x.cps := by simp [retireCtx]
@[simp] theorem retireCtx_cpd (n : Nat) : (retireCtx x n).cpd = x.cpd := by simp [retireCtx]
@[simp] theorem retireCtx_cpxs (n : Nat) : (retireCtx x n).cpxs = x.cpxs := by simp [retireCtx]
@[simp] theorem retireCtx_cpys (n : Nat) : (retireCtx x n).cpys = x.cpys := by simp [retireCtx]
@[simp] theorem retireCtx_cpsz (n : Nat) : (retireCtx x n).cpsz = x.cpsz := by simp [retireCtx]
@[simp] theorem retireCtx_cpfl (n : Nat) : (retireCtx x n).cpfl = x.cpfl := by simp [retireCtx]
@[simp] theorem retireCtx_trap (n : Nat) : (retireCtx x n).trap = x.trap := by simp [retireCtx]
@[simp] theorem retireCtx_counts (n : Nat) : (retireCtx x n).counts = x.counts := by simp [retireCtx]
@[simp] theorem retireCtx_origin (n : Nat) : (retireCtx x n).origin = x.origin := by simp [retireCtx]
@[simp] theorem retireCtx_events (n : Nat) : (retireCtx x n).events = x.events := by simp [retireCtx]
@[simp] theorem retireCtx_replies (n : Nat) : (retireCtx x n).replies = x.replies := by simp [retireCtx]
@[simp] theorem retireCtx_checksum (n : Nat) : (retireCtx x n).checksum = x.checksum := by simp [retireCtx]
@[simp] theorem retireCtx_trace (n : Nat) : (retireCtx x n).trace = x.trace := by simp [retireCtx]
@[simp] theorem retireCtx_exch (n : Nat) : (retireCtx x n).exch = x.exch := by simp [retireCtx]
@[simp] theorem retireCtx_forced (n : Nat) : (retireCtx x n).forced = x.forced := by simp [retireCtx]
@[simp] theorem retireCtx_yielded (n : Nat) : (retireCtx x n).yielded = x.yielded := by simp [retireCtx]
@[simp] theorem retireCtx_vcid (n : Nat) : (retireCtx x n).vcid = x.vcid := by simp [retireCtx]
@[simp] theorem retireCtx_vctx (n : Nat) : (retireCtx x n).vctx = x.vctx := by simp [retireCtx]
@[simp] theorem retireCtx_run (n : Nat) : (retireCtx x n).run = x.run := by simp [retireCtx]
@[simp] theorem retireCtx_stopped (n : Nat) : (retireCtx x n).stopped = x.stopped := by simp [retireCtx]
@[simp] theorem retireCtx_fetched (n : Nat) : (retireCtx x n).fetched = x.fetched := by simp [retireCtx]
@[simp] theorem retireCtx_signal (n : Nat) : (retireCtx x n).signal = x.signal := by simp [retireCtx]
@[simp] theorem retireCtx_foot (n : Nat) : (retireCtx x n).foot = x.foot := by simp [retireCtx]
@[simp] theorem retireCtx_pc (n : Nat) : (retireCtx x n).pc = (nextPc x n).1 := by simp [retireCtx]
@[simp] theorem retireCtx_live (n : Nat) : (retireCtx x n).live = (nextPc x n).2 := by simp [retireCtx]
@[simp] theorem retireCtx_wait (n : Nat) : (retireCtx x n).wait = none := by simp [retireCtx]
@[simp] theorem retireCtx_pend (n : Nat) : (retireCtx x n).pend = none := by simp [retireCtx]

end Sys2Proof.Machine
end

