-- ==== Sys2Proof/Laws/Monad.lean ====
section
/-! SUPPORT. Running a piece of an instruction: the laws of the thread monad, and what `run` answers for an instruction that
issues, one that is guarded off, and one that stops. -/

namespace Sys2Proof.Machine

variable {α β : Type} {s t u : State}

@[simp] theorem pure_run (a : α) (s : State) : (pure a : M α) s = .ok (a, s) := rfl
@[simp] theorem get_run (s : State) : (get : M State) s = .ok (s, s) := rfl
@[simp] theorem set_run (t s : State) : (set t : M PUnit) s = .ok ((), t) := rfl
@[simp] theorem modify_run (f : State → State) (s : State) : (modify f : M PUnit) s = .ok ((), f s) := rfl
@[simp] theorem raise_run (c : Cause) (s : State) : (raise c : M α) s = .error (.fault c) := rfl
@[simp] theorem waitFor_run (k : SlotClass) (w : WaitCond) (s : State) : (waitFor k w : M α) s = .error (.wait k w) := rfl
@[simp] theorem raiseV_run (c : FaultCode) (v : Word) (s : State) :
    (raiseV c v : M α) s = .error (.fault { code := c, tval := v }) := rfl
@[simp] theorem ensure_true (c : FaultCode) (v : Word) (s : State) : ensure true c v s = .ok ((), s) := rfl
@[simp] theorem ensure_false (c : FaultCode) (v : Word) (s : State) :
    ensure false c v s = .error (.fault { code := c, tval := v }) := rfl

/-- A bind goes on with what its first part answers. -/
theorem bind_ok {m : M α} {f : α → M β} {a : α} (h : m s = .ok (a, t)) : (m >>= f) s = f a t := by
  show (StateT.bind m f s : Except Stop (β × State)) = _
  simp only [StateT.bind, bind, Except.bind, h]

/-- A bind stops where its first part stops. -/
theorem bind_error {m : M α} {f : α → M β} {e : Stop} (h : m s = .error e) : (m >>= f) s = .error e := by
  show (StateT.bind m f s : Except Stop (β × State)) = _
  simp only [StateT.bind, bind, Except.bind, h]

/-- What a bind that answers has done. -/
theorem bind_eq_ok {m : M α} {f : α → M β} {b : β} (h : (m >>= f) s = .ok (b, u)) :
    ∃ a t, m s = .ok (a, t) ∧ f a t = .ok (b, u) := by
  match hm : m s with
  | .ok (a, t) => exact ⟨a, t, rfl, (bind_ok hm).symm.trans h⟩
  | .error e => rw [bind_error hm] at h; cases h

/-! Contexts and cores, read after written. -/

@[simp] theorem State.ctx_setCtx (s : State) (c k : Nat) (x : Ctx) : (s.setCtx c k x).ctx c k = x := by
  simp [State.ctx, State.setCtx]

@[simp] theorem State.setCtx_setCtx (s : State) (c k : Nat) (x y : Ctx) : (s.setCtx c k x).setCtx c k y = s.setCtx c k y := by
  simp [State.setCtx]

theorem State.ctx_setCtx_of_ne (s : State) {c k d j : Nat} (x : Ctx) (h : d * 16 + j ≠ c * 16 + k) :
    (s.setCtx c k x).ctx d j = s.ctx d j := by
  simp [State.ctx, State.setCtx, tgetD_tset_of_ne _ _ _ h]

@[simp] theorem State.core_setCore (s : State) (c : Nat) (x : Core) : (s.setCore c x).core c = x := by
  simp [State.core, State.setCore]

theorem State.core_setCore_of_ne (s : State) {c d : Nat} (x : Core) (h : d ≠ c) : (s.setCore c x).core d = s.core d := by
  simp [State.core, State.setCore, tgetD_tset_of_ne _ _ _ h]

@[simp] theorem State.core_setCtx (s : State) (c k d : Nat) (x : Ctx) : (s.setCtx c k x).core d = s.core d := rfl
@[simp] theorem State.ctx_setCore (s : State) (c d j : Nat) (x : Core) : (s.setCore c x).ctx d j = s.ctx d j := rfl
@[simp] theorem State.me_modMe (s : State) (f : Ctx → Ctx) : (s.modMe f).me = f s.me := by
  simp [State.me, State.modMe, State.modCtx]
@[simp] theorem State.modMe_modMe (s : State) (f g : Ctx → Ctx) : (s.modMe f).modMe g = s.modMe (fun x => g (f x)) := by
  simp [State.modMe, State.modCtx]
@[simp] theorem State.core_modMe (s : State) (f : Ctx → Ctx) (c : Nat) : (s.modMe f).core c = s.core c := rfl

/-! The retiring context. -/

/-- A context that has just retired awaits nothing, so there is no request to note popped entries in. -/
theorem State.retire_notes (s : State) (len : Nat) (f : Pend → Pend) :
    (s.retire len).modMe (fun x => { x with pend := x.pend.map f }) = s.retire len := by
  have h : ∀ x : Ctx, { retireCtx x len with pend := (retireCtx x len).pend.map f } = retireCtx x len := by
    intro x
    have := retireCtx_pend x len
    generalize retireCtx x len = y at *
    cases y
    cases this
    rfl
  rw [State.retire, State.modMe_modMe]
  simp only [h]

/-! Running an instruction. -/


/-- Running an instruction, from the state in which its attempt begins. -/
theorem runWith_eq (i : Info) (off body : M Unit) (s : State) : runWith i off body s =
    match prologue i s.begun with
    | .error e => .next (s.begun.stopped i.pops (e.orWatch i body s.begun))
    | .ok (true, t) =>
      match body t with
      | .ok (_, u) => .next (if i.pops.isEmpty then u else u.modMe (fun x =>
          { x with pend := x.pend.map (fun p => { p with popped := poppedOf s.begun s.begun.me i.pops }) }))
      | .error e => .next ((e.base s.begun t).stopped i.pops e)
    | .ok (false, t) =>
      match off t with
      | .ok (_, u) => .next u
      | .error e => .next (s.begun.stopped i.pops e) := rfl

/-- An instruction that issues and whose body completes it. -/
theorem run_next {i : Info} {body : M Unit} (hp : prologue i s.begun = .ok (true, t)) (hb : body t = .ok ((), u)) :
    run i body s = .next (if i.pops.isEmpty then u else u.modMe (fun x =>
      { x with pend := x.pend.map (fun p => { p with popped := poppedOf s.begun s.begun.me i.pops }) })) := by
  rw [run, runWith_eq, hp]
  simp only [hb]

/-- An instruction that issues and completes in its slot. -/
theorem run_retire {i : Info} {body : M Unit} (hp : prologue i s.begun = .ok (true, t))
    (hb : body t = .ok ((), u.retire len)) : run i body s = .next (u.retire len) := by
  rw [run_next hp hb]
  split
  · rfl
  · rw [State.retire_notes]

/-- A guarded-off instruction that takes no store-queue entry counts and retires (R66). -/
theorem run_off {i : Info} {body : M Unit} (hs : i.store = false) (hp : prologue i s.begun = .ok (false, t)) :
    run i body s = .next ((t.count t.cc t.ck 0x09 1).retire i.len) := by
  rw [run, runWith_eq, hp]
  simp only [Info.off, hs]
  rfl

/-- A guarded-off store takes its entry, counts and retires (R66, R107). -/
theorem run_offStore {i : Info} {body : M Unit} (hs : i.store = true) (hp : prologue i s.begun = .ok (false, t))
    (he : offEntry t = .ok ((), u)) : run i body s = .next ((u.count u.cc u.ck 0x09 1).retire i.len) := by
  rw [run, runWith_eq, hp]
  simp only [Info.off, hs, if_true, bind_ok he]
  rfl

/-- An instruction that does not issue stops. -/
theorem run_held {i : Info} {body : M Unit} {e : Stop} (hp : prologue i s.begun = .error e) :
    run i body s = .next (s.begun.stopped i.pops (e.orWatch i body s.begun)) := by
  rw [run, runWith_eq, hp]

/-- An instruction that issues and whose body stops. -/
theorem run_stop {i : Info} {body : M Unit} {e : Stop} (hp : prologue i s.begun = .ok (true, t)) (hb : body t = .error e) :
    run i body s = .next ((e.base s.begun t).stopped i.pops e) := by
  rw [run, runWith_eq, hp]
  simp only [hb]

/-- Every instruction answers a next state. -/
theorem runWith_answers (i : Info) (off body : M Unit) (s : State) : ∃ t, runWith i off body s = .next t := by
  rw [runWith_eq]
  split
  · exact ⟨_, rfl⟩
  · split <;> exact ⟨_, rfl⟩
  · split <;> exact ⟨_, rfl⟩

/-- The effects of an instruction, made in its slot. -/
theorem finish_run {len : Nat} {ps : List Put} (hc : checkPuts ps s = .ok ((), t)) :
    finish len ps s = .ok ((), (t.puts ps).retire len) := by
  unfold finish
  rw [bind_ok hc]
  rfl

/-- An instruction whose whole effect is a list of effects. -/
theorem runPuts_next {i : Info} {body : M (List Put)} {ps : List Put} {v : State}
    (hp : prologue i s.begun = .ok (true, t)) (hb : body t = .ok (ps, u)) (hc : checkPuts ps u = .ok ((), v)) :
    runPuts i body s = .next ((v.puts ps).retire i.len) := by
  refine run_retire hp ?_
  rw [bind_ok hb]
  exact finish_run hc

end Sys2Proof.Machine
end

