-- ==== Sys2Proof/Laws/PerInstr.lean ====
section
/-! SUPPORT. Each instruction's encoding: the head of a well-formed instruction decodes to it, and every instruction that is no
event has an encoding. -/

namespace Sys2Proof

open Sys2Proof.Machine

section

set_option linter.unusedSimpArgs false
set_option Elab.async false

/-- The encoded head of a well-formed instruction fits, and decodes to it. -/
def Laws.Trip.Statement (i : Instr) : Prop :=
  i.wfPlain = true → ∀ h, encodeRaw i = some h → h.Fits ∧ (decodeHead h).map Decoded.instr = some i

theorem orElse_left {α : Type} {a b : Option α} {x : α} (h : a = some x) : (a <|> b) = some x := by rw [h]; rfl

theorem trip_of {h : Raw} {i : Instr} (hr : decodeRaw h = some i) : (decodeHead h).map Decoded.instr = some i := by
  rw [decodeHead, hr]
  rfl

theorem Laws.Trip.nop (g : Guard) (form : Form) (lit : Word) : Statement (.nop g form lit) := by
  intro hw h he; obtain rfl := Option.some.inj he; clear he
  have h0 := g.code_lt
  simp [Instr.wfPlain] at hw
  refine ⟨?_, trip_of ?_⟩
  · simp [Raw.Fits, *]
  · simp [*, decodeRaw, decControl]

theorem Laws.Trip.br (g : Guard) (imm : Imm) : Statement (.br g imm) := by
  intro hw h he; obtain rfl := Option.some.inj he; clear he
  have h0 := g.code_lt; have h1 := imm.field_lt
  simp [Instr.wfPlain] at hw
  refine ⟨?_, trip_of ?_⟩
  · simp [Raw.Fits, *] <;> omega
  · simp [*, decodeRaw, decControl, immS_field imm, immU_field imm, immF_lit imm]

theorem Laws.Trip.bra (g : Guard) (imm : Imm) : Statement (.bra g imm) := by
  intro hw h he; obtain rfl := Option.some.inj he; clear he
  have h0 := g.code_lt; have h1 := imm.field_lt
  simp [Instr.wfPlain] at hw
  refine ⟨?_, trip_of ?_⟩
  · simp [Raw.Fits, *] <;> omega
  · simp [*, decodeRaw, decControl, immS_field imm, immU_field imm, immF_lit imm]

theorem Laws.Trip.jal (g : Guard) (rd : SDst) (imm : Imm) : Statement (.jal g rd imm) := by
  intro hw h he; obtain rfl := Option.some.inj he; clear he
  have h0 := g.code_lt; have h1 := rd.code_lt; have h2 := imm.field_lt
  simp [Instr.wfPlain] at hw
  refine ⟨?_, trip_of ?_⟩
  · simp [Raw.Fits, *] <;> omega
  · simp [*, decodeRaw, decControl, immS_field imm, immU_field imm, immF_lit imm]

theorem Laws.Trip.jalr (g : Guard) (rd : SDst) (a : SSrc) : Statement (.jalr g rd a) := by
  intro hw h he; obtain rfl := Option.some.inj he; clear he
  have h0 := g.code_lt; have h1 := rd.code_lt; have h2 := a.code_lt; have h3 := a.dist_lt
  refine ⟨?_, trip_of ?_⟩
  · simp [Raw.Fits, *]
  · simp [*, decodeRaw, decControl]

theorem Laws.Trip.ret (g : Guard) (a : SSrc) : Statement (.ret g a) := by
  intro hw h he; obtain rfl := Option.some.inj he; clear he
  have h0 := g.code_lt; have h1 := a.code_lt; have h2 := a.dist_lt
  refine ⟨?_, trip_of ?_⟩
  · simp [Raw.Fits, *]
  · simp [*, decodeRaw, decControl]

theorem Laws.Trip.rep (g : Guard) (a : SSrc) (blen : Fin 64) (imm : Imm) : Statement (.rep g a blen imm) := by
  intro hw h he; obtain rfl := Option.some.inj he; clear he
  have h0 := g.code_lt; have h1 := a.code_lt; have h2 := a.dist_lt; have h3 := blen.isLt; have h4 := imm.field_lt
  simp [Instr.wfPlain] at hw
  refine ⟨?_, trip_of ?_⟩
  · simp [Raw.Fits, *] <;> omega
  · simp [*, decodeRaw, decControl, immS_field imm, immU_field imm, immF_lit imm]

theorem Laws.Trip.trap (g : Guard) (n : BitVec 20) : Statement (.trap g n) := by
  intro hw h he; obtain rfl := Option.some.inj he; clear he
  have h0 := g.code_lt; have h1 := n.isLt
  refine ⟨?_, trip_of ?_⟩
  · simp [Raw.Fits, *]
  · simp [*, decodeRaw, decControl]

theorem Laws.Trip.loop (count : LoopCount) (w c : Fin 8) (om : Bool) (ofs : BitVec 12) : Statement (.loop count w c om ofs) := by
  intro hw h he
  have h0 := w.isLt
  have h1 := c.isLt
  have h2 := ofs.isLt
  have f0 : loopField w c om false ofs % 8 = w.val := by cases om <;> simp [loopField] <;> omega
  have f1 : loopField w c om false ofs / 8 % 8 = c.val := by cases om <;> simp [loopField] <;> omega
  have f2 : (loopField w c om false ofs / 64 % 2 == 1) = om := by cases om <;> simp [loopField] <;> omega
  have f3 : loopField w c om false ofs / 128 % 2 = 0 := by cases om <;> simp [loopField] <;> omega
  have f4 : loopField w c om false ofs / 256 = ofs.toNat := by cases om <;> simp [loopField] <;> omega
  have f5 : loopField w c om false ofs < 2 ^ 20 := by cases om <;> simp [loopField] <;> omega
  simp [Instr.wfPlain] at hw
  cases count with
  | reg a =>
    obtain rfl := Option.some.inj he
    have h3 := a.code_lt
    have h4 := a.dist_lt
    refine ⟨by simp [Raw.Fits]; omega, trip_of ?_⟩
    simp [decodeRaw, decLoop, decLoopOp, f0, f1, f2, f3, f4, hw]
  | lit n =>
    obtain rfl := Option.some.inj he
    have h3 := n.isLt
    have e : (n.zeroExtend 64).truncate 32 = n := by simp
    refine ⟨?_, trip_of ?_⟩
    · simp [Raw.Fits, litFits]
      omega
    · simp [decodeRaw, decLoop, decLoopOp, f0, f1, f2, f3, f4, hw]

theorem Laws.Trip.loopOpen (w c : Fin 8) (om : Bool) (ofs : BitVec 12) : Statement (.loopOpen w c om ofs) := by
  intro hw h he
  obtain rfl := Option.some.inj he
  clear he
  have h0 := w.isLt
  have h1 := c.isLt
  have h2 := ofs.isLt
  have f0 : loopField w c om true ofs % 8 = w.val := by cases om <;> simp [loopField] <;> omega
  have f1 : loopField w c om true ofs / 8 % 8 = c.val := by cases om <;> simp [loopField] <;> omega
  have f2 : (loopField w c om true ofs / 64 % 2 == 1) = om := by cases om <;> simp [loopField] <;> omega
  have f3 : loopField w c om true ofs / 128 % 2 = 1 := by cases om <;> simp [loopField] <;> omega
  have f4 : loopField w c om true ofs / 256 = ofs.toNat := by cases om <;> simp [loopField] <;> omega
  have f5 : loopField w c om true ofs < 2 ^ 20 := by cases om <;> simp [loopField] <;> omega
  simp [Instr.wfPlain] at hw
  refine ⟨by simp [Raw.Fits]; omega, trip_of ?_⟩
  simp [decodeRaw, decLoop, decLoopOp, f0, f1, f2, f3, f4, hw]

theorem Laws.Trip.brk (g : Guard) : Statement (.brk g) := by
  intro hw h he; obtain rfl := Option.some.inj he; clear he
  have h0 := g.code_lt
  refine ⟨?_, trip_of ?_⟩
  · simp [Raw.Fits, *]
  · simp [*, decodeRaw, decLoop]

theorem Laws.Trip.brkO (g : Guard) : Statement (.brkO g) := by
  intro hw h he; obtain rfl := Option.some.inj he; clear he
  have h0 := g.code_lt
  refine ⟨?_, trip_of ?_⟩
  · simp [Raw.Fits, *]
  · simp [*, decodeRaw, decLoop]

theorem Laws.Trip.iret (g : Guard) : Statement (.iret g) := by
  intro hw h he; obtain rfl := Option.some.inj he; clear he
  have h0 := g.code_lt
  refine ⟨?_, trip_of ?_⟩
  · simp [Raw.Fits, *]
  · simp [*, decodeRaw, decLoop]

theorem Laws.Trip.vseed (g : Guard) (dst : SeedName) (k : Fin 8) (src : SeedSrc) : Statement (.vseed g dst k src) := by
  intro hw h he
  obtain rfl := Option.some.inj he
  have h0 := g.code_lt
  have h1 := k.isLt
  simp [Instr.wfPlain] at hw
  cases dst with
  | l r =>
    have h2 := r.isLt
    cases src with
    | s a =>
      have h3 := a.code_lt
      have h4 := a.dist_lt
      have e : k.val < 16 := by omega
      have e8 : k.val / 8 = 0 := by omega
      simp [vseedOk] at hw
      refine ⟨by simp [Raw.Fits, encVseed]; omega, trip_of ?_⟩
      simp [encVseed, decodeRaw, decLoop, decVseed, Nat.mod_eq_of_lt h1, e, e8, hw]
    | v a => simp [vseedOk] at hw
    | lit i =>
      have e : k.val < 16 := by omega
      have e8 : k.val / 8 = 0 := by omega
      simp [vseedOk] at hw
      refine ⟨by simp [Raw.Fits, encVseed]; omega, trip_of ?_⟩
      rcases i with ⟨f, v⟩
      have q := immS_field ⟨f, v⟩ hw.2
      cases f
      · simp at hw
      · simp [immS, Imm.field] at q
        simp [encVseed, decodeRaw, decLoop, decVseed, Nat.mod_eq_of_lt h1, e, e8, hw, immF, q]
      · simp [encVseed, decodeRaw, decLoop, decVseed, Nat.mod_eq_of_lt h1, e, e8, hw, immF, Imm.lit]
  | w r =>
    have h2 := r.isLt
    cases src with
    | s a => simp [vseedOk] at hw
    | lit i => simp [vseedOk] at hw
    | v a =>
      have h3 := a.code_lt
      have h4 := a.dist_lt
      have e : (8 + k.val) % 8 = k.val := by omega
      have e8 : (8 + k.val) / 8 = 1 := by omega
      have e1 : 8 + k.val < 16 := by omega
      simp [vseedOk] at hw
      refine ⟨by simp [Raw.Fits, encVseed]; omega, trip_of ?_⟩
      simp [encVseed, decodeRaw, decLoop, decVseed, Nat.mod_eq_of_lt h1, e, e8, e1, hw]

theorem Laws.Trip.lfree (g : Guard) : Statement (.lfree g) := by
  intro hw h he; obtain rfl := Option.some.inj he; clear he
  have h0 := g.code_lt
  refine ⟨?_, trip_of ?_⟩
  · simp [Raw.Fits, *]
  · simp [*, decodeRaw, decLoop]

theorem Laws.Trip.sysrd (g : Guard) (rd : SDst) (n : Byte) : Statement (.sysrd g rd n) := by
  intro hw h he; obtain rfl := Option.some.inj he; clear he
  have h0 := g.code_lt; have h1 := rd.code_lt; have h2 := n.isLt
  refine ⟨?_, trip_of ?_⟩
  · simp [Raw.Fits, *] <;> omega
  · simp [*, decodeRaw, decSystem]

theorem Laws.Trip.syswr (g : Guard) (n : Byte) (a : SSrc) : Statement (.syswr g n a) := by
  intro hw h he; obtain rfl := Option.some.inj he; clear he
  have h0 := g.code_lt; have h1 := n.isLt; have h2 := a.code_lt; have h3 := a.dist_lt
  refine ⟨?_, trip_of ?_⟩
  · simp [Raw.Fits, *] <;> omega
  · simp [*, decodeRaw, decSystem]

theorem Laws.Trip.fmtg (g : Guard) (rd : SDst) (src : TagSrc) : Statement (.fmtg g rd src) := by
  intro hw h he
  have h0 := g.code_lt
  have h1 := rd.code_lt
  simp [Instr.wfPlain] at hw
  cases src with
  | v a =>
    obtain rfl := Option.some.inj he
    have h2 := a.code_lt
    have h3 := a.dist_lt
    refine ⟨by simp [Raw.Fits]; omega, trip_of ?_⟩
    simp [decodeRaw, decSystem, decFmtg, hw]
  | z n =>
    obtain rfl := Option.some.inj he
    have h2 := n.isLt
    refine ⟨by simp [Raw.Fits]; omega, trip_of ?_⟩
    simp [decodeRaw, decSystem, decFmtg]

theorem Laws.Trip.fmts (g : Guard) (dst : TagDst) (t : Tag) : Statement (.fmts g dst t) := by
  intro hw h he
  have h0 := g.code_lt
  have h1 := t.code_lt
  simp [Instr.wfPlain] at hw
  cases dst with
  | v d =>
    obtain rfl := Option.some.inj he
    have h2 := d.code_lt
    have e : 16 * t.code % 16 = 0 := by omega
    have e1 : 16 * t.code / 16 = t.code := by omega
    refine ⟨by simp [Raw.Fits]; omega, trip_of ?_⟩
    simp [decodeRaw, decSystem, decFmts, hw]
  | z n =>
    obtain rfl := Option.some.inj he
    have h2 := n.isLt
    have e : (16 * t.code + 1) % 16 = 1 := by omega
    have e1 : (16 * t.code + 1) / 16 = t.code := by omega
    refine ⟨by simp [Raw.Fits]; omega, trip_of ?_⟩
    simp [decodeRaw, decSystem, decFmts, e1]

theorem Laws.Trip.add (g : Guard) (w : Bool) (rd : SDst) (a b : SSrc) : Statement (.add g w rd a b) := by
  intro hw h he; obtain rfl := Option.some.inj he; clear he
  have h0 := g.code_lt; have h1 := rd.code_lt; have h2 := a.code_lt; have h3 := a.dist_lt; have h4 := b.code_lt; have h5 := b.dist_lt
  refine ⟨?_, trip_of ?_⟩
  · cases w <;> simp [Raw.Fits, *]
  · cases w <;> simp [*, decodeRaw, decScalar]

theorem Laws.Trip.sub (g : Guard) (w : Bool) (rd : SDst) (a b : SSrc) : Statement (.sub g w rd a b) := by
  intro hw h he; obtain rfl := Option.some.inj he; clear he
  have h0 := g.code_lt; have h1 := rd.code_lt; have h2 := a.code_lt; have h3 := a.dist_lt; have h4 := b.code_lt; have h5 := b.dist_lt
  refine ⟨?_, trip_of ?_⟩
  · cases w <;> simp [Raw.Fits, *]
  · cases w <;> simp [*, decodeRaw, decScalar]

theorem Laws.Trip.mul (g : Guard) (w : Bool) (rd : SDst) (a b : SSrc) : Statement (.mul g w rd a b) := by
  intro hw h he; obtain rfl := Option.some.inj he; clear he
  have h0 := g.code_lt; have h1 := rd.code_lt; have h2 := a.code_lt; have h3 := a.dist_lt; have h4 := b.code_lt; have h5 := b.dist_lt
  refine ⟨?_, trip_of ?_⟩
  · cases w <;> simp [Raw.Fits, *]
  · cases w <;> simp [*, decodeRaw, decScalar]

theorem Laws.Trip.mulh (g : Guard) (w : Bool) (rd : SDst) (a b : SSrc) : Statement (.mulh g w rd a b) := by
  intro hw h he; obtain rfl := Option.some.inj he; clear he
  have h0 := g.code_lt; have h1 := rd.code_lt; have h2 := a.code_lt; have h3 := a.dist_lt; have h4 := b.code_lt; have h5 := b.dist_lt
  refine ⟨?_, trip_of ?_⟩
  · cases w <;> simp [Raw.Fits, *]
  · cases w <;> simp [*, decodeRaw, decScalar]

theorem Laws.Trip.mulhu (g : Guard) (w : Bool) (rd : SDst) (a b : SSrc) : Statement (.mulhu g w rd a b) := by
  intro hw h he; obtain rfl := Option.some.inj he; clear he
  have h0 := g.code_lt; have h1 := rd.code_lt; have h2 := a.code_lt; have h3 := a.dist_lt; have h4 := b.code_lt; have h5 := b.dist_lt
  refine ⟨?_, trip_of ?_⟩
  · cases w <;> simp [Raw.Fits, *]
  · cases w <;> simp [*, decodeRaw, decScalar]

theorem Laws.Trip.div (g : Guard) (w : Bool) (rd : SDst) (a b : SSrc) : Statement (.div g w rd a b) := by
  intro hw h he; obtain rfl := Option.some.inj he; clear he
  have h0 := g.code_lt; have h1 := rd.code_lt; have h2 := a.code_lt; have h3 := a.dist_lt; have h4 := b.code_lt; have h5 := b.dist_lt
  refine ⟨?_, trip_of ?_⟩
  · cases w <;> simp [Raw.Fits, *]
  · cases w <;> simp [*, decodeRaw, decScalar]

theorem Laws.Trip.divu (g : Guard) (w : Bool) (rd : SDst) (a b : SSrc) : Statement (.divu g w rd a b) := by
  intro hw h he; obtain rfl := Option.some.inj he; clear he
  have h0 := g.code_lt; have h1 := rd.code_lt; have h2 := a.code_lt; have h3 := a.dist_lt; have h4 := b.code_lt; have h5 := b.dist_lt
  refine ⟨?_, trip_of ?_⟩
  · cases w <;> simp [Raw.Fits, *]
  · cases w <;> simp [*, decodeRaw, decScalar]

theorem Laws.Trip.rem (g : Guard) (w : Bool) (rd : SDst) (a b : SSrc) : Statement (.rem g w rd a b) := by
  intro hw h he; obtain rfl := Option.some.inj he; clear he
  have h0 := g.code_lt; have h1 := rd.code_lt; have h2 := a.code_lt; have h3 := a.dist_lt; have h4 := b.code_lt; have h5 := b.dist_lt
  refine ⟨?_, trip_of ?_⟩
  · cases w <;> simp [Raw.Fits, *]
  · cases w <;> simp [*, decodeRaw, decScalar]

theorem Laws.Trip.remu (g : Guard) (w : Bool) (rd : SDst) (a b : SSrc) : Statement (.remu g w rd a b) := by
  intro hw h he; obtain rfl := Option.some.inj he; clear he
  have h0 := g.code_lt; have h1 := rd.code_lt; have h2 := a.code_lt; have h3 := a.dist_lt; have h4 := b.code_lt; have h5 := b.dist_lt
  refine ⟨?_, trip_of ?_⟩
  · cases w <;> simp [Raw.Fits, *]
  · cases w <;> simp [*, decodeRaw, decScalar]

theorem Laws.Trip.and (g : Guard) (rd : SDst) (a b : SSrc) : Statement (.and g rd a b) := by
  intro hw h he; obtain rfl := Option.some.inj he; clear he
  have h0 := g.code_lt; have h1 := rd.code_lt; have h2 := a.code_lt; have h3 := a.dist_lt; have h4 := b.code_lt; have h5 := b.dist_lt
  refine ⟨?_, trip_of ?_⟩
  · simp [Raw.Fits, *]
  · simp [*, decodeRaw, decScalar]

theorem Laws.Trip.or (g : Guard) (rd : SDst) (a b : SSrc) : Statement (.or g rd a b) := by
  intro hw h he; obtain rfl := Option.some.inj he; clear he
  have h0 := g.code_lt; have h1 := rd.code_lt; have h2 := a.code_lt; have h3 := a.dist_lt; have h4 := b.code_lt; have h5 := b.dist_lt
  refine ⟨?_, trip_of ?_⟩
  · simp [Raw.Fits, *]
  · simp [*, decodeRaw, decScalar]

theorem Laws.Trip.xor (g : Guard) (rd : SDst) (a b : SSrc) : Statement (.xor g rd a b) := by
  intro hw h he; obtain rfl := Option.some.inj he; clear he
  have h0 := g.code_lt; have h1 := rd.code_lt; have h2 := a.code_lt; have h3 := a.dist_lt; have h4 := b.code_lt; have h5 := b.dist_lt
  refine ⟨?_, trip_of ?_⟩
  · simp [Raw.Fits, *]
  · simp [*, decodeRaw, decScalar]

theorem Laws.Trip.andn (g : Guard) (rd : SDst) (a b : SSrc) : Statement (.andn g rd a b) := by
  intro hw h he; obtain rfl := Option.some.inj he; clear he
  have h0 := g.code_lt; have h1 := rd.code_lt; have h2 := a.code_lt; have h3 := a.dist_lt; have h4 := b.code_lt; have h5 := b.dist_lt
  refine ⟨?_, trip_of ?_⟩
  · simp [Raw.Fits, *]
  · simp [*, decodeRaw, decScalar]

theorem Laws.Trip.orn (g : Guard) (rd : SDst) (a b : SSrc) : Statement (.orn g rd a b) := by
  intro hw h he; obtain rfl := Option.some.inj he; clear he
  have h0 := g.code_lt; have h1 := rd.code_lt; have h2 := a.code_lt; have h3 := a.dist_lt; have h4 := b.code_lt; have h5 := b.dist_lt
  refine ⟨?_, trip_of ?_⟩
  · simp [Raw.Fits, *]
  · simp [*, decodeRaw, decScalar]

theorem Laws.Trip.shl (g : Guard) (w : Bool) (rd : SDst) (a b : SSrc) : Statement (.shl g w rd a b) := by
  intro hw h he; obtain rfl := Option.some.inj he; clear he
  have h0 := g.code_lt; have h1 := rd.code_lt; have h2 := a.code_lt; have h3 := a.dist_lt; have h4 := b.code_lt; have h5 := b.dist_lt
  refine ⟨?_, trip_of ?_⟩
  · cases w <;> simp [Raw.Fits, *]
  · cases w <;> simp [*, decodeRaw, decScalar]

theorem Laws.Trip.shr (g : Guard) (w : Bool) (rd : SDst) (a b : SSrc) : Statement (.shr g w rd a b) := by
  intro hw h he; obtain rfl := Option.some.inj he; clear he
  have h0 := g.code_lt; have h1 := rd.code_lt; have h2 := a.code_lt; have h3 := a.dist_lt; have h4 := b.code_lt; have h5 := b.dist_lt
  refine ⟨?_, trip_of ?_⟩
  · cases w <;> simp [Raw.Fits, *]
  · cases w <;> simp [*, decodeRaw, decScalar]

theorem Laws.Trip.sar (g : Guard) (w : Bool) (rd : SDst) (a b : SSrc) : Statement (.sar g w rd a b) := by
  intro hw h he; obtain rfl := Option.some.inj he; clear he
  have h0 := g.code_lt; have h1 := rd.code_lt; have h2 := a.code_lt; have h3 := a.dist_lt; have h4 := b.code_lt; have h5 := b.dist_lt
  refine ⟨?_, trip_of ?_⟩
  · cases w <;> simp [Raw.Fits, *]
  · cases w <;> simp [*, decodeRaw, decScalar]

theorem Laws.Trip.rol (g : Guard) (w : Bool) (rd : SDst) (a b : SSrc) : Statement (.rol g w rd a b) := by
  intro hw h he; obtain rfl := Option.some.inj he; clear he
  have h0 := g.code_lt; have h1 := rd.code_lt; have h2 := a.code_lt; have h3 := a.dist_lt; have h4 := b.code_lt; have h5 := b.dist_lt
  refine ⟨?_, trip_of ?_⟩
  · cases w <;> simp [Raw.Fits, *]
  · cases w <;> simp [*, decodeRaw, decScalar]

theorem Laws.Trip.clz (g : Guard) (w : Bool) (rd : SDst) (a : SSrc) : Statement (.clz g w rd a) := by
  intro hw h he; obtain rfl := Option.some.inj he; clear he
  have h0 := g.code_lt; have h1 := rd.code_lt; have h2 := a.code_lt; have h3 := a.dist_lt
  refine ⟨?_, trip_of ?_⟩
  · cases w <;> simp [Raw.Fits, *]
  · cases w <;> simp [*, decodeRaw, decScalar]

theorem Laws.Trip.ctz (g : Guard) (w : Bool) (rd : SDst) (a : SSrc) : Statement (.ctz g w rd a) := by
  intro hw h he; obtain rfl := Option.some.inj he; clear he
  have h0 := g.code_lt; have h1 := rd.code_lt; have h2 := a.code_lt; have h3 := a.dist_lt
  refine ⟨?_, trip_of ?_⟩
  · cases w <;> simp [Raw.Fits, *]
  · cases w <;> simp [*, decodeRaw, decScalar]

theorem Laws.Trip.popc (g : Guard) (w : Bool) (rd : SDst) (a : SSrc) : Statement (.popc g w rd a) := by
  intro hw h he; obtain rfl := Option.some.inj he; clear he
  have h0 := g.code_lt; have h1 := rd.code_lt; have h2 := a.code_lt; have h3 := a.dist_lt
  refine ⟨?_, trip_of ?_⟩
  · cases w <;> simp [Raw.Fits, *]
  · cases w <;> simp [*, decodeRaw, decScalar]

theorem Laws.Trip.min (g : Guard) (w : Bool) (rd : SDst) (a b : SSrc) : Statement (.min g w rd a b) := by
  intro hw h he; obtain rfl := Option.some.inj he; clear he
  have h0 := g.code_lt; have h1 := rd.code_lt; have h2 := a.code_lt; have h3 := a.dist_lt; have h4 := b.code_lt; have h5 := b.dist_lt
  refine ⟨?_, trip_of ?_⟩
  · cases w <;> simp [Raw.Fits, *]
  · cases w <;> simp [*, decodeRaw, decScalar]

theorem Laws.Trip.max (g : Guard) (w : Bool) (rd : SDst) (a b : SSrc) : Statement (.max g w rd a b) := by
  intro hw h he; obtain rfl := Option.some.inj he; clear he
  have h0 := g.code_lt; have h1 := rd.code_lt; have h2 := a.code_lt; have h3 := a.dist_lt; have h4 := b.code_lt; have h5 := b.dist_lt
  refine ⟨?_, trip_of ?_⟩
  · cases w <;> simp [Raw.Fits, *]
  · cases w <;> simp [*, decodeRaw, decScalar]

theorem Laws.Trip.minu (g : Guard) (w : Bool) (rd : SDst) (a b : SSrc) : Statement (.minu g w rd a b) := by
  intro hw h he; obtain rfl := Option.some.inj he; clear he
  have h0 := g.code_lt; have h1 := rd.code_lt; have h2 := a.code_lt; have h3 := a.dist_lt; have h4 := b.code_lt; have h5 := b.dist_lt
  refine ⟨?_, trip_of ?_⟩
  · cases w <;> simp [Raw.Fits, *]
  · cases w <;> simp [*, decodeRaw, decScalar]

theorem Laws.Trip.maxu (g : Guard) (w : Bool) (rd : SDst) (a b : SSrc) : Statement (.maxu g w rd a b) := by
  intro hw h he; obtain rfl := Option.some.inj he; clear he
  have h0 := g.code_lt; have h1 := rd.code_lt; have h2 := a.code_lt; have h3 := a.dist_lt; have h4 := b.code_lt; have h5 := b.dist_lt
  refine ⟨?_, trip_of ?_⟩
  · cases w <;> simp [Raw.Fits, *]
  · cases w <;> simp [*, decodeRaw, decScalar]

theorem Laws.Trip.sel (g : Guard) (rd : SDst) (n : Fin 8) (a b : SSrc) : Statement (.sel g rd n a b) := by
  intro hw h he; obtain rfl := Option.some.inj he; clear he
  have h0 := g.code_lt; have h1 := rd.code_lt; have h2 := n.isLt; have h3 := a.code_lt; have h4 := a.dist_lt; have h5 := b.code_lt; have h6 := b.dist_lt
  refine ⟨?_, trip_of ?_⟩
  · simp [Raw.Fits, *] <;> omega
  · simp [*, decodeRaw, decScalar, gdOf_val n]

theorem Laws.Trip.mov (g : Guard) (rd : SDst) (a : SSrc) : Statement (.mov g rd a) := by
  intro hw h he; obtain rfl := Option.some.inj he; clear he
  have h0 := g.code_lt; have h1 := rd.code_lt; have h2 := a.code_lt; have h3 := a.dist_lt
  refine ⟨?_, trip_of ?_⟩
  · simp [Raw.Fits, *]
  · simp [*, decodeRaw, decScalar]

theorem Laws.Trip.addi (g : Guard) (w : Bool) (rd : SDst) (a : SSrc) (imm : Imm) : Statement (.addi g w rd a imm) := by
  intro hw h he; obtain rfl := Option.some.inj he; clear he
  have h0 := g.code_lt; have h1 := rd.code_lt; have h2 := a.code_lt; have h3 := a.dist_lt; have h4 := imm.field_lt
  simp [Instr.wfPlain] at hw
  refine ⟨?_, trip_of ?_⟩
  · cases w <;> simp [Raw.Fits, *] <;> omega
  · cases w <;> simp [*, decodeRaw, decScalarImm, immS_field imm, immU_field imm, immF_lit imm]

theorem Laws.Trip.li (g : Guard) (rd : SDst) (imm : Imm) : Statement (.li g rd imm) := by
  intro hw h he; obtain rfl := Option.some.inj he; clear he
  have h0 := g.code_lt; have h1 := rd.code_lt; have h2 := imm.field_lt
  simp [Instr.wfPlain] at hw
  refine ⟨?_, trip_of ?_⟩
  · simp [Raw.Fits, *] <;> omega
  · simp [*, decodeRaw, decScalarImm, immS_field imm, immU_field imm, immF_lit imm]

theorem Laws.Trip.extf (g : Guard) (s : Bool) (rd : SDst) (a : SSrc) (pos len : Fin 64) : Statement (.extf g s rd a pos len) := by
  intro hw h he; obtain rfl := Option.some.inj he; clear he
  have h0 := g.code_lt; have h1 := rd.code_lt; have h2 := a.code_lt; have h3 := a.dist_lt; have h4 := pos.isLt; have h5 := len.isLt
  have f0 : len.val % 64 = len.val := by omega
  have f1 : (len.val + 64 * pos.val) / 64 % 64 = pos.val := by omega
  have f2 : len.val + 64 * pos.val < 8192 := by omega
  have f3 : (len.val + 64 * pos.val) / 4096 = 0 := by omega
  have f4 : (len.val + 64 * pos.val + 4096) % 64 = len.val := by omega
  have f5 : (len.val + 64 * pos.val + 4096) / 64 % 64 = pos.val := by omega
  have f6 : len.val + 64 * pos.val + 4096 < 8192 := by omega
  simp [Instr.wfPlain] at hw
  refine ⟨?_, trip_of ?_⟩
  · cases s <;> simp [Raw.Fits, *] <;> omega
  · cases s <;> simp [*, decodeRaw, decScalarImm]

theorem Laws.Trip.insf (g : Guard) (rd : SDst) (a b : SSrc) (pos len : Fin 64) : Statement (.insf g rd a b pos len) := by
  intro hw h he; obtain rfl := Option.some.inj he; clear he
  have h0 := g.code_lt; have h1 := rd.code_lt; have h2 := a.code_lt; have h3 := a.dist_lt; have h4 := b.code_lt; have h5 := b.dist_lt; have h6 := pos.isLt; have h7 := len.isLt
  have f0 : len.val % 64 = len.val := by omega
  have f1 : (len.val + 64 * pos.val) / 64 = pos.val := by omega
  simp [Instr.wfPlain] at hw
  refine ⟨?_, trip_of ?_⟩
  · simp [Raw.Fits, *] <;> omega
  · simp [*, decodeRaw, decScalarImm]

theorem Laws.Trip.pga (g : Guard) (c : Bool) (rd : SDst) (place off : SSrc) (space : BitVec 4) (disp : Imm) : Statement (.pga g c rd place off space disp) := by
  intro hw h he; obtain rfl := Option.some.inj he; clear he
  have h0 := g.code_lt; have h1 := rd.code_lt; have h2 := place.code_lt; have h3 := place.dist_lt; have h4 := off.code_lt; have h5 := off.dist_lt; have h6 := space.isLt; have h7 := disp.field_lt
  have f0 : space.toNat < 32 := by omega
  have f1 : space.toNat + 16 < 32 := by omega
  have f2 : space.toNat % 16 = space.toNat := by omega
  have f3 : space.toNat / 16 = 0 := by omega
  simp [Instr.wfPlain] at hw
  refine ⟨?_, trip_of ?_⟩
  · cases c <;> simp [Raw.Fits, *] <;> omega
  · cases c <;> simp [*, decodeRaw, decScalarImm, immS_field disp, immU_field disp, immF_lit disp]

theorem Laws.Trip.cmp (g : Guard) (w : Bool) (cc : CC) (gd : Fin 8) (a b : SSrc) : Statement (.cmp g w cc gd a b) := by
  intro hw h he; obtain rfl := Option.some.inj he; clear he
  have h0 := g.code_lt; have h1 := cc.code_lt; have h2 := gd.isLt; have h3 := a.code_lt; have h4 := a.dist_lt; have h5 := b.code_lt; have h6 := b.dist_lt
  simp [Instr.wfPlain] at hw
  refine ⟨?_, trip_of ?_⟩
  · cases cc <;> cases w <;> simp [Raw.Fits, Tag.code, CC.code, *] <;> omega
  · cases cc <;> cases w <;> simp_all [decodeRaw, decCompare, Instr.wfPlain, CC.code, Tag.code, tagOf, scalarCC, ccOf, cvtTarget, packTarget, unpkTarget, CC.scalar, gdOf_val gd]

theorem Laws.Trip.cmpi (g : Guard) (w : Bool) (cc : CC) (gd : Fin 8) (a : SSrc) (imm : Imm) : Statement (.cmpi g w cc gd a imm) := by
  intro hw h he; obtain rfl := Option.some.inj he; clear he
  have h0 := g.code_lt; have h1 := cc.code_lt; have h2 := gd.isLt; have h3 := a.code_lt; have h4 := a.dist_lt; have h5 := imm.field_lt
  simp [Instr.wfPlain] at hw
  refine ⟨?_, trip_of ?_⟩
  · cases cc <;> cases w <;> simp [Raw.Fits, Tag.code, CC.code, *] <;> omega
  · cases cc <;> cases w <;> simp_all [decodeRaw, decCompare, Instr.wfPlain, CC.code, Tag.code, tagOf, scalarCC, ccOf, cvtTarget, packTarget, unpkTarget, CC.scalar, gdOf_val gd, immS_field imm, immU_field imm, immF_lit imm]

theorem Laws.Trip.gand (g : Guard) (gd ga gb : Fin 8) : Statement (.gand g gd ga gb) := by
  intro hw h he; obtain rfl := Option.some.inj he; clear he
  have h0 := g.code_lt; have h1 := gd.isLt; have h2 := ga.isLt; have h3 := gb.isLt
  simp [Instr.wfPlain] at hw
  refine ⟨?_, trip_of ?_⟩
  · simp [Raw.Fits, *] <;> omega
  · simp [*, decodeRaw, decCompare, gdOf_val gd, gdOf_val ga, gdOf_val gb]

theorem Laws.Trip.gor (g : Guard) (gd ga gb : Fin 8) : Statement (.gor g gd ga gb) := by
  intro hw h he; obtain rfl := Option.some.inj he; clear he
  have h0 := g.code_lt; have h1 := gd.isLt; have h2 := ga.isLt; have h3 := gb.isLt
  simp [Instr.wfPlain] at hw
  refine ⟨?_, trip_of ?_⟩
  · simp [Raw.Fits, *] <;> omega
  · simp [*, decodeRaw, decCompare, gdOf_val gd, gdOf_val ga, gdOf_val gb]

theorem Laws.Trip.gnot (g : Guard) (gd ga : Fin 8) : Statement (.gnot g gd ga) := by
  intro hw h he; obtain rfl := Option.some.inj he; clear he
  have h0 := g.code_lt; have h1 := gd.isLt; have h2 := ga.isLt
  simp [Instr.wfPlain] at hw
  refine ⟨?_, trip_of ?_⟩
  · simp [Raw.Fits, *] <;> omega
  · simp [*, decodeRaw, decCompare, gdOf_val gd, gdOf_val ga]

theorem Laws.Trip.vadd (g : Guard) (vd : VDst) (a b : VSrc) : Statement (.vadd g vd a b) := by
  intro hw h he; obtain rfl := Option.some.inj he; clear he
  have h0 := g.code_lt; have h1 := vd.code_lt; have h2 := a.code_lt; have h3 := a.dist_lt; have h4 := b.code_lt; have h5 := b.dist_lt
  refine ⟨?_, trip_of ?_⟩
  · simp [Raw.Fits, *]
  · simp [*, decodeRaw, decVecFloat]

theorem Laws.Trip.vsub (g : Guard) (vd : VDst) (a b : VSrc) : Statement (.vsub g vd a b) := by
  intro hw h he; obtain rfl := Option.some.inj he; clear he
  have h0 := g.code_lt; have h1 := vd.code_lt; have h2 := a.code_lt; have h3 := a.dist_lt; have h4 := b.code_lt; have h5 := b.dist_lt
  refine ⟨?_, trip_of ?_⟩
  · simp [Raw.Fits, *]
  · simp [*, decodeRaw, decVecFloat]

theorem Laws.Trip.vmul (g : Guard) (vd : VDst) (a b : VSrc) : Statement (.vmul g vd a b) := by
  intro hw h he; obtain rfl := Option.some.inj he; clear he
  have h0 := g.code_lt; have h1 := vd.code_lt; have h2 := a.code_lt; have h3 := a.dist_lt; have h4 := b.code_lt; have h5 := b.dist_lt
  refine ⟨?_, trip_of ?_⟩
  · simp [Raw.Fits, *]
  · simp [*, decodeRaw, decVecFloat]

theorem Laws.Trip.vfma (g : Guard) (vd : VDst) (a b c : VSrc) : Statement (.vfma g vd a b c) := by
  intro hw h he; obtain rfl := Option.some.inj he; clear he
  have h0 := g.code_lt; have h1 := vd.code_lt; have h2 := a.code_lt; have h3 := a.dist_lt; have h4 := b.code_lt; have h5 := b.dist_lt; have h6 := c.code_lt; have h7 := c.dist_lt
  have f0 : c.code % 64 = c.code := by omega
  have f1 : (c.code + 64 * c.dist) / 64 = c.dist := by omega
  have f2 : c.code + 64 * c.dist < 512 := by omega
  refine ⟨?_, trip_of ?_⟩
  · simp [Raw.Fits, *] <;> omega
  · simp [*, decodeRaw, decVecFloat]

theorem Laws.Trip.vfms (g : Guard) (vd : VDst) (a b c : VSrc) : Statement (.vfms g vd a b c) := by
  intro hw h he; obtain rfl := Option.some.inj he; clear he
  have h0 := g.code_lt; have h1 := vd.code_lt; have h2 := a.code_lt; have h3 := a.dist_lt; have h4 := b.code_lt; have h5 := b.dist_lt; have h6 := c.code_lt; have h7 := c.dist_lt
  have f0 : c.code % 64 = c.code := by omega
  have f1 : (c.code + 64 * c.dist) / 64 = c.dist := by omega
  have f2 : c.code + 64 * c.dist < 512 := by omega
  refine ⟨?_, trip_of ?_⟩
  · simp [Raw.Fits, *] <;> omega
  · simp [*, decodeRaw, decVecFloat]

theorem Laws.Trip.vmin (g : Guard) (vd : VDst) (a b : VSrc) : Statement (.vmin g vd a b) := by
  intro hw h he; obtain rfl := Option.some.inj he; clear he
  have h0 := g.code_lt; have h1 := vd.code_lt; have h2 := a.code_lt; have h3 := a.dist_lt; have h4 := b.code_lt; have h5 := b.dist_lt
  refine ⟨?_, trip_of ?_⟩
  · simp [Raw.Fits, *]
  · simp [*, decodeRaw, decVecFloat]

theorem Laws.Trip.vmax (g : Guard) (vd : VDst) (a b : VSrc) : Statement (.vmax g vd a b) := by
  intro hw h he; obtain rfl := Option.some.inj he; clear he
  have h0 := g.code_lt; have h1 := vd.code_lt; have h2 := a.code_lt; have h3 := a.dist_lt; have h4 := b.code_lt; have h5 := b.dist_lt
  refine ⟨?_, trip_of ?_⟩
  · simp [Raw.Fits, *]
  · simp [*, decodeRaw, decVecFloat]

theorem Laws.Trip.vabs (g : Guard) (vd : VDst) (a : VSrc) : Statement (.vabs g vd a) := by
  intro hw h he; obtain rfl := Option.some.inj he; clear he
  have h0 := g.code_lt; have h1 := vd.code_lt; have h2 := a.code_lt; have h3 := a.dist_lt
  refine ⟨?_, trip_of ?_⟩
  · simp [Raw.Fits, *]
  · simp [*, decodeRaw, decVecFloat]

theorem Laws.Trip.vneg (g : Guard) (vd : VDst) (a : VSrc) : Statement (.vneg g vd a) := by
  intro hw h he; obtain rfl := Option.some.inj he; clear he
  have h0 := g.code_lt; have h1 := vd.code_lt; have h2 := a.code_lt; have h3 := a.dist_lt
  refine ⟨?_, trip_of ?_⟩
  · simp [Raw.Fits, *]
  · simp [*, decodeRaw, decVecFloat]

theorem Laws.Trip.vcps (g : Guard) (vd : VDst) (a b : VSrc) : Statement (.vcps g vd a b) := by
  intro hw h he; obtain rfl := Option.some.inj he; clear he
  have h0 := g.code_lt; have h1 := vd.code_lt; have h2 := a.code_lt; have h3 := a.dist_lt; have h4 := b.code_lt; have h5 := b.dist_lt
  refine ⟨?_, trip_of ?_⟩
  · simp [Raw.Fits, *]
  · simp [*, decodeRaw, decVecFloat]

theorem Laws.Trip.vcmp (g : Guard) (cc : CC) (gd : Fin 8) (a b : VSrc) : Statement (.vcmp g cc gd a b) := by
  intro hw h he; obtain rfl := Option.some.inj he; clear he
  have h0 := g.code_lt; have h1 := cc.code_lt; have h2 := gd.isLt; have h3 := a.code_lt; have h4 := a.dist_lt; have h5 := b.code_lt; have h6 := b.dist_lt
  simp [Instr.wfPlain] at hw
  refine ⟨?_, trip_of ?_⟩
  · cases cc <;> simp [Raw.Fits, Tag.code, CC.code, *] <;> omega
  · cases cc <;> simp_all [decodeRaw, decVecFloat, Instr.wfPlain, CC.code, Tag.code, tagOf, scalarCC, ccOf, cvtTarget, packTarget, unpkTarget, CC.scalar, gdOf_val gd]

theorem Laws.Trip.vsel (g : Guard) (vd : VDst) (n : Fin 8) (a b : VSrc) : Statement (.vsel g vd n a b) := by
  intro hw h he; obtain rfl := Option.some.inj he; clear he
  have h0 := g.code_lt; have h1 := vd.code_lt; have h2 := n.isLt; have h3 := a.code_lt; have h4 := a.dist_lt; have h5 := b.code_lt; have h6 := b.dist_lt
  refine ⟨?_, trip_of ?_⟩
  · simp [Raw.Fits, *] <;> omega
  · simp [*, decodeRaw, decVecFloat, gdOf_val n]

theorem Laws.Trip.vrnd (g : Guard) (vd : VDst) (a : VSrc) : Statement (.vrnd g vd a) := by
  intro hw h he; obtain rfl := Option.some.inj he; clear he
  have h0 := g.code_lt; have h1 := vd.code_lt; have h2 := a.code_lt; have h3 := a.dist_lt
  refine ⟨?_, trip_of ?_⟩
  · simp [Raw.Fits, *]
  · simp [*, decodeRaw, decVecFun]

theorem Laws.Trip.vfexp (g : Guard) (vd : VDst) (a : VSrc) : Statement (.vfexp g vd a) := by
  intro hw h he; obtain rfl := Option.some.inj he; clear he
  have h0 := g.code_lt; have h1 := vd.code_lt; have h2 := a.code_lt; have h3 := a.dist_lt
  refine ⟨?_, trip_of ?_⟩
  · simp [Raw.Fits, *]
  · simp [*, decodeRaw, decVecFun]

theorem Laws.Trip.vexpi (g : Guard) (vd : VDst) (a b : VSrc) : Statement (.vexpi g vd a b) := by
  intro hw h he; obtain rfl := Option.some.inj he; clear he
  have h0 := g.code_lt; have h1 := vd.code_lt; have h2 := a.code_lt; have h3 := a.dist_lt; have h4 := b.code_lt; have h5 := b.dist_lt
  refine ⟨?_, trip_of ?_⟩
  · simp [Raw.Fits, *]
  · simp [*, decodeRaw, decVecFun]

theorem Laws.Trip.vlogb (g : Guard) (vd : VDst) (a : VSrc) : Statement (.vlogb g vd a) := by
  intro hw h he; obtain rfl := Option.some.inj he; clear he
  have h0 := g.code_lt; have h1 := vd.code_lt; have h2 := a.code_lt; have h3 := a.dist_lt
  refine ⟨?_, trip_of ?_⟩
  · simp [Raw.Fits, *]
  · simp [*, decodeRaw, decVecFun]

theorem Laws.Trip.vrcp (g : Guard) (vd : VDst) (a : VSrc) : Statement (.vrcp g vd a) := by
  intro hw h he; obtain rfl := Option.some.inj he; clear he
  have h0 := g.code_lt; have h1 := vd.code_lt; have h2 := a.code_lt; have h3 := a.dist_lt
  refine ⟨?_, trip_of ?_⟩
  · simp [Raw.Fits, *]
  · simp [*, decodeRaw, decVecFun]

theorem Laws.Trip.vrsq (g : Guard) (vd : VDst) (a : VSrc) : Statement (.vrsq g vd a) := by
  intro hw h he; obtain rfl := Option.some.inj he; clear he
  have h0 := g.code_lt; have h1 := vd.code_lt; have h2 := a.code_lt; have h3 := a.dist_lt
  refine ⟨?_, trip_of ?_⟩
  · simp [Raw.Fits, *]
  · simp [*, decodeRaw, decVecFun]

theorem Laws.Trip.vcvt (g : Guard) (u m : Bool) (t : Tag) (vd : VDst) (a : VSrc) : Statement (.vcvt g u m t vd a) := by
  intro hw h he; obtain rfl := Option.some.inj he; clear he
  have h0 := g.code_lt; have h1 := t.code_lt; have h2 := vd.code_lt; have h3 := a.code_lt; have h4 := a.dist_lt
  simp [Instr.wfPlain] at hw
  refine ⟨?_, trip_of ?_⟩
  · cases t <;> cases u <;> cases m <;> simp [Raw.Fits, Tag.code, CC.code, *]
  · cases t <;> cases u <;> cases m <;> simp_all [decodeRaw, decVecFun, Instr.wfPlain, CC.code, Tag.code, tagOf, scalarCC, ccOf, cvtTarget, packTarget, unpkTarget, CC.scalar]

theorem Laws.Trip.vpack (g : Guard) (u m : Bool) (t : Tag) (vd : VDst) (a b : VSrc) : Statement (.vpack g u m t vd a b) := by
  intro hw h he; obtain rfl := Option.some.inj he; clear he
  have h0 := g.code_lt; have h1 := t.code_lt; have h2 := vd.code_lt; have h3 := a.code_lt; have h4 := a.dist_lt; have h5 := b.code_lt; have h6 := b.dist_lt
  simp [Instr.wfPlain] at hw
  refine ⟨?_, trip_of ?_⟩
  · cases t <;> cases u <;> cases m <;> simp [Raw.Fits, Tag.code, CC.code, *]
  · cases t <;> cases u <;> cases m <;> simp_all [decodeRaw, decVecFun, Instr.wfPlain, CC.code, Tag.code, tagOf, scalarCC, ccOf, cvtTarget, packTarget, unpkTarget, CC.scalar]

theorem Laws.Trip.vunpk (g : Guard) (u : Bool) (t : Tag) (h : Bool) (vd : VDst) (a : VSrc) : Statement (.vunpk g u t h vd a) := by
  intro hw h he; obtain rfl := Option.some.inj he; clear he
  have h0 := g.code_lt; have h1 := t.code_lt; have h2 := vd.code_lt; have h3 := a.code_lt; have h4 := a.dist_lt
  simp [Instr.wfPlain] at hw
  refine ⟨?_, trip_of ?_⟩
  · cases t <;> cases u <;> cases h <;> simp [Raw.Fits, Tag.code, CC.code, *]
  · cases t <;> cases u <;> cases h <;> simp_all [decodeRaw, decVecFun, Instr.wfPlain, CC.code, Tag.code, tagOf, scalarCC, ccOf, cvtTarget, packTarget, unpkTarget, CC.scalar]

theorem Laws.Trip.viadd (g : Guard) (mode : SatMode) (vd : VDst) (a b : VSrc) : Statement (.viadd g mode vd a b) := by
  intro hw h he; obtain rfl := Option.some.inj he; clear he
  have h0 := g.code_lt; have h1 := mode.code_lt; have h2 := vd.code_lt; have h3 := a.code_lt; have h4 := a.dist_lt; have h5 := b.code_lt; have h6 := b.dist_lt
  refine ⟨?_, trip_of ?_⟩
  · simp [Raw.Fits, *] <;> omega
  · simp [*, decodeRaw, decVecInt]

theorem Laws.Trip.visub (g : Guard) (mode : SatMode) (vd : VDst) (a b : VSrc) : Statement (.visub g mode vd a b) := by
  intro hw h he; obtain rfl := Option.some.inj he; clear he
  have h0 := g.code_lt; have h1 := mode.code_lt; have h2 := vd.code_lt; have h3 := a.code_lt; have h4 := a.dist_lt; have h5 := b.code_lt; have h6 := b.dist_lt
  refine ⟨?_, trip_of ?_⟩
  · simp [Raw.Fits, *] <;> omega
  · simp [*, decodeRaw, decVecInt]

theorem Laws.Trip.vimul (g : Guard) (vd : VDst) (a b : VSrc) : Statement (.vimul g vd a b) := by
  intro hw h he; obtain rfl := Option.some.inj he; clear he
  have h0 := g.code_lt; have h1 := vd.code_lt; have h2 := a.code_lt; have h3 := a.dist_lt; have h4 := b.code_lt; have h5 := b.dist_lt
  refine ⟨?_, trip_of ?_⟩
  · simp [Raw.Fits, *]
  · simp [*, decodeRaw, decVecInt]

theorem Laws.Trip.vimad (g : Guard) (vd : VDst) (a b c : VSrc) : Statement (.vimad g vd a b c) := by
  intro hw h he; obtain rfl := Option.some.inj he; clear he
  have h0 := g.code_lt; have h1 := vd.code_lt; have h2 := a.code_lt; have h3 := a.dist_lt; have h4 := b.code_lt; have h5 := b.dist_lt; have h6 := c.code_lt; have h7 := c.dist_lt
  have f0 : c.code % 64 = c.code := by omega
  have f1 : (c.code + 64 * c.dist) / 64 = c.dist := by omega
  have f2 : c.code + 64 * c.dist < 512 := by omega
  refine ⟨?_, trip_of ?_⟩
  · simp [Raw.Fits, *] <;> omega
  · simp [*, decodeRaw, decVecInt]

theorem Laws.Trip.vand (g : Guard) (vd : VDst) (a b : VSrc) : Statement (.vand g vd a b) := by
  intro hw h he; obtain rfl := Option.some.inj he; clear he
  have h0 := g.code_lt; have h1 := vd.code_lt; have h2 := a.code_lt; have h3 := a.dist_lt; have h4 := b.code_lt; have h5 := b.dist_lt
  refine ⟨?_, trip_of ?_⟩
  · simp [Raw.Fits, *]
  · simp [*, decodeRaw, decVecInt]

theorem Laws.Trip.vor (g : Guard) (vd : VDst) (a b : VSrc) : Statement (.vor g vd a b) := by
  intro hw h he; obtain rfl := Option.some.inj he; clear he
  have h0 := g.code_lt; have h1 := vd.code_lt; have h2 := a.code_lt; have h3 := a.dist_lt; have h4 := b.code_lt; have h5 := b.dist_lt
  refine ⟨?_, trip_of ?_⟩
  · simp [Raw.Fits, *]
  · simp [*, decodeRaw, decVecInt]

theorem Laws.Trip.vxor (g : Guard) (vd : VDst) (a b : VSrc) : Statement (.vxor g vd a b) := by
  intro hw h he; obtain rfl := Option.some.inj he; clear he
  have h0 := g.code_lt; have h1 := vd.code_lt; have h2 := a.code_lt; have h3 := a.dist_lt; have h4 := b.code_lt; have h5 := b.dist_lt
  refine ⟨?_, trip_of ?_⟩
  · simp [Raw.Fits, *]
  · simp [*, decodeRaw, decVecInt]

theorem Laws.Trip.vshl (g : Guard) (vd : VDst) (a b : VSrc) : Statement (.vshl g vd a b) := by
  intro hw h he; obtain rfl := Option.some.inj he; clear he
  have h0 := g.code_lt; have h1 := vd.code_lt; have h2 := a.code_lt; have h3 := a.dist_lt; have h4 := b.code_lt; have h5 := b.dist_lt
  refine ⟨?_, trip_of ?_⟩
  · simp [Raw.Fits, *]
  · simp [*, decodeRaw, decVecInt]

theorem Laws.Trip.vshr (g : Guard) (vd : VDst) (a b : VSrc) : Statement (.vshr g vd a b) := by
  intro hw h he; obtain rfl := Option.some.inj he; clear he
  have h0 := g.code_lt; have h1 := vd.code_lt; have h2 := a.code_lt; have h3 := a.dist_lt; have h4 := b.code_lt; have h5 := b.dist_lt
  refine ⟨?_, trip_of ?_⟩
  · simp [Raw.Fits, *]
  · simp [*, decodeRaw, decVecInt]

theorem Laws.Trip.vsar (g : Guard) (vd : VDst) (a b : VSrc) : Statement (.vsar g vd a b) := by
  intro hw h he; obtain rfl := Option.some.inj he; clear he
  have h0 := g.code_lt; have h1 := vd.code_lt; have h2 := a.code_lt; have h3 := a.dist_lt; have h4 := b.code_lt; have h5 := b.dist_lt
  refine ⟨?_, trip_of ?_⟩
  · simp [Raw.Fits, *]
  · simp [*, decodeRaw, decVecInt]

theorem Laws.Trip.vdot4 (g : Guard) (vd : VDst) (a b c : VSrc) : Statement (.vdot4 g vd a b c) := by
  intro hw h he; obtain rfl := Option.some.inj he; clear he
  have h0 := g.code_lt; have h1 := vd.code_lt; have h2 := a.code_lt; have h3 := a.dist_lt; have h4 := b.code_lt; have h5 := b.dist_lt; have h6 := c.code_lt; have h7 := c.dist_lt
  have f0 : c.code % 64 = c.code := by omega
  have f1 : (c.code + 64 * c.dist) / 64 = c.dist := by omega
  have f2 : c.code + 64 * c.dist < 512 := by omega
  refine ⟨?_, trip_of ?_⟩
  · simp [Raw.Fits, *] <;> omega
  · simp [*, decodeRaw, decVecInt]

theorem Laws.Trip.vbcast (g : Guard) (vd : VDst) (a : SSrc) (t : Tag) (imm : Imm) : Statement (.vbcast g vd a t imm) := by
  intro hw h he; obtain rfl := Option.some.inj he; clear he
  have h0 := g.code_lt; have h1 := vd.code_lt; have h2 := a.code_lt; have h3 := a.dist_lt; have h4 := t.code_lt; have h5 := imm.field_lt
  simp [Instr.wfPlain] at hw
  refine ⟨?_, trip_of ?_⟩
  · simp [Raw.Fits, *] <;> omega
  · simp [*, decodeRaw, decLaneMove, zTagOf_code t, immS_field imm, immU_field imm, immF_lit imm]

theorem Laws.Trip.vperm (g : Guard) (vd : VDst) (a b : VSrc) : Statement (.vperm g vd a b) := by
  intro hw h he; obtain rfl := Option.some.inj he; clear he
  have h0 := g.code_lt; have h1 := vd.code_lt; have h2 := a.code_lt; have h3 := a.dist_lt; have h4 := b.code_lt; have h5 := b.dist_lt
  refine ⟨?_, trip_of ?_⟩
  · simp [Raw.Fits, *]
  · simp [*, decodeRaw, decLaneMove]

theorem Laws.Trip.vrot (g : Guard) (vd : VDst) (a : VSrc) (k : Fin 32) : Statement (.vrot g vd a k) := by
  intro hw h he; obtain rfl := Option.some.inj he; clear he
  have h0 := g.code_lt; have h1 := vd.code_lt; have h2 := a.code_lt; have h3 := a.dist_lt; have h4 := k.isLt
  refine ⟨?_, trip_of ?_⟩
  · simp [Raw.Fits, *] <;> omega
  · simp [*, decodeRaw, decLaneMove]

theorem Laws.Trip.vmovs (g : Guard) (s : Bool) (rd : SDst) (a : VSrc) (k : Fin 32) : Statement (.vmovs g s rd a k) := by
  intro hw h he; obtain rfl := Option.some.inj he; clear he
  have h0 := g.code_lt; have h1 := rd.code_lt; have h2 := a.code_lt; have h3 := a.dist_lt; have h4 := k.isLt
  have f0 : k.val % 32 = k.val := by omega
  have f1 : k.val < 64 := by omega
  have f2 : k.val + 32 < 64 := by omega
  have f3 : k.val / 32 = 0 := by omega
  refine ⟨?_, trip_of ?_⟩
  · cases s <;> simp [Raw.Fits, *] <;> omega
  · cases s <;> simp [*, decodeRaw, decLaneMove]

theorem Laws.Trip.vins (g : Guard) (vd : VDst) (a : SSrc) (k : Fin 32) (t : Tag) : Statement (.vins g vd a k t) := by
  intro hw h he; obtain rfl := Option.some.inj he; clear he
  have h0 := g.code_lt; have h1 := vd.code_lt; have h2 := a.code_lt; have h3 := a.dist_lt; have h4 := k.isLt; have h5 := t.code_lt
  have f0 : k.val % 256 = k.val := by omega
  have f1 : (k.val + 256 * t.code) / 256 = t.code := by omega
  have hq : vd.queue = [] := by simpa [Instr.wfPlain] using hw
  refine ⟨?_, trip_of ?_⟩
  · simp [Raw.Fits, *] <;> omega
  · simp [hq, f0, f1, decodeRaw, decLaneMove, zTagOf_code t]

theorem Laws.Trip.vreda (g : Guard) (vd : VDst) (a : VSrc) : Statement (.vreda g vd a) := by
  intro hw h he; obtain rfl := Option.some.inj he; clear he
  have h0 := g.code_lt; have h1 := vd.code_lt; have h2 := a.code_lt; have h3 := a.dist_lt
  refine ⟨?_, trip_of ?_⟩
  · simp [Raw.Fits, *]
  · simp [*, decodeRaw, decLaneMove]

theorem Laws.Trip.vredm (g : Guard) (vd : VDst) (a : VSrc) : Statement (.vredm g vd a) := by
  intro hw h he; obtain rfl := Option.some.inj he; clear he
  have h0 := g.code_lt; have h1 := vd.code_lt; have h2 := a.code_lt; have h3 := a.dist_lt
  refine ⟨?_, trip_of ?_⟩
  · simp [Raw.Fits, *]
  · simp [*, decodeRaw, decLaneMove]

theorem Laws.Trip.vscan (g : Guard) (vd : VDst) (a : VSrc) : Statement (.vscan g vd a) := by
  intro hw h he; obtain rfl := Option.some.inj he; clear he
  have h0 := g.code_lt; have h1 := vd.code_lt; have h2 := a.code_lt; have h3 := a.dist_lt
  refine ⟨?_, trip_of ?_⟩
  · simp [Raw.Fits, *]
  · simp [*, decodeRaw, decLaneMove]

theorem Laws.Trip.mmab (g : Guard) (z : Fin 2) (xa xw : SSrc) : Statement (.mmab g z xa xw) := by
  intro hw h he; obtain rfl := Option.some.inj he; clear he
  have h0 := g.code_lt; have h1 := z.isLt; have h2 := xa.code_lt; have h3 := xa.dist_lt; have h4 := xw.code_lt; have h5 := xw.dist_lt
  refine ⟨?_, trip_of ?_⟩
  · simp [Raw.Fits, *] <;> omega
  · simp [*, decodeRaw, decMatrix]

theorem Laws.Trip.mmai (g : Guard) (z : Fin 2) (xa xw : SSrc) : Statement (.mmai g z xa xw) := by
  intro hw h he; obtain rfl := Option.some.inj he; clear he
  have h0 := g.code_lt; have h1 := z.isLt; have h2 := xa.code_lt; have h3 := xa.dist_lt; have h4 := xw.code_lt; have h5 := xw.dist_lt
  refine ⟨?_, trip_of ?_⟩
  · simp [Raw.Fits, *] <;> omega
  · simp [*, decodeRaw, decMatrix]

theorem Laws.Trip.mmad (g : Guard) (z : Fin 2) (xa xw xs : SSrc) : Statement (.mmad g z xa xw xs) := by
  intro hw h he; obtain rfl := Option.some.inj he; clear he
  have h0 := g.code_lt; have h1 := z.isLt; have h2 := xa.code_lt; have h3 := xa.dist_lt; have h4 := xw.code_lt; have h5 := xw.dist_lt; have h6 := xs.code_lt; have h7 := xs.dist_lt
  have f0 : xs.code % 64 = xs.code := by omega
  have f1 : (xs.code + 64 * xs.dist) / 64 = xs.dist := by omega
  have f2 : xs.code + 64 * xs.dist < 512 := by omega
  refine ⟨?_, trip_of ?_⟩
  · simp [Raw.Fits, *] <;> omega
  · simp [*, decodeRaw, decMatrix]

theorem Laws.Trip.zclr (g : Guard) (z : Fin 2) (t : Tag) : Statement (.zclr g z t) := by
  intro hw h he; obtain rfl := Option.some.inj he; clear he
  have h0 := g.code_lt; have h1 := z.isLt; have h2 := t.code_lt
  simp [Instr.wfPlain] at hw
  refine ⟨?_, trip_of ?_⟩
  · simp [Raw.Fits, *] <;> omega
  · simp [*, decodeRaw, decMatrix, zTagOf_code t]

theorem Laws.Trip.zscale (g : Guard) (z : Fin 2) (a : VSrc) : Statement (.zscale g z a) := by
  intro hw h he; obtain rfl := Option.some.inj he; clear he
  have h0 := g.code_lt; have h1 := z.isLt; have h2 := a.code_lt; have h3 := a.dist_lt
  refine ⟨?_, trip_of ?_⟩
  · simp [Raw.Fits, *] <;> omega
  · simp [*, decodeRaw, decMatrix]

theorem Laws.Trip.zrd (g : Guard) (vd : VDst) (z : Fin 2) (p : Fin 8) : Statement (.zrd g vd z p) := by
  intro hw h he; obtain rfl := Option.some.inj he; clear he
  have h0 := g.code_lt; have h1 := vd.code_lt; have h2 := z.isLt; have h3 := p.isLt
  refine ⟨?_, trip_of ?_⟩
  · simp [Raw.Fits, *] <;> omega
  · simp [*, decodeRaw, decMatrix, gdOf_val p]

theorem Laws.Trip.zwr (g : Guard) (z : Fin 2) (a : VSrc) (p : Fin 8) : Statement (.zwr g z a p) := by
  intro hw h he; obtain rfl := Option.some.inj he; clear he
  have h0 := g.code_lt; have h1 := z.isLt; have h2 := a.code_lt; have h3 := a.dist_lt; have h4 := p.isLt
  refine ⟨?_, trip_of ?_⟩
  · simp [Raw.Fits, *] <;> omega
  · simp [*, decodeRaw, decMatrix, gdOf_val p]

theorem Laws.Trip.zld (g : Guard) (z : Fin 2) (xb : SSrc) (t : Tag) (imm : Imm) : Statement (.zld g z xb t imm) := by
  intro hw h he; obtain rfl := Option.some.inj he; clear he
  have h0 := g.code_lt; have h1 := z.isLt; have h2 := xb.code_lt; have h3 := xb.dist_lt; have h4 := t.code_lt; have h5 := imm.field_lt
  simp [Instr.wfPlain] at hw
  refine ⟨?_, trip_of ?_⟩
  · simp [Raw.Fits, *] <;> omega
  · simp [*, decodeRaw, decMatrixMem, zTagOf_code t, immS_field imm, immU_field imm, immF_lit imm]

theorem Laws.Trip.zst (g : Guard) (z : Fin 2) (xb : SSrc) (imm : Imm) : Statement (.zst g z xb imm) := by
  intro hw h he; obtain rfl := Option.some.inj he; clear he
  have h0 := g.code_lt; have h1 := z.isLt; have h2 := xb.code_lt; have h3 := xb.dist_lt; have h4 := imm.field_lt
  simp [Instr.wfPlain] at hw
  refine ⟨?_, trip_of ?_⟩
  · simp [Raw.Fits, *] <;> omega
  · simp [*, decodeRaw, decMatrixMem, immS_field imm, immU_field imm, immF_lit imm]

theorem Laws.Trip.wbld (g : Guard) (xd xb : SSrc) (imm : Imm) : Statement (.wbld g xd xb imm) := by
  intro hw h he; obtain rfl := Option.some.inj he; clear he
  have h0 := g.code_lt; have h1 := xd.code_lt; have h2 := xd.dist_lt; have h3 := xb.code_lt; have h4 := xb.dist_lt; have h5 := imm.field_lt
  simp [Instr.wfPlain] at hw
  refine ⟨?_, trip_of ?_⟩
  · simp [Raw.Fits, *] <;> omega
  · simp [*, decodeRaw, decMatrixMem, immS_field imm, immU_field imm, immF_lit imm]

theorem Laws.Trip.ldt (g : Guard) (xd xb : SSrc) (imm : Imm) : Statement (.ldt g xd xb imm) := by
  intro hw h he; obtain rfl := Option.some.inj he; clear he
  have h0 := g.code_lt; have h1 := xd.code_lt; have h2 := xd.dist_lt; have h3 := xb.code_lt; have h4 := xb.dist_lt; have h5 := imm.field_lt
  simp [Instr.wfPlain] at hw
  refine ⟨?_, trip_of ?_⟩
  · simp [Raw.Fits, *] <;> omega
  · simp [*, decodeRaw, decMatrixMem, immS_field imm, immU_field imm, immF_lit imm]

theorem Laws.Trip.swapt (g : Guard) (t : Bool) (zd zs : Fin 2) (key : Byte) : Statement (.swapt g t zd zs key) := by
  intro hw h he; obtain rfl := Option.some.inj he; clear he
  have h0 := g.code_lt; have h1 := zd.isLt; have h2 := zs.isLt; have h3 := key.isLt
  have f0 : key.toNat < 512 := by omega
  have f1 : key.toNat + 256 < 512 := by omega
  have f2 : key.toNat % 256 = key.toNat := by omega
  have f3 : key.toNat / 256 = 0 := by omega
  refine ⟨?_, trip_of ?_⟩
  · cases t <;> simp [Raw.Fits, *] <;> omega
  · cases t <;> simp [*, decodeRaw, decMatrixMem]

theorem Laws.Trip.ld (g : Guard) (rd : SDst) (xb : SSrc) (imm : Imm) : Statement (.ld g rd xb imm) := by
  intro hw h he; obtain rfl := Option.some.inj he; clear he
  have h0 := g.code_lt; have h1 := rd.code_lt; have h2 := xb.code_lt; have h3 := xb.dist_lt; have h4 := imm.field_lt
  simp [Instr.wfPlain] at hw
  refine ⟨?_, trip_of ?_⟩
  · simp [Raw.Fits, *] <;> omega
  · simp [*, decodeRaw, decMemory, immS_field imm, immU_field imm, immF_lit imm]

theorem Laws.Trip.ldW (g : Guard) (rd : SDst) (xb : SSrc) (imm : Imm) : Statement (.ldW g rd xb imm) := by
  intro hw h he; obtain rfl := Option.some.inj he; clear he
  have h0 := g.code_lt; have h1 := rd.code_lt; have h2 := xb.code_lt; have h3 := xb.dist_lt; have h4 := imm.field_lt
  simp [Instr.wfPlain] at hw
  refine ⟨?_, trip_of ?_⟩
  · simp [Raw.Fits, *] <;> omega
  · simp [*, decodeRaw, decMemory, immS_field imm, immU_field imm, immF_lit imm]

theorem Laws.Trip.ldWu (g : Guard) (rd : SDst) (xb : SSrc) (imm : Imm) : Statement (.ldWu g rd xb imm) := by
  intro hw h he; obtain rfl := Option.some.inj he; clear he
  have h0 := g.code_lt; have h1 := rd.code_lt; have h2 := xb.code_lt; have h3 := xb.dist_lt; have h4 := imm.field_lt
  simp [Instr.wfPlain] at hw
  refine ⟨?_, trip_of ?_⟩
  · simp [Raw.Fits, *] <;> omega
  · simp [*, decodeRaw, decMemory, immS_field imm, immU_field imm, immF_lit imm]

theorem Laws.Trip.ldH (g : Guard) (rd : SDst) (xb : SSrc) (imm : Imm) : Statement (.ldH g rd xb imm) := by
  intro hw h he; obtain rfl := Option.some.inj he; clear he
  have h0 := g.code_lt; have h1 := rd.code_lt; have h2 := xb.code_lt; have h3 := xb.dist_lt; have h4 := imm.field_lt
  simp [Instr.wfPlain] at hw
  refine ⟨?_, trip_of ?_⟩
  · simp [Raw.Fits, *] <;> omega
  · simp [*, decodeRaw, decMemory, immS_field imm, immU_field imm, immF_lit imm]

theorem Laws.Trip.ldHu (g : Guard) (rd : SDst) (xb : SSrc) (imm : Imm) : Statement (.ldHu g rd xb imm) := by
  intro hw h he; obtain rfl := Option.some.inj he; clear he
  have h0 := g.code_lt; have h1 := rd.code_lt; have h2 := xb.code_lt; have h3 := xb.dist_lt; have h4 := imm.field_lt
  simp [Instr.wfPlain] at hw
  refine ⟨?_, trip_of ?_⟩
  · simp [Raw.Fits, *] <;> omega
  · simp [*, decodeRaw, decMemory, immS_field imm, immU_field imm, immF_lit imm]

theorem Laws.Trip.ldB (g : Guard) (rd : SDst) (xb : SSrc) (imm : Imm) : Statement (.ldB g rd xb imm) := by
  intro hw h he; obtain rfl := Option.some.inj he; clear he
  have h0 := g.code_lt; have h1 := rd.code_lt; have h2 := xb.code_lt; have h3 := xb.dist_lt; have h4 := imm.field_lt
  simp [Instr.wfPlain] at hw
  refine ⟨?_, trip_of ?_⟩
  · simp [Raw.Fits, *] <;> omega
  · simp [*, decodeRaw, decMemory, immS_field imm, immU_field imm, immF_lit imm]

theorem Laws.Trip.ldBu (g : Guard) (rd : SDst) (xb : SSrc) (imm : Imm) : Statement (.ldBu g rd xb imm) := by
  intro hw h he; obtain rfl := Option.some.inj he; clear he
  have h0 := g.code_lt; have h1 := rd.code_lt; have h2 := xb.code_lt; have h3 := xb.dist_lt; have h4 := imm.field_lt
  simp [Instr.wfPlain] at hw
  refine ⟨?_, trip_of ?_⟩
  · simp [Raw.Fits, *] <;> omega
  · simp [*, decodeRaw, decMemory, immS_field imm, immU_field imm, immF_lit imm]

theorem Laws.Trip.st (g : Guard) (rs xb : SSrc) (imm : Imm) : Statement (.st g rs xb imm) := by
  intro hw h he; obtain rfl := Option.some.inj he; clear he
  have h0 := g.code_lt; have h1 := rs.code_lt; have h2 := rs.dist_lt; have h3 := xb.code_lt; have h4 := xb.dist_lt; have h5 := imm.field_lt
  simp [Instr.wfPlain] at hw
  refine ⟨?_, trip_of ?_⟩
  · simp [Raw.Fits, *] <;> omega
  · simp [*, decodeRaw, decMemory, immS_field imm, immU_field imm, immF_lit imm]

theorem Laws.Trip.stW (g : Guard) (rs xb : SSrc) (imm : Imm) : Statement (.stW g rs xb imm) := by
  intro hw h he; obtain rfl := Option.some.inj he; clear he
  have h0 := g.code_lt; have h1 := rs.code_lt; have h2 := rs.dist_lt; have h3 := xb.code_lt; have h4 := xb.dist_lt; have h5 := imm.field_lt
  simp [Instr.wfPlain] at hw
  refine ⟨?_, trip_of ?_⟩
  · simp [Raw.Fits, *] <;> omega
  · simp [*, decodeRaw, decMemory, immS_field imm, immU_field imm, immF_lit imm]

theorem Laws.Trip.stH (g : Guard) (rs xb : SSrc) (imm : Imm) : Statement (.stH g rs xb imm) := by
  intro hw h he; obtain rfl := Option.some.inj he; clear he
  have h0 := g.code_lt; have h1 := rs.code_lt; have h2 := rs.dist_lt; have h3 := xb.code_lt; have h4 := xb.dist_lt; have h5 := imm.field_lt
  simp [Instr.wfPlain] at hw
  refine ⟨?_, trip_of ?_⟩
  · simp [Raw.Fits, *] <;> omega
  · simp [*, decodeRaw, decMemory, immS_field imm, immU_field imm, immF_lit imm]

theorem Laws.Trip.stB (g : Guard) (rs xb : SSrc) (imm : Imm) : Statement (.stB g rs xb imm) := by
  intro hw h he; obtain rfl := Option.some.inj he; clear he
  have h0 := g.code_lt; have h1 := rs.code_lt; have h2 := rs.dist_lt; have h3 := xb.code_lt; have h4 := xb.dist_lt; have h5 := imm.field_lt
  simp [Instr.wfPlain] at hw
  refine ⟨?_, trip_of ?_⟩
  · simp [Raw.Fits, *] <;> omega
  · simp [*, decodeRaw, decMemory, immS_field imm, immU_field imm, immF_lit imm]

theorem Laws.Trip.ldv (g : Guard) (vd : VDst) (xb : SSrc) (imm : Imm) : Statement (.ldv g vd xb imm) := by
  intro hw h he; obtain rfl := Option.some.inj he; clear he
  have h0 := g.code_lt; have h1 := vd.code_lt; have h2 := xb.code_lt; have h3 := xb.dist_lt; have h4 := imm.field_lt
  simp [Instr.wfPlain] at hw
  refine ⟨?_, trip_of ?_⟩
  · simp [Raw.Fits, *] <;> omega
  · simp [*, decodeRaw, decMemory, immS_field imm, immU_field imm, immF_lit imm]

theorem Laws.Trip.stv (g : Guard) (vs : VSrc) (xb : SSrc) (imm : Imm) : Statement (.stv g vs xb imm) := by
  intro hw h he; obtain rfl := Option.some.inj he; clear he
  have h0 := g.code_lt; have h1 := vs.code_lt; have h2 := vs.dist_lt; have h3 := xb.code_lt; have h4 := xb.dist_lt; have h5 := imm.field_lt
  simp [Instr.wfPlain] at hw
  refine ⟨?_, trip_of ?_⟩
  · simp [Raw.Fits, *] <;> omega
  · simp [*, decodeRaw, decMemory, immS_field imm, immU_field imm, immF_lit imm]

theorem Laws.Trip.ldg (g : Guard) (vd : VDst) (xb : SSrc) (vi : VSrc) : Statement (.ldg g vd xb vi) := by
  intro hw h he; obtain rfl := Option.some.inj he; clear he
  have h0 := g.code_lt; have h1 := vd.code_lt; have h2 := xb.code_lt; have h3 := xb.dist_lt; have h4 := vi.code_lt; have h5 := vi.dist_lt
  refine ⟨?_, trip_of ?_⟩
  · simp [Raw.Fits, *]
  · simp [*, decodeRaw, decMemory]

theorem Laws.Trip.sts (g : Guard) (vs : VSrc) (xb : SSrc) (vi : VSrc) : Statement (.sts g vs xb vi) := by
  intro hw h he; obtain rfl := Option.some.inj he; clear he
  have h0 := g.code_lt; have h1 := vs.code_lt; have h2 := vs.dist_lt; have h3 := xb.code_lt; have h4 := xb.dist_lt; have h5 := vi.code_lt; have h6 := vi.dist_lt
  have f0 : vs.code % 64 = vs.code := by omega
  have f1 : (vs.code + 64 * vs.dist) / 64 = vs.dist := by omega
  have f2 : vs.code + 64 * vs.dist < 512 := by omega
  refine ⟨?_, trip_of ?_⟩
  · simp [Raw.Fits, *] <;> omega
  · simp [*, decodeRaw, decMemory]

theorem Laws.Trip.ldl (g : Guard) (vd : VDst) (xo : SSrc) (off : BitVec 11) : Statement (.ldl g vd xo off) := by
  intro hw h he; obtain rfl := Option.some.inj he; clear he
  have h0 := g.code_lt; have h1 := vd.code_lt; have h2 := xo.code_lt; have h3 := xo.dist_lt; have h4 := off.isLt
  refine ⟨?_, trip_of ?_⟩
  · simp [Raw.Fits, *] <;> omega
  · simp [*, decodeRaw, decMemory]

theorem Laws.Trip.stl (g : Guard) (vs : VSrc) (xo : SSrc) (off : BitVec 11) : Statement (.stl g vs xo off) := by
  intro hw h he; obtain rfl := Option.some.inj he; clear he
  have h0 := g.code_lt; have h1 := vs.code_lt; have h2 := vs.dist_lt; have h3 := xo.code_lt; have h4 := xo.dist_lt; have h5 := off.isLt
  refine ⟨?_, trip_of ?_⟩
  · simp [Raw.Fits, *] <;> omega
  · simp [*, decodeRaw, decMemory]

theorem Laws.Trip.pref (g : Guard) (xb : SSrc) (imm : Imm) : Statement (.pref g xb imm) := by
  intro hw h he; obtain rfl := Option.some.inj he; clear he
  have h0 := g.code_lt; have h1 := xb.code_lt; have h2 := xb.dist_lt; have h3 := imm.field_lt
  simp [Instr.wfPlain] at hw
  refine ⟨?_, trip_of ?_⟩
  · simp [Raw.Fits, *] <;> omega
  · simp [*, decodeRaw, decMemory, immS_field imm, immU_field imm, immF_lit imm]

theorem Laws.Trip.lde (g : Guard) (rd : SDst) (xb : SSrc) (imm : Imm) : Statement (.lde g rd xb imm) := by
  intro hw h he; obtain rfl := Option.some.inj he; clear he
  have h0 := g.code_lt; have h1 := rd.code_lt; have h2 := xb.code_lt; have h3 := xb.dist_lt; have h4 := imm.field_lt
  simp [Instr.wfPlain] at hw
  refine ⟨?_, trip_of ?_⟩
  · simp [Raw.Fits, *] <;> omega
  · simp [*, decodeRaw, decFullEmpty, immS_field imm, immU_field imm, immF_lit imm]

theorem Laws.Trip.stf (g : Guard) (rs xb : SSrc) (imm : Imm) : Statement (.stf g rs xb imm) := by
  intro hw h he; obtain rfl := Option.some.inj he; clear he
  have h0 := g.code_lt; have h1 := rs.code_lt; have h2 := rs.dist_lt; have h3 := xb.code_lt; have h4 := xb.dist_lt; have h5 := imm.field_lt
  simp [Instr.wfPlain] at hw
  refine ⟨?_, trip_of ?_⟩
  · simp [Raw.Fits, *] <;> omega
  · simp [*, decodeRaw, decFullEmpty, immS_field imm, immU_field imm, immF_lit imm]

theorem Laws.Trip.ldf (g : Guard) (rd : SDst) (xb : SSrc) (imm : Imm) : Statement (.ldf g rd xb imm) := by
  intro hw h he; obtain rfl := Option.some.inj he; clear he
  have h0 := g.code_lt; have h1 := rd.code_lt; have h2 := xb.code_lt; have h3 := xb.dist_lt; have h4 := imm.field_lt
  simp [Instr.wfPlain] at hw
  refine ⟨?_, trip_of ?_⟩
  · simp [Raw.Fits, *] <;> omega
  · simp [*, decodeRaw, decFullEmpty, immS_field imm, immU_field imm, immF_lit imm]

theorem Laws.Trip.fempty (g : Guard) (xb : SSrc) (imm : Imm) : Statement (.fempty g xb imm) := by
  intro hw h he; obtain rfl := Option.some.inj he; clear he
  have h0 := g.code_lt; have h1 := xb.code_lt; have h2 := xb.dist_lt; have h3 := imm.field_lt
  simp [Instr.wfPlain] at hw
  refine ⟨?_, trip_of ?_⟩
  · simp [Raw.Fits, *] <;> omega
  · simp [*, decodeRaw, decFullEmpty, immS_field imm, immU_field imm, immF_lit imm]

theorem Laws.Trip.futr (g : Guard) (rd : SDst) (xb : SSrc) (imm : Imm) : Statement (.futr g rd xb imm) := by
  intro hw h he; obtain rfl := Option.some.inj he; clear he
  have h0 := g.code_lt; have h1 := rd.code_lt; have h2 := xb.code_lt; have h3 := xb.dist_lt; have h4 := imm.field_lt
  simp [Instr.wfPlain] at hw
  refine ⟨?_, trip_of ?_⟩
  · simp [Raw.Fits, *] <;> omega
  · simp [*, decodeRaw, decFullEmpty, immS_field imm, immU_field imm, immF_lit imm]

theorem Laws.Trip.futw (g : Guard) (rd : SDst) (rs xb : SSrc) (imm : Imm) : Statement (.futw g rd rs xb imm) := by
  intro hw h he; obtain rfl := Option.some.inj he; clear he
  have h0 := g.code_lt; have h1 := rd.code_lt; have h2 := rs.code_lt; have h3 := rs.dist_lt; have h4 := xb.code_lt; have h5 := xb.dist_lt; have h6 := imm.field_lt
  simp [Instr.wfPlain] at hw
  refine ⟨?_, trip_of ?_⟩
  · simp [Raw.Fits, *] <;> omega
  · simp [*, decodeRaw, decFullEmpty, immS_field imm, immU_field imm, immF_lit imm]

theorem Laws.Trip.aadd (g : Guard) (w : Bool) (rd : SDst) (xb rs : SSrc) : Statement (.aadd g w rd xb rs) := by
  intro hw h he; obtain rfl := Option.some.inj he; clear he
  have h0 := g.code_lt; have h1 := rd.code_lt; have h2 := xb.code_lt; have h3 := xb.dist_lt; have h4 := rs.code_lt; have h5 := rs.dist_lt
  refine ⟨?_, trip_of ?_⟩
  · cases w <;> simp [Raw.Fits, *]
  · cases w <;> simp [*, decodeRaw, decAtomic]

theorem Laws.Trip.amin (g : Guard) (w : Bool) (rd : SDst) (xb rs : SSrc) : Statement (.amin g w rd xb rs) := by
  intro hw h he; obtain rfl := Option.some.inj he; clear he
  have h0 := g.code_lt; have h1 := rd.code_lt; have h2 := xb.code_lt; have h3 := xb.dist_lt; have h4 := rs.code_lt; have h5 := rs.dist_lt
  refine ⟨?_, trip_of ?_⟩
  · cases w <;> simp [Raw.Fits, *]
  · cases w <;> simp [*, decodeRaw, decAtomic]

theorem Laws.Trip.amax (g : Guard) (w : Bool) (rd : SDst) (xb rs : SSrc) : Statement (.amax g w rd xb rs) := by
  intro hw h he; obtain rfl := Option.some.inj he; clear he
  have h0 := g.code_lt; have h1 := rd.code_lt; have h2 := xb.code_lt; have h3 := xb.dist_lt; have h4 := rs.code_lt; have h5 := rs.dist_lt
  refine ⟨?_, trip_of ?_⟩
  · cases w <;> simp [Raw.Fits, *]
  · cases w <;> simp [*, decodeRaw, decAtomic]

theorem Laws.Trip.axch (g : Guard) (w : Bool) (rd : SDst) (xb rs : SSrc) : Statement (.axch g w rd xb rs) := by
  intro hw h he; obtain rfl := Option.some.inj he; clear he
  have h0 := g.code_lt; have h1 := rd.code_lt; have h2 := xb.code_lt; have h3 := xb.dist_lt; have h4 := rs.code_lt; have h5 := rs.dist_lt
  refine ⟨?_, trip_of ?_⟩
  · cases w <;> simp [Raw.Fits, *]
  · cases w <;> simp [*, decodeRaw, decAtomic]

theorem Laws.Trip.acas (g : Guard) (w : Bool) (rd : SDst) (xb rs rc : SSrc) : Statement (.acas g w rd xb rs rc) := by
  intro hw h he; obtain rfl := Option.some.inj he; clear he
  have h0 := g.code_lt; have h1 := rd.code_lt; have h2 := xb.code_lt; have h3 := xb.dist_lt; have h4 := rs.code_lt; have h5 := rs.dist_lt; have h6 := rc.code_lt; have h7 := rc.dist_lt
  have f0 : rc.code % 64 = rc.code := by omega
  have f1 : (rc.code + 64 * rc.dist) / 64 = rc.dist := by omega
  have f2 : rc.code + 64 * rc.dist < 512 := by omega
  refine ⟨?_, trip_of ?_⟩
  · cases w <;> simp [Raw.Fits, *] <;> omega
  · cases w <;> simp [*, decodeRaw, decAtomic]

theorem Laws.Trip.aand (g : Guard) (w : Bool) (rd : SDst) (xb rs : SSrc) : Statement (.aand g w rd xb rs) := by
  intro hw h he; obtain rfl := Option.some.inj he; clear he
  have h0 := g.code_lt; have h1 := rd.code_lt; have h2 := xb.code_lt; have h3 := xb.dist_lt; have h4 := rs.code_lt; have h5 := rs.dist_lt
  refine ⟨?_, trip_of ?_⟩
  · cases w <;> simp [Raw.Fits, *]
  · cases w <;> simp [*, decodeRaw, decAtomic]

theorem Laws.Trip.aor (g : Guard) (w : Bool) (rd : SDst) (xb rs : SSrc) : Statement (.aor g w rd xb rs) := by
  intro hw h he; obtain rfl := Option.some.inj he; clear he
  have h0 := g.code_lt; have h1 := rd.code_lt; have h2 := xb.code_lt; have h3 := xb.dist_lt; have h4 := rs.code_lt; have h5 := rs.dist_lt
  refine ⟨?_, trip_of ?_⟩
  · cases w <;> simp [Raw.Fits, *]
  · cases w <;> simp [*, decodeRaw, decAtomic]

theorem Laws.Trip.acqGroup (g : Guard) (rd : SDst) (xs : SSrc) : Statement (.acqGroup g rd xs) := by
  intro hw h he; obtain rfl := Option.some.inj he; clear he
  have h0 := g.code_lt; have h1 := rd.code_lt; have h2 := xs.code_lt; have h3 := xs.dist_lt
  refine ⟨?_, trip_of ?_⟩
  · simp [Raw.Fits, *]
  · simp [*, decodeRaw, decOrder]

theorem Laws.Trip.acqDevice (g : Guard) (rd : SDst) (xs : SSrc) : Statement (.acqDevice g rd xs) := by
  intro hw h he; obtain rfl := Option.some.inj he; clear he
  have h0 := g.code_lt; have h1 := rd.code_lt; have h2 := xs.code_lt; have h3 := xs.dist_lt
  refine ⟨?_, trip_of ?_⟩
  · simp [Raw.Fits, *]
  · simp [*, decodeRaw, decOrder]

theorem Laws.Trip.acqSystem (g : Guard) (rd : SDst) (xs : SSrc) : Statement (.acqSystem g rd xs) := by
  intro hw h he; obtain rfl := Option.some.inj he; clear he
  have h0 := g.code_lt; have h1 := rd.code_lt; have h2 := xs.code_lt; have h3 := xs.dist_lt
  refine ⟨?_, trip_of ?_⟩
  · simp [Raw.Fits, *]
  · simp [*, decodeRaw, decOrder]

theorem Laws.Trip.relGroup (g : Guard) (xs rv : SSrc) : Statement (.relGroup g xs rv) := by
  intro hw h he; obtain rfl := Option.some.inj he; clear he
  have h0 := g.code_lt; have h1 := xs.code_lt; have h2 := xs.dist_lt; have h3 := rv.code_lt; have h4 := rv.dist_lt
  refine ⟨?_, trip_of ?_⟩
  · simp [Raw.Fits, *]
  · simp [*, decodeRaw, decOrder]

theorem Laws.Trip.relDevice (g : Guard) (xs rv : SSrc) : Statement (.relDevice g xs rv) := by
  intro hw h he; obtain rfl := Option.some.inj he; clear he
  have h0 := g.code_lt; have h1 := xs.code_lt; have h2 := xs.dist_lt; have h3 := rv.code_lt; have h4 := rv.dist_lt
  refine ⟨?_, trip_of ?_⟩
  · simp [Raw.Fits, *]
  · simp [*, decodeRaw, decOrder]

theorem Laws.Trip.relSystem (g : Guard) (xs rv : SSrc) : Statement (.relSystem g xs rv) := by
  intro hw h he; obtain rfl := Option.some.inj he; clear he
  have h0 := g.code_lt; have h1 := xs.code_lt; have h2 := xs.dist_lt; have h3 := rv.code_lt; have h4 := rv.dist_lt
  refine ⟨?_, trip_of ?_⟩
  · simp [Raw.Fits, *]
  · simp [*, decodeRaw, decOrder]

theorem Laws.Trip.fenceGroup (g : Guard) : Statement (.fenceGroup g) := by
  intro hw h he; obtain rfl := Option.some.inj he; clear he
  have h0 := g.code_lt
  refine ⟨?_, trip_of ?_⟩
  · simp [Raw.Fits, *]
  · simp [*, decodeRaw, decOrder]

theorem Laws.Trip.fenceDevice (g : Guard) : Statement (.fenceDevice g) := by
  intro hw h he; obtain rfl := Option.some.inj he; clear he
  have h0 := g.code_lt
  refine ⟨?_, trip_of ?_⟩
  · simp [Raw.Fits, *]
  · simp [*, decodeRaw, decOrder]

theorem Laws.Trip.fenceSystem (g : Guard) : Statement (.fenceSystem g) := by
  intro hw h he; obtain rfl := Option.some.inj he; clear he
  have h0 := g.code_lt
  refine ⟨?_, trip_of ?_⟩
  · simp [Raw.Fits, *]
  · simp [*, decodeRaw, decOrder]

theorem Laws.Trip.cpw (g : Guard) (k : Fin 8) (a b : SSrc) : Statement (.cpw g k a b) := by
  intro hw h he; obtain rfl := Option.some.inj he; clear he
  have h0 := g.code_lt; have h1 := k.isLt; have h2 := a.code_lt; have h3 := a.dist_lt; have h4 := b.code_lt; have h5 := b.dist_lt
  simp [Instr.wfPlain] at hw
  refine ⟨?_, trip_of ?_⟩
  · simp [Raw.Fits, *] <;> omega
  · simp [*, decodeRaw, decCopy, gdOf_val k]

theorem Laws.Trip.cpgo (g : Guard) (rd : SDst) : Statement (.cpgo g rd) := by
  intro hw h he; obtain rfl := Option.some.inj he; clear he
  have h0 := g.code_lt; have h1 := rd.code_lt
  refine ⟨?_, trip_of ?_⟩
  · simp [Raw.Fits, *]
  · simp [*, decodeRaw, decCopy]

theorem Laws.Trip.cpwany (g : Guard) (rd : SDst) (a : SSrc) : Statement (.cpwany g rd a) := by
  intro hw h he; obtain rfl := Option.some.inj he; clear he
  have h0 := g.code_lt; have h1 := rd.code_lt; have h2 := a.code_lt; have h3 := a.dist_lt
  refine ⟨?_, trip_of ?_⟩
  · simp [Raw.Fits, *]
  · simp [*, decodeRaw, decCopy]

theorem Laws.Trip.cpwall (g : Guard) (rd : SDst) (a : SSrc) : Statement (.cpwall g rd a) := by
  intro hw h he; obtain rfl := Option.some.inj he; clear he
  have h0 := g.code_lt; have h1 := rd.code_lt; have h2 := a.code_lt; have h3 := a.dist_lt
  refine ⟨?_, trip_of ?_⟩
  · simp [Raw.Fits, *]
  · simp [*, decodeRaw, decCopy]

theorem Laws.Trip.cpff (g : Guard) (rd : SDst) (a : SSrc) : Statement (.cpff g rd a) := by
  intro hw h he; obtain rfl := Option.some.inj he; clear he
  have h0 := g.code_lt; have h1 := rd.code_lt; have h2 := a.code_lt; have h3 := a.dist_lt
  refine ⟨?_, trip_of ?_⟩
  · simp [Raw.Fits, *]
  · simp [*, decodeRaw, decCopy]

theorem Laws.Trip.cpclr (g : Guard) (a : SSrc) : Statement (.cpclr g a) := by
  intro hw h he; obtain rfl := Option.some.inj he; clear he
  have h0 := g.code_lt; have h1 := a.code_lt; have h2 := a.dist_lt
  refine ⟨?_, trip_of ?_⟩
  · simp [Raw.Fits, *]
  · simp [*, decodeRaw, decCopy]

theorem Laws.Trip.cpclrF (g : Guard) (a : SSrc) : Statement (.cpclrF g a) := by
  intro hw h he; obtain rfl := Option.some.inj he; clear he
  have h0 := g.code_lt; have h1 := a.code_lt; have h2 := a.dist_lt
  refine ⟨?_, trip_of ?_⟩
  · simp [Raw.Fits, *]
  · simp [*, decodeRaw, decCopy]

theorem Laws.Trip.cpchk (g : Guard) (rd : SDst) (a : SSrc) : Statement (.cpchk g rd a) := by
  intro hw h he; obtain rfl := Option.some.inj he; clear he
  have h0 := g.code_lt; have h1 := rd.code_lt; have h2 := a.code_lt; have h3 := a.dist_lt
  refine ⟨?_, trip_of ?_⟩
  · simp [Raw.Fits, *]
  · simp [*, decodeRaw, decCopy]

theorem Laws.Trip.spawn (g : Guard) (gd : Fin 8) (xpc xc : SSrc) (b : Fin 32) : Statement (.spawn g gd xpc xc b) := by
  intro hw h he; obtain rfl := Option.some.inj he; clear he
  have h0 := g.code_lt; have h1 := gd.isLt; have h2 := xpc.code_lt; have h3 := xpc.dist_lt; have h4 := xc.code_lt; have h5 := xc.dist_lt; have h6 := b.isLt
  simp [Instr.wfPlain] at hw
  refine ⟨?_, trip_of ?_⟩
  · simp [Raw.Fits, *] <;> omega
  · simp [*, decodeRaw, decTasks, gdOf_val gd]

theorem Laws.Trip.quit (g : Guard) (xs : SSrc) : Statement (.quit g xs) := by
  intro hw h he; obtain rfl := Option.some.inj he; clear he
  have h0 := g.code_lt; have h1 := xs.code_lt; have h2 := xs.dist_lt
  refine ⟨?_, trip_of ?_⟩
  · simp [Raw.Fits, *]
  · simp [*, decodeRaw, decTasks]

theorem Laws.Trip.reap (g : Guard) (rd : SDst) : Statement (.reap g rd) := by
  intro hw h he; obtain rfl := Option.some.inj he; clear he
  have h0 := g.code_lt; have h1 := rd.code_lt
  refine ⟨?_, trip_of ?_⟩
  · simp [Raw.Fits, *]
  · simp [*, decodeRaw, decTasks]

theorem Laws.Trip.waitw (g : Guard) : Statement (.waitw g) := by
  intro hw h he; obtain rfl := Option.some.inj he; clear he
  have h0 := g.code_lt
  refine ⟨?_, trip_of ?_⟩
  · simp [Raw.Fits, *]
  · simp [*, decodeRaw, decTasks]

theorem Laws.Trip.taskq (g : Guard) (gd : Fin 8) (xs : SSrc) (n : Fin 16) : Statement (.taskq g gd xs n) := by
  intro hw h he; obtain rfl := Option.some.inj he; clear he
  have h0 := g.code_lt; have h1 := gd.isLt; have h2 := xs.code_lt; have h3 := xs.dist_lt; have h4 := n.isLt
  simp [Instr.wfPlain] at hw
  refine ⟨?_, trip_of ?_⟩
  · simp [Raw.Fits, *] <;> omega
  · simp [*, decodeRaw, decTasks, gdOf_val gd]

theorem Laws.Trip.taskqDeque (g : Guard) (gd : Fin 8) (xs : SSrc) : Statement (.taskqDeque g gd xs) := by
  intro hw h he; obtain rfl := Option.some.inj he; clear he
  have h0 := g.code_lt; have h1 := gd.isLt; have h2 := xs.code_lt; have h3 := xs.dist_lt
  have f0 : finO 16 16 = none := by simp [finO, bvO]
  simp [Instr.wfPlain] at hw
  refine ⟨?_, trip_of ?_⟩
  · simp [Raw.Fits, *] <;> omega
  · simp [*, decodeRaw, decTasks, gdOf_val gd]

theorem Laws.Trip.take (g : Guard) (rd : SDst) (gd : Fin 8) : Statement (.take g rd gd) := by
  intro hw h he; obtain rfl := Option.some.inj he; clear he
  have h0 := g.code_lt; have h1 := rd.code_lt; have h2 := gd.isLt
  simp [Instr.wfPlain] at hw
  refine ⟨?_, trip_of ?_⟩
  · simp [Raw.Fits, *] <;> omega
  · simp [*, decodeRaw, decTasks, gdOf_val gd]

theorem Laws.Trip.steal (g : Guard) (rd : SDst) (gd : Fin 8) (xc : SSrc) : Statement (.steal g rd gd xc) := by
  intro hw h he; obtain rfl := Option.some.inj he; clear he
  have h0 := g.code_lt; have h1 := rd.code_lt; have h2 := gd.isLt; have h3 := xc.code_lt; have h4 := xc.dist_lt
  simp [Instr.wfPlain] at hw
  refine ⟨?_, trip_of ?_⟩
  · simp [Raw.Fits, *] <;> omega
  · simp [*, decodeRaw, decTasks, gdOf_val gd]

theorem Laws.Trip.qcfgHwqueueType (g : Guard) (xa xb : SSrc) : Statement (.qcfgHwqueueType g xa xb) := by
  intro hw h he; obtain rfl := Option.some.inj he; clear he
  have h0 := g.code_lt; have h1 := xa.code_lt; have h2 := xa.dist_lt; have h3 := xb.code_lt; have h4 := xb.dist_lt
  refine ⟨?_, trip_of ?_⟩
  · simp [Raw.Fits, *]
  · simp [*, decodeRaw, decTasks]

theorem Laws.Trip.qcfgPriority (g : Guard) (xa xb : SSrc) : Statement (.qcfgPriority g xa xb) := by
  intro hw h he; obtain rfl := Option.some.inj he; clear he
  have h0 := g.code_lt; have h1 := xa.code_lt; have h2 := xa.dist_lt; have h3 := xb.code_lt; have h4 := xb.dist_lt
  refine ⟨?_, trip_of ?_⟩
  · simp [Raw.Fits, *]
  · simp [*, decodeRaw, decTasks]

theorem Laws.Trip.qcfgOwner (g : Guard) (xa xb : SSrc) : Statement (.qcfgOwner g xa xb) := by
  intro hw h he; obtain rfl := Option.some.inj he; clear he
  have h0 := g.code_lt; have h1 := xa.code_lt; have h2 := xa.dist_lt; have h3 := xb.code_lt; have h4 := xb.dist_lt
  refine ⟨?_, trip_of ?_⟩
  · simp [Raw.Fits, *]
  · simp [*, decodeRaw, decTasks]

theorem Laws.Trip.qcfgRing (g : Guard) (xa xb : SSrc) : Statement (.qcfgRing g xa xb) := by
  intro hw h he; obtain rfl := Option.some.inj he; clear he
  have h0 := g.code_lt; have h1 := xa.code_lt; have h2 := xa.dist_lt; have h3 := xb.code_lt; have h4 := xb.dist_lt
  refine ⟨?_, trip_of ?_⟩
  · simp [Raw.Fits, *]
  · simp [*, decodeRaw, decTasks]

theorem Laws.Trip.qcfgArm (g : Guard) (xa xb : SSrc) : Statement (.qcfgArm g xa xb) := by
  intro hw h he; obtain rfl := Option.some.inj he; clear he
  have h0 := g.code_lt; have h1 := xa.code_lt; have h2 := xa.dist_lt; have h3 := xb.code_lt; have h4 := xb.dist_lt
  refine ⟨?_, trip_of ?_⟩
  · simp [Raw.Fits, *]
  · simp [*, decodeRaw, decTasks]

theorem Laws.Trip.qcfgCounter (g : Guard) (xa xb : SSrc) : Statement (.qcfgCounter g xa xb) := by
  intro hw h he; obtain rfl := Option.some.inj he; clear he
  have h0 := g.code_lt; have h1 := xa.code_lt; have h2 := xa.dist_lt; have h3 := xb.code_lt; have h4 := xb.dist_lt
  refine ⟨?_, trip_of ?_⟩
  · simp [Raw.Fits, *]
  · simp [*, decodeRaw, decTasks]

theorem Laws.Trip.qstatHwqueue (g : Guard) (rd : SDst) (xa : SSrc) : Statement (.qstatHwqueue g rd xa) := by
  intro hw h he; obtain rfl := Option.some.inj he; clear he
  have h0 := g.code_lt; have h1 := rd.code_lt; have h2 := xa.code_lt; have h3 := xa.dist_lt
  refine ⟨?_, trip_of ?_⟩
  · simp [Raw.Fits, *]
  · simp [*, decodeRaw, decTasks]

theorem Laws.Trip.qstatTaskqueue (g : Guard) (rd : SDst) (xa : SSrc) : Statement (.qstatTaskqueue g rd xa) := by
  intro hw h he; obtain rfl := Option.some.inj he; clear he
  have h0 := g.code_lt; have h1 := rd.code_lt; have h2 := xa.code_lt; have h3 := xa.dist_lt
  refine ⟨?_, trip_of ?_⟩
  · simp [Raw.Fits, *]
  · simp [*, decodeRaw, decTasks]

theorem Laws.Trip.qstatCounter (g : Guard) (rd : SDst) (xa : SSrc) : Statement (.qstatCounter g rd xa) := by
  intro hw h he; obtain rfl := Option.some.inj he; clear he
  have h0 := g.code_lt; have h1 := rd.code_lt; have h2 := xa.code_lt; have h3 := xa.dist_lt
  refine ⟨?_, trip_of ?_⟩
  · simp [Raw.Fits, *]
  · simp [*, decodeRaw, decTasks]

theorem Laws.Trip.qstatDeque (g : Guard) (rd : SDst) (xa : SSrc) : Statement (.qstatDeque g rd xa) := by
  intro hw h he; obtain rfl := Option.some.inj he; clear he
  have h0 := g.code_lt; have h1 := rd.code_lt; have h2 := xa.code_lt; have h3 := xa.dist_lt
  refine ⟨?_, trip_of ?_⟩
  · simp [Raw.Fits, *]
  · simp [*, decodeRaw, decTasks]

theorem Laws.Trip.qstatExitqueue (g : Guard) (rd : SDst) (xa : SSrc) : Statement (.qstatExitqueue g rd xa) := by
  intro hw h he; obtain rfl := Option.some.inj he; clear he
  have h0 := g.code_lt; have h1 := rd.code_lt; have h2 := xa.code_lt; have h3 := xa.dist_lt
  refine ⟨?_, trip_of ?_⟩
  · simp [Raw.Fits, *]
  · simp [*, decodeRaw, decTasks]

theorem Laws.Trip.qstatMailbox (g : Guard) (rd : SDst) (xa : SSrc) : Statement (.qstatMailbox g rd xa) := by
  intro hw h he; obtain rfl := Option.some.inj he; clear he
  have h0 := g.code_lt; have h1 := rd.code_lt; have h2 := xa.code_lt; have h3 := xa.dist_lt
  refine ⟨?_, trip_of ?_⟩
  · simp [Raw.Fits, *]
  · simp [*, decodeRaw, decTasks]

theorem Laws.Trip.qstatPoisonlog (g : Guard) (rd : SDst) (xa : SSrc) : Statement (.qstatPoisonlog g rd xa) := by
  intro hw h he; obtain rfl := Option.some.inj he; clear he
  have h0 := g.code_lt; have h1 := rd.code_lt; have h2 := xa.code_lt; have h3 := xa.dist_lt
  refine ⟨?_, trip_of ?_⟩
  · simp [Raw.Fits, *]
  · simp [*, decodeRaw, decTasks]

theorem Laws.Trip.qstatDrops (g : Guard) (rd : SDst) (xa : SSrc) : Statement (.qstatDrops g rd xa) := by
  intro hw h he; obtain rfl := Option.some.inj he; clear he
  have h0 := g.code_lt; have h1 := rd.code_lt; have h2 := xa.code_lt; have h3 := xa.dist_lt
  refine ⟨?_, trip_of ?_⟩
  · simp [Raw.Fits, *]
  · simp [*, decodeRaw, decTasks]

theorem Laws.Trip.qrst (g : Guard) (xa : SSrc) : Statement (.qrst g xa) := by
  intro hw h he; obtain rfl := Option.some.inj he; clear he
  have h0 := g.code_lt; have h1 := xa.code_lt; have h2 := xa.dist_lt
  refine ⟨?_, trip_of ?_⟩
  · simp [Raw.Fits, *]
  · simp [*, decodeRaw, decTasks]

theorem Laws.Trip.send (g : Guard) (xd xa xb : SSrc) : Statement (.send g xd xa xb) := by
  intro hw h he; obtain rfl := Option.some.inj he; clear he
  have h0 := g.code_lt; have h1 := xd.code_lt; have h2 := xd.dist_lt; have h3 := xa.code_lt; have h4 := xa.dist_lt; have h5 := xb.code_lt; have h6 := xb.dist_lt
  have f0 : xb.code % 64 = xb.code := by omega
  have f1 : (xb.code + 64 * xb.dist) / 64 = xb.dist := by omega
  have f2 : xb.code + 64 * xb.dist < 512 := by omega
  refine ⟨?_, trip_of ?_⟩
  · simp [Raw.Fits, *] <;> omega
  · simp [*, decodeRaw, decMessages]

theorem Laws.Trip.mrecv (g : Guard) (rd : Fin 32) (mb : Byte) : Statement (.mrecv g rd mb) := by
  intro hw h he; obtain rfl := Option.some.inj he; clear he
  have h0 := g.code_lt; have h1 := rd.isLt; have h2 := mb.isLt
  simp [Instr.wfPlain] at hw
  refine ⟨?_, trip_of ?_⟩
  · simp [Raw.Fits, *] <;> omega
  · simp [*, decodeRaw, decMessages]

theorem Laws.Trip.mrecvR (g : Guard) (rd : SDst) (k : Fin 4) : Statement (.mrecvR g rd k) := by
  intro hw h he; obtain rfl := Option.some.inj he; clear he
  have h0 := g.code_lt; have h1 := rd.code_lt; have h2 := k.isLt
  have f0 : bvO 8 (256 + k.val) = none := by simp [finO, bvO]
  refine ⟨?_, trip_of ?_⟩
  · simp [Raw.Fits, *] <;> omega
  · simp [*, decodeRaw, decMessages]

theorem Laws.Trip.rcall (g : Guard) (rd : SDst) (xd xa : SSrc) (k : Fin 4) : Statement (.rcall g rd xd xa k) := by
  intro hw h he; obtain rfl := Option.some.inj he; clear he
  have h0 := g.code_lt; have h1 := rd.code_lt; have h2 := xd.code_lt; have h3 := xd.dist_lt; have h4 := xa.code_lt; have h5 := xa.dist_lt; have h6 := k.isLt
  refine ⟨?_, trip_of ?_⟩
  · simp [Raw.Fits, *] <;> omega
  · simp [*, decodeRaw, decMessages]

theorem Laws.Trip.rcallN (g : Guard) (xd xa : SSrc) (k : Fin 4) : Statement (.rcallN g xd xa k) := by
  intro hw h he; obtain rfl := Option.some.inj he; clear he
  have h0 := g.code_lt; have h1 := xd.code_lt; have h2 := xd.dist_lt; have h3 := xa.code_lt; have h4 := xa.dist_lt; have h5 := k.isLt
  have f0 : finO 4 (4 + k.val) = none := by simp [finO, bvO]
  refine ⟨?_, trip_of ?_⟩
  · simp [Raw.Fits, *] <;> omega
  · simp [*, decodeRaw, decMessages]

theorem Laws.Trip.rreply (g : Guard) (xt xv : SSrc) : Statement (.rreply g xt xv) := by
  intro hw h he; obtain rfl := Option.some.inj he; clear he
  have h0 := g.code_lt; have h1 := xt.code_lt; have h2 := xt.dist_lt; have h3 := xv.code_lt; have h4 := xv.dist_lt
  refine ⟨?_, trip_of ?_⟩
  · simp [Raw.Fits, *]
  · simp [*, decodeRaw, decMessages]

theorem Laws.Trip.bsdefJ (g : Guard) (xs xc : SSrc) : Statement (.bsdefJ g xs xc) := by
  intro hw h he; obtain rfl := Option.some.inj he; clear he
  have h0 := g.code_lt; have h1 := xs.code_lt; have h2 := xs.dist_lt; have h3 := xc.code_lt; have h4 := xc.dist_lt
  refine ⟨?_, trip_of ?_⟩
  · simp [Raw.Fits, *]
  · simp [*, decodeRaw, decTables]

theorem Laws.Trip.bsdefL (g : Guard) (xs : SSrc) : Statement (.bsdefL g xs) := by
  intro hw h he; obtain rfl := Option.some.inj he; clear he
  have h0 := g.code_lt; have h1 := xs.code_lt; have h2 := xs.dist_lt
  refine ⟨?_, trip_of ?_⟩
  · simp [Raw.Fits, *]
  · simp [*, decodeRaw, decTables]

theorem Laws.Trip.barv (g : Guard) (rd : SDst) (k : Fin 4) : Statement (.barv g rd k) := by
  intro hw h he; obtain rfl := Option.some.inj he; clear he
  have h0 := g.code_lt; have h1 := rd.code_lt; have h2 := k.isLt
  refine ⟨?_, trip_of ?_⟩
  · simp [Raw.Fits, *] <;> omega
  · simp [*, decodeRaw, decTables]

theorem Laws.Trip.bwait (g : Guard) (xp : SSrc) (k : Fin 4) : Statement (.bwait g xp k) := by
  intro hw h he; obtain rfl := Option.some.inj he; clear he
  have h0 := g.code_lt; have h1 := xp.code_lt; have h2 := xp.dist_lt; have h3 := k.isLt
  refine ⟨?_, trip_of ?_⟩
  · simp [Raw.Fits, *] <;> omega
  · simp [*, decodeRaw, decTables]

theorem Laws.Trip.barw (g : Guard) (rd : SDst) (k : Fin 4) : Statement (.barw g rd k) := by
  intro hw h he; obtain rfl := Option.some.inj he; clear he
  have h0 := g.code_lt; have h1 := rd.code_lt; have h2 := k.isLt
  refine ⟨?_, trip_of ?_⟩
  · simp [Raw.Fits, *] <;> omega
  · simp [*, decodeRaw, decTables]

theorem Laws.Trip.rbind (g : Guard) (rd : SDst) (xb xl xs : SSrc) : Statement (.rbind g rd xb xl xs) := by
  intro hw h he; obtain rfl := Option.some.inj he; clear he
  have h0 := g.code_lt; have h1 := rd.code_lt; have h2 := xb.code_lt; have h3 := xb.dist_lt; have h4 := xl.code_lt; have h5 := xl.dist_lt; have h6 := xs.code_lt; have h7 := xs.dist_lt
  have f0 : xs.code % 64 = xs.code := by omega
  have f1 : (xs.code + 64 * xs.dist) / 64 = xs.dist := by omega
  have f2 : xs.code + 64 * xs.dist < 512 := by omega
  refine ⟨?_, trip_of ?_⟩
  · simp [Raw.Fits, *] <;> omega
  · simp [*, decodeRaw, decTables]

theorem Laws.Trip.runbnd (g : Guard) (xi : SSrc) : Statement (.runbnd g xi) := by
  intro hw h he; obtain rfl := Option.some.inj he; clear he
  have h0 := g.code_lt; have h1 := xi.code_lt; have h2 := xi.dist_lt
  refine ⟨?_, trip_of ?_⟩
  · simp [Raw.Fits, *]
  · simp [*, decodeRaw, decTables]

theorem Laws.Trip.slotwA (g : Guard) (xp xv : SSrc) : Statement (.slotwA g xp xv) := by
  intro hw h he; obtain rfl := Option.some.inj he; clear he
  have h0 := g.code_lt; have h1 := xp.code_lt; have h2 := xp.dist_lt; have h3 := xv.code_lt; have h4 := xv.dist_lt
  refine ⟨?_, trip_of ?_⟩
  · simp [Raw.Fits, *]
  · simp [*, decodeRaw, decTables]

theorem Laws.Trip.slotwB (g : Guard) (xp xv : SSrc) : Statement (.slotwB g xp xv) := by
  intro hw h he; obtain rfl := Option.some.inj he; clear he
  have h0 := g.code_lt; have h1 := xp.code_lt; have h2 := xp.dist_lt; have h3 := xv.code_lt; have h4 := xv.dist_lt
  refine ⟨?_, trip_of ?_⟩
  · simp [Raw.Fits, *]
  · simp [*, decodeRaw, decTables]

theorem Laws.Trip.slotwE (g : Guard) (xp xv : SSrc) : Statement (.slotwE g xp xv) := by
  intro hw h he; obtain rfl := Option.some.inj he; clear he
  have h0 := g.code_lt; have h1 := xp.code_lt; have h2 := xp.dist_lt; have h3 := xv.code_lt; have h4 := xv.dist_lt
  refine ⟨?_, trip_of ?_⟩
  · simp [Raw.Fits, *]
  · simp [*, decodeRaw, decTables]

theorem Laws.Trip.slotwT (g : Guard) (xp xv : SSrc) : Statement (.slotwT g xp xv) := by
  intro hw h he; obtain rfl := Option.some.inj he; clear he
  have h0 := g.code_lt; have h1 := xp.code_lt; have h2 := xp.dist_lt; have h3 := xv.code_lt; have h4 := xv.dist_lt
  refine ⟨?_, trip_of ?_⟩
  · simp [Raw.Fits, *]
  · simp [*, decodeRaw, decTables]

theorem Laws.Trip.slotrdA (g : Guard) (rd : SDst) (xp : SSrc) : Statement (.slotrdA g rd xp) := by
  intro hw h he; obtain rfl := Option.some.inj he; clear he
  have h0 := g.code_lt; have h1 := rd.code_lt; have h2 := xp.code_lt; have h3 := xp.dist_lt
  refine ⟨?_, trip_of ?_⟩
  · simp [Raw.Fits, *]
  · simp [*, decodeRaw, decTables]

theorem Laws.Trip.slotrdB (g : Guard) (rd : SDst) (xp : SSrc) : Statement (.slotrdB g rd xp) := by
  intro hw h he; obtain rfl := Option.some.inj he; clear he
  have h0 := g.code_lt; have h1 := rd.code_lt; have h2 := xp.code_lt; have h3 := xp.dist_lt
  refine ⟨?_, trip_of ?_⟩
  · simp [Raw.Fits, *]
  · simp [*, decodeRaw, decTables]

theorem Laws.Trip.slotrdE (g : Guard) (rd : SDst) (xp : SSrc) : Statement (.slotrdE g rd xp) := by
  intro hw h he; obtain rfl := Option.some.inj he; clear he
  have h0 := g.code_lt; have h1 := rd.code_lt; have h2 := xp.code_lt; have h3 := xp.dist_lt
  refine ⟨?_, trip_of ?_⟩
  · simp [Raw.Fits, *]
  · simp [*, decodeRaw, decTables]

theorem Laws.Trip.slotrdT (g : Guard) (rd : SDst) (xp : SSrc) : Statement (.slotrdT g rd xp) := by
  intro hw h he; obtain rfl := Option.some.inj he; clear he
  have h0 := g.code_lt; have h1 := rd.code_lt; have h2 := xp.code_lt; have h3 := xp.dist_lt
  refine ⟨?_, trip_of ?_⟩
  · simp [Raw.Fits, *]
  · simp [*, decodeRaw, decTables]

theorem Laws.Trip.sframe (g : Guard) (gd : Fin 8) (rd : SDst) (xs : SSrc) : Statement (.sframe g gd rd xs) := by
  intro hw h he; obtain rfl := Option.some.inj he; clear he
  have h0 := g.code_lt; have h1 := gd.isLt; have h2 := rd.code_lt; have h3 := xs.code_lt; have h4 := xs.dist_lt
  simp [Instr.wfPlain] at hw
  refine ⟨?_, trip_of ?_⟩
  · simp [Raw.Fits, *] <;> omega
  · simp [*, decodeRaw, decStreams, gdOf_val gd]

theorem Laws.Trip.semit (g : Guard) (gd : Fin 8) (rd : SDst) (xs xv : SSrc) : Statement (.semit g gd rd xs xv) := by
  intro hw h he; obtain rfl := Option.some.inj he; clear he
  have h0 := g.code_lt; have h1 := gd.isLt; have h2 := rd.code_lt; have h3 := xs.code_lt; have h4 := xs.dist_lt; have h5 := xv.code_lt; have h6 := xv.dist_lt
  simp [Instr.wfPlain] at hw
  refine ⟨?_, trip_of ?_⟩
  · simp [Raw.Fits, *] <;> omega
  · simp [*, decodeRaw, decStreams, gdOf_val gd]

theorem Laws.Trip.scurGnc (g : Guard) (rd : SDst) (xs : SSrc) : Statement (.scurGnc g rd xs) := by
  intro hw h he; obtain rfl := Option.some.inj he; clear he
  have h0 := g.code_lt; have h1 := rd.code_lt; have h2 := xs.code_lt; have h3 := xs.dist_lt
  refine ⟨?_, trip_of ?_⟩
  · simp [Raw.Fits, *]
  · simp [*, decodeRaw, decStreams]

theorem Laws.Trip.scurPbc (g : Guard) (rd : SDst) (xs : SSrc) : Statement (.scurPbc g rd xs) := by
  intro hw h he; obtain rfl := Option.some.inj he; clear he
  have h0 := g.code_lt; have h1 := rd.code_lt; have h2 := xs.code_lt; have h3 := xs.dist_lt
  refine ⟨?_, trip_of ?_⟩
  · simp [Raw.Fits, *]
  · simp [*, decodeRaw, decStreams]

theorem Laws.Trip.scurTp (g : Guard) (rd : SDst) (xs : SSrc) : Statement (.scurTp g rd xs) := by
  intro hw h he; obtain rfl := Option.some.inj he; clear he
  have h0 := g.code_lt; have h1 := rd.code_lt; have h2 := xs.code_lt; have h3 := xs.dist_lt
  refine ⟨?_, trip_of ?_⟩
  · simp [Raw.Fits, *]
  · simp [*, decodeRaw, decStreams]

theorem Laws.Trip.scurNseq (g : Guard) (rd : SDst) (xs : SSrc) : Statement (.scurNseq g rd xs) := by
  intro hw h he; obtain rfl := Option.some.inj he; clear he
  have h0 := g.code_lt; have h1 := rd.code_lt; have h2 := xs.code_lt; have h3 := xs.dist_lt
  refine ⟨?_, trip_of ?_⟩
  · simp [Raw.Fits, *]
  · simp [*, decodeRaw, decStreams]

theorem Laws.Trip.scurSnapshots (g : Guard) (rd : SDst) (xs : SSrc) : Statement (.scurSnapshots g rd xs) := by
  intro hw h he; obtain rfl := Option.some.inj he; clear he
  have h0 := g.code_lt; have h1 := rd.code_lt; have h2 := xs.code_lt; have h3 := xs.dist_lt
  refine ⟨?_, trip_of ?_⟩
  · simp [Raw.Fits, *]
  · simp [*, decodeRaw, decStreams]

theorem Laws.Trip.scurLoss (g : Guard) (rd : SDst) (xs : SSrc) : Statement (.scurLoss g rd xs) := by
  intro hw h he; obtain rfl := Option.some.inj he; clear he
  have h0 := g.code_lt; have h1 := rd.code_lt; have h2 := xs.code_lt; have h3 := xs.dist_lt
  refine ⟨?_, trip_of ?_⟩
  · simp [Raw.Fits, *]
  · simp [*, decodeRaw, decStreams]

theorem Laws.Trip.scurDrops (g : Guard) (rd : SDst) (xs : SSrc) : Statement (.scurDrops g rd xs) := by
  intro hw h he; obtain rfl := Option.some.inj he; clear he
  have h0 := g.code_lt; have h1 := rd.code_lt; have h2 := xs.code_lt; have h3 := xs.dist_lt
  refine ⟨?_, trip_of ?_⟩
  · simp [Raw.Fits, *]
  · simp [*, decodeRaw, decStreams]

theorem Laws.Trip.strunc (g : Guard) (rd : SDst) (xs : SSrc) : Statement (.strunc g rd xs) := by
  intro hw h he; obtain rfl := Option.some.inj he; clear he
  have h0 := g.code_lt; have h1 := rd.code_lt; have h2 := xs.code_lt; have h3 := xs.dist_lt
  refine ⟨?_, trip_of ?_⟩
  · simp [Raw.Fits, *]
  · simp [*, decodeRaw, decStreams]

theorem Laws.Trip.ssnap (g : Guard) (rd : SDst) (xs xp : SSrc) : Statement (.ssnap g rd xs xp) := by
  intro hw h he; obtain rfl := Option.some.inj he; clear he
  have h0 := g.code_lt; have h1 := rd.code_lt; have h2 := xs.code_lt; have h3 := xs.dist_lt; have h4 := xp.code_lt; have h5 := xp.dist_lt
  refine ⟨?_, trip_of ?_⟩
  · simp [Raw.Fits, *]
  · simp [*, decodeRaw, decStreams]

theorem Laws.Trip.sownOwner (g : Guard) (xs xo : SSrc) : Statement (.sownOwner g xs xo) := by
  intro hw h he; obtain rfl := Option.some.inj he; clear he
  have h0 := g.code_lt; have h1 := xs.code_lt; have h2 := xs.dist_lt; have h3 := xo.code_lt; have h4 := xo.dist_lt
  refine ⟨?_, trip_of ?_⟩
  · simp [Raw.Fits, *]
  · simp [*, decodeRaw, decStreams]

theorem Laws.Trip.sownOpen (g : Guard) (xs xo : SSrc) : Statement (.sownOpen g xs xo) := by
  intro hw h he; obtain rfl := Option.some.inj he; clear he
  have h0 := g.code_lt; have h1 := xs.code_lt; have h2 := xs.dist_lt; have h3 := xo.code_lt; have h4 := xo.dist_lt
  refine ⟨?_, trip_of ?_⟩
  · simp [Raw.Fits, *]
  · simp [*, decodeRaw, decStreams]

theorem Laws.Trip.sownClose (g : Guard) (xs xo : SSrc) : Statement (.sownClose g xs xo) := by
  intro hw h he; obtain rfl := Option.some.inj he; clear he
  have h0 := g.code_lt; have h1 := xs.code_lt; have h2 := xs.dist_lt; have h3 := xo.code_lt; have h4 := xo.dist_lt
  refine ⟨?_, trip_of ?_⟩
  · simp [Raw.Fits, *]
  · simp [*, decodeRaw, decStreams]

theorem Laws.Trip.swdecl (g : Guard) (rd : SDst) (xa : SSrc) : Statement (.swdecl g rd xa) := by
  intro hw h he; obtain rfl := Option.some.inj he; clear he
  have h0 := g.code_lt; have h1 := rd.code_lt; have h2 := xa.code_lt; have h3 := xa.dist_lt
  refine ⟨?_, trip_of ?_⟩
  · simp [Raw.Fits, *]
  · simp [*, decodeRaw, decSweeps]

theorem Laws.Trip.swdeclO (g : Guard) (xt xo : SSrc) : Statement (.swdeclO g xt xo) := by
  intro hw h he; obtain rfl := Option.some.inj he; clear he
  have h0 := g.code_lt; have h1 := xt.code_lt; have h2 := xt.dist_lt; have h3 := xo.code_lt; have h4 := xo.dist_lt
  refine ⟨?_, trip_of ?_⟩
  · simp [Raw.Fits, *]
  · simp [*, decodeRaw, decSweeps]

theorem Laws.Trip.swgo (g : Guard) (xt xn : SSrc) : Statement (.swgo g xt xn) := by
  intro hw h he; obtain rfl := Option.some.inj he; clear he
  have h0 := g.code_lt; have h1 := xt.code_lt; have h2 := xt.dist_lt; have h3 := xn.code_lt; have h4 := xn.dist_lt
  refine ⟨?_, trip_of ?_⟩
  · simp [Raw.Fits, *]
  · simp [*, decodeRaw, decSweeps]

theorem Laws.Trip.swgoC (g : Guard) (xt xn : SSrc) : Statement (.swgoC g xt xn) := by
  intro hw h he; obtain rfl := Option.some.inj he; clear he
  have h0 := g.code_lt; have h1 := xt.code_lt; have h2 := xt.dist_lt; have h3 := xn.code_lt; have h4 := xn.dist_lt
  refine ⟨?_, trip_of ?_⟩
  · simp [Raw.Fits, *]
  · simp [*, decodeRaw, decSweeps]

theorem Laws.Trip.swgoW (g : Guard) (res : Bool) (xt xn : SSrc) : Statement (.swgoW g res xt xn) := by
  intro hw h he; obtain rfl := Option.some.inj he; clear he
  have h0 := g.code_lt; have h1 := xt.code_lt; have h2 := xt.dist_lt; have h3 := xn.code_lt; have h4 := xn.dist_lt
  refine ⟨?_, trip_of ?_⟩
  · cases res <;> simp [Raw.Fits, *]
  · cases res <;> simp [*, decodeRaw, decSweeps]

theorem Laws.Trip.swstop (g : Guard) (xt : SSrc) : Statement (.swstop g xt) := by
  intro hw h he; obtain rfl := Option.some.inj he; clear he
  have h0 := g.code_lt; have h1 := xt.code_lt; have h2 := xt.dist_lt
  refine ⟨?_, trip_of ?_⟩
  · simp [Raw.Fits, *]
  · simp [*, decodeRaw, decSweeps]

theorem Laws.Trip.swstopD (g : Guard) (xt : SSrc) : Statement (.swstopD g xt) := by
  intro hw h he; obtain rfl := Option.some.inj he; clear he
  have h0 := g.code_lt; have h1 := xt.code_lt; have h2 := xt.dist_lt
  refine ⟨?_, trip_of ?_⟩
  · simp [Raw.Fits, *]
  · simp [*, decodeRaw, decSweeps]

theorem Laws.Trip.swstatSn (g : Guard) (rd : SDst) (xt : SSrc) : Statement (.swstatSn g rd xt) := by
  intro hw h he; obtain rfl := Option.some.inj he; clear he
  have h0 := g.code_lt; have h1 := rd.code_lt; have h2 := xt.code_lt; have h3 := xt.dist_lt
  refine ⟨?_, trip_of ?_⟩
  · simp [Raw.Fits, *]
  · simp [*, decodeRaw, decSweeps]

theorem Laws.Trip.swstatPos (g : Guard) (rd : SDst) (xt : SSrc) : Statement (.swstatPos g rd xt) := by
  intro hw h he; obtain rfl := Option.some.inj he; clear he
  have h0 := g.code_lt; have h1 := rd.code_lt; have h2 := xt.code_lt; have h3 := xt.dist_lt
  refine ⟨?_, trip_of ?_⟩
  · simp [Raw.Fits, *]
  · simp [*, decodeRaw, decSweeps]

theorem Laws.Trip.swstatPend (g : Guard) (rd : SDst) (xt : SSrc) : Statement (.swstatPend g rd xt) := by
  intro hw h he; obtain rfl := Option.some.inj he; clear he
  have h0 := g.code_lt; have h1 := rd.code_lt; have h2 := xt.code_lt; have h3 := xt.dist_lt
  refine ⟨?_, trip_of ?_⟩
  · simp [Raw.Fits, *]
  · simp [*, decodeRaw, decSweeps]

theorem Laws.Trip.swstatLoss (g : Guard) (rd : SDst) (xt : SSrc) : Statement (.swstatLoss g rd xt) := by
  intro hw h he; obtain rfl := Option.some.inj he; clear he
  have h0 := g.code_lt; have h1 := rd.code_lt; have h2 := xt.code_lt; have h3 := xt.dist_lt
  refine ⟨?_, trip_of ?_⟩
  · simp [Raw.Fits, *]
  · simp [*, decodeRaw, decSweeps]

theorem Laws.Trip.cntcfg (g : Guard) (id : BitVec 12) (a : SSrc) : Statement (.cntcfg g id a) := by
  intro hw h he; obtain rfl := Option.some.inj he; clear he
  have h0 := g.code_lt; have h1 := id.isLt; have h2 := a.code_lt; have h3 := a.dist_lt
  refine ⟨?_, trip_of ?_⟩
  · simp [Raw.Fits, *] <;> omega
  · simp [*, decodeRaw, decCounters]

theorem Laws.Trip.cntrd (g : Guard) (rd : SDst) (id : BitVec 12) : Statement (.cntrd g rd id) := by
  intro _ h he
  obtain rfl := Option.some.inj he
  clear he
  have h0 := g.code_lt
  have h1 := rd.code_lt
  have h2 := id.isLt
  refine ⟨by simp [Raw.Fits]; omega, trip_of ?_⟩
  simp only [decodeRaw, decCounters]
  refine orElse_left ?_
  simp

theorem Laws.Trip.cntrdC (g : Guard) (rd : SDst) (id : BitVec 12) : Statement (.cntrdC g rd id) := by
  intro hw h he; obtain rfl := Option.some.inj he; clear he
  have h0 := g.code_lt; have h1 := rd.code_lt; have h2 := id.isLt
  have f0 : bvO 12 (4096 + id.toNat) = none := by simp [finO, bvO]
  refine ⟨?_, trip_of ?_⟩
  · simp [Raw.Fits, *] <;> omega
  · simp [*, decodeRaw, decCounters]

theorem Laws.Trip.cntwr (g : Guard) (id : BitVec 12) (a : SSrc) : Statement (.cntwr g id a) := by
  intro hw h he; obtain rfl := Option.some.inj he; clear he
  have h0 := g.code_lt; have h1 := id.isLt; have h2 := a.code_lt; have h3 := a.dist_lt
  refine ⟨?_, trip_of ?_⟩
  · simp [Raw.Fits, *] <;> omega
  · simp [*, decodeRaw, decCounters]

theorem Laws.Trip.cntsv (g : Guard) (grp : Fin 4) (a : SSrc) : Statement (.cntsv g grp a) := by
  intro hw h he; obtain rfl := Option.some.inj he; clear he
  have h0 := g.code_lt; have h1 := grp.isLt; have h2 := a.code_lt; have h3 := a.dist_lt
  refine ⟨?_, trip_of ?_⟩
  · simp [Raw.Fits, *] <;> omega
  · simp [*, decodeRaw, decCounters]

theorem Laws.Trip.cntld (g : Guard) (grp : Fin 4) (a : SSrc) : Statement (.cntld g grp a) := by
  intro hw h he; obtain rfl := Option.some.inj he; clear he
  have h0 := g.code_lt; have h1 := grp.isLt; have h2 := a.code_lt; have h3 := a.dist_lt
  refine ⟨?_, trip_of ?_⟩
  · simp [Raw.Fits, *] <;> omega
  · simp [*, decodeRaw, decCounters]

theorem Laws.Trip.bkpt (g : Guard) (n : BitVec 16) : Statement (.bkpt g n) := by
  intro hw h he; obtain rfl := Option.some.inj he; clear he
  have h0 := g.code_lt; have h1 := n.isLt
  refine ⟨?_, trip_of ?_⟩
  · simp [Raw.Fits, *] <;> omega
  · simp [*, decodeRaw, decDebug]

theorem Laws.Trip.bkptW (g : Guard) (a b : SSrc) : Statement (.bkptW g a b) := by
  intro hw h he; obtain rfl := Option.some.inj he; clear he
  have h0 := g.code_lt; have h1 := a.code_lt; have h2 := a.dist_lt; have h3 := b.code_lt; have h4 := b.dist_lt
  refine ⟨?_, trip_of ?_⟩
  · simp [Raw.Fits, *]
  · simp [*, decodeRaw, decDebug]

theorem Laws.Trip.bkptR (g : Guard) (rd : SDst) (a : SSrc) : Statement (.bkptR g rd a) := by
  intro hw h he; obtain rfl := Option.some.inj he; clear he
  have h0 := g.code_lt; have h1 := rd.code_lt; have h2 := a.code_lt; have h3 := a.dist_lt
  refine ⟨?_, trip_of ?_⟩
  · simp [Raw.Fits, *]
  · simp [*, decodeRaw, decDebug]

theorem Laws.Trip.bkptS (g : Guard) (a b : SSrc) : Statement (.bkptS g a b) := by
  intro hw h he; obtain rfl := Option.some.inj he; clear he
  have h0 := g.code_lt; have h1 := a.code_lt; have h2 := a.dist_lt; have h3 := b.code_lt; have h4 := b.dist_lt
  refine ⟨?_, trip_of ?_⟩
  · simp [Raw.Fits, *]
  · simp [*, decodeRaw, decDebug]

theorem Laws.Trip.bkptF (g : Guard) : Statement (.bkptF g) := by
  intro hw h he; obtain rfl := Option.some.inj he; clear he
  have h0 := g.code_lt
  refine ⟨?_, trip_of ?_⟩
  · simp [Raw.Fits, *]
  · simp [*, decodeRaw, decDebug]

theorem Laws.Trip.bkptT (g : Guard) (op : Fin 11) (a : SSrc) : Statement (.bkptT g op a) := by
  intro hw h he; obtain rfl := Option.some.inj he; clear he
  have h0 := g.code_lt; have h1 := op.isLt; have h2 := a.code_lt; have h3 := a.dist_lt
  have f0 : ¬(5 + op.val) % 16 = 0 := by omega
  have f1 : ¬5 + op.val = 1 := by omega
  have f2 : ¬5 + op.val = 2 := by omega
  have f3 : ¬5 + op.val = 3 := by omega
  have f4 : ¬5 + op.val = 4 := by omega
  have f5 : 5 + op.val - 5 = op.val := by omega
  have f6 : 5 ≤ 5 + op.val := by omega
  have f7 : 5 + op.val < 16 := by omega
  refine ⟨?_, trip_of ?_⟩
  · simp [Raw.Fits, *] <;> omega
  · simp [*, decodeRaw, decDebug]

theorem Laws.Trip.tmark (g : Guard) (a : SSrc) (imm : Imm) : Statement (.tmark g a imm) := by
  intro hw h he; obtain rfl := Option.some.inj he; clear he
  have h0 := g.code_lt; have h1 := a.code_lt; have h2 := a.dist_lt; have h3 := imm.field_lt
  simp [Instr.wfPlain] at hw
  refine ⟨?_, trip_of ?_⟩
  · simp [Raw.Fits, *] <;> omega
  · simp [*, decodeRaw, decDebug, immS_field imm, immU_field imm, immF_lit imm]

theorem Laws.Trip.tmarkO (g : Guard) (a : SSrc) (imm : Imm) : Statement (.tmarkO g a imm) := by
  intro hw h he; obtain rfl := Option.some.inj he; clear he
  have h0 := g.code_lt; have h1 := a.code_lt; have h2 := a.dist_lt; have h3 := imm.field_lt
  simp [Instr.wfPlain] at hw
  refine ⟨?_, trip_of ?_⟩
  · simp [Raw.Fits, *] <;> omega
  · simp [*, decodeRaw, decDebug, immS_field imm, immU_field imm, immF_lit imm]

theorem Laws.Trip.tmarkC (g : Guard) (form : Form) : Statement (.tmarkC g form) := by
  intro hw h he; obtain rfl := Option.some.inj he; clear he
  have h0 := g.code_lt
  refine ⟨?_, trip_of ?_⟩
  · cases form <;> simp [Raw.Fits, litFits, Tag.code, CC.code, *]
  · cases form <;> simp_all [decodeRaw, decDebug, Instr.wfPlain, CC.code, Tag.code, tagOf, scalarCC, ccOf, cvtTarget, packTarget, unpkTarget, CC.scalar, litFits]

theorem Laws.Trip.rmark (g : Guard) (a : SSrc) (imm : Imm) : Statement (.rmark g a imm) := by
  intro hw h he; obtain rfl := Option.some.inj he; clear he
  have h0 := g.code_lt; have h1 := a.code_lt; have h2 := a.dist_lt; have h3 := imm.field_lt
  simp [Instr.wfPlain] at hw
  refine ⟨?_, trip_of ?_⟩
  · simp [Raw.Fits, *] <;> omega
  · simp [*, decodeRaw, decDebug, immS_field imm, immU_field imm, immF_lit imm]

theorem Laws.Trip.tret (g : Guard) : Statement (.tret g) := by
  intro hw h he; obtain rfl := Option.some.inj he; clear he
  have h0 := g.code_lt
  refine ⟨?_, trip_of ?_⟩
  · simp [Raw.Fits, *]
  · simp [*, decodeRaw, decDebug]

theorem Laws.Trip.yield (g : Guard) (rd : SDst) : Statement (.yield g rd) := by
  intro hw h he; obtain rfl := Option.some.inj he; clear he
  have h0 := g.code_lt; have h1 := rd.code_lt
  refine ⟨?_, trip_of ?_⟩
  · simp [Raw.Fits, *]
  · simp [*, decodeRaw, decDebug]

theorem Laws.Trip.csave (g : Guard) (xa xc : SSrc) : Statement (.csave g xa xc) := by
  intro hw h he; obtain rfl := Option.some.inj he; clear he
  have h0 := g.code_lt; have h1 := xa.code_lt; have h2 := xa.dist_lt; have h3 := xc.code_lt; have h4 := xc.dist_lt
  refine ⟨?_, trip_of ?_⟩
  · simp [Raw.Fits, *]
  · simp [*, decodeRaw, decDebug]

theorem Laws.Trip.endl : Statement (.endl) := by
  intro hw h he; obtain rfl := Option.some.inj he; clear he
  refine ⟨?_, trip_of ?_⟩
  · simp [Raw.Fits, *]
  · simp [*, decodeRaw, decLoop]

theorem Laws.Trip.reservedEncoding : Statement (.reservedEncoding) := by intro _ h he; cases he

theorem Laws.Trip.crest (g : Guard) (xa xc : SSrc) : Statement (.crest g xa xc) := by
  intro _ h he
  obtain rfl := Option.some.inj he
  have h0 := g.code_lt
  have h1 := xa.code_lt
  have h2 := xa.dist_lt
  have h3 := xc.code_lt
  have h4 := xc.dist_lt
  refine ⟨by simp [Raw.Fits]; omega, ?_⟩
  have e : decodeRaw { major := 30, minor := 11, guard := g.code, s1 := xa.code, d1 := xa.dist, s2 := xc.code, d2 := xc.dist } = none := by
    simp [decodeRaw, decDebug]
  rw [decodeHead, e]
  simp [decCrest, Decoded.instr]

theorem Laws.Trip.pairWord (g : Guard) (sh vh : Instr) : Statement (.pairWord g sh vh) := by intro _ h he; cases he

theorem Laws.Trip.powerOn : Statement (.powerOn) := by intro _ h he; cases he

theorem Laws.Trip.commit : Statement (.commit) := by intro _ h he; cases he

theorem Laws.Trip.linkEvent (port : Fin 32) (up : Bool) : Statement (.linkEvent port up) := by intro _ h he; cases he

theorem Laws.Trip.scrub (loc : Nat) (bad : Bool) : Statement (.scrub loc bad) := by intro _ h he; cases he

theorem Laws.Trip.queueSramError (cl : Nat) (counter : Bool) (idx : Nat) : Statement (.queueSramError cl counter idx) := by intro _ h he; cases he

theorem Laws.Trip.launch (req : HostReq) : Statement (.launch req) := by intro _ h he; cases he

theorem Laws.Trip.startMessage (i : Nat) : Statement (.startMessage i) := by intro _ h he; cases he

theorem Laws.Trip.launchComplete (i : Nat) : Statement (.launchComplete i) := by intro _ h he; cases he

theorem Laws.Trip.write (req : HostReq) : Statement (.write req) := by intro _ h he; cases he

theorem Laws.Trip.read (req : HostReq) : Statement (.read req) := by intro _ h he; cases he

theorem Laws.Trip.map (req : HostReq) : Statement (.map req) := by intro _ h he; cases he

theorem Laws.Trip.unmap (req : HostReq) : Statement (.unmap req) := by intro _ h he; cases he

theorem Laws.Trip.share (req : HostReq) : Statement (.share req) := by intro _ h he; cases he

theorem Laws.Trip.group (req : HostReq) : Statement (.group req) := by intro _ h he; cases he

theorem Laws.Trip.sessionDefine (req : HostReq) : Statement (.sessionDefine req) := by intro _ h he; cases he

theorem Laws.Trip.sessionRemove (req : HostReq) : Statement (.sessionRemove req) := by intro _ h he; cases he

theorem Laws.Trip.pstart (req : HostReq) : Statement (.pstart req) := by intro _ h he; cases he

theorem Laws.Trip.pstop (req : HostReq) : Statement (.pstop req) := by intro _ h he; cases he

theorem Laws.Trip.status (req : HostReq) : Statement (.status req) := by intro _ h he; cases he

theorem Laws.Trip.mailboxRequest (i : Nat) : Statement (.mailboxRequest i) := by intro _ h he; cases he

theorem Laws.Trip.stopReport (i : Nat) : Statement (.stopReport i) := by intro _ h he; cases he

theorem Laws.Trip.relayForward (die : Fin 4) (dst : BitVec 32) (packet : Packet) : Statement (.relayForward die dst packet) := by intro _ h he; cases he

theorem Laws.Trip.roundContribution (sid : Nat) : Statement (.roundContribution sid) := by intro _ h he; cases he

theorem Laws.Trip.treeCombine (sid level node : Nat) (remote : List (Nat × Nat × List Lane × BitVec 5)) : Statement (.treeCombine sid level node remote) := by intro _ h he; cases he

theorem Laws.Trip.roundResult (sid : Nat) (remote : Option (List Lane × BitVec 5)) : Statement (.roundResult sid remote) := by intro _ h he; cases he

theorem Laws.Trip.memberUnreachable (sid : Nat) : Statement (.memberUnreachable sid) := by intro _ h he; cases he

theorem Laws.Trip.inputFrame (f : Frame) : Statement (.inputFrame f) := by intro _ h he; cases he

theorem Laws.Trip.ackFrame (f : Frame) : Statement (.ackFrame f) := by intro _ h he; cases he

theorem Laws.Trip.bargeFrame (f : Frame) : Statement (.bargeFrame f) := by intro _ h he; cases he

theorem Laws.Trip.outputRecordSend (sid : Nat) : Statement (.outputRecordSend sid) := by intro _ h he; cases he

theorem Laws.Trip.sweepPeriod (cl t : Nat) : Statement (.sweepPeriod cl t) := by intro _ h he; cases he

theorem Laws.Trip.sweepStart (cl : Nat) : Statement (.sweepStart cl) := by intro _ h he; cases he

theorem Laws.Trip.elementVisit (cl : Nat) : Statement (.elementVisit cl) := by intro _ h he; cases he

theorem Laws.Trip.visitOverrun (cl : Nat) : Statement (.visitOverrun cl) := by intro _ h he; cases he

theorem Laws.Trip.sweepRelease (cl : Nat) : Statement (.sweepRelease cl) := by intro _ h he; cases he

theorem Laws.Trip.instructionFetch (core ctx : Nat) (block : Word) (cut : Nat) : Statement (.instructionFetch core ctx block cut) := by intro _ h he; cases he

theorem Laws.Trip.memoryReply (core ctx : Nat) (cuts : List Nat) : Statement (.memoryReply core ctx cuts) := by intro _ h he; cases he

theorem Laws.Trip.drain (i : Nat) : Statement (.drain i) := by intro _ h he; cases he

theorem Laws.Trip.lift (store stamp : Nat) : Statement (.lift store stamp) := by intro _ h he; cases he

theorem Laws.Trip.acquireMove (core ctx : Nat) : Statement (.acquireMove core ctx) := by intro _ h he; cases he

theorem Laws.Trip.releaseMove (core ctx : Nat) : Statement (.releaseMove core ctx) := by intro _ h he; cases he

theorem Laws.Trip.fenceMove (core ctx : Nat) : Statement (.fenceMove core ctx) := by intro _ h he; cases he

theorem Laws.Trip.atomicMove (core ctx : Nat) : Statement (.atomicMove core ctx) := by intro _ h he; cases he

theorem Laws.Trip.tlbWalkComplete (cl i : Nat) : Statement (.tlbWalkComplete cl i) := by intro _ h he; cases he

theorem Laws.Trip.frtWindow (die : Nat) : Statement (.frtWindow die) := by intro _ h he; cases he

theorem Laws.Trip.copyChunkLand (core tag chunk : Nat) : Statement (.copyChunkLand core tag chunk) := by intro _ h he; cases he

theorem Laws.Trip.copyComplete (core tag : Nat) : Statement (.copyComplete core tag) := by intro _ h he; cases he

theorem Laws.Trip.freebackCombine (core tag : Nat) : Statement (.freebackCombine core tag) := by intro _ h he; cases he

theorem Laws.Trip.matrixComplete (core : Nat) : Statement (.matrixComplete core) := by intro _ h he; cases he

theorem Laws.Trip.weightLoadComplete (core ctx : Nat) : Statement (.weightLoadComplete core ctx) := by intro _ h he; cases he

theorem Laws.Trip.swaptComplete (core ctx : Nat) : Statement (.swaptComplete core ctx) := by intro _ h he; cases he

theorem Laws.Trip.foldSwap (phys virt : Nat) : Statement (.foldSwap phys virt) := by intro _ h he; cases he

theorem Laws.Trip.slotChange (i : Nat) : Statement (.slotChange i) := by intro _ h he; cases he

theorem Laws.Trip.bindingChange (part i : Nat) : Statement (.bindingChange part i) := by intro _ h he; cases he

theorem Laws.Trip.l2BankChange (die i : Nat) : Statement (.l2BankChange die i) := by intro _ h he; cases he

theorem Laws.Trip.messageDepart (core : Nat) : Statement (.messageDepart core) := by intro _ h he; cases he

theorem Laws.Trip.messageEntry (i : Nat) : Statement (.messageEntry i) := by intro _ h he; cases he

theorem Laws.Trip.replyArrival (i : Nat) : Statement (.replyArrival i) := by intro _ h he; cases he

theorem Laws.Trip.taskDispatch (cl : Nat) : Statement (.taskDispatch cl) := by intro _ h he; cases he

theorem Laws.Trip.footprintFetchComplete (core ctx : Nat) : Statement (.footprintFetchComplete core ctx) := by intro _ h he; cases he

theorem Laws.Trip.ringRefill (cl : Nat) : Statement (.ringRefill cl) := by intro _ h he; cases he

theorem Laws.Trip.deadlineExpiry (core : Nat) : Statement (.deadlineExpiry core) := by intro _ h he; cases he

theorem Laws.Trip.preemptionComplete (part : Nat) : Statement (.preemptionComplete part) := by intro _ h he; cases he

theorem Laws.Trip.counterOverflow (l2 : Bool) (place : Nat) : Statement (.counterOverflow l2 place) := by intro _ h he; cases he

theorem Laws.Trip.pcSample (core : Nat) : Statement (.pcSample core) := by intro _ h he; cases he

theorem Laws.Trip.stepExpiry (core ctx : Nat) : Statement (.stepExpiry core ctx) := by intro _ h he; cases he

theorem Laws.Trip.foghornCoreStop (core : Nat) : Statement (.foghornCoreStop core) := by intro _ h he; cases he

theorem Laws.Trip.traceTailSend (core ctx : Nat) : Statement (.traceTailSend core ctx) := by intro _ h he; cases he

theorem Laws.Trip.coreCycle (core : Nat) : Statement (.coreCycle core) := by intro _ h he; cases he

theorem Laws.Trip.worldSwitch (out inn : Nat) (slice : Word) (homes : List (Nat × Nat)) : Statement (.worldSwitch out inn slice homes) := by intro _ h he; cases he

theorem Laws.Trip.powerLoss : Statement (.powerLoss) := by intro _ h he; cases he

theorem Laws.Trip.attestation (nonce : List Byte) : Statement (.attestation nonce) := by intro _ h he; cases he


/-- Only events and the reserved encoding have no encoding. -/
def Laws.Coded.Statement (i : Instr) : Prop :=
  i.wf = true → (encode i = none ↔ isEvent i = true ∨ i = .reservedEncoding)

theorem Laws.Coded.nop (g : Guard) (form : Form) (lit : Word) : Statement (.nop g form lit) := by
  intro hw
  refine ⟨fun h => ?_, fun h => ?_⟩
  · cases h
  · rcases h with h | h <;> cases h

theorem Laws.Coded.br (g : Guard) (imm : Imm) : Statement (.br g imm) := by
  intro hw
  refine ⟨fun h => ?_, fun h => ?_⟩
  · cases h
  · rcases h with h | h <;> cases h

theorem Laws.Coded.bra (g : Guard) (imm : Imm) : Statement (.bra g imm) := by
  intro hw
  refine ⟨fun h => ?_, fun h => ?_⟩
  · cases h
  · rcases h with h | h <;> cases h

theorem Laws.Coded.jal (g : Guard) (rd : SDst) (imm : Imm) : Statement (.jal g rd imm) := by
  intro hw
  refine ⟨fun h => ?_, fun h => ?_⟩
  · cases h
  · rcases h with h | h <;> cases h

theorem Laws.Coded.jalr (g : Guard) (rd : SDst) (a : SSrc) : Statement (.jalr g rd a) := by
  intro hw
  refine ⟨fun h => ?_, fun h => ?_⟩
  · cases h
  · rcases h with h | h <;> cases h

theorem Laws.Coded.ret (g : Guard) (a : SSrc) : Statement (.ret g a) := by
  intro hw
  refine ⟨fun h => ?_, fun h => ?_⟩
  · cases h
  · rcases h with h | h <;> cases h

theorem Laws.Coded.rep (g : Guard) (a : SSrc) (blen : Fin 64) (imm : Imm) : Statement (.rep g a blen imm) := by
  intro hw
  refine ⟨fun h => ?_, fun h => ?_⟩
  · cases h
  · rcases h with h | h <;> cases h

theorem Laws.Coded.trap (g : Guard) (n : BitVec 20) : Statement (.trap g n) := by
  intro hw
  refine ⟨fun h => ?_, fun h => ?_⟩
  · cases h
  · rcases h with h | h <;> cases h

theorem Laws.Coded.loop (count : LoopCount) (w c : Fin 8) (om : Bool) (ofs : BitVec 12) : Statement (.loop count w c om ofs) := by
  intro hw
  refine ⟨fun h => ?_, fun h => ?_⟩
  · cases count <;> cases h
  · rcases h with h | h <;> cases h

theorem Laws.Coded.loopOpen (w c : Fin 8) (om : Bool) (ofs : BitVec 12) : Statement (.loopOpen w c om ofs) := by
  intro hw
  refine ⟨fun h => ?_, fun h => ?_⟩
  · cases h
  · rcases h with h | h <;> cases h

theorem Laws.Coded.brk (g : Guard) : Statement (.brk g) := by
  intro hw
  refine ⟨fun h => ?_, fun h => ?_⟩
  · cases h
  · rcases h with h | h <;> cases h

theorem Laws.Coded.brkO (g : Guard) : Statement (.brkO g) := by
  intro hw
  refine ⟨fun h => ?_, fun h => ?_⟩
  · cases h
  · rcases h with h | h <;> cases h

theorem Laws.Coded.iret (g : Guard) : Statement (.iret g) := by
  intro hw
  refine ⟨fun h => ?_, fun h => ?_⟩
  · cases h
  · rcases h with h | h <;> cases h

theorem Laws.Coded.vseed (g : Guard) (dst : SeedName) (k : Fin 8) (src : SeedSrc) : Statement (.vseed g dst k src) := by
  intro hw
  refine ⟨fun h => ?_, fun h => ?_⟩
  · cases h
  · rcases h with h | h <;> cases h

theorem Laws.Coded.lfree (g : Guard) : Statement (.lfree g) := by
  intro hw
  refine ⟨fun h => ?_, fun h => ?_⟩
  · cases h
  · rcases h with h | h <;> cases h

theorem Laws.Coded.sysrd (g : Guard) (rd : SDst) (n : Byte) : Statement (.sysrd g rd n) := by
  intro hw
  refine ⟨fun h => ?_, fun h => ?_⟩
  · cases h
  · rcases h with h | h <;> cases h

theorem Laws.Coded.syswr (g : Guard) (n : Byte) (a : SSrc) : Statement (.syswr g n a) := by
  intro hw
  refine ⟨fun h => ?_, fun h => ?_⟩
  · cases h
  · rcases h with h | h <;> cases h

theorem Laws.Coded.fmtg (g : Guard) (rd : SDst) (src : TagSrc) : Statement (.fmtg g rd src) := by
  intro hw
  refine ⟨fun h => ?_, fun h => ?_⟩
  · cases src <;> cases h
  · rcases h with h | h <;> cases h

theorem Laws.Coded.fmts (g : Guard) (dst : TagDst) (t : Tag) : Statement (.fmts g dst t) := by
  intro hw
  refine ⟨fun h => ?_, fun h => ?_⟩
  · cases dst <;> cases h
  · rcases h with h | h <;> cases h

theorem Laws.Coded.add (g : Guard) (w : Bool) (rd : SDst) (a b : SSrc) : Statement (.add g w rd a b) := by
  intro hw
  refine ⟨fun h => ?_, fun h => ?_⟩
  · cases h
  · rcases h with h | h <;> cases h

theorem Laws.Coded.sub (g : Guard) (w : Bool) (rd : SDst) (a b : SSrc) : Statement (.sub g w rd a b) := by
  intro hw
  refine ⟨fun h => ?_, fun h => ?_⟩
  · cases h
  · rcases h with h | h <;> cases h

theorem Laws.Coded.mul (g : Guard) (w : Bool) (rd : SDst) (a b : SSrc) : Statement (.mul g w rd a b) := by
  intro hw
  refine ⟨fun h => ?_, fun h => ?_⟩
  · cases h
  · rcases h with h | h <;> cases h

theorem Laws.Coded.mulh (g : Guard) (w : Bool) (rd : SDst) (a b : SSrc) : Statement (.mulh g w rd a b) := by
  intro hw
  refine ⟨fun h => ?_, fun h => ?_⟩
  · cases h
  · rcases h with h | h <;> cases h

theorem Laws.Coded.mulhu (g : Guard) (w : Bool) (rd : SDst) (a b : SSrc) : Statement (.mulhu g w rd a b) := by
  intro hw
  refine ⟨fun h => ?_, fun h => ?_⟩
  · cases h
  · rcases h with h | h <;> cases h

theorem Laws.Coded.div (g : Guard) (w : Bool) (rd : SDst) (a b : SSrc) : Statement (.div g w rd a b) := by
  intro hw
  refine ⟨fun h => ?_, fun h => ?_⟩
  · cases h
  · rcases h with h | h <;> cases h

theorem Laws.Coded.divu (g : Guard) (w : Bool) (rd : SDst) (a b : SSrc) : Statement (.divu g w rd a b) := by
  intro hw
  refine ⟨fun h => ?_, fun h => ?_⟩
  · cases h
  · rcases h with h | h <;> cases h

theorem Laws.Coded.rem (g : Guard) (w : Bool) (rd : SDst) (a b : SSrc) : Statement (.rem g w rd a b) := by
  intro hw
  refine ⟨fun h => ?_, fun h => ?_⟩
  · cases h
  · rcases h with h | h <;> cases h

theorem Laws.Coded.remu (g : Guard) (w : Bool) (rd : SDst) (a b : SSrc) : Statement (.remu g w rd a b) := by
  intro hw
  refine ⟨fun h => ?_, fun h => ?_⟩
  · cases h
  · rcases h with h | h <;> cases h

theorem Laws.Coded.and (g : Guard) (rd : SDst) (a b : SSrc) : Statement (.and g rd a b) := by
  intro hw
  refine ⟨fun h => ?_, fun h => ?_⟩
  · cases h
  · rcases h with h | h <;> cases h

theorem Laws.Coded.or (g : Guard) (rd : SDst) (a b : SSrc) : Statement (.or g rd a b) := by
  intro hw
  refine ⟨fun h => ?_, fun h => ?_⟩
  · cases h
  · rcases h with h | h <;> cases h

theorem Laws.Coded.xor (g : Guard) (rd : SDst) (a b : SSrc) : Statement (.xor g rd a b) := by
  intro hw
  refine ⟨fun h => ?_, fun h => ?_⟩
  · cases h
  · rcases h with h | h <;> cases h

theorem Laws.Coded.andn (g : Guard) (rd : SDst) (a b : SSrc) : Statement (.andn g rd a b) := by
  intro hw
  refine ⟨fun h => ?_, fun h => ?_⟩
  · cases h
  · rcases h with h | h <;> cases h

theorem Laws.Coded.orn (g : Guard) (rd : SDst) (a b : SSrc) : Statement (.orn g rd a b) := by
  intro hw
  refine ⟨fun h => ?_, fun h => ?_⟩
  · cases h
  · rcases h with h | h <;> cases h

theorem Laws.Coded.shl (g : Guard) (w : Bool) (rd : SDst) (a b : SSrc) : Statement (.shl g w rd a b) := by
  intro hw
  refine ⟨fun h => ?_, fun h => ?_⟩
  · cases h
  · rcases h with h | h <;> cases h

theorem Laws.Coded.shr (g : Guard) (w : Bool) (rd : SDst) (a b : SSrc) : Statement (.shr g w rd a b) := by
  intro hw
  refine ⟨fun h => ?_, fun h => ?_⟩
  · cases h
  · rcases h with h | h <;> cases h

theorem Laws.Coded.sar (g : Guard) (w : Bool) (rd : SDst) (a b : SSrc) : Statement (.sar g w rd a b) := by
  intro hw
  refine ⟨fun h => ?_, fun h => ?_⟩
  · cases h
  · rcases h with h | h <;> cases h

theorem Laws.Coded.rol (g : Guard) (w : Bool) (rd : SDst) (a b : SSrc) : Statement (.rol g w rd a b) := by
  intro hw
  refine ⟨fun h => ?_, fun h => ?_⟩
  · cases h
  · rcases h with h | h <;> cases h

theorem Laws.Coded.clz (g : Guard) (w : Bool) (rd : SDst) (a : SSrc) : Statement (.clz g w rd a) := by
  intro hw
  refine ⟨fun h => ?_, fun h => ?_⟩
  · cases h
  · rcases h with h | h <;> cases h

theorem Laws.Coded.ctz (g : Guard) (w : Bool) (rd : SDst) (a : SSrc) : Statement (.ctz g w rd a) := by
  intro hw
  refine ⟨fun h => ?_, fun h => ?_⟩
  · cases h
  · rcases h with h | h <;> cases h

theorem Laws.Coded.popc (g : Guard) (w : Bool) (rd : SDst) (a : SSrc) : Statement (.popc g w rd a) := by
  intro hw
  refine ⟨fun h => ?_, fun h => ?_⟩
  · cases h
  · rcases h with h | h <;> cases h

theorem Laws.Coded.min (g : Guard) (w : Bool) (rd : SDst) (a b : SSrc) : Statement (.min g w rd a b) := by
  intro hw
  refine ⟨fun h => ?_, fun h => ?_⟩
  · cases h
  · rcases h with h | h <;> cases h

theorem Laws.Coded.max (g : Guard) (w : Bool) (rd : SDst) (a b : SSrc) : Statement (.max g w rd a b) := by
  intro hw
  refine ⟨fun h => ?_, fun h => ?_⟩
  · cases h
  · rcases h with h | h <;> cases h

theorem Laws.Coded.minu (g : Guard) (w : Bool) (rd : SDst) (a b : SSrc) : Statement (.minu g w rd a b) := by
  intro hw
  refine ⟨fun h => ?_, fun h => ?_⟩
  · cases h
  · rcases h with h | h <;> cases h

theorem Laws.Coded.maxu (g : Guard) (w : Bool) (rd : SDst) (a b : SSrc) : Statement (.maxu g w rd a b) := by
  intro hw
  refine ⟨fun h => ?_, fun h => ?_⟩
  · cases h
  · rcases h with h | h <;> cases h

theorem Laws.Coded.sel (g : Guard) (rd : SDst) (n : Fin 8) (a b : SSrc) : Statement (.sel g rd n a b) := by
  intro hw
  refine ⟨fun h => ?_, fun h => ?_⟩
  · cases h
  · rcases h with h | h <;> cases h

theorem Laws.Coded.mov (g : Guard) (rd : SDst) (a : SSrc) : Statement (.mov g rd a) := by
  intro hw
  refine ⟨fun h => ?_, fun h => ?_⟩
  · cases h
  · rcases h with h | h <;> cases h

theorem Laws.Coded.addi (g : Guard) (w : Bool) (rd : SDst) (a : SSrc) (imm : Imm) : Statement (.addi g w rd a imm) := by
  intro hw
  refine ⟨fun h => ?_, fun h => ?_⟩
  · cases h
  · rcases h with h | h <;> cases h

theorem Laws.Coded.li (g : Guard) (rd : SDst) (imm : Imm) : Statement (.li g rd imm) := by
  intro hw
  refine ⟨fun h => ?_, fun h => ?_⟩
  · cases h
  · rcases h with h | h <;> cases h

theorem Laws.Coded.extf (g : Guard) (s : Bool) (rd : SDst) (a : SSrc) (pos len : Fin 64) : Statement (.extf g s rd a pos len) := by
  intro hw
  refine ⟨fun h => ?_, fun h => ?_⟩
  · cases h
  · rcases h with h | h <;> cases h

theorem Laws.Coded.insf (g : Guard) (rd : SDst) (a b : SSrc) (pos len : Fin 64) : Statement (.insf g rd a b pos len) := by
  intro hw
  refine ⟨fun h => ?_, fun h => ?_⟩
  · cases h
  · rcases h with h | h <;> cases h

theorem Laws.Coded.pga (g : Guard) (c : Bool) (rd : SDst) (place off : SSrc) (space : BitVec 4) (disp : Imm) : Statement (.pga g c rd place off space disp) := by
  intro hw
  refine ⟨fun h => ?_, fun h => ?_⟩
  · cases h
  · rcases h with h | h <;> cases h

theorem Laws.Coded.cmp (g : Guard) (w : Bool) (cc : CC) (gd : Fin 8) (a b : SSrc) : Statement (.cmp g w cc gd a b) := by
  intro hw
  refine ⟨fun h => ?_, fun h => ?_⟩
  · cases h
  · rcases h with h | h <;> cases h

theorem Laws.Coded.cmpi (g : Guard) (w : Bool) (cc : CC) (gd : Fin 8) (a : SSrc) (imm : Imm) : Statement (.cmpi g w cc gd a imm) := by
  intro hw
  refine ⟨fun h => ?_, fun h => ?_⟩
  · cases h
  · rcases h with h | h <;> cases h

theorem Laws.Coded.gand (g : Guard) (gd ga gb : Fin 8) : Statement (.gand g gd ga gb) := by
  intro hw
  refine ⟨fun h => ?_, fun h => ?_⟩
  · cases h
  · rcases h with h | h <;> cases h

theorem Laws.Coded.gor (g : Guard) (gd ga gb : Fin 8) : Statement (.gor g gd ga gb) := by
  intro hw
  refine ⟨fun h => ?_, fun h => ?_⟩
  · cases h
  · rcases h with h | h <;> cases h

theorem Laws.Coded.gnot (g : Guard) (gd ga : Fin 8) : Statement (.gnot g gd ga) := by
  intro hw
  refine ⟨fun h => ?_, fun h => ?_⟩
  · cases h
  · rcases h with h | h <;> cases h

theorem Laws.Coded.vadd (g : Guard) (vd : VDst) (a b : VSrc) : Statement (.vadd g vd a b) := by
  intro hw
  refine ⟨fun h => ?_, fun h => ?_⟩
  · cases h
  · rcases h with h | h <;> cases h

theorem Laws.Coded.vsub (g : Guard) (vd : VDst) (a b : VSrc) : Statement (.vsub g vd a b) := by
  intro hw
  refine ⟨fun h => ?_, fun h => ?_⟩
  · cases h
  · rcases h with h | h <;> cases h

theorem Laws.Coded.vmul (g : Guard) (vd : VDst) (a b : VSrc) : Statement (.vmul g vd a b) := by
  intro hw
  refine ⟨fun h => ?_, fun h => ?_⟩
  · cases h
  · rcases h with h | h <;> cases h

theorem Laws.Coded.vfma (g : Guard) (vd : VDst) (a b c : VSrc) : Statement (.vfma g vd a b c) := by
  intro hw
  refine ⟨fun h => ?_, fun h => ?_⟩
  · cases h
  · rcases h with h | h <;> cases h

theorem Laws.Coded.vfms (g : Guard) (vd : VDst) (a b c : VSrc) : Statement (.vfms g vd a b c) := by
  intro hw
  refine ⟨fun h => ?_, fun h => ?_⟩
  · cases h
  · rcases h with h | h <;> cases h

theorem Laws.Coded.vmin (g : Guard) (vd : VDst) (a b : VSrc) : Statement (.vmin g vd a b) := by
  intro hw
  refine ⟨fun h => ?_, fun h => ?_⟩
  · cases h
  · rcases h with h | h <;> cases h

theorem Laws.Coded.vmax (g : Guard) (vd : VDst) (a b : VSrc) : Statement (.vmax g vd a b) := by
  intro hw
  refine ⟨fun h => ?_, fun h => ?_⟩
  · cases h
  · rcases h with h | h <;> cases h

theorem Laws.Coded.vabs (g : Guard) (vd : VDst) (a : VSrc) : Statement (.vabs g vd a) := by
  intro hw
  refine ⟨fun h => ?_, fun h => ?_⟩
  · cases h
  · rcases h with h | h <;> cases h

theorem Laws.Coded.vneg (g : Guard) (vd : VDst) (a : VSrc) : Statement (.vneg g vd a) := by
  intro hw
  refine ⟨fun h => ?_, fun h => ?_⟩
  · cases h
  · rcases h with h | h <;> cases h

theorem Laws.Coded.vcps (g : Guard) (vd : VDst) (a b : VSrc) : Statement (.vcps g vd a b) := by
  intro hw
  refine ⟨fun h => ?_, fun h => ?_⟩
  · cases h
  · rcases h with h | h <;> cases h

theorem Laws.Coded.vcmp (g : Guard) (cc : CC) (gd : Fin 8) (a b : VSrc) : Statement (.vcmp g cc gd a b) := by
  intro hw
  refine ⟨fun h => ?_, fun h => ?_⟩
  · cases h
  · rcases h with h | h <;> cases h

theorem Laws.Coded.vsel (g : Guard) (vd : VDst) (n : Fin 8) (a b : VSrc) : Statement (.vsel g vd n a b) := by
  intro hw
  refine ⟨fun h => ?_, fun h => ?_⟩
  · cases h
  · rcases h with h | h <;> cases h

theorem Laws.Coded.vrnd (g : Guard) (vd : VDst) (a : VSrc) : Statement (.vrnd g vd a) := by
  intro hw
  refine ⟨fun h => ?_, fun h => ?_⟩
  · cases h
  · rcases h with h | h <;> cases h

theorem Laws.Coded.vfexp (g : Guard) (vd : VDst) (a : VSrc) : Statement (.vfexp g vd a) := by
  intro hw
  refine ⟨fun h => ?_, fun h => ?_⟩
  · cases h
  · rcases h with h | h <;> cases h

theorem Laws.Coded.vexpi (g : Guard) (vd : VDst) (a b : VSrc) : Statement (.vexpi g vd a b) := by
  intro hw
  refine ⟨fun h => ?_, fun h => ?_⟩
  · cases h
  · rcases h with h | h <;> cases h

theorem Laws.Coded.vlogb (g : Guard) (vd : VDst) (a : VSrc) : Statement (.vlogb g vd a) := by
  intro hw
  refine ⟨fun h => ?_, fun h => ?_⟩
  · cases h
  · rcases h with h | h <;> cases h

theorem Laws.Coded.vrcp (g : Guard) (vd : VDst) (a : VSrc) : Statement (.vrcp g vd a) := by
  intro hw
  refine ⟨fun h => ?_, fun h => ?_⟩
  · cases h
  · rcases h with h | h <;> cases h

theorem Laws.Coded.vrsq (g : Guard) (vd : VDst) (a : VSrc) : Statement (.vrsq g vd a) := by
  intro hw
  refine ⟨fun h => ?_, fun h => ?_⟩
  · cases h
  · rcases h with h | h <;> cases h

theorem Laws.Coded.vcvt (g : Guard) (u m : Bool) (t : Tag) (vd : VDst) (a : VSrc) : Statement (.vcvt g u m t vd a) := by
  intro hw
  refine ⟨fun h => ?_, fun h => ?_⟩
  · cases h
  · rcases h with h | h <;> cases h

theorem Laws.Coded.vpack (g : Guard) (u m : Bool) (t : Tag) (vd : VDst) (a b : VSrc) : Statement (.vpack g u m t vd a b) := by
  intro hw
  refine ⟨fun h => ?_, fun h => ?_⟩
  · cases h
  · rcases h with h | h <;> cases h

theorem Laws.Coded.vunpk (g : Guard) (u : Bool) (t : Tag) (h : Bool) (vd : VDst) (a : VSrc) : Statement (.vunpk g u t h vd a) := by
  intro hw
  refine ⟨fun h => ?_, fun h => ?_⟩
  · cases h
  · rcases h with h | h <;> cases h

theorem Laws.Coded.viadd (g : Guard) (mode : SatMode) (vd : VDst) (a b : VSrc) : Statement (.viadd g mode vd a b) := by
  intro hw
  refine ⟨fun h => ?_, fun h => ?_⟩
  · cases h
  · rcases h with h | h <;> cases h

theorem Laws.Coded.visub (g : Guard) (mode : SatMode) (vd : VDst) (a b : VSrc) : Statement (.visub g mode vd a b) := by
  intro hw
  refine ⟨fun h => ?_, fun h => ?_⟩
  · cases h
  · rcases h with h | h <;> cases h

theorem Laws.Coded.vimul (g : Guard) (vd : VDst) (a b : VSrc) : Statement (.vimul g vd a b) := by
  intro hw
  refine ⟨fun h => ?_, fun h => ?_⟩
  · cases h
  · rcases h with h | h <;> cases h

theorem Laws.Coded.vimad (g : Guard) (vd : VDst) (a b c : VSrc) : Statement (.vimad g vd a b c) := by
  intro hw
  refine ⟨fun h => ?_, fun h => ?_⟩
  · cases h
  · rcases h with h | h <;> cases h

theorem Laws.Coded.vand (g : Guard) (vd : VDst) (a b : VSrc) : Statement (.vand g vd a b) := by
  intro hw
  refine ⟨fun h => ?_, fun h => ?_⟩
  · cases h
  · rcases h with h | h <;> cases h

theorem Laws.Coded.vor (g : Guard) (vd : VDst) (a b : VSrc) : Statement (.vor g vd a b) := by
  intro hw
  refine ⟨fun h => ?_, fun h => ?_⟩
  · cases h
  · rcases h with h | h <;> cases h

theorem Laws.Coded.vxor (g : Guard) (vd : VDst) (a b : VSrc) : Statement (.vxor g vd a b) := by
  intro hw
  refine ⟨fun h => ?_, fun h => ?_⟩
  · cases h
  · rcases h with h | h <;> cases h

theorem Laws.Coded.vshl (g : Guard) (vd : VDst) (a b : VSrc) : Statement (.vshl g vd a b) := by
  intro hw
  refine ⟨fun h => ?_, fun h => ?_⟩
  · cases h
  · rcases h with h | h <;> cases h

theorem Laws.Coded.vshr (g : Guard) (vd : VDst) (a b : VSrc) : Statement (.vshr g vd a b) := by
  intro hw
  refine ⟨fun h => ?_, fun h => ?_⟩
  · cases h
  · rcases h with h | h <;> cases h

theorem Laws.Coded.vsar (g : Guard) (vd : VDst) (a b : VSrc) : Statement (.vsar g vd a b) := by
  intro hw
  refine ⟨fun h => ?_, fun h => ?_⟩
  · cases h
  · rcases h with h | h <;> cases h

theorem Laws.Coded.vdot4 (g : Guard) (vd : VDst) (a b c : VSrc) : Statement (.vdot4 g vd a b c) := by
  intro hw
  refine ⟨fun h => ?_, fun h => ?_⟩
  · cases h
  · rcases h with h | h <;> cases h

theorem Laws.Coded.vbcast (g : Guard) (vd : VDst) (a : SSrc) (t : Tag) (imm : Imm) : Statement (.vbcast g vd a t imm) := by
  intro hw
  refine ⟨fun h => ?_, fun h => ?_⟩
  · cases h
  · rcases h with h | h <;> cases h

theorem Laws.Coded.vperm (g : Guard) (vd : VDst) (a b : VSrc) : Statement (.vperm g vd a b) := by
  intro hw
  refine ⟨fun h => ?_, fun h => ?_⟩
  · cases h
  · rcases h with h | h <;> cases h

theorem Laws.Coded.vrot (g : Guard) (vd : VDst) (a : VSrc) (k : Fin 32) : Statement (.vrot g vd a k) := by
  intro hw
  refine ⟨fun h => ?_, fun h => ?_⟩
  · cases h
  · rcases h with h | h <;> cases h

theorem Laws.Coded.vmovs (g : Guard) (s : Bool) (rd : SDst) (a : VSrc) (k : Fin 32) : Statement (.vmovs g s rd a k) := by
  intro hw
  refine ⟨fun h => ?_, fun h => ?_⟩
  · cases h
  · rcases h with h | h <;> cases h

theorem Laws.Coded.vins (g : Guard) (vd : VDst) (a : SSrc) (k : Fin 32) (t : Tag) : Statement (.vins g vd a k t) := by
  intro hw
  refine ⟨fun h => ?_, fun h => ?_⟩
  · cases h
  · rcases h with h | h <;> cases h

theorem Laws.Coded.vreda (g : Guard) (vd : VDst) (a : VSrc) : Statement (.vreda g vd a) := by
  intro hw
  refine ⟨fun h => ?_, fun h => ?_⟩
  · cases h
  · rcases h with h | h <;> cases h

theorem Laws.Coded.vredm (g : Guard) (vd : VDst) (a : VSrc) : Statement (.vredm g vd a) := by
  intro hw
  refine ⟨fun h => ?_, fun h => ?_⟩
  · cases h
  · rcases h with h | h <;> cases h

theorem Laws.Coded.vscan (g : Guard) (vd : VDst) (a : VSrc) : Statement (.vscan g vd a) := by
  intro hw
  refine ⟨fun h => ?_, fun h => ?_⟩
  · cases h
  · rcases h with h | h <;> cases h

theorem Laws.Coded.mmab (g : Guard) (z : Fin 2) (xa xw : SSrc) : Statement (.mmab g z xa xw) := by
  intro hw
  refine ⟨fun h => ?_, fun h => ?_⟩
  · cases h
  · rcases h with h | h <;> cases h

theorem Laws.Coded.mmai (g : Guard) (z : Fin 2) (xa xw : SSrc) : Statement (.mmai g z xa xw) := by
  intro hw
  refine ⟨fun h => ?_, fun h => ?_⟩
  · cases h
  · rcases h with h | h <;> cases h

theorem Laws.Coded.mmad (g : Guard) (z : Fin 2) (xa xw xs : SSrc) : Statement (.mmad g z xa xw xs) := by
  intro hw
  refine ⟨fun h => ?_, fun h => ?_⟩
  · cases h
  · rcases h with h | h <;> cases h

theorem Laws.Coded.zclr (g : Guard) (z : Fin 2) (t : Tag) : Statement (.zclr g z t) := by
  intro hw
  refine ⟨fun h => ?_, fun h => ?_⟩
  · cases h
  · rcases h with h | h <;> cases h

theorem Laws.Coded.zscale (g : Guard) (z : Fin 2) (a : VSrc) : Statement (.zscale g z a) := by
  intro hw
  refine ⟨fun h => ?_, fun h => ?_⟩
  · cases h
  · rcases h with h | h <;> cases h

theorem Laws.Coded.zrd (g : Guard) (vd : VDst) (z : Fin 2) (p : Fin 8) : Statement (.zrd g vd z p) := by
  intro hw
  refine ⟨fun h => ?_, fun h => ?_⟩
  · cases h
  · rcases h with h | h <;> cases h

theorem Laws.Coded.zwr (g : Guard) (z : Fin 2) (a : VSrc) (p : Fin 8) : Statement (.zwr g z a p) := by
  intro hw
  refine ⟨fun h => ?_, fun h => ?_⟩
  · cases h
  · rcases h with h | h <;> cases h

theorem Laws.Coded.zld (g : Guard) (z : Fin 2) (xb : SSrc) (t : Tag) (imm : Imm) : Statement (.zld g z xb t imm) := by
  intro hw
  refine ⟨fun h => ?_, fun h => ?_⟩
  · cases h
  · rcases h with h | h <;> cases h

theorem Laws.Coded.zst (g : Guard) (z : Fin 2) (xb : SSrc) (imm : Imm) : Statement (.zst g z xb imm) := by
  intro hw
  refine ⟨fun h => ?_, fun h => ?_⟩
  · cases h
  · rcases h with h | h <;> cases h

theorem Laws.Coded.wbld (g : Guard) (xd xb : SSrc) (imm : Imm) : Statement (.wbld g xd xb imm) := by
  intro hw
  refine ⟨fun h => ?_, fun h => ?_⟩
  · cases h
  · rcases h with h | h <;> cases h

theorem Laws.Coded.ldt (g : Guard) (xd xb : SSrc) (imm : Imm) : Statement (.ldt g xd xb imm) := by
  intro hw
  refine ⟨fun h => ?_, fun h => ?_⟩
  · cases h
  · rcases h with h | h <;> cases h

theorem Laws.Coded.swapt (g : Guard) (t : Bool) (zd zs : Fin 2) (key : Byte) : Statement (.swapt g t zd zs key) := by
  intro hw
  refine ⟨fun h => ?_, fun h => ?_⟩
  · cases h
  · rcases h with h | h <;> cases h

theorem Laws.Coded.ld (g : Guard) (rd : SDst) (xb : SSrc) (imm : Imm) : Statement (.ld g rd xb imm) := by
  intro hw
  refine ⟨fun h => ?_, fun h => ?_⟩
  · cases h
  · rcases h with h | h <;> cases h

theorem Laws.Coded.ldW (g : Guard) (rd : SDst) (xb : SSrc) (imm : Imm) : Statement (.ldW g rd xb imm) := by
  intro hw
  refine ⟨fun h => ?_, fun h => ?_⟩
  · cases h
  · rcases h with h | h <;> cases h

theorem Laws.Coded.ldWu (g : Guard) (rd : SDst) (xb : SSrc) (imm : Imm) : Statement (.ldWu g rd xb imm) := by
  intro hw
  refine ⟨fun h => ?_, fun h => ?_⟩
  · cases h
  · rcases h with h | h <;> cases h

theorem Laws.Coded.ldH (g : Guard) (rd : SDst) (xb : SSrc) (imm : Imm) : Statement (.ldH g rd xb imm) := by
  intro hw
  refine ⟨fun h => ?_, fun h => ?_⟩
  · cases h
  · rcases h with h | h <;> cases h

theorem Laws.Coded.ldHu (g : Guard) (rd : SDst) (xb : SSrc) (imm : Imm) : Statement (.ldHu g rd xb imm) := by
  intro hw
  refine ⟨fun h => ?_, fun h => ?_⟩
  · cases h
  · rcases h with h | h <;> cases h

theorem Laws.Coded.ldB (g : Guard) (rd : SDst) (xb : SSrc) (imm : Imm) : Statement (.ldB g rd xb imm) := by
  intro hw
  refine ⟨fun h => ?_, fun h => ?_⟩
  · cases h
  · rcases h with h | h <;> cases h

theorem Laws.Coded.ldBu (g : Guard) (rd : SDst) (xb : SSrc) (imm : Imm) : Statement (.ldBu g rd xb imm) := by
  intro hw
  refine ⟨fun h => ?_, fun h => ?_⟩
  · cases h
  · rcases h with h | h <;> cases h

theorem Laws.Coded.st (g : Guard) (rs xb : SSrc) (imm : Imm) : Statement (.st g rs xb imm) := by
  intro hw
  refine ⟨fun h => ?_, fun h => ?_⟩
  · cases h
  · rcases h with h | h <;> cases h

theorem Laws.Coded.stW (g : Guard) (rs xb : SSrc) (imm : Imm) : Statement (.stW g rs xb imm) := by
  intro hw
  refine ⟨fun h => ?_, fun h => ?_⟩
  · cases h
  · rcases h with h | h <;> cases h

theorem Laws.Coded.stH (g : Guard) (rs xb : SSrc) (imm : Imm) : Statement (.stH g rs xb imm) := by
  intro hw
  refine ⟨fun h => ?_, fun h => ?_⟩
  · cases h
  · rcases h with h | h <;> cases h

theorem Laws.Coded.stB (g : Guard) (rs xb : SSrc) (imm : Imm) : Statement (.stB g rs xb imm) := by
  intro hw
  refine ⟨fun h => ?_, fun h => ?_⟩
  · cases h
  · rcases h with h | h <;> cases h

theorem Laws.Coded.ldv (g : Guard) (vd : VDst) (xb : SSrc) (imm : Imm) : Statement (.ldv g vd xb imm) := by
  intro hw
  refine ⟨fun h => ?_, fun h => ?_⟩
  · cases h
  · rcases h with h | h <;> cases h

theorem Laws.Coded.stv (g : Guard) (vs : VSrc) (xb : SSrc) (imm : Imm) : Statement (.stv g vs xb imm) := by
  intro hw
  refine ⟨fun h => ?_, fun h => ?_⟩
  · cases h
  · rcases h with h | h <;> cases h

theorem Laws.Coded.ldg (g : Guard) (vd : VDst) (xb : SSrc) (vi : VSrc) : Statement (.ldg g vd xb vi) := by
  intro hw
  refine ⟨fun h => ?_, fun h => ?_⟩
  · cases h
  · rcases h with h | h <;> cases h

theorem Laws.Coded.sts (g : Guard) (vs : VSrc) (xb : SSrc) (vi : VSrc) : Statement (.sts g vs xb vi) := by
  intro hw
  refine ⟨fun h => ?_, fun h => ?_⟩
  · cases h
  · rcases h with h | h <;> cases h

theorem Laws.Coded.ldl (g : Guard) (vd : VDst) (xo : SSrc) (off : BitVec 11) : Statement (.ldl g vd xo off) := by
  intro hw
  refine ⟨fun h => ?_, fun h => ?_⟩
  · cases h
  · rcases h with h | h <;> cases h

theorem Laws.Coded.stl (g : Guard) (vs : VSrc) (xo : SSrc) (off : BitVec 11) : Statement (.stl g vs xo off) := by
  intro hw
  refine ⟨fun h => ?_, fun h => ?_⟩
  · cases h
  · rcases h with h | h <;> cases h

theorem Laws.Coded.pref (g : Guard) (xb : SSrc) (imm : Imm) : Statement (.pref g xb imm) := by
  intro hw
  refine ⟨fun h => ?_, fun h => ?_⟩
  · cases h
  · rcases h with h | h <;> cases h

theorem Laws.Coded.lde (g : Guard) (rd : SDst) (xb : SSrc) (imm : Imm) : Statement (.lde g rd xb imm) := by
  intro hw
  refine ⟨fun h => ?_, fun h => ?_⟩
  · cases h
  · rcases h with h | h <;> cases h

theorem Laws.Coded.stf (g : Guard) (rs xb : SSrc) (imm : Imm) : Statement (.stf g rs xb imm) := by
  intro hw
  refine ⟨fun h => ?_, fun h => ?_⟩
  · cases h
  · rcases h with h | h <;> cases h

theorem Laws.Coded.ldf (g : Guard) (rd : SDst) (xb : SSrc) (imm : Imm) : Statement (.ldf g rd xb imm) := by
  intro hw
  refine ⟨fun h => ?_, fun h => ?_⟩
  · cases h
  · rcases h with h | h <;> cases h

theorem Laws.Coded.fempty (g : Guard) (xb : SSrc) (imm : Imm) : Statement (.fempty g xb imm) := by
  intro hw
  refine ⟨fun h => ?_, fun h => ?_⟩
  · cases h
  · rcases h with h | h <;> cases h

theorem Laws.Coded.futr (g : Guard) (rd : SDst) (xb : SSrc) (imm : Imm) : Statement (.futr g rd xb imm) := by
  intro hw
  refine ⟨fun h => ?_, fun h => ?_⟩
  · cases h
  · rcases h with h | h <;> cases h

theorem Laws.Coded.futw (g : Guard) (rd : SDst) (rs xb : SSrc) (imm : Imm) : Statement (.futw g rd rs xb imm) := by
  intro hw
  refine ⟨fun h => ?_, fun h => ?_⟩
  · cases h
  · rcases h with h | h <;> cases h

theorem Laws.Coded.aadd (g : Guard) (w : Bool) (rd : SDst) (xb rs : SSrc) : Statement (.aadd g w rd xb rs) := by
  intro hw
  refine ⟨fun h => ?_, fun h => ?_⟩
  · cases h
  · rcases h with h | h <;> cases h

theorem Laws.Coded.amin (g : Guard) (w : Bool) (rd : SDst) (xb rs : SSrc) : Statement (.amin g w rd xb rs) := by
  intro hw
  refine ⟨fun h => ?_, fun h => ?_⟩
  · cases h
  · rcases h with h | h <;> cases h

theorem Laws.Coded.amax (g : Guard) (w : Bool) (rd : SDst) (xb rs : SSrc) : Statement (.amax g w rd xb rs) := by
  intro hw
  refine ⟨fun h => ?_, fun h => ?_⟩
  · cases h
  · rcases h with h | h <;> cases h

theorem Laws.Coded.axch (g : Guard) (w : Bool) (rd : SDst) (xb rs : SSrc) : Statement (.axch g w rd xb rs) := by
  intro hw
  refine ⟨fun h => ?_, fun h => ?_⟩
  · cases h
  · rcases h with h | h <;> cases h

theorem Laws.Coded.acas (g : Guard) (w : Bool) (rd : SDst) (xb rs rc : SSrc) : Statement (.acas g w rd xb rs rc) := by
  intro hw
  refine ⟨fun h => ?_, fun h => ?_⟩
  · cases h
  · rcases h with h | h <;> cases h

theorem Laws.Coded.aand (g : Guard) (w : Bool) (rd : SDst) (xb rs : SSrc) : Statement (.aand g w rd xb rs) := by
  intro hw
  refine ⟨fun h => ?_, fun h => ?_⟩
  · cases h
  · rcases h with h | h <;> cases h

theorem Laws.Coded.aor (g : Guard) (w : Bool) (rd : SDst) (xb rs : SSrc) : Statement (.aor g w rd xb rs) := by
  intro hw
  refine ⟨fun h => ?_, fun h => ?_⟩
  · cases h
  · rcases h with h | h <;> cases h

theorem Laws.Coded.acqGroup (g : Guard) (rd : SDst) (xs : SSrc) : Statement (.acqGroup g rd xs) := by
  intro hw
  refine ⟨fun h => ?_, fun h => ?_⟩
  · cases h
  · rcases h with h | h <;> cases h

theorem Laws.Coded.acqDevice (g : Guard) (rd : SDst) (xs : SSrc) : Statement (.acqDevice g rd xs) := by
  intro hw
  refine ⟨fun h => ?_, fun h => ?_⟩
  · cases h
  · rcases h with h | h <;> cases h

theorem Laws.Coded.acqSystem (g : Guard) (rd : SDst) (xs : SSrc) : Statement (.acqSystem g rd xs) := by
  intro hw
  refine ⟨fun h => ?_, fun h => ?_⟩
  · cases h
  · rcases h with h | h <;> cases h

theorem Laws.Coded.relGroup (g : Guard) (xs rv : SSrc) : Statement (.relGroup g xs rv) := by
  intro hw
  refine ⟨fun h => ?_, fun h => ?_⟩
  · cases h
  · rcases h with h | h <;> cases h

theorem Laws.Coded.relDevice (g : Guard) (xs rv : SSrc) : Statement (.relDevice g xs rv) := by
  intro hw
  refine ⟨fun h => ?_, fun h => ?_⟩
  · cases h
  · rcases h with h | h <;> cases h

theorem Laws.Coded.relSystem (g : Guard) (xs rv : SSrc) : Statement (.relSystem g xs rv) := by
  intro hw
  refine ⟨fun h => ?_, fun h => ?_⟩
  · cases h
  · rcases h with h | h <;> cases h

theorem Laws.Coded.fenceGroup (g : Guard) : Statement (.fenceGroup g) := by
  intro hw
  refine ⟨fun h => ?_, fun h => ?_⟩
  · cases h
  · rcases h with h | h <;> cases h

theorem Laws.Coded.fenceDevice (g : Guard) : Statement (.fenceDevice g) := by
  intro hw
  refine ⟨fun h => ?_, fun h => ?_⟩
  · cases h
  · rcases h with h | h <;> cases h

theorem Laws.Coded.fenceSystem (g : Guard) : Statement (.fenceSystem g) := by
  intro hw
  refine ⟨fun h => ?_, fun h => ?_⟩
  · cases h
  · rcases h with h | h <;> cases h

theorem Laws.Coded.cpw (g : Guard) (k : Fin 8) (a b : SSrc) : Statement (.cpw g k a b) := by
  intro hw
  refine ⟨fun h => ?_, fun h => ?_⟩
  · cases h
  · rcases h with h | h <;> cases h

theorem Laws.Coded.cpgo (g : Guard) (rd : SDst) : Statement (.cpgo g rd) := by
  intro hw
  refine ⟨fun h => ?_, fun h => ?_⟩
  · cases h
  · rcases h with h | h <;> cases h

theorem Laws.Coded.cpwany (g : Guard) (rd : SDst) (a : SSrc) : Statement (.cpwany g rd a) := by
  intro hw
  refine ⟨fun h => ?_, fun h => ?_⟩
  · cases h
  · rcases h with h | h <;> cases h

theorem Laws.Coded.cpwall (g : Guard) (rd : SDst) (a : SSrc) : Statement (.cpwall g rd a) := by
  intro hw
  refine ⟨fun h => ?_, fun h => ?_⟩
  · cases h
  · rcases h with h | h <;> cases h

theorem Laws.Coded.cpff (g : Guard) (rd : SDst) (a : SSrc) : Statement (.cpff g rd a) := by
  intro hw
  refine ⟨fun h => ?_, fun h => ?_⟩
  · cases h
  · rcases h with h | h <;> cases h

theorem Laws.Coded.cpclr (g : Guard) (a : SSrc) : Statement (.cpclr g a) := by
  intro hw
  refine ⟨fun h => ?_, fun h => ?_⟩
  · cases h
  · rcases h with h | h <;> cases h

theorem Laws.Coded.cpclrF (g : Guard) (a : SSrc) : Statement (.cpclrF g a) := by
  intro hw
  refine ⟨fun h => ?_, fun h => ?_⟩
  · cases h
  · rcases h with h | h <;> cases h

theorem Laws.Coded.cpchk (g : Guard) (rd : SDst) (a : SSrc) : Statement (.cpchk g rd a) := by
  intro hw
  refine ⟨fun h => ?_, fun h => ?_⟩
  · cases h
  · rcases h with h | h <;> cases h

theorem Laws.Coded.spawn (g : Guard) (gd : Fin 8) (xpc xc : SSrc) (b : Fin 32) : Statement (.spawn g gd xpc xc b) := by
  intro hw
  refine ⟨fun h => ?_, fun h => ?_⟩
  · cases h
  · rcases h with h | h <;> cases h

theorem Laws.Coded.quit (g : Guard) (xs : SSrc) : Statement (.quit g xs) := by
  intro hw
  refine ⟨fun h => ?_, fun h => ?_⟩
  · cases h
  · rcases h with h | h <;> cases h

theorem Laws.Coded.reap (g : Guard) (rd : SDst) : Statement (.reap g rd) := by
  intro hw
  refine ⟨fun h => ?_, fun h => ?_⟩
  · cases h
  · rcases h with h | h <;> cases h

theorem Laws.Coded.waitw (g : Guard) : Statement (.waitw g) := by
  intro hw
  refine ⟨fun h => ?_, fun h => ?_⟩
  · cases h
  · rcases h with h | h <;> cases h

theorem Laws.Coded.taskq (g : Guard) (gd : Fin 8) (xs : SSrc) (n : Fin 16) : Statement (.taskq g gd xs n) := by
  intro hw
  refine ⟨fun h => ?_, fun h => ?_⟩
  · cases h
  · rcases h with h | h <;> cases h

theorem Laws.Coded.taskqDeque (g : Guard) (gd : Fin 8) (xs : SSrc) : Statement (.taskqDeque g gd xs) := by
  intro hw
  refine ⟨fun h => ?_, fun h => ?_⟩
  · cases h
  · rcases h with h | h <;> cases h

theorem Laws.Coded.take (g : Guard) (rd : SDst) (gd : Fin 8) : Statement (.take g rd gd) := by
  intro hw
  refine ⟨fun h => ?_, fun h => ?_⟩
  · cases h
  · rcases h with h | h <;> cases h

theorem Laws.Coded.steal (g : Guard) (rd : SDst) (gd : Fin 8) (xc : SSrc) : Statement (.steal g rd gd xc) := by
  intro hw
  refine ⟨fun h => ?_, fun h => ?_⟩
  · cases h
  · rcases h with h | h <;> cases h

theorem Laws.Coded.qcfgHwqueueType (g : Guard) (xa xb : SSrc) : Statement (.qcfgHwqueueType g xa xb) := by
  intro hw
  refine ⟨fun h => ?_, fun h => ?_⟩
  · cases h
  · rcases h with h | h <;> cases h

theorem Laws.Coded.qcfgPriority (g : Guard) (xa xb : SSrc) : Statement (.qcfgPriority g xa xb) := by
  intro hw
  refine ⟨fun h => ?_, fun h => ?_⟩
  · cases h
  · rcases h with h | h <;> cases h

theorem Laws.Coded.qcfgOwner (g : Guard) (xa xb : SSrc) : Statement (.qcfgOwner g xa xb) := by
  intro hw
  refine ⟨fun h => ?_, fun h => ?_⟩
  · cases h
  · rcases h with h | h <;> cases h

theorem Laws.Coded.qcfgRing (g : Guard) (xa xb : SSrc) : Statement (.qcfgRing g xa xb) := by
  intro hw
  refine ⟨fun h => ?_, fun h => ?_⟩
  · cases h
  · rcases h with h | h <;> cases h

theorem Laws.Coded.qcfgArm (g : Guard) (xa xb : SSrc) : Statement (.qcfgArm g xa xb) := by
  intro hw
  refine ⟨fun h => ?_, fun h => ?_⟩
  · cases h
  · rcases h with h | h <;> cases h

theorem Laws.Coded.qcfgCounter (g : Guard) (xa xb : SSrc) : Statement (.qcfgCounter g xa xb) := by
  intro hw
  refine ⟨fun h => ?_, fun h => ?_⟩
  · cases h
  · rcases h with h | h <;> cases h

theorem Laws.Coded.qstatHwqueue (g : Guard) (rd : SDst) (xa : SSrc) : Statement (.qstatHwqueue g rd xa) := by
  intro hw
  refine ⟨fun h => ?_, fun h => ?_⟩
  · cases h
  · rcases h with h | h <;> cases h

theorem Laws.Coded.qstatTaskqueue (g : Guard) (rd : SDst) (xa : SSrc) : Statement (.qstatTaskqueue g rd xa) := by
  intro hw
  refine ⟨fun h => ?_, fun h => ?_⟩
  · cases h
  · rcases h with h | h <;> cases h

theorem Laws.Coded.qstatCounter (g : Guard) (rd : SDst) (xa : SSrc) : Statement (.qstatCounter g rd xa) := by
  intro hw
  refine ⟨fun h => ?_, fun h => ?_⟩
  · cases h
  · rcases h with h | h <;> cases h

theorem Laws.Coded.qstatDeque (g : Guard) (rd : SDst) (xa : SSrc) : Statement (.qstatDeque g rd xa) := by
  intro hw
  refine ⟨fun h => ?_, fun h => ?_⟩
  · cases h
  · rcases h with h | h <;> cases h

theorem Laws.Coded.qstatExitqueue (g : Guard) (rd : SDst) (xa : SSrc) : Statement (.qstatExitqueue g rd xa) := by
  intro hw
  refine ⟨fun h => ?_, fun h => ?_⟩
  · cases h
  · rcases h with h | h <;> cases h

theorem Laws.Coded.qstatMailbox (g : Guard) (rd : SDst) (xa : SSrc) : Statement (.qstatMailbox g rd xa) := by
  intro hw
  refine ⟨fun h => ?_, fun h => ?_⟩
  · cases h
  · rcases h with h | h <;> cases h

theorem Laws.Coded.qstatPoisonlog (g : Guard) (rd : SDst) (xa : SSrc) : Statement (.qstatPoisonlog g rd xa) := by
  intro hw
  refine ⟨fun h => ?_, fun h => ?_⟩
  · cases h
  · rcases h with h | h <;> cases h

theorem Laws.Coded.qstatDrops (g : Guard) (rd : SDst) (xa : SSrc) : Statement (.qstatDrops g rd xa) := by
  intro hw
  refine ⟨fun h => ?_, fun h => ?_⟩
  · cases h
  · rcases h with h | h <;> cases h

theorem Laws.Coded.qrst (g : Guard) (xa : SSrc) : Statement (.qrst g xa) := by
  intro hw
  refine ⟨fun h => ?_, fun h => ?_⟩
  · cases h
  · rcases h with h | h <;> cases h

theorem Laws.Coded.send (g : Guard) (xd xa xb : SSrc) : Statement (.send g xd xa xb) := by
  intro hw
  refine ⟨fun h => ?_, fun h => ?_⟩
  · cases h
  · rcases h with h | h <;> cases h

theorem Laws.Coded.mrecv (g : Guard) (rd : Fin 32) (mb : Byte) : Statement (.mrecv g rd mb) := by
  intro hw
  refine ⟨fun h => ?_, fun h => ?_⟩
  · cases h
  · rcases h with h | h <;> cases h

theorem Laws.Coded.mrecvR (g : Guard) (rd : SDst) (k : Fin 4) : Statement (.mrecvR g rd k) := by
  intro hw
  refine ⟨fun h => ?_, fun h => ?_⟩
  · cases h
  · rcases h with h | h <;> cases h

theorem Laws.Coded.rcall (g : Guard) (rd : SDst) (xd xa : SSrc) (k : Fin 4) : Statement (.rcall g rd xd xa k) := by
  intro hw
  refine ⟨fun h => ?_, fun h => ?_⟩
  · cases h
  · rcases h with h | h <;> cases h

theorem Laws.Coded.rcallN (g : Guard) (xd xa : SSrc) (k : Fin 4) : Statement (.rcallN g xd xa k) := by
  intro hw
  refine ⟨fun h => ?_, fun h => ?_⟩
  · cases h
  · rcases h with h | h <;> cases h

theorem Laws.Coded.rreply (g : Guard) (xt xv : SSrc) : Statement (.rreply g xt xv) := by
  intro hw
  refine ⟨fun h => ?_, fun h => ?_⟩
  · cases h
  · rcases h with h | h <;> cases h

theorem Laws.Coded.bsdefJ (g : Guard) (xs xc : SSrc) : Statement (.bsdefJ g xs xc) := by
  intro hw
  refine ⟨fun h => ?_, fun h => ?_⟩
  · cases h
  · rcases h with h | h <;> cases h

theorem Laws.Coded.bsdefL (g : Guard) (xs : SSrc) : Statement (.bsdefL g xs) := by
  intro hw
  refine ⟨fun h => ?_, fun h => ?_⟩
  · cases h
  · rcases h with h | h <;> cases h

theorem Laws.Coded.barv (g : Guard) (rd : SDst) (k : Fin 4) : Statement (.barv g rd k) := by
  intro hw
  refine ⟨fun h => ?_, fun h => ?_⟩
  · cases h
  · rcases h with h | h <;> cases h

theorem Laws.Coded.bwait (g : Guard) (xp : SSrc) (k : Fin 4) : Statement (.bwait g xp k) := by
  intro hw
  refine ⟨fun h => ?_, fun h => ?_⟩
  · cases h
  · rcases h with h | h <;> cases h

theorem Laws.Coded.barw (g : Guard) (rd : SDst) (k : Fin 4) : Statement (.barw g rd k) := by
  intro hw
  refine ⟨fun h => ?_, fun h => ?_⟩
  · cases h
  · rcases h with h | h <;> cases h

theorem Laws.Coded.rbind (g : Guard) (rd : SDst) (xb xl xs : SSrc) : Statement (.rbind g rd xb xl xs) := by
  intro hw
  refine ⟨fun h => ?_, fun h => ?_⟩
  · cases h
  · rcases h with h | h <;> cases h

theorem Laws.Coded.runbnd (g : Guard) (xi : SSrc) : Statement (.runbnd g xi) := by
  intro hw
  refine ⟨fun h => ?_, fun h => ?_⟩
  · cases h
  · rcases h with h | h <;> cases h

theorem Laws.Coded.slotwA (g : Guard) (xp xv : SSrc) : Statement (.slotwA g xp xv) := by
  intro hw
  refine ⟨fun h => ?_, fun h => ?_⟩
  · cases h
  · rcases h with h | h <;> cases h

theorem Laws.Coded.slotwB (g : Guard) (xp xv : SSrc) : Statement (.slotwB g xp xv) := by
  intro hw
  refine ⟨fun h => ?_, fun h => ?_⟩
  · cases h
  · rcases h with h | h <;> cases h

theorem Laws.Coded.slotwE (g : Guard) (xp xv : SSrc) : Statement (.slotwE g xp xv) := by
  intro hw
  refine ⟨fun h => ?_, fun h => ?_⟩
  · cases h
  · rcases h with h | h <;> cases h

theorem Laws.Coded.slotwT (g : Guard) (xp xv : SSrc) : Statement (.slotwT g xp xv) := by
  intro hw
  refine ⟨fun h => ?_, fun h => ?_⟩
  · cases h
  · rcases h with h | h <;> cases h

theorem Laws.Coded.slotrdA (g : Guard) (rd : SDst) (xp : SSrc) : Statement (.slotrdA g rd xp) := by
  intro hw
  refine ⟨fun h => ?_, fun h => ?_⟩
  · cases h
  · rcases h with h | h <;> cases h

theorem Laws.Coded.slotrdB (g : Guard) (rd : SDst) (xp : SSrc) : Statement (.slotrdB g rd xp) := by
  intro hw
  refine ⟨fun h => ?_, fun h => ?_⟩
  · cases h
  · rcases h with h | h <;> cases h

theorem Laws.Coded.slotrdE (g : Guard) (rd : SDst) (xp : SSrc) : Statement (.slotrdE g rd xp) := by
  intro hw
  refine ⟨fun h => ?_, fun h => ?_⟩
  · cases h
  · rcases h with h | h <;> cases h

theorem Laws.Coded.slotrdT (g : Guard) (rd : SDst) (xp : SSrc) : Statement (.slotrdT g rd xp) := by
  intro hw
  refine ⟨fun h => ?_, fun h => ?_⟩
  · cases h
  · rcases h with h | h <;> cases h

theorem Laws.Coded.sframe (g : Guard) (gd : Fin 8) (rd : SDst) (xs : SSrc) : Statement (.sframe g gd rd xs) := by
  intro hw
  refine ⟨fun h => ?_, fun h => ?_⟩
  · cases h
  · rcases h with h | h <;> cases h

theorem Laws.Coded.semit (g : Guard) (gd : Fin 8) (rd : SDst) (xs xv : SSrc) : Statement (.semit g gd rd xs xv) := by
  intro hw
  refine ⟨fun h => ?_, fun h => ?_⟩
  · cases h
  · rcases h with h | h <;> cases h

theorem Laws.Coded.scurGnc (g : Guard) (rd : SDst) (xs : SSrc) : Statement (.scurGnc g rd xs) := by
  intro hw
  refine ⟨fun h => ?_, fun h => ?_⟩
  · cases h
  · rcases h with h | h <;> cases h

theorem Laws.Coded.scurPbc (g : Guard) (rd : SDst) (xs : SSrc) : Statement (.scurPbc g rd xs) := by
  intro hw
  refine ⟨fun h => ?_, fun h => ?_⟩
  · cases h
  · rcases h with h | h <;> cases h

theorem Laws.Coded.scurTp (g : Guard) (rd : SDst) (xs : SSrc) : Statement (.scurTp g rd xs) := by
  intro hw
  refine ⟨fun h => ?_, fun h => ?_⟩
  · cases h
  · rcases h with h | h <;> cases h

theorem Laws.Coded.scurNseq (g : Guard) (rd : SDst) (xs : SSrc) : Statement (.scurNseq g rd xs) := by
  intro hw
  refine ⟨fun h => ?_, fun h => ?_⟩
  · cases h
  · rcases h with h | h <;> cases h

theorem Laws.Coded.scurSnapshots (g : Guard) (rd : SDst) (xs : SSrc) : Statement (.scurSnapshots g rd xs) := by
  intro hw
  refine ⟨fun h => ?_, fun h => ?_⟩
  · cases h
  · rcases h with h | h <;> cases h

theorem Laws.Coded.scurLoss (g : Guard) (rd : SDst) (xs : SSrc) : Statement (.scurLoss g rd xs) := by
  intro hw
  refine ⟨fun h => ?_, fun h => ?_⟩
  · cases h
  · rcases h with h | h <;> cases h

theorem Laws.Coded.scurDrops (g : Guard) (rd : SDst) (xs : SSrc) : Statement (.scurDrops g rd xs) := by
  intro hw
  refine ⟨fun h => ?_, fun h => ?_⟩
  · cases h
  · rcases h with h | h <;> cases h

theorem Laws.Coded.strunc (g : Guard) (rd : SDst) (xs : SSrc) : Statement (.strunc g rd xs) := by
  intro hw
  refine ⟨fun h => ?_, fun h => ?_⟩
  · cases h
  · rcases h with h | h <;> cases h

theorem Laws.Coded.ssnap (g : Guard) (rd : SDst) (xs xp : SSrc) : Statement (.ssnap g rd xs xp) := by
  intro hw
  refine ⟨fun h => ?_, fun h => ?_⟩
  · cases h
  · rcases h with h | h <;> cases h

theorem Laws.Coded.sownOwner (g : Guard) (xs xo : SSrc) : Statement (.sownOwner g xs xo) := by
  intro hw
  refine ⟨fun h => ?_, fun h => ?_⟩
  · cases h
  · rcases h with h | h <;> cases h

theorem Laws.Coded.sownOpen (g : Guard) (xs xo : SSrc) : Statement (.sownOpen g xs xo) := by
  intro hw
  refine ⟨fun h => ?_, fun h => ?_⟩
  · cases h
  · rcases h with h | h <;> cases h

theorem Laws.Coded.sownClose (g : Guard) (xs xo : SSrc) : Statement (.sownClose g xs xo) := by
  intro hw
  refine ⟨fun h => ?_, fun h => ?_⟩
  · cases h
  · rcases h with h | h <;> cases h

theorem Laws.Coded.swdecl (g : Guard) (rd : SDst) (xa : SSrc) : Statement (.swdecl g rd xa) := by
  intro hw
  refine ⟨fun h => ?_, fun h => ?_⟩
  · cases h
  · rcases h with h | h <;> cases h

theorem Laws.Coded.swdeclO (g : Guard) (xt xo : SSrc) : Statement (.swdeclO g xt xo) := by
  intro hw
  refine ⟨fun h => ?_, fun h => ?_⟩
  · cases h
  · rcases h with h | h <;> cases h

theorem Laws.Coded.swgo (g : Guard) (xt xn : SSrc) : Statement (.swgo g xt xn) := by
  intro hw
  refine ⟨fun h => ?_, fun h => ?_⟩
  · cases h
  · rcases h with h | h <;> cases h

theorem Laws.Coded.swgoC (g : Guard) (xt xn : SSrc) : Statement (.swgoC g xt xn) := by
  intro hw
  refine ⟨fun h => ?_, fun h => ?_⟩
  · cases h
  · rcases h with h | h <;> cases h

theorem Laws.Coded.swgoW (g : Guard) (res : Bool) (xt xn : SSrc) : Statement (.swgoW g res xt xn) := by
  intro hw
  refine ⟨fun h => ?_, fun h => ?_⟩
  · cases h
  · rcases h with h | h <;> cases h

theorem Laws.Coded.swstop (g : Guard) (xt : SSrc) : Statement (.swstop g xt) := by
  intro hw
  refine ⟨fun h => ?_, fun h => ?_⟩
  · cases h
  · rcases h with h | h <;> cases h

theorem Laws.Coded.swstopD (g : Guard) (xt : SSrc) : Statement (.swstopD g xt) := by
  intro hw
  refine ⟨fun h => ?_, fun h => ?_⟩
  · cases h
  · rcases h with h | h <;> cases h

theorem Laws.Coded.swstatSn (g : Guard) (rd : SDst) (xt : SSrc) : Statement (.swstatSn g rd xt) := by
  intro hw
  refine ⟨fun h => ?_, fun h => ?_⟩
  · cases h
  · rcases h with h | h <;> cases h

theorem Laws.Coded.swstatPos (g : Guard) (rd : SDst) (xt : SSrc) : Statement (.swstatPos g rd xt) := by
  intro hw
  refine ⟨fun h => ?_, fun h => ?_⟩
  · cases h
  · rcases h with h | h <;> cases h

theorem Laws.Coded.swstatPend (g : Guard) (rd : SDst) (xt : SSrc) : Statement (.swstatPend g rd xt) := by
  intro hw
  refine ⟨fun h => ?_, fun h => ?_⟩
  · cases h
  · rcases h with h | h <;> cases h

theorem Laws.Coded.swstatLoss (g : Guard) (rd : SDst) (xt : SSrc) : Statement (.swstatLoss g rd xt) := by
  intro hw
  refine ⟨fun h => ?_, fun h => ?_⟩
  · cases h
  · rcases h with h | h <;> cases h

theorem Laws.Coded.cntcfg (g : Guard) (id : BitVec 12) (a : SSrc) : Statement (.cntcfg g id a) := by
  intro hw
  refine ⟨fun h => ?_, fun h => ?_⟩
  · cases h
  · rcases h with h | h <;> cases h

theorem Laws.Coded.cntrd (g : Guard) (rd : SDst) (id : BitVec 12) : Statement (.cntrd g rd id) := by
  intro hw
  refine ⟨fun h => ?_, fun h => ?_⟩
  · cases h
  · rcases h with h | h <;> cases h

theorem Laws.Coded.cntrdC (g : Guard) (rd : SDst) (id : BitVec 12) : Statement (.cntrdC g rd id) := by
  intro hw
  refine ⟨fun h => ?_, fun h => ?_⟩
  · cases h
  · rcases h with h | h <;> cases h

theorem Laws.Coded.cntwr (g : Guard) (id : BitVec 12) (a : SSrc) : Statement (.cntwr g id a) := by
  intro hw
  refine ⟨fun h => ?_, fun h => ?_⟩
  · cases h
  · rcases h with h | h <;> cases h

theorem Laws.Coded.cntsv (g : Guard) (grp : Fin 4) (a : SSrc) : Statement (.cntsv g grp a) := by
  intro hw
  refine ⟨fun h => ?_, fun h => ?_⟩
  · cases h
  · rcases h with h | h <;> cases h

theorem Laws.Coded.cntld (g : Guard) (grp : Fin 4) (a : SSrc) : Statement (.cntld g grp a) := by
  intro hw
  refine ⟨fun h => ?_, fun h => ?_⟩
  · cases h
  · rcases h with h | h <;> cases h

theorem Laws.Coded.bkpt (g : Guard) (n : BitVec 16) : Statement (.bkpt g n) := by
  intro hw
  refine ⟨fun h => ?_, fun h => ?_⟩
  · cases h
  · rcases h with h | h <;> cases h

theorem Laws.Coded.bkptW (g : Guard) (a b : SSrc) : Statement (.bkptW g a b) := by
  intro hw
  refine ⟨fun h => ?_, fun h => ?_⟩
  · cases h
  · rcases h with h | h <;> cases h

theorem Laws.Coded.bkptR (g : Guard) (rd : SDst) (a : SSrc) : Statement (.bkptR g rd a) := by
  intro hw
  refine ⟨fun h => ?_, fun h => ?_⟩
  · cases h
  · rcases h with h | h <;> cases h

theorem Laws.Coded.bkptS (g : Guard) (a b : SSrc) : Statement (.bkptS g a b) := by
  intro hw
  refine ⟨fun h => ?_, fun h => ?_⟩
  · cases h
  · rcases h with h | h <;> cases h

theorem Laws.Coded.bkptF (g : Guard) : Statement (.bkptF g) := by
  intro hw
  refine ⟨fun h => ?_, fun h => ?_⟩
  · cases h
  · rcases h with h | h <;> cases h

theorem Laws.Coded.bkptT (g : Guard) (op : Fin 11) (a : SSrc) : Statement (.bkptT g op a) := by
  intro hw
  refine ⟨fun h => ?_, fun h => ?_⟩
  · cases h
  · rcases h with h | h <;> cases h

theorem Laws.Coded.tmark (g : Guard) (a : SSrc) (imm : Imm) : Statement (.tmark g a imm) := by
  intro hw
  refine ⟨fun h => ?_, fun h => ?_⟩
  · cases h
  · rcases h with h | h <;> cases h

theorem Laws.Coded.tmarkO (g : Guard) (a : SSrc) (imm : Imm) : Statement (.tmarkO g a imm) := by
  intro hw
  refine ⟨fun h => ?_, fun h => ?_⟩
  · cases h
  · rcases h with h | h <;> cases h

theorem Laws.Coded.tmarkC (g : Guard) (form : Form) : Statement (.tmarkC g form) := by
  intro hw
  refine ⟨fun h => ?_, fun h => ?_⟩
  · cases h
  · rcases h with h | h <;> cases h

theorem Laws.Coded.rmark (g : Guard) (a : SSrc) (imm : Imm) : Statement (.rmark g a imm) := by
  intro hw
  refine ⟨fun h => ?_, fun h => ?_⟩
  · cases h
  · rcases h with h | h <;> cases h

theorem Laws.Coded.tret (g : Guard) : Statement (.tret g) := by
  intro hw
  refine ⟨fun h => ?_, fun h => ?_⟩
  · cases h
  · rcases h with h | h <;> cases h

theorem Laws.Coded.yield (g : Guard) (rd : SDst) : Statement (.yield g rd) := by
  intro hw
  refine ⟨fun h => ?_, fun h => ?_⟩
  · cases h
  · rcases h with h | h <;> cases h

theorem Laws.Coded.csave (g : Guard) (xa xc : SSrc) : Statement (.csave g xa xc) := by
  intro hw
  refine ⟨fun h => ?_, fun h => ?_⟩
  · cases h
  · rcases h with h | h <;> cases h

theorem Laws.Coded.endl : Statement (.endl) := by
  intro hw
  refine ⟨fun h => ?_, fun h => ?_⟩
  · cases h
  · rcases h with h | h <;> cases h

theorem Laws.Coded.reservedEncoding : Statement (.reservedEncoding) := by intro _; exact ⟨fun _ => .inr rfl, fun _ => rfl⟩

theorem Laws.Coded.crest (g : Guard) (xa xc : SSrc) : Statement (.crest g xa xc) := by
  intro hw
  refine ⟨fun h => ?_, fun h => ?_⟩
  · cases h
  · rcases h with h | h <;> cases h

theorem encodeRaw_scalarHalf (i : Instr) (g : Guard) (h : i.scalarHalf g = true) : ∃ r, encodeRaw i = some r := by
  cases i <;> first | exact ⟨_, rfl⟩ | cases h

theorem encodeRaw_vectorHalf (i : Instr) (g : Guard) (h : i.vectorHalf g = true) : ∃ r, encodeRaw i = some r := by
  cases i <;> first | exact ⟨_, rfl⟩ | cases h

theorem Laws.Coded.pairWord (g : Guard) (sh vh : Instr) : Statement (.pairWord g sh vh) := by
  intro hw
  simp only [Instr.wf, Bool.and_eq_true] at hw
  obtain ⟨x, hx⟩ := encodeRaw_scalarHalf sh g hw.1.1.1.1
  obtain ⟨y, hy⟩ := encodeRaw_vectorHalf vh g hw.1.1.1.2
  refine ⟨fun h => ?_, fun h => ?_⟩
  · simp [encode, hx, hy] at h
  · rcases h with h | h <;> cases h

theorem Laws.Coded.powerOn : Statement (.powerOn) := by intro _; exact ⟨fun _ => .inl rfl, fun _ => rfl⟩

theorem Laws.Coded.commit : Statement (.commit) := by intro _; exact ⟨fun _ => .inl rfl, fun _ => rfl⟩

theorem Laws.Coded.linkEvent (port : Fin 32) (up : Bool) : Statement (.linkEvent port up) := by intro _; exact ⟨fun _ => .inl rfl, fun _ => rfl⟩

theorem Laws.Coded.scrub (loc : Nat) (bad : Bool) : Statement (.scrub loc bad) := by intro _; exact ⟨fun _ => .inl rfl, fun _ => rfl⟩

theorem Laws.Coded.queueSramError (cl : Nat) (counter : Bool) (idx : Nat) : Statement (.queueSramError cl counter idx) := by intro _; exact ⟨fun _ => .inl rfl, fun _ => rfl⟩

theorem Laws.Coded.launch (req : HostReq) : Statement (.launch req) := by intro _; exact ⟨fun _ => .inl rfl, fun _ => rfl⟩

theorem Laws.Coded.startMessage (i : Nat) : Statement (.startMessage i) := by intro _; exact ⟨fun _ => .inl rfl, fun _ => rfl⟩

theorem Laws.Coded.launchComplete (i : Nat) : Statement (.launchComplete i) := by intro _; exact ⟨fun _ => .inl rfl, fun _ => rfl⟩

theorem Laws.Coded.write (req : HostReq) : Statement (.write req) := by intro _; exact ⟨fun _ => .inl rfl, fun _ => rfl⟩

theorem Laws.Coded.read (req : HostReq) : Statement (.read req) := by intro _; exact ⟨fun _ => .inl rfl, fun _ => rfl⟩

theorem Laws.Coded.map (req : HostReq) : Statement (.map req) := by intro _; exact ⟨fun _ => .inl rfl, fun _ => rfl⟩

theorem Laws.Coded.unmap (req : HostReq) : Statement (.unmap req) := by intro _; exact ⟨fun _ => .inl rfl, fun _ => rfl⟩

theorem Laws.Coded.share (req : HostReq) : Statement (.share req) := by intro _; exact ⟨fun _ => .inl rfl, fun _ => rfl⟩

theorem Laws.Coded.group (req : HostReq) : Statement (.group req) := by intro _; exact ⟨fun _ => .inl rfl, fun _ => rfl⟩

theorem Laws.Coded.sessionDefine (req : HostReq) : Statement (.sessionDefine req) := by intro _; exact ⟨fun _ => .inl rfl, fun _ => rfl⟩

theorem Laws.Coded.sessionRemove (req : HostReq) : Statement (.sessionRemove req) := by intro _; exact ⟨fun _ => .inl rfl, fun _ => rfl⟩

theorem Laws.Coded.pstart (req : HostReq) : Statement (.pstart req) := by intro _; exact ⟨fun _ => .inl rfl, fun _ => rfl⟩

theorem Laws.Coded.pstop (req : HostReq) : Statement (.pstop req) := by intro _; exact ⟨fun _ => .inl rfl, fun _ => rfl⟩

theorem Laws.Coded.status (req : HostReq) : Statement (.status req) := by intro _; exact ⟨fun _ => .inl rfl, fun _ => rfl⟩

theorem Laws.Coded.mailboxRequest (i : Nat) : Statement (.mailboxRequest i) := by intro _; exact ⟨fun _ => .inl rfl, fun _ => rfl⟩

theorem Laws.Coded.stopReport (i : Nat) : Statement (.stopReport i) := by intro _; exact ⟨fun _ => .inl rfl, fun _ => rfl⟩

theorem Laws.Coded.relayForward (die : Fin 4) (dst : BitVec 32) (packet : Packet) : Statement (.relayForward die dst packet) := by intro _; exact ⟨fun _ => .inl rfl, fun _ => rfl⟩

theorem Laws.Coded.roundContribution (sid : Nat) : Statement (.roundContribution sid) := by intro _; exact ⟨fun _ => .inl rfl, fun _ => rfl⟩

theorem Laws.Coded.treeCombine (sid level node : Nat) (remote : List (Nat × Nat × List Lane × BitVec 5)) : Statement (.treeCombine sid level node remote) := by intro _; exact ⟨fun _ => .inl rfl, fun _ => rfl⟩

theorem Laws.Coded.roundResult (sid : Nat) (remote : Option (List Lane × BitVec 5)) : Statement (.roundResult sid remote) := by intro _; exact ⟨fun _ => .inl rfl, fun _ => rfl⟩

theorem Laws.Coded.memberUnreachable (sid : Nat) : Statement (.memberUnreachable sid) := by intro _; exact ⟨fun _ => .inl rfl, fun _ => rfl⟩

theorem Laws.Coded.inputFrame (f : Frame) : Statement (.inputFrame f) := by intro _; exact ⟨fun _ => .inl rfl, fun _ => rfl⟩

theorem Laws.Coded.ackFrame (f : Frame) : Statement (.ackFrame f) := by intro _; exact ⟨fun _ => .inl rfl, fun _ => rfl⟩

theorem Laws.Coded.bargeFrame (f : Frame) : Statement (.bargeFrame f) := by intro _; exact ⟨fun _ => .inl rfl, fun _ => rfl⟩

theorem Laws.Coded.outputRecordSend (sid : Nat) : Statement (.outputRecordSend sid) := by intro _; exact ⟨fun _ => .inl rfl, fun _ => rfl⟩

theorem Laws.Coded.sweepPeriod (cl t : Nat) : Statement (.sweepPeriod cl t) := by intro _; exact ⟨fun _ => .inl rfl, fun _ => rfl⟩

theorem Laws.Coded.sweepStart (cl : Nat) : Statement (.sweepStart cl) := by intro _; exact ⟨fun _ => .inl rfl, fun _ => rfl⟩

theorem Laws.Coded.elementVisit (cl : Nat) : Statement (.elementVisit cl) := by intro _; exact ⟨fun _ => .inl rfl, fun _ => rfl⟩

theorem Laws.Coded.visitOverrun (cl : Nat) : Statement (.visitOverrun cl) := by intro _; exact ⟨fun _ => .inl rfl, fun _ => rfl⟩

theorem Laws.Coded.sweepRelease (cl : Nat) : Statement (.sweepRelease cl) := by intro _; exact ⟨fun _ => .inl rfl, fun _ => rfl⟩

theorem Laws.Coded.instructionFetch (core ctx : Nat) (block : Word) (cut : Nat) : Statement (.instructionFetch core ctx block cut) := by intro _; exact ⟨fun _ => .inl rfl, fun _ => rfl⟩

theorem Laws.Coded.memoryReply (core ctx : Nat) (cuts : List Nat) : Statement (.memoryReply core ctx cuts) := by intro _; exact ⟨fun _ => .inl rfl, fun _ => rfl⟩

theorem Laws.Coded.drain (i : Nat) : Statement (.drain i) := by intro _; exact ⟨fun _ => .inl rfl, fun _ => rfl⟩

theorem Laws.Coded.lift (store stamp : Nat) : Statement (.lift store stamp) := by intro _; exact ⟨fun _ => .inl rfl, fun _ => rfl⟩

theorem Laws.Coded.acquireMove (core ctx : Nat) : Statement (.acquireMove core ctx) := by intro _; exact ⟨fun _ => .inl rfl, fun _ => rfl⟩

theorem Laws.Coded.releaseMove (core ctx : Nat) : Statement (.releaseMove core ctx) := by intro _; exact ⟨fun _ => .inl rfl, fun _ => rfl⟩

theorem Laws.Coded.fenceMove (core ctx : Nat) : Statement (.fenceMove core ctx) := by intro _; exact ⟨fun _ => .inl rfl, fun _ => rfl⟩

theorem Laws.Coded.atomicMove (core ctx : Nat) : Statement (.atomicMove core ctx) := by intro _; exact ⟨fun _ => .inl rfl, fun _ => rfl⟩

theorem Laws.Coded.tlbWalkComplete (cl i : Nat) : Statement (.tlbWalkComplete cl i) := by intro _; exact ⟨fun _ => .inl rfl, fun _ => rfl⟩

theorem Laws.Coded.frtWindow (die : Nat) : Statement (.frtWindow die) := by intro _; exact ⟨fun _ => .inl rfl, fun _ => rfl⟩

theorem Laws.Coded.copyChunkLand (core tag chunk : Nat) : Statement (.copyChunkLand core tag chunk) := by intro _; exact ⟨fun _ => .inl rfl, fun _ => rfl⟩

theorem Laws.Coded.copyComplete (core tag : Nat) : Statement (.copyComplete core tag) := by intro _; exact ⟨fun _ => .inl rfl, fun _ => rfl⟩

theorem Laws.Coded.freebackCombine (core tag : Nat) : Statement (.freebackCombine core tag) := by intro _; exact ⟨fun _ => .inl rfl, fun _ => rfl⟩

theorem Laws.Coded.matrixComplete (core : Nat) : Statement (.matrixComplete core) := by intro _; exact ⟨fun _ => .inl rfl, fun _ => rfl⟩

theorem Laws.Coded.weightLoadComplete (core ctx : Nat) : Statement (.weightLoadComplete core ctx) := by intro _; exact ⟨fun _ => .inl rfl, fun _ => rfl⟩

theorem Laws.Coded.swaptComplete (core ctx : Nat) : Statement (.swaptComplete core ctx) := by intro _; exact ⟨fun _ => .inl rfl, fun _ => rfl⟩

theorem Laws.Coded.foldSwap (phys virt : Nat) : Statement (.foldSwap phys virt) := by intro _; exact ⟨fun _ => .inl rfl, fun _ => rfl⟩

theorem Laws.Coded.slotChange (i : Nat) : Statement (.slotChange i) := by intro _; exact ⟨fun _ => .inl rfl, fun _ => rfl⟩

theorem Laws.Coded.bindingChange (part i : Nat) : Statement (.bindingChange part i) := by intro _; exact ⟨fun _ => .inl rfl, fun _ => rfl⟩

theorem Laws.Coded.l2BankChange (die i : Nat) : Statement (.l2BankChange die i) := by intro _; exact ⟨fun _ => .inl rfl, fun _ => rfl⟩

theorem Laws.Coded.messageDepart (core : Nat) : Statement (.messageDepart core) := by intro _; exact ⟨fun _ => .inl rfl, fun _ => rfl⟩

theorem Laws.Coded.messageEntry (i : Nat) : Statement (.messageEntry i) := by intro _; exact ⟨fun _ => .inl rfl, fun _ => rfl⟩

theorem Laws.Coded.replyArrival (i : Nat) : Statement (.replyArrival i) := by intro _; exact ⟨fun _ => .inl rfl, fun _ => rfl⟩

theorem Laws.Coded.taskDispatch (cl : Nat) : Statement (.taskDispatch cl) := by intro _; exact ⟨fun _ => .inl rfl, fun _ => rfl⟩

theorem Laws.Coded.footprintFetchComplete (core ctx : Nat) : Statement (.footprintFetchComplete core ctx) := by intro _; exact ⟨fun _ => .inl rfl, fun _ => rfl⟩

theorem Laws.Coded.ringRefill (cl : Nat) : Statement (.ringRefill cl) := by intro _; exact ⟨fun _ => .inl rfl, fun _ => rfl⟩

theorem Laws.Coded.deadlineExpiry (core : Nat) : Statement (.deadlineExpiry core) := by intro _; exact ⟨fun _ => .inl rfl, fun _ => rfl⟩

theorem Laws.Coded.preemptionComplete (part : Nat) : Statement (.preemptionComplete part) := by intro _; exact ⟨fun _ => .inl rfl, fun _ => rfl⟩

theorem Laws.Coded.counterOverflow (l2 : Bool) (place : Nat) : Statement (.counterOverflow l2 place) := by intro _; exact ⟨fun _ => .inl rfl, fun _ => rfl⟩

theorem Laws.Coded.pcSample (core : Nat) : Statement (.pcSample core) := by intro _; exact ⟨fun _ => .inl rfl, fun _ => rfl⟩

theorem Laws.Coded.stepExpiry (core ctx : Nat) : Statement (.stepExpiry core ctx) := by intro _; exact ⟨fun _ => .inl rfl, fun _ => rfl⟩

theorem Laws.Coded.foghornCoreStop (core : Nat) : Statement (.foghornCoreStop core) := by intro _; exact ⟨fun _ => .inl rfl, fun _ => rfl⟩

theorem Laws.Coded.traceTailSend (core ctx : Nat) : Statement (.traceTailSend core ctx) := by intro _; exact ⟨fun _ => .inl rfl, fun _ => rfl⟩

theorem Laws.Coded.coreCycle (core : Nat) : Statement (.coreCycle core) := by intro _; exact ⟨fun _ => .inl rfl, fun _ => rfl⟩

theorem Laws.Coded.worldSwitch (out inn : Nat) (slice : Word) (homes : List (Nat × Nat)) : Statement (.worldSwitch out inn slice homes) := by intro _; exact ⟨fun _ => .inl rfl, fun _ => rfl⟩

theorem Laws.Coded.powerLoss : Statement (.powerLoss) := by intro _; exact ⟨fun _ => .inl rfl, fun _ => rfl⟩

theorem Laws.Coded.attestation (nonce : List Byte) : Statement (.attestation nonce) := by intro _; exact ⟨fun _ => .inl rfl, fun _ => rfl⟩

end

end Sys2Proof
end

