-- ==== Sys2Proof/Tests/Slice0.lean ====
section
/-! SUPPORT. The model's own tests: ill-formed instructions, the words of every constructor, small steps, and for every
statement with hypotheses a state and operands that meet them. Expected values come from the spec's tables and examples. -/

namespace Sys2Proof.Tests

open Sys2Proof Sys2Proof.Machine

section

set_option Elab.async false
set_option maxRecDepth 8192
set_option exponentiation.threshold 2048

/-! Well-formedness: a term for each check. -/

/-- The guard that is always on. -/
abbrev on : Guard := ⟨false, 0⟩

theorem test_wf_refuses : ∀ i ∈ ([
    .nop on .h64 1, .nop on .h96 0x100000000, .br on ⟨.h64, 0x80000⟩, .bra on ⟨.h64, 0x100000⟩, .jal on .zero ⟨.h96, 0x80000000⟩,
    .rep on .zero 0 ⟨.h64, 1⟩, .rep on .zero 1 ⟨.h64, -1⟩, .loop (.reg .zero) 1 1 false 1, .loop (.lit 4) 1 1 false 2,
    .loopOpen 1 1 false 1, .vseed on (.l 0) 0 (.s .zero), .vseed on (.w 0) 1 (.lit ⟨.h96, 1⟩), .vseed on (.l 0) 1 (.lit ⟨.h64, 1⟩),
    .vseed on (.l 0) 1 (.v .zero), .vseed on (.w 0) 1 (.s .zero), .fmtg on .zero (.v (.q 0)), .fmts on (.v (.q 0)) .raw,
    .addi on false .zero .zero ⟨.h64, 0x80000⟩, .li on .zero ⟨.h96, 0x80000000⟩] : List Instr), i.wf = false := by
  decide

theorem test_wf_refuses_fields : ∀ i ∈ ([
    .extf on false .zero .zero 60 4, .insf on .zero .zero .zero 1 63, .pga on false .zero .zero .zero 1 ⟨.h64, 0⟩,
    .pga on false .zero .zero .zero 0 ⟨.h64, 1⟩, .cmp on false .un 1 .zero .zero, .cmp on false .eq 0 .zero .zero,
    .cmpi on false .ord 1 .zero ⟨.h64, 0⟩, .cmpi on false .eq 0 .zero ⟨.h64, 0⟩, .gand on 0 1 1, .gor on 0 1 1, .gnot on 0 1,
    .vcmp on .eq 0 .zero .zero, .vcvt on false false .int8 .zero .zero, .vpack on false false .fp32 .zero .zero .zero,
    .vunpk on false .int8 false .zero .zero, .vbcast on .zero .zero .raw ⟨.h64, 0x80000⟩, .zclr on 0 .bf16,
    .zld on 0 .zero .fp16 ⟨.h64, 0⟩, .ld on .zero .zero ⟨.h64, 0x80000⟩, .cpw on 1 .zero .zero, .spawn on 0 .zero .zero 0,
    .spawn on 1 .zero .zero 29, .taskq on 0 .zero 0, .taskqDeque on 0 .zero, .take on .zero 0, .steal on .zero 0 .zero,
    .mrecv on 1 0, .sframe on 0 .zero .zero, .semit on 0 .zero .zero .zero, .vins on (.q 0) .zero 0 .fp32] : List Instr), i.wf = false := by
  decide

/-- Halves of the wrong kind, of two guards, that write one guard, name one queue, or need a literal (R69, R70). -/
theorem test_wf_refuses_pairs :
    Instr.wf (.pairWord on (.vadd on .zero .zero .zero) (.vadd on .zero .zero .zero)) = false ∧
    Instr.wf (.pairWord on (.mov on .zero .zero) (.mov on .zero .zero)) = false ∧
    Instr.wf (.pairWord on (.mov ⟨true, 1⟩ .zero .zero) (.vneg on .zero .zero)) = false ∧
    Instr.wf (.pairWord on (.cmp on false .eq 1 .zero .zero) (.vcmp on .eq 1 .zero .zero)) = false ∧
    Instr.wf (.pairWord on (.mov on (.q 1) .zero) (.vneg on .zero (.q 1))) = false ∧
    Instr.wf (.pairWord on (.li on .zero ⟨.h96, 1⟩) (.vneg on .zero .zero)) = false ∧
    Instr.wf (.pairWord on (.endl) (.vneg on .zero .zero)) = false := by
  decide

/-! Decoding. -/

theorem test_decode_control :
    decodeTableWord 64 0x0000_0000_0000_0004 = some (.nop ⟨false, 0⟩ .h64 0) ∧
    decodeTableWord 96 0x0000_0007_0000_0000_0000_0005 = some (.nop ⟨false, 0⟩ .h96 7) ∧
    decodeTableWord 64 0x0001_6010_0000_0D04 = some (.br ⟨true, 5⟩ ⟨.h64, 22⟩) ∧
    decodeTableWord 64 0xFFFF_F020_0000_0004 = some (.bra ⟨false, 0⟩ ⟨.h64, 0xFFFFF⟩) ∧
    decodeTableWord 64 0xFFFF_0030_0001_F104 = some (.jal ⟨false, 1⟩ (.x 31) ⟨.h64, -16⟩) ∧
    decodeTableWord 64 0x0000_0040_0008_1004 = some (.jalr ⟨false, 0⟩ (.x 1) (.x 2)) ∧
    decodeTableWord 64 0x0000_0050_007C_0004 = some (.ret ⟨false, 0⟩ (.x 31)) ∧
    decodeTableWord 64 0x0000_3060_10D0_0004 = some (.rep ⟨false, 0⟩ .zero 2 ⟨.h64, 3⟩) ∧
    decodeTableWord 64 0x0000_9070_0000_0004 = some (.trap ⟨false, 0⟩ 9) := by
  decide

theorem test_decode_loop :
    decodeTableWord 64 0x0061_1000_0004_0008 = some (.loop (.reg (.x 1)) 1 2 false 6) ∧
    decodeTableWord 96 0x0000_0005_0065_1000_0000_0009 = some (.loop (.lit 5) 1 2 true 6) ∧
    decodeTableWord 64 0x0069_1000_0000_0008 = some (.loopOpen 1 2 false 6) ∧
    decodeTableWord 64 0x0000_0010_0000_0008 = some (.endl) ∧
    decodeTableWord 64 0x0000_0020_0000_0108 = some (.brk ⟨false, 1⟩) ∧
    decodeTableWord 64 0x0000_0030_0000_0108 = some (.brkO ⟨false, 1⟩) ∧
    decodeTableWord 64 0x0000_0040_0000_0008 = some (.iret ⟨false, 0⟩) ∧
    decodeTableWord 64 0x0000_1050_00D2_0008 = some (.vseed ⟨false, 0⟩ (.l 0) 1 (.s .zero)) ∧
    decodeTableWord 64 0x0000_B050_0012_2008 = some (.vseed ⟨false, 0⟩ (.w 2) 3 (.v (.v 4))) ∧
    decodeTableWord 64 0x0000_0060_0000_0008 = some (.lfree ⟨false, 0⟩) := by
  decide

theorem test_decode_system :
    decodeTableWord 64 0x0000_9000_0000_500C = some (.sysrd ⟨false, 0⟩ (.x 5) 9) ∧
    decodeTableWord 64 0x0000_2010_0018_000C = some (.syswr ⟨false, 0⟩ 2 (.x 6)) ∧
    decodeTableWord 64 0x0000_0020_028C_400C = some (.fmtg ⟨false, 0⟩ (.x 4) (.v (.w 3 2))) ∧
    decodeTableWord 64 0x0000_1020_0004_400C = some (.fmtg ⟨false, 0⟩ (.x 4) (.z 1)) ∧
    decodeTableWord 64 0x0004_0030_0000_100C = some (.fmts ⟨false, 0⟩ (.v (.v 1)) .int32) ∧
    decodeTableWord 64 0x0001_1030_0000_100C = some (.fmts ⟨false, 0⟩ (.z 1) .fp32) := by
  decide

theorem test_decode_scalar_1 :
    decodeTableWord 64 0x0000_0001_8A80_8010 = some (.add ⟨false, 0⟩ false (.x 8) (.l 0 2) (.q 1)) ∧
    decodeTableWord 64 0x0000_0811_8A80_8010 = some (.sub ⟨false, 0⟩ true (.x 8) (.l 0 2) (.q 1)) ∧
    decodeTableWord 64 0x0000_0021_8A80_8010 = some (.mul ⟨false, 0⟩ false (.x 8) (.l 0 2) (.q 1)) ∧
    decodeTableWord 64 0x0000_0831_8A80_8010 = some (.mulh ⟨false, 0⟩ true (.x 8) (.l 0 2) (.q 1)) ∧
    decodeTableWord 64 0x0000_0041_8A80_8010 = some (.mulhu ⟨false, 0⟩ false (.x 8) (.l 0 2) (.q 1)) ∧
    decodeTableWord 64 0x0000_0851_8A80_8010 = some (.div ⟨false, 0⟩ true (.x 8) (.l 0 2) (.q 1)) ∧
    decodeTableWord 64 0x0000_0061_8A80_8010 = some (.divu ⟨false, 0⟩ false (.x 8) (.l 0 2) (.q 1)) ∧
    decodeTableWord 64 0x0000_0871_8A80_8010 = some (.rem ⟨false, 0⟩ true (.x 8) (.l 0 2) (.q 1)) ∧
    decodeTableWord 64 0x0000_0081_8A80_8010 = some (.remu ⟨false, 0⟩ false (.x 8) (.l 0 2) (.q 1)) ∧
    decodeTableWord 64 0x0000_0981_8A80_8010 = some (.shl ⟨false, 0⟩ true (.x 8) (.l 0 2) (.q 1)) ∧
    decodeTableWord 64 0x0000_0191_8A80_8010 = some (.shr ⟨false, 0⟩ false (.x 8) (.l 0 2) (.q 1)) ∧
    decodeTableWord 64 0x0000_09A1_8A80_8010 = some (.sar ⟨false, 0⟩ true (.x 8) (.l 0 2) (.q 1)) := by
  decide

theorem test_decode_scalar_2 :
    decodeTableWord 64 0x0000_01B1_8A80_8010 = some (.rol ⟨false, 0⟩ false (.x 8) (.l 0 2) (.q 1)) ∧
    decodeTableWord 64 0x0000_0A01_8A80_8010 = some (.min ⟨false, 0⟩ true (.x 8) (.l 0 2) (.q 1)) ∧
    decodeTableWord 64 0x0000_0211_8A80_8010 = some (.max ⟨false, 0⟩ false (.x 8) (.l 0 2) (.q 1)) ∧
    decodeTableWord 64 0x0000_0A21_8A80_8010 = some (.minu ⟨false, 0⟩ true (.x 8) (.l 0 2) (.q 1)) ∧
    decodeTableWord 64 0x0000_0231_8A80_8010 = some (.maxu ⟨false, 0⟩ false (.x 8) (.l 0 2) (.q 1)) ∧
    decodeTableWord 64 0x0000_09C0_00DF_4010 = some (.clz ⟨false, 0⟩ true .zero .cid) ∧
    decodeTableWord 64 0x0000_09D0_00DF_4010 = some (.ctz ⟨false, 0⟩ true .zero .cid) ∧
    decodeTableWord 64 0x0000_09E0_00DF_4010 = some (.popc ⟨false, 0⟩ true .zero .cid) ∧
    decodeTableWord 64 0x0000_0100_38D6_3010 = some (.and ⟨false, 0⟩ (.l 3) .it (.x 7)) ∧
    decodeTableWord 64 0x0000_0110_38D6_3010 = some (.or ⟨false, 0⟩ (.l 3) .it (.x 7)) ∧
    decodeTableWord 64 0x0000_0120_38D6_3010 = some (.xor ⟨false, 0⟩ (.l 3) .it (.x 7)) ∧
    decodeTableWord 64 0x0000_0130_38D6_3010 = some (.andn ⟨false, 0⟩ (.l 3) .it (.x 7)) := by
  decide

theorem test_decode_scalar_3 :
    decodeTableWord 64 0x0000_0140_38D6_3010 = some (.orn ⟨false, 0⟩ (.l 3) .it (.x 7)) ∧
    decodeTableWord 64 0x0000_6240_1808_1010 = some (.sel ⟨false, 0⟩ (.x 1) 6 (.x 2) (.x 3)) ∧
    decodeTableWord 64 0x0000_0250_00DB_2010 = some (.mov ⟨false, 0⟩ (.q 2) .lane) := by
  decide

theorem test_decode_scalar_immediate :
    decodeTableWord 64 0x0008_0000_0028_A014 = some (.addi ⟨false, 0⟩ false (.x 10) (.x 10) ⟨.h64, 128⟩) ∧
    decodeTableWord 64 0x0000_1800_0020_8014 = some (.addi ⟨false, 0⟩ true (.x 8) (.x 8) ⟨.h64, 1⟩) ∧
    decodeTableWord 64 0x0000_1010_0000_E014 = some (.li ⟨false, 0⟩ (.x 14) ⟨.h64, 1⟩) ∧
    decodeTableWord 96 0xFFFF_FFFE_0000_0010_0000_4015 = some (.li ⟨false, 0⟩ (.x 4) ⟨.h96, -2⟩) ∧
    decodeTableWord 128 0x8000_0000_0000_2000_0000_0010_0000_A016 = some (.li ⟨false, 0⟩ (.x 10) ⟨.h128, 0x8000000000002000⟩) ∧
    decodeTableWord 64 0x0110_7020_0008_1014 = some (.extf ⟨false, 0⟩ true (.x 1) (.x 2) 4 7) ∧
    decodeTableWord 64 0x00F0_3030_1808_1014 = some (.insf ⟨false, 0⟩ (.x 1) (.x 2) (.x 3) 60 3) ∧
    decodeTableWord 64 0x0000_C041_A061_9014 = some (.pga ⟨false, 0⟩ false (.x 25) (.x 24) .zero 0xC ⟨.h64, 0⟩) ∧
    decodeTableWord 96 0x0000_0010_0001_A041_A061_9015 = some (.pga ⟨false, 0⟩ true (.x 25) (.x 24) .zero 0xA ⟨.h96, 16⟩) := by
  decide

theorem test_decode_compare :
    decodeTableWord 64 0x0000_0040_1034_1018 = some (.cmp ⟨false, 0⟩ false .ltu 1 (.x 13) (.x 2)) ∧
    decodeTableWord 64 0x0000_0820_A0DC_5018 = some (.cmp ⟨false, 0⟩ true .lt 5 .cid (.x 20)) ∧
    decodeTableWord 64 0x0000_6190_0008_1018 = some (.cmpi ⟨false, 0⟩ false .gtu 1 (.x 2) ⟨.h64, 6⟩) ∧
    decodeTableWord 64 0x0000_0200_3010_4018 = some (.gand ⟨false, 0⟩ 4 4 6) ∧
    decodeTableWord 64 0x0000_0210_3000_4018 = some (.gor ⟨false, 0⟩ 4 0 6) ∧
    decodeTableWord 64 0x0000_0220_0014_4018 = some (.gnot ⟨false, 0⟩ 4 5) := by
  decide

theorem test_decode_vector_float :
    decodeTableWord 64 0x0000_0001_9382_1120 = some (.vadd ⟨false, 1⟩ (.w 1) (.w 0 3) (.q 2)) ∧
    decodeTableWord 64 0x0000_0011_9382_1120 = some (.vsub ⟨false, 1⟩ (.w 1) (.w 0 3) (.q 2)) ∧
    decodeTableWord 64 0x0000_0021_9382_1120 = some (.vmul ⟨false, 1⟩ (.w 1) (.w 0 3) (.q 2)) ∧
    decodeTableWord 64 0x0000_0051_9382_1120 = some (.vmin ⟨false, 1⟩ (.w 1) (.w 0 3) (.q 2)) ∧
    decodeTableWord 64 0x0000_0061_9382_1120 = some (.vmax ⟨false, 1⟩ (.w 1) (.w 0 3) (.q 2)) ∧
    decodeTableWord 64 0x0000_0091_9382_1120 = some (.vcps ⟨false, 1⟩ (.w 1) (.w 0 3) (.q 2)) ∧
    decodeTableWord 64 0x0016_4030_1808_1020 = some (.vfma ⟨false, 0⟩ (.v 1) (.v 2) (.v 3) (.w 4 5)) ∧
    decodeTableWord 64 0x0016_4040_1808_1020 = some (.vfms ⟨false, 0⟩ (.v 1) (.v 2) (.v 3) (.w 4 5)) ∧
    decodeTableWord 64 0x0000_0070_00D4_1020 = some (.vabs ⟨false, 0⟩ (.v 1) .it) ∧
    decodeTableWord 64 0x0000_0080_00D4_1020 = some (.vneg ⟨false, 0⟩ (.v 1) .it) ∧
    decodeTableWord 64 0x0000_01A1_A004_3020 = some (.vcmp ⟨false, 0⟩ .un 3 (.v 1) .zero) ∧
    decodeTableWord 64 0x0000_7200_1808_1020 = some (.vsel ⟨false, 0⟩ (.v 1) 7 (.v 2) (.v 3)) := by
  decide

theorem test_decode_vector_function :
    decodeTableWord 64 0x0000_0000_0004_2024 = some (.vrnd ⟨false, 0⟩ (.v 2) (.v 1)) ∧
    decodeTableWord 64 0x0000_0010_0004_2024 = some (.vfexp ⟨false, 0⟩ (.v 2) (.v 1)) ∧
    decodeTableWord 64 0x0000_0030_0004_2024 = some (.vlogb ⟨false, 0⟩ (.v 2) (.v 1)) ∧
    decodeTableWord 64 0x0000_0040_0004_2024 = some (.vrcp ⟨false, 0⟩ (.v 2) (.v 1)) ∧
    decodeTableWord 64 0x0000_0050_0004_2024 = some (.vrsq ⟨false, 0⟩ (.v 2) (.v 1)) ∧
    decodeTableWord 64 0x0000_0020_1010_5024 = some (.vexpi ⟨false, 0⟩ (.v 5) (.v 4) (.v 2)) ∧
    decodeTableWord 64 0x0024_0080_0010_5024 = some (.vcvt ⟨false, 0⟩ true false .int32 (.v 5) (.v 4)) ∧
    decodeTableWord 64 0x0012_0090_1810_5024 = some (.vpack ⟨false, 0⟩ false true .bf16 (.v 5) (.v 4) (.v 3)) ∧
    decodeTableWord 64 0x0024_10A0_0010_5024 = some (.vunpk ⟨false, 0⟩ true .int32 true (.v 5) (.v 4)) := by
  decide

theorem test_decode_vector_integer :
    decodeTableWord 64 0x0000_3000_1808_1028 = some (.viadd ⟨false, 0⟩ .us (.v 1) (.v 2) (.v 3)) ∧
    decodeTableWord 64 0x0000_1010_1808_1028 = some (.visub ⟨false, 0⟩ .s (.v 1) (.v 2) (.v 3)) ∧
    decodeTableWord 64 0x0000_0020_1808_1028 = some (.vimul ⟨false, 0⟩ (.v 1) (.v 2) (.v 3)) ∧
    decodeTableWord 64 0x0000_0040_1808_1028 = some (.vand ⟨false, 0⟩ (.v 1) (.v 2) (.v 3)) ∧
    decodeTableWord 64 0x0000_0050_1808_1028 = some (.vor ⟨false, 0⟩ (.v 1) (.v 2) (.v 3)) ∧
    decodeTableWord 64 0x0000_0060_1808_1028 = some (.vxor ⟨false, 0⟩ (.v 1) (.v 2) (.v 3)) ∧
    decodeTableWord 64 0x0000_0070_1808_1028 = some (.vshl ⟨false, 0⟩ (.v 1) (.v 2) (.v 3)) ∧
    decodeTableWord 64 0x0000_0080_1808_1028 = some (.vshr ⟨false, 0⟩ (.v 1) (.v 2) (.v 3)) ∧
    decodeTableWord 64 0x0000_0090_1808_1028 = some (.vsar ⟨false, 0⟩ (.v 1) (.v 2) (.v 3)) ∧
    decodeTableWord 64 0x0000_4030_1808_1028 = some (.vimad ⟨false, 0⟩ (.v 1) (.v 2) (.v 3) (.v 4)) ∧
    decodeTableWord 64 0x0000_40A0_1808_1028 = some (.vdot4 ⟨false, 0⟩ (.v 1) (.v 2) (.v 3) (.v 4)) := by
  decide

theorem test_decode_lane_movement :
    decodeTableWord 96 0x3F80_0000_0000_0000_08D0_602D = some (.vbcast ⟨false, 0⟩ (.v 6) .zero .fp32 ⟨.h96, 0x3F800000⟩) ∧
    decodeTableWord 64 0x0000_0010_1808_102C = some (.vperm ⟨false, 0⟩ (.v 1) (.v 2) (.v 3)) ∧
    decodeTableWord 64 0x0001_F020_0008_102C = some (.vrot ⟨false, 0⟩ (.v 1) (.v 2) 31) ∧
    decodeTableWord 64 0x0003_F030_0008_102C = some (.vmovs ⟨false, 0⟩ true (.x 1) (.v 2) 31) ∧
    decodeTableWord 64 0x0060_9040_0008_102C = some (.vins ⟨false, 0⟩ (.v 1) (.x 2) 9 .int8) ∧
    decodeTableWord 64 0x0000_0080_0008_102C = some (.vreda ⟨false, 0⟩ (.v 1) (.v 2)) ∧
    decodeTableWord 64 0x0000_0090_0008_102C = some (.vredm ⟨false, 0⟩ (.v 1) (.v 2)) ∧
    decodeTableWord 64 0x0000_00A0_0008_102C = some (.vscan ⟨false, 0⟩ (.v 1) (.v 2)) := by
  decide

theorem test_decode_matrix :
    decodeTableWord 64 0x0000_0000_1808_0030 = some (.mmab ⟨false, 0⟩ 0 (.x 2) (.x 3)) ∧
    decodeTableWord 64 0x0000_0010_2810_1030 = some (.mmai ⟨false, 0⟩ 1 (.x 4) (.x 5)) ∧
    decodeTableWord 64 0x0000_6020_2810_0030 = some (.mmad ⟨false, 0⟩ 0 (.x 4) (.x 5) (.x 6)) ∧
    decodeTableWord 64 0x0000_4030_0000_1030 = some (.zclr ⟨false, 0⟩ 1 .int32) ∧
    decodeTableWord 64 0x0000_0040_000C_1030 = some (.zscale ⟨false, 0⟩ 1 (.v 3)) ∧
    decodeTableWord 64 0x0000_7050_0004_4030 = some (.zrd ⟨false, 0⟩ (.v 4) 1 7) ∧
    decodeTableWord 64 0x0000_6060_000C_1030 = some (.zwr ⟨false, 0⟩ 1 (.v 3) 6) := by
  decide

theorem test_decode_matrix_memory :
    decodeTableWord 64 0x0000_8000_080C_1034 = some (.zld ⟨false, 0⟩ 1 (.x 3) .fp32 ⟨.h64, 8⟩) ∧
    decodeTableWord 64 0xFFFF_8010_080C_0034 = some (.zst ⟨false, 0⟩ 1 (.x 3) ⟨.h64, -8⟩) ∧
    decodeTableWord 64 0x0000_8020_200C_0034 = some (.wbld ⟨false, 0⟩ (.x 4) (.x 3) ⟨.h64, 8⟩) ∧
    decodeTableWord 64 0x0000_8030_200C_0034 = some (.ldt ⟨false, 0⟩ (.x 4) (.x 3) ⟨.h64, 8⟩) ∧
    decodeTableWord 64 0x0010_5040_0000_1034 = some (.swapt ⟨false, 0⟩ true 1 0 5) := by
  decide

theorem test_decode_memory_1 :
    decodeTableWord 64 0x0000_8000_0008_1040 = some (.ld ⟨false, 0⟩ (.x 1) (.x 2) ⟨.h64, 8⟩) ∧
    decodeTableWord 64 0x0000_8010_0008_1040 = some (.ldW ⟨false, 0⟩ (.x 1) (.x 2) ⟨.h64, 8⟩) ∧
    decodeTableWord 64 0x0000_8020_0008_1040 = some (.ldWu ⟨false, 0⟩ (.x 1) (.x 2) ⟨.h64, 8⟩) ∧
    decodeTableWord 64 0x0000_8030_0008_1040 = some (.ldH ⟨false, 0⟩ (.x 1) (.x 2) ⟨.h64, 8⟩) ∧
    decodeTableWord 64 0x0000_8040_0008_1040 = some (.ldHu ⟨false, 0⟩ (.x 1) (.x 2) ⟨.h64, 8⟩) ∧
    decodeTableWord 64 0x0000_8050_0008_1040 = some (.ldB ⟨false, 0⟩ (.x 1) (.x 2) ⟨.h64, 8⟩) ∧
    decodeTableWord 64 0x0000_8060_0008_1040 = some (.ldBu ⟨false, 0⟩ (.x 1) (.x 2) ⟨.h64, 8⟩) ∧
    decodeTableWord 64 0x0000_8081_0024_0040 = some (.st ⟨false, 0⟩ (.l 0 0) (.x 9) ⟨.h64, 8⟩) ∧
    decodeTableWord 64 0x0000_8091_0024_0040 = some (.stW ⟨false, 0⟩ (.l 0 0) (.x 9) ⟨.h64, 8⟩) ∧
    decodeTableWord 64 0x0000_80A1_0024_0040 = some (.stH ⟨false, 0⟩ (.l 0 0) (.x 9) ⟨.h64, 8⟩) ∧
    decodeTableWord 64 0x0000_80B1_0024_0040 = some (.stB ⟨false, 0⟩ (.l 0 0) (.x 9) ⟨.h64, 8⟩) ∧
    decodeTableWord 64 0x0000_4100_0008_1040 = some (.ldv ⟨false, 0⟩ (.v 1) (.x 2) ⟨.h64, 4⟩) := by
  decide

theorem test_decode_memory_2 :
    decodeTableWord 64 0x0000_4110_0808_0040 = some (.stv ⟨false, 0⟩ (.v 1) (.x 2) ⟨.h64, 4⟩) ∧
    decodeTableWord 64 0x0000_0120_1808_1040 = some (.ldg ⟨false, 0⟩ (.v 1) (.x 2) (.v 3)) ∧
    decodeTableWord 64 0x0000_1130_1808_0040 = some (.sts ⟨false, 0⟩ (.v 1) (.x 2) (.v 3)) ∧
    decodeTableWord 64 0x007F_F140_0008_1040 = some (.ldl ⟨false, 0⟩ (.v 1) (.x 2) 0x7FF) ∧
    decodeTableWord 64 0x0000_4150_0808_0040 = some (.stl ⟨false, 0⟩ (.v 1) (.x 2) 4) ∧
    decodeTableWord 64 0x0000_4180_0008_0040 = some (.pref ⟨false, 0⟩ (.x 2) ⟨.h64, 4⟩) := by
  decide

theorem test_decode_full_empty :
    decodeTableWord 64 0x0000_0000_0028_4044 = some (.lde ⟨false, 0⟩ (.x 4) (.x 10) ⟨.h64, 0⟩) ∧
    decodeTableWord 64 0x0000_0010_3828_0044 = some (.stf ⟨false, 0⟩ (.x 7) (.x 10) ⟨.h64, 0⟩) ∧
    decodeTableWord 64 0x0000_0020_0028_4044 = some (.ldf ⟨false, 0⟩ (.x 4) (.x 10) ⟨.h64, 0⟩) ∧
    decodeTableWord 64 0x0000_0030_0028_0044 = some (.fempty ⟨false, 0⟩ (.x 10) ⟨.h64, 0⟩) ∧
    decodeTableWord 64 0x0000_0040_0028_4044 = some (.futr ⟨false, 0⟩ (.x 4) (.x 10) ⟨.h64, 0⟩) ∧
    decodeTableWord 64 0x0000_0050_3828_4044 = some (.futw ⟨false, 0⟩ (.x 4) (.x 7) (.x 10) ⟨.h64, 0⟩) := by
  decide

theorem test_decode_atomic :
    decodeTableWord 64 0x0000_0000_7007_4048 = some (.aadd ⟨false, 0⟩ false .zero (.x 1) (.x 14)) ∧
    decodeTableWord 64 0x0000_0010_7007_4048 = some (.amin ⟨false, 0⟩ false .zero (.x 1) (.x 14)) ∧
    decodeTableWord 64 0x0000_0020_7007_4048 = some (.amax ⟨false, 0⟩ false .zero (.x 1) (.x 14)) ∧
    decodeTableWord 64 0x0000_0030_7007_4048 = some (.axch ⟨false, 0⟩ false .zero (.x 1) (.x 14)) ∧
    decodeTableWord 64 0x0000_0050_7007_4048 = some (.aand ⟨false, 0⟩ false .zero (.x 1) (.x 14)) ∧
    decodeTableWord 64 0x0000_0060_7007_4048 = some (.aor ⟨false, 0⟩ false .zero (.x 1) (.x 14)) ∧
    decodeTableWord 64 0x0000_5840_7004_3048 = some (.acas ⟨false, 0⟩ true (.x 3) (.x 1) (.x 14) (.x 5)) := by
  decide

theorem test_decode_ordering :
    decodeTableWord 64 0x0000_0000_0008_104C = some (.acqGroup ⟨false, 0⟩ (.x 1) (.x 2)) ∧
    decodeTableWord 64 0x0000_0040_200C_004C = some (.relGroup ⟨false, 0⟩ (.x 3) (.x 4)) ∧
    decodeTableWord 64 0x0000_0080_0000_004C = some (.fenceGroup ⟨false, 0⟩) ∧
    decodeTableWord 64 0x0000_0010_0008_104C = some (.acqDevice ⟨false, 0⟩ (.x 1) (.x 2)) ∧
    decodeTableWord 64 0x0000_0050_200C_004C = some (.relDevice ⟨false, 0⟩ (.x 3) (.x 4)) ∧
    decodeTableWord 64 0x0000_0090_0000_004C = some (.fenceDevice ⟨false, 0⟩) ∧
    decodeTableWord 64 0x0000_0020_0008_104C = some (.acqSystem ⟨false, 0⟩ (.x 1) (.x 2)) ∧
    decodeTableWord 64 0x0000_0060_200C_004C = some (.relSystem ⟨false, 0⟩ (.x 3) (.x 4)) ∧
    decodeTableWord 64 0x0000_00A0_0000_004C = some (.fenceSystem ⟨false, 0⟩) := by
  decide

theorem test_decode_copy :
    decodeTableWord 64 0x0000_4000_2810_0050 = some (.cpw ⟨false, 0⟩ 4 (.x 4) (.x 5)) ∧
    decodeTableWord 64 0x0000_0010_0000_3050 = some (.cpgo ⟨false, 0⟩ (.x 3)) ∧
    decodeTableWord 64 0x0000_0020_0010_3050 = some (.cpwany ⟨false, 0⟩ (.x 3) (.x 4)) ∧
    decodeTableWord 64 0x0000_0030_0010_3050 = some (.cpwall ⟨false, 0⟩ (.x 3) (.x 4)) ∧
    decodeTableWord 64 0x0000_0040_0010_3050 = some (.cpff ⟨false, 0⟩ (.x 3) (.x 4)) ∧
    decodeTableWord 64 0x0000_0060_0010_3050 = some (.cpchk ⟨false, 0⟩ (.x 3) (.x 4)) ∧
    decodeTableWord 64 0x0000_0050_0010_0050 = some (.cpclr ⟨false, 0⟩ (.x 4)) ∧
    decodeTableWord 64 0x0000_1050_0010_0050 = some (.cpclrF ⟨false, 0⟩ (.x 4)) := by
  decide

theorem test_decode_tasks_1 :
    decodeTableWord 64 0x0000_8000_2810_1060 = some (.spawn ⟨false, 0⟩ 1 (.x 4) (.x 5) 8) ∧
    decodeTableWord 64 0x0000_0010_001C_0060 = some (.quit ⟨false, 0⟩ (.x 7)) ∧
    decodeTableWord 64 0x0000_0020_0000_7060 = some (.reap ⟨false, 0⟩ (.x 7)) ∧
    decodeTableWord 64 0x0000_0030_0000_0060 = some (.waitw ⟨false, 0⟩) ∧
    decodeTableWord 64 0x0000_3040_0018_2060 = some (.taskq ⟨false, 0⟩ 2 (.x 6) 3) ∧
    decodeTableWord 64 0x0001_0040_0018_2060 = some (.taskqDeque ⟨false, 0⟩ 2 (.x 6)) ∧
    decodeTableWord 64 0x0000_2050_0000_1060 = some (.take ⟨false, 0⟩ (.x 1) 2) ∧
    decodeTableWord 64 0x0000_2060_000C_1060 = some (.steal ⟨false, 0⟩ (.x 1) 2 (.x 3)) ∧
    decodeTableWord 64 0x0000_0070_1004_0060 = some (.qcfgHwqueueType ⟨false, 0⟩ (.x 1) (.x 2)) ∧
    decodeTableWord 64 0x0000_1070_1004_0060 = some (.qcfgPriority ⟨false, 0⟩ (.x 1) (.x 2)) ∧
    decodeTableWord 64 0x0000_2070_1004_0060 = some (.qcfgOwner ⟨false, 0⟩ (.x 1) (.x 2)) ∧
    decodeTableWord 64 0x0000_3070_1004_0060 = some (.qcfgRing ⟨false, 0⟩ (.x 1) (.x 2)) := by
  decide

theorem test_decode_tasks_2 :
    decodeTableWord 64 0x0000_4070_1004_0060 = some (.qcfgArm ⟨false, 0⟩ (.x 1) (.x 2)) ∧
    decodeTableWord 64 0x0000_5070_1004_0060 = some (.qcfgCounter ⟨false, 0⟩ (.x 1) (.x 2)) ∧
    decodeTableWord 64 0x0000_0080_0004_3060 = some (.qstatHwqueue ⟨false, 0⟩ (.x 3) (.x 1)) ∧
    decodeTableWord 64 0x0000_1080_0004_3060 = some (.qstatTaskqueue ⟨false, 0⟩ (.x 3) (.x 1)) ∧
    decodeTableWord 64 0x0000_2080_0004_3060 = some (.qstatCounter ⟨false, 0⟩ (.x 3) (.x 1)) ∧
    decodeTableWord 64 0x0000_3080_0004_3060 = some (.qstatDeque ⟨false, 0⟩ (.x 3) (.x 1)) ∧
    decodeTableWord 64 0x0000_4080_0004_3060 = some (.qstatExitqueue ⟨false, 0⟩ (.x 3) (.x 1)) ∧
    decodeTableWord 64 0x0000_5080_0004_3060 = some (.qstatMailbox ⟨false, 0⟩ (.x 3) (.x 1)) ∧
    decodeTableWord 64 0x0000_6080_0004_3060 = some (.qstatPoisonlog ⟨false, 0⟩ (.x 3) (.x 1)) ∧
    decodeTableWord 64 0x0000_7080_0004_3060 = some (.qstatDrops ⟨false, 0⟩ (.x 3) (.x 1)) ∧
    decodeTableWord 64 0x0000_0090_0004_0060 = some (.qrst ⟨false, 0⟩ (.x 1)) := by
  decide

theorem test_decode_messages :
    decodeTableWord 64 0x0000_3000_1004_0064 = some (.send ⟨false, 0⟩ (.x 1) (.x 2) (.x 3)) ∧
    decodeTableWord 64 0x000F_E010_0001_0164 = some (.mrecv ⟨false, 1⟩ 16 254) ∧
    decodeTableWord 64 0x0010_3010_0000_6064 = some (.mrecvR ⟨false, 0⟩ (.x 6) 3) ∧
    decodeTableWord 64 0x0000_3020_1004_6064 = some (.rcall ⟨false, 0⟩ (.x 6) (.x 1) (.x 2) 3) ∧
    decodeTableWord 64 0x0000_7020_1004_0064 = some (.rcallN ⟨false, 0⟩ (.x 1) (.x 2) 3) ∧
    decodeTableWord 64 0x0000_0030_2810_0064 = some (.rreply ⟨false, 0⟩ (.x 4) (.x 5)) := by
  decide

theorem test_decode_tables_1 :
    decodeTableWord 64 0x0000_0000_2810_0068 = some (.bsdefJ ⟨false, 0⟩ (.x 4) (.x 5)) ∧
    decodeTableWord 64 0x0000_1000_0010_0068 = some (.bsdefL ⟨false, 0⟩ (.x 4)) ∧
    decodeTableWord 64 0x0000_1010_0000_3068 = some (.barv ⟨false, 0⟩ (.x 3) 1) ∧
    decodeTableWord 64 0x0000_1020_000C_0068 = some (.bwait ⟨false, 0⟩ (.x 3) 1) ∧
    decodeTableWord 64 0x0000_1030_0000_3068 = some (.barw ⟨false, 0⟩ (.x 3) 1) ∧
    decodeTableWord 64 0x0000_A040_5805_7068 = some (.rbind ⟨false, 0⟩ (.x 23) (.x 1) (.x 11) (.x 10)) ∧
    decodeTableWord 64 0x0000_0050_005C_0068 = some (.runbnd ⟨false, 0⟩ (.x 23)) ∧
    decodeTableWord 64 0x0000_0060_2810_0068 = some (.slotwA ⟨false, 0⟩ (.x 4) (.x 5)) ∧
    decodeTableWord 64 0x0000_0070_0010_7068 = some (.slotrdA ⟨false, 0⟩ (.x 7) (.x 4)) ∧
    decodeTableWord 64 0x0000_1060_2810_0068 = some (.slotwB ⟨false, 0⟩ (.x 4) (.x 5)) ∧
    decodeTableWord 64 0x0000_1070_0010_7068 = some (.slotrdB ⟨false, 0⟩ (.x 7) (.x 4)) ∧
    decodeTableWord 64 0x0000_2060_2810_0068 = some (.slotwE ⟨false, 0⟩ (.x 4) (.x 5)) := by
  decide

theorem test_decode_tables_2 :
    decodeTableWord 64 0x0000_2070_0010_7068 = some (.slotrdE ⟨false, 0⟩ (.x 7) (.x 4)) ∧
    decodeTableWord 64 0x0000_3060_2810_0068 = some (.slotwT ⟨false, 0⟩ (.x 4) (.x 5)) ∧
    decodeTableWord 64 0x0000_3070_0010_7068 = some (.slotrdT ⟨false, 0⟩ (.x 7) (.x 4)) := by
  decide

theorem test_decode_streams_1 :
    decodeTableWord 64 0x0000_2000_0008_806C = some (.sframe ⟨false, 0⟩ 2 (.x 8) (.x 2)) ∧
    decodeTableWord 64 0x0000_1010_2808_606C = some (.semit ⟨false, 0⟩ 1 (.x 6) (.x 2) (.x 5)) ∧
    decodeTableWord 64 0x0000_0020_0008_906C = some (.scurGnc ⟨false, 0⟩ (.x 9) (.x 2)) ∧
    decodeTableWord 64 0x0000_1020_0008_906C = some (.scurPbc ⟨false, 0⟩ (.x 9) (.x 2)) ∧
    decodeTableWord 64 0x0000_2020_0008_906C = some (.scurTp ⟨false, 0⟩ (.x 9) (.x 2)) ∧
    decodeTableWord 64 0x0000_3020_0008_906C = some (.scurNseq ⟨false, 0⟩ (.x 9) (.x 2)) ∧
    decodeTableWord 64 0x0000_4020_0008_906C = some (.scurSnapshots ⟨false, 0⟩ (.x 9) (.x 2)) ∧
    decodeTableWord 64 0x0000_5020_0008_906C = some (.scurLoss ⟨false, 0⟩ (.x 9) (.x 2)) ∧
    decodeTableWord 64 0x0000_6020_0008_906C = some (.scurDrops ⟨false, 0⟩ (.x 9) (.x 2)) ∧
    decodeTableWord 64 0x0000_0030_0008_706C = some (.strunc ⟨false, 0⟩ (.x 7) (.x 2)) ∧
    decodeTableWord 64 0x0000_0040_1808_A06C = some (.ssnap ⟨false, 0⟩ (.x 10) (.x 2) (.x 3)) ∧
    decodeTableWord 64 0x0000_0050_2008_006C = some (.sownOwner ⟨false, 0⟩ (.x 2) (.x 4)) := by
  decide

theorem test_decode_streams_2 :
    decodeTableWord 64 0x0000_1050_2008_006C = some (.sownOpen ⟨false, 0⟩ (.x 2) (.x 4)) ∧
    decodeTableWord 64 0x0000_2050_2008_006C = some (.sownClose ⟨false, 0⟩ (.x 2) (.x 4)) := by
  decide

theorem test_decode_sweeps :
    decodeTableWord 64 0x0000_0000_0010_5070 = some (.swdecl ⟨false, 0⟩ (.x 5) (.x 4)) ∧
    decodeTableWord 64 0x0000_1000_2014_0070 = some (.swdeclO ⟨false, 0⟩ (.x 5) (.x 4)) ∧
    decodeTableWord 64 0x0000_0010_3014_0070 = some (.swgo ⟨false, 0⟩ (.x 5) (.x 6)) ∧
    decodeTableWord 64 0x0000_1010_D050_0070 = some (.swgoC ⟨false, 0⟩ (.x 20) (.x 26)) ∧
    decodeTableWord 64 0x0000_2010_3014_0070 = some (.swgoW ⟨false, 0⟩ false (.x 5) (.x 6)) ∧
    decodeTableWord 64 0x0000_0020_0050_0070 = some (.swstop ⟨false, 0⟩ (.x 20)) ∧
    decodeTableWord 64 0x0000_1020_0050_0070 = some (.swstopD ⟨false, 0⟩ (.x 20)) ∧
    decodeTableWord 64 0x0000_0030_0014_7070 = some (.swstatSn ⟨false, 0⟩ (.x 7) (.x 5)) ∧
    decodeTableWord 64 0x0000_1030_0014_7070 = some (.swstatPos ⟨false, 0⟩ (.x 7) (.x 5)) ∧
    decodeTableWord 64 0x0000_2030_0014_7070 = some (.swstatPend ⟨false, 0⟩ (.x 7) (.x 5)) ∧
    decodeTableWord 64 0x0000_3030_0014_7070 = some (.swstatLoss ⟨false, 0⟩ (.x 7) (.x 5)) := by
  decide

theorem test_decode_counters :
    decodeTableWord 64 0x000A_0000_0010_0074 = some (.cntcfg ⟨false, 0⟩ 0xA0 (.x 4)) ∧
    decodeTableWord 64 0x000A_0010_0000_5074 = some (.cntrd ⟨false, 0⟩ (.x 5) 0xA0) ∧
    decodeTableWord 64 0x010A_0010_0000_5074 = some (.cntrdC ⟨false, 0⟩ (.x 5) 0xA0) ∧
    decodeTableWord 64 0x000A_1020_0008_0074 = some (.cntwr ⟨false, 0⟩ 0xA1 (.x 2)) ∧
    decodeTableWord 64 0x0000_2030_0020_0074 = some (.cntsv ⟨false, 0⟩ 2 (.x 8)) ∧
    decodeTableWord 64 0x0000_1040_0020_0074 = some (.cntld ⟨false, 0⟩ 1 (.x 8)) := by
  decide

theorem test_decode_debug_1 :
    decodeTableWord 64 0x0007_0000_0000_0078 = some (.bkpt ⟨false, 0⟩ 7) ∧
    decodeTableWord 64 0x0000_1000_2810_0078 = some (.bkptW ⟨false, 0⟩ (.x 4) (.x 5)) ∧
    decodeTableWord 64 0x0000_2000_0014_4078 = some (.bkptR ⟨false, 0⟩ (.x 4) (.x 5)) ∧
    decodeTableWord 64 0x0000_3000_2810_0078 = some (.bkptS ⟨false, 0⟩ (.x 4) (.x 5)) ∧
    decodeTableWord 64 0x0000_4000_0000_0078 = some (.bkptF ⟨false, 0⟩) ∧
    decodeTableWord 64 0x0000_5000_0010_0078 = some (.bkptT ⟨false, 0⟩ 0 (.x 4)) ∧
    decodeTableWord 64 0x0000_5010_0010_0078 = some (.tmark ⟨false, 0⟩ (.x 4) ⟨.h64, 5⟩) ∧
    decodeTableWord 64 0x0000_5010_0810_0078 = some (.tmarkO ⟨false, 0⟩ (.x 4) ⟨.h64, 5⟩) ∧
    decodeTableWord 64 0x0000_0010_1000_0078 = some (.tmarkC ⟨false, 0⟩ .h64) ∧
    decodeTableWord 64 0x0000_3020_00D0_0078 = some (.rmark ⟨false, 0⟩ .zero ⟨.h64, 3⟩) ∧
    decodeTableWord 64 0x0000_0080_0000_0078 = some (.tret ⟨false, 0⟩) ∧
    decodeTableWord 64 0x0000_0090_0000_5078 = some (.yield ⟨false, 0⟩ (.x 5)) := by
  decide

theorem test_decode_debug_2 :
    decodeTableWord 64 0x0000_00A0_2810_0078 = some (.csave ⟨false, 0⟩ (.x 4) (.x 5)) ∧
    decodeTableWord 64 0x0000_00B0_2810_0078 = some (.crest ⟨false, 0⟩ (.x 4) (.x 5)) := by
  decide

/-- The pair word of the format chapter's example, and CREST. -/
theorem test_decode_pair :
    decodeTableWord 128 0x0000_0000_4010_4008_0000_0008_1C70_010B =
      some (.pairWord ⟨false, 2⟩ (.add ⟨false, 2⟩ false (.x 7) (.x 7) (.x 1)) (.vadd ⟨false, 2⟩ (.v 1) (.v 1) (.v 2))) := by
  decide

/-- Words that R79 reserves: zeros, a reserved major and minor, bit 7 of a minor, a length, a field that must be zero, a
reserved operand code and destination, a distance, a condition, a half. -/
theorem test_decode_reserved : ∀ w ∈ [(64, 0), (64, 0x1C), (64, 0x0000_0090_0000_0010), (64, 0x0000_0900_0000_0010),
    (96, 0x0000_0000_0000_0000_0000_0011), (64, 0x0000_1000_0000_0010), (64, 0x0000_0000_00E4_0010),
    (64, 0x0000_0000_0003_5010), (64, 0x0000_0000_0100_0010), (64, 0x0000_00C0_0000_1018), (64, 0xC0),
    (128, 0x0400_0000_4010_4008_0000_0008_1C70_010B), (128, 0x0000_0000_0000_0004_0000_0000_0000_0003)],
    decodeTableWord w.1 w.2 = none := by
  decide

/-! Witnesses. -/

/-- The module is on, nothing runs. -/
def s0 : State := { power := .on }

/-- The acting context is changed. -/
def me (f : Ctx → Ctx) : State := s0.modCtx 0 0 f

theorem wit_scalarBinary :
    (∃ e ∈ Claim.scalarOps, ∃ g w rd a b s s1 s2 s3 u v, Issues (binInfo g rd a b) s s1 ∧ Gives (readS a) s1 u s2 ∧
      Gives (readS b) s2 v s3 ∧ Gives (checkS rd) s3 () s3 ∧ exec (e.1 g w rd a b) s ≠ .fault .unpowered) ∧
    (∃ e ∈ Claim.logicOps, ∃ g rd a b s s1 s2 s3 u v, Issues (binInfo g rd a b) s s1 ∧ Gives (readS a) s1 u s2 ∧
      Gives (readS b) s2 v s3 ∧ Gives (checkS rd) s3 () s3 ∧ exec (e.1 g rd a b) s ≠ .fault .unpowered) :=
  ⟨⟨_, List.mem_cons_self, on, true, .x 31, .x 0, .cid, s0, _, _, _, _, _, rfl, rfl, rfl, rfl, nofun⟩,
   ⟨_, List.mem_cons_self, on, .zero, .zero, .x 31, s0, _, _, _, _, _, rfl, rfl, rfl, rfl, nofun⟩⟩

theorem wit_scalarOther :
    (∃ e ∈ Claim.countOps, ∃ g rd a s s1 s2 u, Issues (unInfo g 8 rd a) s s1 ∧ Gives (readS a) s1 u s2 ∧
      Gives (checkS rd) s2 () s2 ∧ e.2 64 0 = 64) ∧
    (∃ g rd a s s1 s2 u, ∃ imm : Imm, Issues (unInfo g (formLen imm.form) rd a) s s1 ∧ Gives (readS a) s1 u s2 ∧
      Gives (checkS rd) s2 () s2 ∧ imm.form = .h96) ∧
    (∃ g rd s s1, ∃ imm : Imm, Issues (infoOf g (formLen imm.form) 1 [] [] [rd] []) s s1 ∧ Gives (checkS rd) s1 () s1) ∧
    (∃ g rd a s s1 s2 u, ∃ pos len : Fin 64, Issues (unInfo g 8 rd a) s s1 ∧ Gives (readS a) s1 u s2 ∧
      Gives (checkS rd) s2 () s2 ∧ pos.val + len.val < 64 ∧ pos.val + len.val = 63) ∧
    (∃ g rd a b s s1 s2 s3 u v, ∃ pos len : Fin 64, Issues (binInfo g rd a b) s s1 ∧ Gives (readS a) s1 u s2 ∧
      Gives (readS b) s2 v s3 ∧ Gives (checkS rd) s3 () s3 ∧ pos.val + len.val < 64) :=
  ⟨⟨_, List.mem_cons_self, on, .x 0, .zero, s0, _, _, _, rfl, rfl, rfl, by decide⟩,
   ⟨on, .x 0, .zero, s0, _, _, _, ⟨.h96, 5⟩, rfl, rfl, rfl, rfl⟩,
   ⟨on, .x 0, s0, _, ⟨.h128, 5⟩, rfl, rfl⟩,
   ⟨on, .x 0, .x 1, s0, _, _, _, 60, 3, rfl, rfl, rfl, by decide, rfl⟩,
   ⟨on, .x 0, .x 1, .x 2, s0, _, _, _, _, _, 0, 63, rfl, rfl, rfl, rfl, by decide⟩⟩

theorem wit_pga :
    ∃ g rd place off space s s1 s2 p o a, ∃ disp : Imm,
      Issues (infoOf g (formLen disp.form) 1 [off, place] [] [rd] []) s s1 ∧ Gives (pgaReads place off) s1 (p, o) s2 ∧
      Claim.pgaAddr space p (o + if disp.form = .h64 then 0 else disp.val) = some a ∧ Gives (checkS rd) s2 () s2 ∧
      (o + if disp.form = .h64 then 0 else disp.val).toNat / 2 ^ (Claim.pgaFields space).2 ≠ 0 :=
  ⟨on, .x 0, .zero, .x 1, 0xC, me (fun x => x.setX 1 0xFFFF_FFFF), _, _, _, _, _, ⟨.h96, 1⟩, rfl, rfl, rfl, rfl, by decide⟩

theorem wit_guard :
    (∃ g a b s s1 s2 s3 u v, Issues (infoOf g 8 1 [a, b] [] [] []) s s1 ∧ Gives (readS a) s1 u s2 ∧ Gives (readS b) s2 v s3 ∧
      Claim.compares true .lt u v) ∧
    (∃ g a s s1 s2 u, ∃ imm : Imm, Issues (infoOf g (formLen imm.form) 1 [a] [] [] []) s s1 ∧ Gives (readS a) s1 u s2 ∧
      ¬Claim.compares false .ltu u imm.val) ∧
    (∃ g s s1, Issues (guardInfo g) s s1 ∧ (s1.me.guardBits g).getLsbD 0 = false) :=
  ⟨⟨on, .x 1, .x 2, me (fun x => x.setX 1 0xFFFF_FFFF), _, _, _, _, _, rfl, rfl, rfl, by unfold Claim.compares Claim.holds; decide⟩,
   ⟨on, .zero, s0, _, _, _, ⟨.h64, 0⟩, rfl, rfl, by unfold Claim.compares Claim.holds; decide⟩,
   ⟨⟨false, 1⟩, me (fun x => x.setG 1 2), _, rfl, by decide⟩⟩

/-- v1 to v4 hold values of these tags. -/
def vecs (a b c : Tag) : State :=
  me (fun x => { x with v := ((x.v.set 1 { bits := 0x3F800000, tag := a }).set 2 { bits := 0x80000000, tag := b }).set 3 { bits := 7, tag := c } })

theorem wit_vectorBinary : ∃ e ∈ Claim.vec2, ∃ g vd a b s s1 s2 s3 u v t, Issues (vecInfo g [a, b] [vd]) s s1 ∧
    Gives (readV a) s1 u s2 ∧ Gives (readV b) s2 v s3 ∧ Gives (checkV vd) s3 () s3 ∧ u.tag ∈ e.2.1 ∧ v.tag ∈ e.2.1 ∧
    Claim.format e.2.2.1 [u.tag, v.tag] = some t :=
  ⟨_, List.mem_cons_self, on, .v 0, .v 1, .v 2, vecs .fp32 .fp32 .raw, _, _, _, _, _, .fp32, rfl, rfl, rfl, rfl,
   by decide, by decide, rfl⟩

theorem wit_vectorUnaryAndFused :
    (∃ e ∈ Claim.vec1, ∃ g vd a s s1 s2 u, Issues (vecInfo g [a] [vd]) s s1 ∧ Gives (readV a) s1 u s2 ∧
      Gives (checkV vd) s2 () s2 ∧ u.tag ∈ e.2.1) ∧
    (∃ e ∈ Claim.vec3, ∃ g vd a b c s s1 s2 s3 s4 u v w t, Issues (vecInfo g [a, b, c] [vd]) s s1 ∧ Gives (readV a) s1 u s2 ∧
      Gives (readV b) s2 v s3 ∧ Gives (readV c) s3 w s4 ∧ Gives (checkV vd) s4 () s4 ∧ u.tag ∈ e.2.1 ∧ v.tag ∈ e.2.1 ∧
      w.tag ∈ e.2.1 ∧ Claim.format .int32 [u.tag, v.tag, w.tag] = some t) :=
  ⟨⟨_, List.mem_cons_self, on, .v 0, .v 1, vecs .bf16 .raw .raw, _, _, _, rfl, rfl, rfl, by decide⟩,
   ⟨_, List.mem_cons_self, on, .v 0, .v 1, .v 2, .v 3, vecs .fp16 .fp16 .fp16, _, _, _, _, _, _, _, .fp16, rfl, rfl, rfl, rfl,
    rfl, by decide, by decide, by decide, rfl⟩⟩

theorem wit_vectorConversions :
    (∃ row ∈ Claim.cvtRows, ∃ g vd a s s1 s2 u, Issues (vecInfo g [a] [vd]) s s1 ∧ Gives (readV a) s1 u s2 ∧
      Gives (checkV vd) s2 () s2 ∧ u.tag = row.1) ∧
    (∃ row ∈ Claim.packRows, ∃ g vd a b s s1 s2 s3 u v, Issues (vecInfo g [a, b] [vd]) s s1 ∧ Gives (readV a) s1 u s2 ∧
      Gives (readV b) s2 v s3 ∧ Gives (checkV vd) s3 () s3 ∧ u.tag = row.1 ∧ v.tag = row.1) ∧
    (∃ row ∈ Claim.unpkRows, ∃ g vd a s s1 s2 u, Issues (vecInfo g [a] [vd]) s s1 ∧ Gives (readV a) s1 u s2 ∧
      Gives (checkV vd) s2 () s2 ∧ u.tag = row.1) ∧
    (∃ g vd a s s1 s2 u, Issues (vecInfo g [a] [vd]) s s1 ∧ Gives (readV a) s1 u s2 ∧
      ∀ row ∈ Claim.cvtRows, (row.1, row.2.1) ≠ (u.tag, Tag.int32)) :=
  ⟨⟨_, List.mem_cons_self, on, .v 0, .v 1, vecs .fp32 .raw .raw, _, _, _, rfl, rfl, rfl, rfl⟩,
   ⟨_, List.mem_cons_self, on, .v 0, .v 1, .v 2, vecs .fp32 .fp32 .raw, _, _, _, _, _, rfl, rfl, rfl, rfl, rfl, rfl⟩,
   ⟨_, List.mem_cons_self, on, .v 0, .v 1, vecs .bf16 .raw .raw, _, _, _, rfl, rfl, rfl, rfl⟩,
   ⟨on, VDst.v 0, .v 1, vecs .int8 .raw .raw, _, _, _, rfl, rfl, by simp [Claim.cvtRows]; decide⟩⟩

theorem wit_vectorFormatFaults :
    (∃ e ∈ Claim.vec2, ∃ g vd a b s s1 s2 s3 u v, Issues (vecInfo g [a, b] [vd]) s s1 ∧ Gives (readV a) s1 u s2 ∧
      Gives (readV b) s2 v s3 ∧ u.tag ∉ e.2.1) ∧
    (∃ e ∈ Claim.vec2, ∃ g vd a b s s1 s2 s3 u v, Issues (vecInfo g [a, b] [vd]) s s1 ∧ Gives (readV a) s1 u s2 ∧
      Gives (readV b) s2 v s3 ∧ u.tag ∈ e.2.1 ∧ Claim.format .raw [u.tag, v.tag] = none) ∧
    (∃ e ∈ Claim.vec1, ∃ g vd a s s1 s2 u, Issues (vecInfo g [a] [vd]) s s1 ∧ Gives (readV a) s1 u s2 ∧ u.tag ∉ e.2.1) :=
  ⟨⟨_, List.mem_cons_self, on, VDst.v 0, .v 1, .v 2, vecs .int32 .fp32 .raw, _, _, _, _, _, rfl, rfl, rfl, by decide⟩,
   ⟨_, List.mem_cons_self, on, VDst.v 0, .v 1, .v 2, vecs .fp32 .bf16 .raw, _, _, _, _, _, rfl, rfl, rfl, by decide, rfl⟩,
   ⟨_, List.mem_cons_self, on, VDst.v 0, .v 1, vecs .raw .raw .raw, _, _, _, rfl, rfl, by decide⟩⟩

theorem wit_vectorCompareAndSelect :
    (∃ cc g a b s s1 s2 s3 u v t, Issues (vecInfo g [a, b] []) s s1 ∧ Gives (readV a) s1 u s2 ∧ Gives (readV b) s2 v s3 ∧
      u.tag ∈ Claim.setS ∧ v.tag ∈ Claim.setS ∧ Claim.format .int32 [u.tag, v.tag] = some t ∧ cc ∈ Claim.vcmpCodes t) ∧
    (∃ cc g a b s s1 s2 s3 u v t, Issues (vecInfo g [a, b] []) s s1 ∧ Gives (readV a) s1 u s2 ∧ Gives (readV b) s2 v s3 ∧
      u.tag ∈ Claim.setS ∧ v.tag ∈ Claim.setS ∧ Claim.format .int32 [u.tag, v.tag] = some t ∧ cc ∉ Claim.vcmpCodes t) ∧
    (∃ g vd a b s s1 s2 s3 u v, Issues (vecInfo g [a, b] [vd]) s s1 ∧ Gives (readV a) s1 u s2 ∧ Gives (readV b) s2 v s3 ∧
      v.tag = u.tag ∧ Gives (checkV vd) s3 () s3) ∧
    (∃ g vd a b s s1 s2 s3 u v, Issues (vecInfo g [a, b] [vd]) s s1 ∧ Gives (readV a) s1 u s2 ∧ Gives (readV b) s2 v s3 ∧
      v.tag ≠ u.tag) :=
  ⟨⟨.un, on, .v 1, .v 2, vecs .fp32 .fp32 .raw, _, _, _, _, _, .fp32, rfl, rfl, rfl, by decide, by decide, rfl, by decide⟩,
   ⟨.un, on, .v 1, .v 2, vecs .int32 .raw .raw, _, _, _, _, _, .int32, rfl, rfl, rfl, by decide, by decide, rfl, by decide⟩,
   ⟨on, .v 0, .v 1, .v 2, vecs .fp16 .fp16 .raw, _, _, _, _, _, rfl, rfl, rfl, rfl, rfl⟩,
   ⟨on, VDst.v 0, .v 1, .v 2, vecs .fp16 .raw .raw, _, _, _, _, _, rfl, rfl, rfl, by decide⟩⟩

theorem wit_laneMovement :
    (∃ g vd a s s1 s2 u, ∃ imm : Imm, Issues (infoOf g (formLen imm.form) allOn [a] [] [] [vd]) s s1 ∧ Gives (readS a) s1 u s2 ∧
      Gives (checkV vd) s2 () s2) ∧
    (∃ g vd a b s s1 s2 s3 u v, Issues (vecInfo g [a, b] [vd]) s s1 ∧ Gives (readV a) s1 u s2 ∧ Gives (readV b) s2 v s3 ∧
      Gives (checkV vd) s3 () s3 ∧ (v.tag = .int32 ∨ v.tag = .raw)) ∧
    (∃ g vd a s s1 s2 u, Issues (vecInfo g [a] [vd]) s s1 ∧ Gives (readV a) s1 u s2 ∧ Gives (checkV vd) s2 () s2) ∧
    (∃ g rd a s s1 s2 u, ∃ k : Fin 32, Issues (infoOf g 8 (BitVec.ofNat 32 (2 ^ k.val)) [] [a] [rd] []) s s1 ∧
      Gives (readV a) s1 u s2 ∧ Gives (checkS rd) s2 () s2) ∧
    (∃ g vd a s s1 s2 u, ∃ k : Fin 32, Issues (infoOf g 8 (BitVec.ofNat 32 (2 ^ k.val)) [a] [] [] [vd]) s s1 ∧
      Gives (readS a) s1 u s2 ∧ Gives (checkV vd) s2 () s2) ∧
    (∃ g vd a b c s s1 s2 s3 s4 u v w, Issues (vecInfo g [a, b, c] [vd]) s s1 ∧ Gives (readV a) s1 u s2 ∧
      Gives (readV b) s2 v s3 ∧ Gives (readV c) s3 w s4 ∧ Gives (checkV vd) s4 () s4 ∧
      u.tag ∈ [Tag.int8, .raw] ∧ v.tag ∈ [Tag.int8, .raw] ∧ w.tag ∈ [Tag.int32, .raw]) :=
  ⟨⟨on, .v 0, .x 1, s0, _, _, _, ⟨.h96, 5⟩, rfl, rfl, rfl⟩,
   ⟨on, .v 0, .v 1, .lane, s0, _, _, _, _, _, rfl, rfl, rfl, rfl, .inl rfl⟩,
   ⟨on, .v 0, .v 1, s0, _, _, _, rfl, rfl, rfl⟩,
   ⟨⟨false, 1⟩, .x 0, .v 1, me (fun x => x.setG 1 0x80000000), _, _, _, 31, rfl, rfl, rfl⟩,
   ⟨on, .v 0, .x 1, s0, _, _, _, 31, rfl, rfl, rfl⟩,
   ⟨on, .v 0, .v 1, .v 2, .v 3, vecs .int8 .raw .int32, _, _, _, _, _, _, _, rfl, rfl, rfl, rfl, rfl, by decide, by decide,
    by decide⟩⟩

theorem wit_reductions :
    (∃ g vd a s s1 s2 u t, Issues (vecInfo g [a] [vd]) s s1 ∧ Gives (readV a) s1 u s2 ∧ Gives (checkV vd) s2 () s2 ∧
      u.tag ∈ Claim.setS ∧ Claim.format .int32 [u.tag] = some t ∧ t = .int32) ∧
    (∃ g vd a s s1 s2 u t, Issues (vecInfo g [a] [vd]) s s1 ∧ Gives (readV a) s1 u s2 ∧ Gives (checkV vd) s2 () s2 ∧
      u.tag ∈ Claim.setS ∧ Claim.format .int32 [u.tag] = some t ∧ t = .fp32 ∧
      ∀ n < 32, (s2.me.guardBits g).getLsbD n = true → (fp32.num (getLane u.bits n).toNat).isNan = true) ∧
    (∃ g vd a s s1 s2 u t, Issues (vecInfo g [a] [vd]) s s1 ∧ Gives (readV a) s1 u s2 ∧ Gives (checkV vd) s2 () s2 ∧
      u.tag ∈ Claim.setS ∧ Claim.format .int32 [u.tag] = some t ∧ t = .fp32 ∧
      ∃ n < 32, (s2.me.guardBits g).getLsbD n = true ∧ (fp32.num (getLane u.bits n).toNat).isNan = false) :=
  ⟨⟨on, .v 0, .v 1, s0, _, _, _, .int32, rfl, rfl, rfl, by decide, rfl, rfl⟩,
   ⟨⟨false, 1⟩, .v 0, .v 1, (vecs .fp32 .raw .raw).modCtx 0 0 (fun x => (x.setG 1 1).setV 1 allOn 0x7FC00000 .fp32), _, _, _, .fp32,
    rfl, rfl, rfl, by decide, rfl, rfl, by decide⟩,
   ⟨on, .v 0, .v 1, vecs .fp32 .raw .raw, _, _, _, .fp32, rfl, rfl, rfl, by decide, rfl, rfl, 0, by decide, by decide, by decide⟩⟩

theorem wit_helpers :
    (∃ x < 2 ^ 32, (fp32.num x).isNan = true) ∧
    (∃ x < 2 ^ 32, (fp32.num x).isNan = false ∧ 0x3F800000 < x % 2 ^ 31 ∧ 2 ^ 31 < x) ∧
    (∃ b < 2 ^ (bf16.eb + bf16.fb + 1), (bf16.num b).isNan = false) :=
  ⟨⟨0x7F800001, by decide, by decide⟩, ⟨0xBF800001, by decide, by decide, by decide, by decide⟩, ⟨0x7F80, by decide, by decide⟩⟩

/-- The acting context runs iteration `i` of a loop of its own, changed by `h`. -/
def inLoop (i setl : Nat) (h : LFrame → LFrame) : State :=
  s0.modCore 0 (fun y => { y with frames := y.frames.set 0 (h { st := .run, trip := 10, w := 2, c := 1, members := [0], setl, its := [{ i, ctx := 0 }] }) })

/-- A guard that is off in every lane. -/
abbrev off : Guard := ⟨true, 0⟩

theorem wit_issueConditions :
    (∃ (i : Info) (s : State), i.bar = true ∧ (0 < s.me.live.left ∨ s.me.live.active = true)) ∧
    (∃ (i : Info) (s : State), (i.bar = false ∨ s.me.live.left = 0 ∧ s.me.live.active = false) ∧ i.priv = true) ∧
    (∃ (i : Info) (s : State), (i.bar = false ∨ s.me.live.left = 0 ∧ s.me.live.active = false) ∧ i.priv = false ∧
      s.me.guardBits i.g &&& i.lanes = 0 ∧ s.curIter s.cc s.ck = none) ∧
    (∃ (i : Info) (s : State), (i.bar = false ∨ s.me.live.left = 0 ∧ s.me.live.active = false) ∧ i.priv = false ∧
      s.me.guardBits i.g &&& i.lanes ≠ 0 ∧ (s.cluster (s.clusterOf s.cc)).bps = [] ∧ s.curIter s.cc s.ck = none) ∧
    (∃ (i : Info) (s : State) (f : Fin 2) (t : Iter), (i.bar = false ∨ s.me.live.left = 0 ∧ s.me.live.active = false) ∧
      i.priv = false ∧ s.me.guardBits i.g &&& i.lanes ≠ 0 ∧ (s.cluster (s.clusterOf s.cc)).bps = [] ∧
      s.curIter s.cc s.ck = some (f, t) ∧ i.lds = [] ∧ i.side = true ∧ t.committed = false ∧ t.i = (s.fr s.cc f).setl) ∧
    (∃ (i : Info) (s : State) (f : Fin 2) (t : Iter), (i.bar = false ∨ s.me.live.left = 0 ∧ s.me.live.active = false) ∧
      i.priv = false ∧ s.me.guardBits i.g &&& i.lanes ≠ 0 ∧ (s.cluster (s.clusterOf s.cc)).bps = [] ∧
      s.curIter s.cc s.ck = some (f, t) ∧ i.lds = [] ∧ i.side = true ∧ t.committed = false ∧ t.i ≠ (s.fr s.cc f).setl) ∧
    (∃ (i : Info) (s : State), (i.bar = false ∨ s.me.live.left = 0 ∧ s.me.live.active = false) ∧ i.priv = false ∧
      s.me.guardBits i.g &&& i.lanes ≠ 0 ∧ (s.cluster (s.clusterOf s.cc)).bps = [] ∧ s.curIter s.cc s.ck ≠ none ∧
      i.lds = [] ∧ i.side = false) :=
  ⟨⟨{ g := on, bar := true }, me (fun x => { x with live := { left := 1 } }), rfl, .inl (by decide)⟩,
   ⟨{ g := on, priv := true }, s0, .inl rfl, rfl⟩,
   ⟨{ g := off, bar := true }, s0, .inr ⟨rfl, rfl⟩, rfl, rfl, rfl⟩,
   ⟨{ g := ⟨false, 1⟩ }, me (fun x => x.setG 1 1), .inl rfl, rfl, by decide, rfl, rfl⟩,
   ⟨{ g := on, side := true }, inLoop 1 1 id, 0, { i := 1, ctx := 0 }, .inl rfl, rfl, by decide, rfl, rfl, rfl, rfl, rfl, rfl⟩,
   ⟨{ g := on, side := true }, inLoop 1 0 id, 0, { i := 1, ctx := 0 }, .inl rfl, rfl, by decide, rfl, rfl, rfl, rfl, rfl,
    by decide⟩,
   ⟨{ g := on }, inLoop 1 0 id, .inl rfl, rfl, by decide, rfl, by decide, rfl, rfl⟩⟩

theorem wit_guardedOff :
    (∃ e ∈ Claim.scalarOps, ∃ g rd a b s s1, Skips (binInfo g rd a b) s s1 ∧ e = e) ∧
    (∃ e ∈ Claim.logicOps, ∃ g rd a b s s1, Skips (binInfo g rd a b) s s1 ∧ e = e) ∧
    (∃ e ∈ Claim.vec2, ∃ g vd a b s s1, Skips (vecInfo g [a, b] [vd]) s s1 ∧ e = e) ∧
    (∃ e ∈ Claim.vec1, ∃ g vd a s s1, Skips (vecInfo g [a] [vd]) s s1 ∧ e = e) :=
  ⟨⟨_, List.mem_cons_self, off, .zero, .zero, .zero, s0, _, rfl, rfl⟩,
   ⟨_, List.mem_cons_self, off, .zero, .zero, .zero, s0, _, rfl, rfl⟩,
   ⟨_, List.mem_cons_self, ⟨false, 7⟩, .zero, .zero, .zero, s0, _, rfl, rfl⟩,
   ⟨_, List.mem_cons_self, off, .zero, .zero, s0, _, rfl, rfl⟩⟩

/-- q1 maps to hardware queue 7, which holds these entries. -/
def queued (l : List QEntry) : State :=
  (me (fun x => { x with qmap := 0x00F0 })).modCore 0 (fun y => { y with hwq := y.hwq.set 7 { entries := l } })

theorem wit_operandReads :
    (∃ s : State, s.curIter s.cc s.ck = none) ∧ (∃ (s : State) (f : Fin 2) (t : Iter), s.curIter s.cc s.ck = some (f, t)) ∧
    (∃ (s : State) (n : Fin 4), s.me.qmap.getLsbD (4 * n.val + 3) = false) ∧
    (∃ (s : State) (n : Fin 4) (q : Fin 8), s.me.qmap.getLsbD (4 * n.val + 3) = true ∧
      s.me.qmap.extractLsb' (4 * n.val) 3 = BitVec.ofNat 3 q.val ∧ (s.myCore.hwq.get q).vec = false ∧ s.foldReady s.cc = true ∧
      (s.myCore.hwq.get q).entries = []) ∧
    (∃ (s : State) (n : Fin 4) (q : Fin 8) (v : Word) (r : List QEntry), s.me.qmap.getLsbD (4 * n.val + 3) = true ∧
      s.me.qmap.extractLsb' (4 * n.val) 3 = BitVec.ofNat 3 q.val ∧ (s.myCore.hwq.get q).vec = false ∧ s.foldReady s.cc = true ∧
      (s.myCore.hwq.get q).entries = .s v :: r) :=
  ⟨⟨s0, rfl⟩, ⟨inLoop 3 0 id, 0, _, rfl⟩, ⟨s0, 3, rfl⟩, ⟨queued [], 1, 7, rfl, rfl, rfl, rfl, rfl⟩,
   ⟨queued [.s 5, .s 6], 1, 7, 5, [.s 6], rfl, rfl, rfl, rfl, rfl⟩⟩

theorem wit_loopNameReads :
    (∃ s : State, s.curFrame s.cc s.ck = none) ∧
    (∃ (s : State) (f : Fin 2) (t : Iter) (d : Fin 8), s.curFrame s.cc s.ck = some (f, some t) ∧ (s.fr s.cc f).w < d.val) ∧
    (∃ (s : State) (f : Fin 2) (t : Iter) (r : Fin 16) (d : Fin 8), s.curFrame s.cc s.ck = some (f, some t) ∧
      d.val ≤ (s.fr s.cc f).w ∧ d.val = 0 ∧ (s.fr s.cc f).ver? r.val t.i = none) ∧
    (∃ (s : State) (f : Fin 2) (t : Iter) (d : Fin 8), s.curFrame s.cc s.ck = some (f, some t) ∧
      d.val ≤ (s.fr s.cc f).w ∧ 0 < d.val ∧ t.retired = true) ∧
    (∃ (s : State) (f : Fin 2) (t : Iter) (r : Fin 16) (d : Fin 8) (v : Ver), s.curFrame s.cc s.ck = some (f, some t) ∧
      d.val ≤ (s.fr s.cc f).w ∧ (d.val = 0 ∨ t.retired = false) ∧ (s.fr s.cc f).ver? r.val ((t.i : Int) - d.val) = some v ∧
      v.need = 0) ∧
    (∃ (s : State) (f : Fin 2) (t : Iter) (r : Fin 16) (d : Fin 8), s.curFrame s.cc s.ck = some (f, some t) ∧
      d.val ≤ (s.fr s.cc f).w ∧ (d.val = 0 ∨ t.retired = false) ∧ 0 < d.val ∧ (t.i : Int) < d.val ∧
      (s.fr s.cc f).ver? r.val ((t.i : Int) - d.val) = none) ∧
    (∃ (s : State) (f : Fin 2) (t : Iter) (r : Fin 16) (d : Fin 8), s.curFrame s.cc s.ck = some (f, some t) ∧
      d.val ≤ (s.fr s.cc f).w ∧ (d.val = 0 ∨ t.retired = false) ∧ 0 < d.val ∧ (d.val : Int) ≤ t.i ∧
      (s.fr s.cc f).ver? r.val ((t.i : Int) - d.val) = none) :=
  ⟨⟨s0, rfl⟩, ⟨inLoop 1 0 id, 0, _, 3, rfl, by decide⟩, ⟨inLoop 1 0 id, 0, _, 15, 0, rfl, by decide, rfl, rfl⟩,
   ⟨inLoop 1 0 (fun F => { F with its := [{ i := 1, ctx := 0, retired := true }] }), 0, _, 1, rfl, by decide, by decide, rfl⟩,
   ⟨inLoop 1 0 (fun F => { F with vers := [{ name := 15, iter := -1, carried := false, need := 0, bits := 4, tag := .raw }] }),
    0, _, 15, 2, _, rfl, by decide, .inr rfl, rfl, rfl⟩,
   ⟨inLoop 1 0 id, 0, _, 0, 2, rfl, by decide, .inr rfl, by decide, by decide, rfl⟩,
   ⟨inLoop 1 0 id, 0, _, 0, 1, rfl, by decide, .inr rfl, by decide, by decide, rfl⟩⟩

theorem wit_completion :
    (∃ s : State, s.me.live.left = 0 ∧ s.me.live.active = false ∧ s.me.dbc.steps = 0) ∧
    (∃ s : State, 1 < s.me.live.left ∧ s.me.dbc.steps ≠ 0 ∧ s.me.dbc.steps ≠ 0xFFFF) ∧
    (∃ s : State, s.me.live.left = 1 ∧ s.me.live.taken = true ∧ s.me.dbc.steps = 0xFFFF) ∧
    (∃ s : State, s.me.live.left = 0 ∧ s.me.live.active = true ∧ s.me.live.pos + 1 < s.me.live.blen) ∧
    (∃ s : State, s.me.live.left = 0 ∧ s.me.live.active = true ∧ s.me.live.pos + 1 = s.me.live.blen ∧
      1 < s.me.live.passes.toNat) ∧
    (∃ s : State, s.me.live.left = 0 ∧ s.me.live.active = true ∧ s.me.live.pos + 1 = s.me.live.blen ∧
      s.me.live.passes.toNat ≤ 1) :=
  ⟨⟨s0, rfl, rfl, rfl⟩, ⟨me (fun x => { x with live := { left := 2 }, dbc := { steps := 1 } }), by decide, by decide, by decide⟩,
   ⟨me (fun x => { x with live := { left := 1, taken := true }, dbc := { steps := 0xFFFF } }), rfl, rfl, rfl⟩,
   ⟨me (fun x => { x with live := { active := true, blen := 2 } }), rfl, rfl, by decide⟩,
   ⟨me (fun x => { x with live := { active := true, blen := 1, passes := 2 } }), rfl, rfl, rfl, by decide⟩,
   ⟨me (fun x => { x with live := { active := true, blen := 1, passes := 1 } }), rfl, rfl, rfl, by decide⟩⟩

/-- The block at a PC in space 0 has been fetched: it is all NOPs. -/
def nops : State :=
  me (fun x => { x with fetched := [(0, (List.replicate 4 [4, 0, 0, 0, 0, 0, 0, 0]).flatten), (32, (List.replicate 4 [4, 0, 0, 0, 0, 0, 0, 0]).flatten)] })

theorem wit_transfers :
    (∃ g s s1 s3 link, ∃ imm : Imm, Issues { infoOf g (formLen imm.form) 1 [] [] [] [] with bar := true } s s1 ∧
      Gives (afterInstrs (s1.me.pc + BitVec.ofNat 64 (formLen imm.form)) 2) s1 link s3 ∧ Gives (checkS .zero) s3 () s3 ∧
      (s1.me.pc + 4 * imm.val).toNat % 4 = 0 ∧ imm.val.toNat % 4 ≠ 0) ∧
    (∃ g rd s s1 s3 link, ∃ imm : Imm, Issues { infoOf g (formLen imm.form) 1 [] [] [rd] [] with bar := true } s s1 ∧
      Gives (afterInstrs (s1.me.pc + BitVec.ofNat 64 (formLen imm.form)) 2) s1 link s3 ∧ Gives (checkS rd) s3 () s3 ∧ link = 24) ∧
    (∃ g rd a s s1 s2 s3 t link, Issues { infoOf g 8 1 [a] [] [rd] [] with bar := true } s s1 ∧ Gives (readS a) s1 t s2 ∧
      Gives (afterInstrs (s1.me.pc + 8) 2) s2 link s3 ∧ Gives (checkS rd) s3 () s3 ∧ t.toNat % 4 = 0) ∧
    (∃ g a s s1 s2 s3 t link, Issues { infoOf g 8 1 [a] [] [] [] with bar := true } s s1 ∧ Gives (readS a) s1 t s2 ∧
      Gives (afterInstrs (s1.me.pc + 8) 2) s2 link s3 ∧ t.toNat % 4 ≠ 0) :=
  ⟨⟨on, nops, _, _, _, ⟨.h64, 5⟩, rfl, rfl, rfl, by decide, by decide⟩,
   ⟨on, .x 31, nops, _, _, _, ⟨.h64, 4⟩, rfl, rfl, rfl, by decide⟩,
   ⟨on, .x 31, .x 1, nops, _, _, _, _, _, rfl, rfl, rfl, rfl, by decide⟩,
   ⟨on, .x 1, nops.modCtx 0 0 (fun x => x.setX 1 2), _, _, _, _, _, rfl, rfl, rfl, by decide⟩⟩

theorem wit_rep :
    (∃ g a s s1 s2 v, ∃ imm : Imm, Issues { infoOf g (formLen imm.form) 1 [a] [] [] [] with bar := true } s s1 ∧
      Gives (readS a) s1 v s2 ∧ v + imm.val ≠ 0) ∧
    (∃ g a s s1 s2 s3 v t, ∃ (blen : Fin 64) (imm : Imm),
      Issues { infoOf g (formLen imm.form) 1 [a] [] [] [] with bar := true } s s1 ∧ Gives (readS a) s1 v s2 ∧ v + imm.val = 0 ∧
      Gives (afterInstrs (s2.me.pc + BitVec.ofNat 64 (formLen imm.form)) blen.val) s2 t s3) :=
  ⟨⟨on, .zero, s0, _, _, _, ⟨.h64, 3⟩, rfl, rfl, by decide⟩,
   ⟨on, .zero, nops, _, _, _, _, _, 2, ⟨.h64, 0⟩, rfl, rfl, by decide, rfl⟩⟩

theorem wit_exceptions :
    (∃ s : State, (s.ctx 0 0).h = false ∧ (s.ctx 0 0).tvec.getLsbD 0 = true) ∧
    (∃ s : State, (s.ctx 0 0).h = true) ∧
    (∃ s : State, (s.ctx 0 5).h = false ∧ (s.ctx 0 5).tvec.getLsbD 0 = false ∧ s.memberOf 0 5 = none ∧ 0 < (s.ctx 0 5).vctx ∧
      (s.ctx 0 5).vctx < 16 ∧ (∀ f, (s.fr 0 f).st = .free) ∧ (s.ctx 0 5).trace.opened = false) ∧
    (∃ s : State, (s.ctx 0 0).h = false ∧ (s.ctx 0 0).tvec.getLsbD 0 = false ∧ s.memberOf 0 0 = none ∧ (s.ctx 0 0).vctx = 0) ∧
    (∃ (s : State) (x : Fin 2) (t : Iter), s.curIter 0 0 = some (x, t) ∧ t.committed = true) ∧
    (∃ (s : State) (x : Fin 2) (t : Iter), s.curIter 0 0 = some (x, t) ∧ t.committed = false ∧ (s.fr 0 x).rst = false ∧
      t.i ≠ (s.fr 0 x).setl) ∧
    (∃ f : Cause, ∃ t, f.ctag = some t ∧ t.val = 63) :=
  ⟨⟨me (fun x => { x with tvec := 0x1001 }), rfl, rfl⟩, ⟨me (fun x => { x with h := true }), rfl⟩,
   ⟨s0, rfl, rfl, rfl, by decide, by decide, by decide, rfl⟩, ⟨s0, rfl, rfl, rfl, rfl⟩,
   ⟨inLoop 1 0 (fun F => { F with its := [{ i := 1, ctx := 0, committed := true }] }), 0, _, rfl, rfl⟩,
   ⟨inLoop 1 0 id, 0, _, rfl, rfl, rfl, by decide⟩, ⟨{ code := .ue, ctag := some 63 }, 63, rfl, rfl⟩⟩

theorem wit_trapAndReturn :
    (∃ g s s1, Issues { g, side := true } s s1 ∧ s1.curIter s1.cc s1.ck = none ∧ s1.me.h = false ∧
      s1.me.tvec.getLsbD 0 = true ∧ s1.me.live.left = 0 ∧ s1.me.live.active = false) ∧
    (∃ g s s1, Issues { g } s s1 ∧ s1.me.h = false) ∧
    (∃ g s s1, Issues { g } s s1 ∧ s1.me.h = true ∧ s1.me.foot = [] ∧ s1.curIter s1.cc s1.ck = none) :=
  ⟨⟨on, me (fun x => { x with tvec := 0x1001 }), _, rfl, rfl, rfl, rfl, rfl, rfl⟩, ⟨on, s0, _, rfl, rfl⟩,
   ⟨on, me (fun x => { x with h := true, tpc := 64 }), _, rfl, rfl, rfl, rfl⟩⟩

/-- The acting context is held. -/
def held : State := me (fun x => { x with run := .held })

theorem wit_loopStarts :
    (∃ s s1 s2 f, ∃ n : BitVec 32, Issues { infoOf noGuard 12 1 [] [] [] [] with bar := true } s s1 ∧ Gives checkNest s1 () s1 ∧
      Gives claimFrame s1 f s2 ∧ s2.me.run = .held ∧ 0 < n.toNat) ∧
    (∃ a v s s1 s1' s2 f, Issues { infoOf noGuard 8 1 [a] [] [] [] with bar := true } s s1 ∧ Gives checkNest s1 () s1 ∧
      Gives (readS a) s1 v s1' ∧ Gives claimFrame s1' f s2 ∧ s2.me.run = .held ∧ v ≠ 0) ∧
    (∃ s s1 s2 f, Issues { g := noGuard, bar := true } s s1 ∧ Gives checkNest s1 () s1 ∧ Gives claimFrame s1 f s2 ∧
      s2.me.run = .held) ∧
    (∃ count s s1 f u, Issues { infoOf noGuard (LoopCount.len count) 1 (LoopCount.srcs count) [] [] [] with bar := true } s s1 ∧
      s1.curIter s1.cc s1.ck = some (f, u) ∧ 1 < (s1.fr s1.cc f).a) :=
  ⟨⟨held, _, _, _, 1, rfl, rfl, rfl, rfl, by decide⟩,
   ⟨.x 1, _, held.modCtx 0 0 (fun x => x.setX 1 0x1_0000_0000), _, _, _, _, rfl, rfl, rfl, rfl, rfl, by decide⟩,
   ⟨held, _, _, _, rfl, rfl, rfl, rfl⟩,
   ⟨.lit 1, inLoop 0 0 (fun F => { F with members := [0, 1] }), _, 0, _, rfl, rfl, by decide⟩⟩

/-- The acting context may claim a free frame. -/
abbrev MayClaim (s : State) : Prop := s.heldFrame s.cc s.ck (3 - s.levelOf s.cc s.ck) ≠ none ∨
  s.frameWaiters s.cc s.ck < (if (s.fr s.cc 0).st = .free then 1 else 0) + (if (s.fr s.cc 1).st = .free then 1 else 0)

theorem wit_frameClaims :
    (∃ (s : State) (f : Fin 2), s.heldFrame s.cc s.ck (s.levelOf s.cc s.ck) = some f) ∧
    (∃ s : State, s.heldFrame s.cc s.ck (s.levelOf s.cc s.ck) = none ∧ (s.fr s.cc 0).st = .free ∧ MayClaim s) ∧
    (∃ s : State, s.heldFrame s.cc s.ck (s.levelOf s.cc s.ck) = none ∧ (s.fr s.cc 0).st ≠ .free ∧ (s.fr s.cc 1).st = .free ∧ MayClaim s ∧
      s.heldFrame s.cc s.ck (3 - s.levelOf s.cc s.ck) ≠ none) ∧
    (∃ s : State, s.heldFrame s.cc s.ck (s.levelOf s.cc s.ck) = none ∧ (s.fr s.cc 0).st ≠ .free ∧ (s.fr s.cc 1).st ≠ .free ∧
      s.heldFrame s.cc s.ck (3 - s.levelOf s.cc s.ck) ≠ none) ∧
    (∃ s : State, s.heldFrame s.cc s.ck (s.levelOf s.cc s.ck) = none ∧ ¬MayClaim s) :=
  ⟨⟨s0.modCore 0 (fun y => { y with frames := y.frames.set 0 { st := .seed } }), 0, rfl⟩, ⟨s0, rfl, rfl, by decide⟩,
   ⟨inLoop 0 0 id, rfl, by decide, rfl, by decide, by decide⟩,
   ⟨(inLoop 0 0 id).modCore 0 (fun y => { y with frames := y.frames.set 1 { st := .seed, opener := 3 } }), rfl, by decide, by decide,
    by decide⟩,
   ⟨s0.modCore 0 (fun y => { y with frames := (y.frames.set 0 { st := .seed, opener := 3 }).set 1 { st := .seed, opener := 2 } }), rfl, by decide⟩⟩

theorem wit_loopEnds :
    (∃ s s1 f u, Issues { g := noGuard, bar := true } s s1 ∧ s1.curIter s1.cc s1.ck = some (f, u) ∧ s1.me.pc ≠ (s1.fr s1.cc f).fin) ∧
    (∃ s s1 f u, Issues { g := noGuard, bar := true } s s1 ∧ s1.curIter s1.cc s1.ck = some (f, u) ∧
      s1.me.pc = (s1.fr s1.cc f).fin ∧ (s1.fr s1.cc f).st = .run ∧ (s1.fr s1.cc f).members = [s1.ck] ∧
      (s1.fr s1.cc f).opener = s1.ck ∧ (s1.fr s1.cc f).its = [u] ∧ u.i = (s1.fr s1.cc f).setl ∧ u.ctx = s1.ck ∧
      u.completed = false ∧ u.i + 1 < (s1.fr s1.cc f).trip ∧ (s1.fr s1.cc f).rst = false) ∧
    (∃ s s1 f u, Issues { g := noGuard, bar := true } s s1 ∧ s1.curIter s1.cc s1.ck = some (f, u) ∧
      s1.me.pc = (s1.fr s1.cc f).fin ∧ (s1.fr s1.cc f).st = .run ∧ (s1.fr s1.cc f).members = [s1.ck] ∧
      (s1.fr s1.cc f).opener = s1.ck ∧ (s1.fr s1.cc f).its = [u] ∧ u.i = (s1.fr s1.cc f).setl ∧ u.ctx = s1.ck ∧
      u.completed = false ∧ (s1.fr s1.cc f).trip ≤ u.i + 1) :=
  ⟨⟨inLoop 0 0 (fun F => { F with fin := 32 }), _, 0, _, rfl, rfl, by decide⟩,
   ⟨inLoop 8 8 id, _, 0, _, rfl, rfl, rfl, rfl, rfl, rfl, rfl, rfl, rfl, rfl, by decide, rfl⟩,
   ⟨inLoop 9 9 id, _, 0, _, rfl, rfl, rfl, rfl, rfl, rfl, rfl, rfl, rfl, rfl, by decide⟩⟩

/-- The acting context runs an inner loop in an iteration of an outer one. -/
def nested : State :=
  (inLoop 2 2 id).modCore 0 (fun y => { y with frames := y.frames.set 1 { st := .run, level := 2, trip := 4, members := [0], its := [{ i := 0, ctx := 0 }] } })

theorem wit_loopEndsAndSeeds :
    (∃ g s s1 f u, Issues { g, side := true, bar := true } s s1 ∧ s1.curIter s1.cc s1.ck = some (f, u) ∧
      u.i = (s1.fr s1.cc f).setl ∧ u.ctx = s1.ck) ∧
    (∃ g s s1 f o u v, Issues { g, side := s.innerLoop, bar := true } s s1 ∧ s1.curIter s1.cc s1.ck = some (f, u) ∧
      (s1.fr s1.cc f).level = 2 ∧ (s1.fr s1.cc f).opener = s1.ck ∧ u.i = (s1.fr s1.cc f).setl ∧ u.ctx = s1.ck ∧ o ≠ f ∧
      (s1.fr s1.cc f).members = [s1.ck] ∧ (s1.fr s1.cc o).members = [s1.ck] ∧ (s1.fr s1.cc o).level = 1 ∧
      (s1.fr s1.cc o).opener = s1.ck ∧ (s1.fr s1.cc o).iterOf s1.ck = some v ∧ v.i = (s1.fr s1.cc o).setl) ∧
    (∃ g s s1 f u, Issues { g } s s1 ∧ s1.curIter s1.cc s1.ck = some (f, u)) ∧
    (∃ g s s1, Issues { g } s s1 ∧ s1.curIter s1.cc s1.ck = none) ∧
    (∃ g s s1, Issues { g, side := true, bar := true } s s1 ∧ s1.curIter s1.cc s1.ck = none) ∧
    (∃ g src s s1 s2 s3 f v, Issues (seedInfo g src) s s1 ∧ Gives checkNest s1 () s1 ∧ Gives claimFrame s1 f s2 ∧
      Gives (SeedSrc.read src) (s2.modFr s2.cc f (fun F => { F with
        st := .seed, vers := if F.st = .exit then [] else F.vers })) v s3 ∧ s3.cc = s2.cc) ∧
    (∃ g s s1 f, Issues { g } s s1 ∧ Gives checkNest s1 () s1 ∧ s1.heldFrame s1.cc s1.ck (s1.levelOf s1.cc s1.ck) = some f ∧
      (s1.fr s1.cc f).st = .exit) ∧
    (∃ g s s1 f, Issues { g } s s1 ∧ Gives checkNest s1 () s1 ∧ s1.heldFrame s1.cc s1.ck (s1.levelOf s1.cc s1.ck) = some f ∧
      (s1.fr s1.cc f).st = .run) :=
  ⟨⟨on, inLoop 2 2 id, _, 0, _, rfl, rfl, rfl, rfl⟩,
   ⟨on, nested, _, 1, 0, _, _, rfl, rfl, rfl, rfl, rfl, rfl, by decide, rfl, rfl, rfl, rfl, rfl, rfl⟩,
   ⟨on, inLoop 2 1 id, _, 0, _, rfl, rfl⟩, ⟨on, s0, _, rfl, rfl⟩, ⟨on, s0, _, rfl, rfl⟩,
   ⟨on, .s .zero, s0, _, _, _, _, _, rfl, rfl, rfl, rfl, rfl⟩,
   ⟨on, inLoop 0 0 (fun _ => { st := .exit }), _, 0, rfl, rfl, rfl, rfl⟩,
   ⟨on, inLoop 0 0 (fun _ => { st := .run }), _, 0, rfl, rfl, rfl, rfl⟩⟩

theorem wit_systemRegisters :
    (∃ g rd s s1, ∃ n : Byte, Issues (infoOf g 8 1 [] [] [rd] []) s s1 ∧ (∃ e ∈ Claim.sysReads, n.toNat = e.1) ∧
      Gives (checkS rd) s1 () s1) ∧
    (∃ g rd s s1, ∃ n : Byte, Issues (infoOf g 8 1 [] [] [rd] []) s s1 ∧ n.toNat ∉ [0x0C] ++ Claim.sysReads.map Prod.fst) ∧
    (∃ g a s s1 s2 v, ∃ n : Byte, Issues { infoOf g 8 1 [a] [] [] [] with side := true } s s1 ∧ Gives (readS a) s1 v s2 ∧
      s2.cc < 8192 ∧ n.toNat = 0x00 ∧ s2.me.h = false ∧ v.getLsbD 12 = true) ∧
    (∃ g a s s1 s2 v, ∃ n : Byte, Issues { infoOf g 8 1 [a] [] [] [] with side := true } s s1 ∧ Gives (readS a) s1 v s2 ∧
      s2.cc < 8192 ∧ n.toNat = 0x02 ∧ s2.me.h = true) ∧
    (∃ g a s s1 s2 v, ∃ n : Byte, Issues { infoOf g 8 1 [a] [] [] [] with side := true } s s1 ∧ Gives (readS a) s1 v s2 ∧
      s2.cc < 8192 ∧ n.toNat = 0x03 ∧ s2.me.h = false ∧ v ≠ s2.me.tval ∧ v ≠ s2.me.ydl) ∧
    (∃ e ∈ Claim.sysWrites, e.1 = 0x04) :=
  ⟨⟨on, .x 1, s0, _, 0x00, rfl, ⟨_, List.mem_cons_self, rfl⟩, rfl⟩,
   ⟨on, .x 1, s0, _, 0x16, rfl, by simp [Claim.sysReads]⟩,
   ⟨on, .x 1, me (fun x => x.setX 1 0x1000), _, _, _, 0, rfl, rfl, by decide, rfl, rfl, rfl⟩,
   ⟨on, .x 1, me (fun x => { x with h := true }), _, _, _, 2, rfl, rfl, by decide, rfl, rfl⟩,
   ⟨on, .x 1, me (fun x => x.setX 1 1), _, _, _, 3, rfl, rfl, by decide, rfl, rfl, by decide, by decide⟩,
   ⟨_, List.mem_cons_self, rfl⟩⟩

theorem wit_tags :
    (∃ g rd a s s1 s2 u, Issues (infoOf g 8 1 [] [a] [rd] []) s s1 ∧ Gives (readV a) s1 u s2 ∧ Gives (checkS rd) s2 () s2) ∧
    (∃ g, ∃ r : Fin 16, ∃ s s1, Issues (infoOf g 8 1 [] [] [] [.v r]) s s1) ∧
    (∃ g s s1 f u v, ∃ r : Fin 8, Issues { infoOf g 8 1 [] [] [] [.w r] with lds := [] } s s1 ∧ s.me.guardBits g &&& 1 ≠ 0 ∧
      s1.curFrame s1.cc s1.ck = some (f, some u) ∧ (s1.fr s1.cc f).ver? (16 + r.val) u.i = some v ∧ v.need = 0) :=
  ⟨⟨on, .x 1, .v 2, vecs .raw .fp16 .raw, _, _, _, rfl, rfl, rfl⟩, ⟨on, 15, s0, _, rfl⟩,
   ⟨on, inLoop 1 0 (fun F => { F with vers := [{ name := 23, iter := 1, carried := true, need := 0, bits := 4, tag := .raw }] }), _,
    0, _, _, 7, rfl, by decide, rfl, rfl, rfl⟩⟩

/-- x2, x3 and x4 hold these words. -/
def xs3 (a b c : Word) : State := me (fun x => ((x.setX 2 a).setX 3 b).setX 4 c)

theorem wit_accumulators :
    (∃ g s s1, Issues (zInfo g [] []) s s1) ∧
    (∃ g a s s1 s2 v, ∃ z : Fin 2, Issues (zInfo g [] [a]) s s1 ∧ Gives (readV a) s1 v s2 ∧ v.tag = .fp32 ∧
      (s2.me.z.get z).tag = .raw) ∧
    (∃ g vd s s1, Issues (infoOf g 8 allOn [] [] [] [vd]) s s1 ∧ Gives (checkV vd) s1 () s1) ∧
    (∃ g a s s1 s2 v, Issues (infoOf g 8 allOn [] [a] [] []) s s1 ∧ Gives (readV a) s1 v s2 ∧ v.tag ∈ Claim.setS) :=
  ⟨⟨on, s0, _, rfl⟩, ⟨on, .v 1, vecs .fp32 .raw .raw, _, _, _, 1, rfl, rfl, rfl, rfl⟩, ⟨on, .v 15, s0, _, rfl, rfl⟩,
   ⟨⟨false, 1⟩, .v 1, me (fun x => x.setG 1 8), _, _, _, rfl, rfl, by decide⟩⟩

theorem wit_matrixIssue :
    (∃ e ∈ Claim.mmas, ∃ g xa xw xs s s1 s2 s3 s4 a d sc, Issues (zInfo g ([xa, xw] ++ e.2.2 xs) []) s s1 ∧
      Gives (readS xa) s1 a s2 ∧ Gives (readS xw) s2 d s3 ∧ Gives (readS (if e.2.1 = 4 then xs else .zero)) s3 sc s4 ∧
      d.getLsbD 33 = true) ∧
    (∃ e ∈ Claim.mmas, ∃ g xa xw xs s s1 s2 s3 s4 s5 s6 a d sc ls ls', Issues (zInfo g ([xa, xw] ++ e.2.2 xs) []) s s1 ∧
      Gives (readS xa) s1 a s2 ∧ Gives (readS xw) s2 d s3 ∧ Gives (readS (if e.2.1 = 4 then xs else .zero)) s3 sc s4 ∧
      ((d.extractLsb' 34 2).toNat + 1 = 2 ∧ d.getLsbD 32 = false ∧ d.getLsbD 33 = false ∧ d.extractLsb' 36 28 = 0 ∧
        (d.extractLsb' 0 18).toNat % 16 = 0 ∧ (d.extractLsb' 0 18).toNat + 32 * ((d.extractLsb' 18 14).toNat + 1) ≤ 2 ^ 18 ∧
        ((d.extractLsb' 18 14).toNat + 1) % 16 = 0 ∧ (d.extractLsb' 18 14).toNat + 1 ≤ 512) ∧
      (s3.me.z.get 0).tag = .raw ∧ (s4.cluster (s4.clusterOf s4.cc)).bps = [] ∧ Gives omCheck s4 () s4 ∧
      Gives (locM { r := true } [0x8] a.toNat (32 * ((d.extractLsb' 18 14).toNat + 1)) 32) s4 ls s5 ∧
      Gives (if e.2.1 = 4 then locM { r := true } [0x8] sc.toNat (((d.extractLsb' 18 14).toNat + 1) / 8) 2 else pure []) s5 ls' s6 ∧ s6.foldReady s6.cc = true) :=
  ⟨⟨_, List.mem_cons_self, on, .x 2, .x 3, .zero, xs3 0 0x2_0000_0000 0, _, _, _, _, _, _, _, rfl, rfl, rfl, rfl, rfl⟩,
   ⟨_, List.mem_cons_self, on, .x 2, .x 3, .zero, xs3 0x8000_0000_0000_4000 0x0000_0004_007C_0000 0, _, _, _, _, _, _, _, _, _, _, _, rfl,
    rfl, rfl, rfl, by decide, rfl, rfl, rfl, rfl, rfl, rfl⟩⟩

/-- MMAI of context 0 has started, with 16 rows of 16 activations, and its last cycle has come. -/
def mmaiDue : State :=
  (me (fun x => { x with pend := some { kind := .array } })).modCore 0 (fun y => { y with
    cyc := 9, wq := [{ ctx := 0, lo := 0, hi := 256, e := 2, desc := 0x3C0000, z := 1, started := some (1, List.replicate 256 1, []) }] })

theorem wit_matrixCompletes : ∃ c w st act sc, ∃ (s : State) (p : Pend), s.runs c = true ∧ (s.core c).wq = [w] ∧
    w.started = some (st, act, sc) ∧ w.dropped = false ∧ (s.ctx c w.ctx).pend = some p ∧ p.kind = .array ∧ p.reserve = [] ∧
    st + descCnt w.desc / w.e - 1 < (s.core (s.core c).home).cyc.toNat ∧ w.e = 2 :=
  ⟨0, _, _, _, _, mmaiDue, _, rfl, rfl, rfl, rfl, rfl, rfl, rfl, by decide, rfl⟩

theorem wit_weightLoads :
    (∃ g xd xb s s1 s2 s3 base d, ∃ imm : Imm, Issues (weightInfo g xd xb imm) s s1 ∧ Gives (readS xb) s1 base s2 ∧
      Gives (readS xd) s2 d s3 ∧ (s3.cluster (s3.clusterOf s3.cc)).bps = [] ∧ descOk d = true ∧ d.getLsbD 32 = false ∧
      (base + imm.val).toNat % 16 = 0 ∧ s3.foldReady s3.cc = true) ∧
    (∃ g xd xb s s1 s2 s3 base d, ∃ imm : Imm, Issues (weightInfo g xd xb imm) s s1 ∧ Gives (readS xb) s1 base s2 ∧
      Gives (readS xd) s2 d s3 ∧ (s3.cluster (s3.clusterOf s3.cc)).bps = [] ∧ descOk d = false) ∧
    (∃ g xd xb s s1 s2 s3 base d, ∃ imm : Imm, Issues (weightInfo g xd xb imm) s s1 ∧ Gives (readS xb) s1 base s2 ∧
      Gives (readS xd) s2 d s3 ∧ (s3.cluster (s3.clusterOf s3.cc)).bps = [] ∧ descOk d = true ∧ d.getLsbD 32 = false ∧
      (base + imm.val).toNat % 16 ≠ 0) :=
  ⟨⟨on, .x 3, .x 2, xs3 0x8000_0000_0000_0010 0x3C0000 0, _, _, _, _, _, ⟨.h64, 16⟩, rfl, rfl, rfl, rfl, by decide, rfl, by decide, rfl⟩,
   ⟨on, .x 3, .x 2, xs3 0 0x2_0000_0000 0, _, _, _, _, _, ⟨.h64, 0⟩, rfl, rfl, rfl, rfl, by decide⟩,
   ⟨on, .x 3, .x 2, xs3 0x8000_0000_0000_0010 0x3C0000 0, _, _, _, _, _, ⟨.h64, 8⟩, rfl, rfl, rfl, rfl, by decide, rfl, by decide⟩⟩

/-- A weight load of one 16-byte row from this address is first in its order. -/
def loadDue (src : Word) : State :=
  (me (fun x => { x with pend := some { kind := .weight } })).modCore 0 (fun y => { y with
    wq := [{ ctx := 0, lo := 0, hi := 16, load := some (0, src, false) }] })

/-- The row lies in slot 0 of core 0, whose block lies in the far tier; the die's window has admitted its one request. -/
def loadHeld : State :=
  let s := ((loadDue 0xC000_0000_0000_0000).modCore 0 (fun y => { y with slots := [(0, { a := 0x1_8013_0001 })] })).modDie 0 (fun d =>
    { d with granules := d.granules.set 0 { valid := true }, limit := 1, admitted := 1 }) |>.modPart 0 (fun p => { p with started := true })
  { s with mem := { s.mem with d := [(3 * 2 ^ 56, 5), (3 * 2 ^ 56 + 5, 0x10)] } }

theorem wit_weightLoadCompletes :
    (∃ c k w r d src tr, ∃ (s u v : State) (p : Pend), s.runs c = true ∧ (s.core c).wq = w :: r ∧ w.ctx = k ∧ w.dropped = false ∧
      w.load = some (d, src, tr) ∧ s.farAsk (.ctx c k) (2 ^ 48) (farNeed (s.weightLines c k d src)) = (true, v) ∧ (v.ctx c k).pend = some p ∧
      p.kind = .weight ∧ p.reserve = [] ∧ v.weightRows c k d tr src 0 src (descCnt d) = (none, u)) ∧
    (∃ c k w r d src tr, ∃ (s v : State), s.runs c = true ∧ (s.core c).wq = w :: r ∧ w.ctx = k ∧ w.dropped = false ∧
      w.load = some (d, src, tr) ∧ s.farAsk (.ctx c k) (2 ^ 48) (farNeed (s.weightLines c k d src)) = (false, v)) :=
  ⟨⟨0, 0, _, _, _, _, _, loadDue 0x8000_0000_0000_0000, _, _, _, rfl, rfl, rfl, rfl, rfl, rfl, rfl, rfl, rfl, rfl⟩,
   ⟨0, 0, _, _, _, _, _, loadHeld, _, rfl, rfl, rfl, rfl, rfl, rfl⟩⟩

/-- Core 3's context 0 has left an accumulator with key 5. -/
def offered : State := s0.modCtx 3 0 (fun x => { x with exch := some { key := 5, t := false, zd := 0, zs := 1 } })

theorem wit_swapt :
    (∃ g s s1, Issues { g, side := true } s s1 ∧ (s1.ctx (s1.cc / 4 * 4 + (3 - s1.cc % 4)) ((s1.physOf (s1.cc / 4 * 4 + (3 - s1.cc % 4)) (s1.vOf s1.cc s1.ck)).getD s1.ck)).exch = none) ∧
    (∃ g s s1 o, ∃ key : Byte, Issues { g, side := true } s s1 ∧
      (s1.ctx (s1.cc / 4 * 4 + (3 - s1.cc % 4)) ((s1.physOf (s1.cc / 4 * 4 + (3 - s1.cc % 4)) (s1.vOf s1.cc s1.ck)).getD s1.ck)).exch = some o ∧ o.matched = none ∧ o.key = key) :=
  ⟨⟨on, s0, _, rfl, rfl⟩, ⟨on, offered, _, _, 5, rfl, rfl, rfl, rfl⟩⟩

/-- Cores 0 and 3 have matched; cycle M + 15 has passed on both. -/
def swapDue : State :=
  ((s0.modCtx 0 0 (fun x => { x with pend := some { kind := .swapt }, exch := some { key := 5, t := true, zd := 0, zs := 1, matched := some (2, {}) } })).modCtx
    3 0 (fun x => { x with pend := some { kind := .swapt }, exch := some { key := 5, t := false, zd := 1, zs := 0, matched := some (2, {}) } })).modCore
    0 (fun y => { y with cyc := 18 }) |>.modCore 3 (fun y => { y with cyc := 18 })

theorem wit_swaptCompletes : ∃ c k e f m n y z, ∃ (s : State) (q r : Pend), s.runs c = true ∧ (s.ctx c k).exch = some e ∧
    (s.ctx (c / 4 * 4 + (3 - c % 4)) ((s.physOf (c / 4 * 4 + (3 - c % 4)) (s.vOf c k)).getD k)).exch = some f ∧ e.matched = some (m, y) ∧ f.matched = some (n, z) ∧
    (s.ctx c k).pend = some q ∧ (s.ctx (c / 4 * 4 + (3 - c % 4)) ((s.physOf (c / 4 * 4 + (3 - c % 4)) (s.vOf c k)).getD k)).pend = some r ∧ q.reserve = [] ∧ r.reserve = [] ∧
    m + 15 < (s.core (s.core c).home).cyc.toNat ∧ n + 15 < (s.core (s.core (c / 4 * 4 + (3 - c % 4))).home).cyc.toNat :=
  ⟨0, 0, _, _, _, _, _, _, swapDue, _, _, rfl, rfl, rfl, rfl, rfl, rfl, rfl, rfl, rfl, by decide, by decide⟩


/-- x2 holds an address of cluster 0's memory. -/
def atMem (a : Word) : State := xs3 a 0 0

theorem wit_scalarLoads :
    (∃ e ∈ Claim.scalarLoads, ∃ g rd xb s s1 s2 s2' base ls s3 s4, ∃ imm : Imm, Issues (loadInfo g rd xb imm) s s1 ∧
      Gives (readS xb) s1 base s2 ∧ (s2.cluster (s2.clusterOf s2.cc)).bps = [] ∧ Gives omCheck s2 () s2 ∧
      Gives (locM { r := true } allSpaces (base + imm.val).toNat e.2.1 e.2.1) s2 ls s2' ∧
      Gives (farCheck [((base + imm.val).toNat, ls)]) s2' () s3 ∧ s4 = s3.count s3.cc s3.ck 0x0A 1 ∧
      Gives (checkS rd) s4 () s4) ∧
    (∃ e ∈ Claim.scalarLoads, ∃ g rd xb s s1 s2 base, ∃ imm : Imm, Issues (loadInfo g rd xb imm) s s1 ∧
      Gives (readS xb) s1 base s2 ∧ (s2.cluster (s2.clusterOf s2.cc)).bps = [] ∧ Gives omCheck s2 () s2 ∧
      spaceOk allSpaces (base + imm.val).toNat e.2.1 = true ∧ (base + imm.val).toNat % e.2.1 ≠ 0) :=
  ⟨⟨_, List.mem_cons_self, on, .x 1, .x 2, atMem 0x8000_0000_0000_0000, _, _, _, _, _, _, _, ⟨.h64, 8⟩, rfl, rfl, rfl, rfl, rfl, rfl, rfl, rfl⟩,
   ⟨_, List.mem_cons_self, on, .x 1, .x 2, atMem 0x8000_0000_0000_0000, _, _, _, ⟨.h64, 7⟩, rfl, rfl, rfl, rfl, by decide, by decide⟩⟩

/-- Context 0 waits for a load of eight bytes to x5. -/
def loading (k : PendKind) : State := me (fun x => { x with pend := some { kind := k } })

theorem wit_scalarReply : ∃ c k u n sx, ∃ (s : State) (p : Pend) (r : Fin 32), (s.ctx c k).pend = some p ∧
    p.kind = .load [u] (.scalar (.x r) n sx) [] ∧ p.reserve = [] ∧ s.power = .on ∧ s.runs c = true ∧
    (s.part (s.core c).partid).preempted = false ∧ (s.cluster (s.clusterOf c)).skid = [] ∧ n ≤ 8 :=
  ⟨0, 0, _, _, _, loading (.load [{ locs := [0, 1, 2, 3, 4, 5, 6, 7], own := [] }] (.scalar (.x 31) 8 false) []), _, _, rfl, rfl, rfl, rfl,
   rfl, rfl, rfl, by decide⟩

theorem wit_loadedBytes : ∃ ls : List Nat, ∃ i, ∃ _ : i < ls.length, ls.Nodup := ⟨[8, 9], 1, by decide, by decide⟩

theorem wit_scalarStores :
    (∃ e ∈ Claim.scalarStores, ∃ g rs xb s s1 f t, ∃ imm : Imm, Skips (storeInfo g rs xb imm) s s1 ∧ s1.curIter s1.cc s1.ck = some (f, t) ∧
      t.committed = false ∧ (s1.fr s1.cc f).held.length < 64 ∧ e = e) ∧
    (∃ e ∈ Claim.scalarStores, ∃ g rs xb s s1 s2 s3 base v ls s4, ∃ imm : Imm, Issues (storeInfo g rs xb imm) s s1 ∧
      Gives (readS xb) s1 base s2 ∧ Gives (readS rs) s2 v s3 ∧ (s3.cluster (s3.clusterOf s3.cc)).bps = [] ∧
      Gives (locM { w := true } allSpaces (base + imm.val).toNat e.2 e.2) s3 ls s4 ∧
      Gives (checkWaiters (base + imm.val).toNat ls) s4 () s4 ∧ s4.curIter s4.cc s4.ck = none) ∧
    (∃ e ∈ Claim.scalarStores, ∃ g rs xb s s1 s2 s3 base v ls s4, ∃ imm : Imm, ∃ (f : Fin 2) (t : Iter),
      Issues (storeInfo g rs xb imm) s s1 ∧ Gives (readS xb) s1 base s2 ∧ Gives (readS rs) s2 v s3 ∧
      (s3.cluster (s3.clusterOf s3.cc)).bps = [] ∧
      Gives (locM { w := true } allSpaces (base + imm.val).toNat e.2 e.2) s3 ls s4 ∧
      Gives (checkWaiters (base + imm.val).toNat ls) s4 () s4 ∧ s4.curIter s4.cc s4.ck = some (f, t) ∧ t.committed = false ∧
      (s4.fr s4.cc f).held.length < 64) ∧
    (∃ e ∈ Claim.scalarStores, ∃ g rs xb s s1 s2 s3 base v, ∃ imm : Imm, Issues (storeInfo g rs xb imm) s s1 ∧
      Gives (readS xb) s1 base s2 ∧ Gives (readS rs) s2 v s3 ∧ (s3.cluster (s3.clusterOf s3.cc)).bps = [] ∧
      spaceOk allSpaces (base + imm.val).toNat e.2 = true ∧ (base + imm.val).toNat % e.2 ≠ 0) :=
  ⟨⟨_, List.mem_cons_self, ⟨false, 1⟩, .x 3, .x 2, inLoop 4 0 id, _, 0, _, ⟨.h64, 8⟩, rfl, rfl, rfl, by decide, rfl⟩,
   ⟨_, List.mem_cons_self, on, .x 3, .x 2, atMem 0x8000_0000_0000_0000, _, _, _, _, _, _, _, ⟨.h64, 8⟩, rfl, rfl, rfl, rfl, rfl, rfl, rfl⟩,
   ⟨_, List.mem_cons_self, on, .zero, .zero, inLoop 4 0 id, _, _, _, _, _, _, _, ⟨.h128, 0x8000_0000_0000_0000⟩, 0, _, rfl, rfl, rfl, rfl,
    rfl, rfl, rfl, rfl, by decide⟩,
   ⟨_, List.mem_cons_self, on, .x 3, .x 2, atMem 0x8000_0000_0000_0000, _, _, _, _, _, ⟨.h64, 4⟩, rfl, rfl, rfl, rfl, by decide,
    by decide⟩⟩

theorem wit_storeFrame : ∃ cells : List Host.Cell, (cells.map Prod.fst).Nodup ∧ cells.length = 2 := ⟨[(3, 1), (4, 2)], by decide, rfl⟩

/-- Lane 31 of g1 is on. -/
def lane31 : State := (atMem 0x8000_0000_0000_0000).modCtx 0 0 (fun x => x.setG 1 0x80000000)

/-- The guard g1. -/
abbrev g1 : Guard := ⟨false, 1⟩

theorem wit_vectorLoads :
    (∃ g vd xb s s1 s2 s2' s3 s4 base ls, ∃ imm : Imm, Issues (infoOf g (formLen imm.form) allOn [xb] [] [] [vd]) s s1 ∧
      Gives (readS xb) s1 base s2 ∧ (s2.cluster (s2.clusterOf s2.cc)).bps = [] ∧ Gives omCheck s2 () s2 ∧
      Gives (laneLocs { r := true } (fun n => base + imm.val + BitVec.ofNat 64 (4 * n)) (onLanes (s2.me.guardBits g))) s2
        (ls, none) s2' ∧ Gives (farCheck (ls.map (fun l => ((base + imm.val + BitVec.ofNat 64 (4 * l.1)).toNat, l.2)))) s2' () s3 ∧ s4 = s3.count s3.cc s3.ck 0x0A 1 ∧ Gives (checkV vd) s4 () s4) ∧
    (∃ g vd xo s s1 s2 s2' s3 s4 base ls, ∃ off : BitVec 11, Issues (infoOf g 8 allOn [xo] [] [] [vd]) s s1 ∧
      Gives (readS xo) s1 base s2 ∧ (s2.cluster (s2.clusterOf s2.cc)).bps = [] ∧ Gives omCheck s2 () s2 ∧
      (base + off.setWidth 64).toNat + 4 ≤ 2048 ∧ (base + off.setWidth 64).toNat % 4 = 0 ∧
      Gives (laneLocs { r := true } (fun n => BitVec.ofNat 64 (0x9 * 2 ^ 60 + n * 2 ^ 16 + (base + off.setWidth 64).toNat))
        (onLanes (s2.me.guardBits g))) s2 (ls, none) s2' ∧
      Gives (farCheck (ls.map (fun l => ((BitVec.ofNat 64 (0x9 * 2 ^ 60 + l.1 * 2 ^ 16 + (base + off.setWidth 64).toNat)).toNat, l.2)))) s2' () s3 ∧ s4 = s3.count s3.cc s3.ck 0x0A 1 ∧ Gives (checkV vd) s4 () s4) ∧
    (∃ g vd xb vi s s1 s2 s3 s3' s4 s5 base i ls, Issues (infoOf g 8 allOn [xb] [vi] [] [vd]) s s1 ∧ Gives (readS xb) s1 base s2 ∧
      Gives (readV vi) s2 i s3 ∧ (i.tag = .int32 ∨ i.tag = .raw) ∧ (s3.cluster (s3.clusterOf s3.cc)).bps = [] ∧
      Gives omCheck s3 () s3 ∧
      Gives (laneLocs { r := true } (fun n => base + (getLane i.bits n).signExtend 64) (onLanes (s1.me.guardBits g))) s3
        (ls, none) s3' ∧ Gives (farCheck (ls.map (fun l => ((base + (getLane i.bits l.1).signExtend 64).toNat, l.2)))) s3' () s4 ∧ s5 = s4.count s4.cc s4.ck 0x0A 1 ∧ Gives (checkV vd) s5 () s5) :=
  ⟨⟨g1, .v 0, .x 2, lane31, _, _, _, _, _, _, _, ⟨.h64, 4⟩, rfl, rfl, rfl, rfl, rfl, rfl, rfl, rfl⟩,
   ⟨g1, .v 0, .x 3, lane31, _, _, _, _, _, _, _, 2044, rfl, rfl, rfl, rfl, by decide, by decide, rfl, rfl, rfl, rfl⟩,
   ⟨g1, .v 0, .x 2, .v 1, lane31, _, _, _, _, _, _, _, _, _, rfl, rfl, rfl, .inr rfl, rfl, rfl, rfl, rfl, rfl, rfl⟩⟩

theorem wit_vectorReply : ∃ c k us m, ∃ (s : State) (p : Pend) (r : Fin 16), (s.ctx c k).pend = some p ∧
    p.kind = .load us (.lanes (.v r) m) [] ∧ p.reserve = [] ∧ s.power = .on ∧ s.runs c = true ∧
    (s.part (s.core c).partid).preempted = false ∧ (s.cluster (s.clusterOf c)).skid = [] ∧ us.length = (onLanes m).length :=
  ⟨0, 0, _, _, loading (.load [{ locs := [0, 1, 2, 3], own := [] }] (.lanes (.v 15) 0x80000000) []), _, _, rfl, rfl, rfl, rfl, rfl, rfl,
   rfl, by decide⟩

theorem wit_vectorStores :
    (∃ g vs xb s s1 s2 s3 s4 base v ls, ∃ imm : Imm, Issues { infoOf g (formLen imm.form) allOn [xb] [vs] [] [] with store := true } s s1 ∧
      Gives (readS xb) s1 base s2 ∧ Gives (readV vs) s2 v s3 ∧ (s3.cluster (s3.clusterOf s3.cc)).bps = [] ∧
      Gives (laneLocs { w := true } (fun n => base + imm.val + BitVec.ofNat 64 (4 * n)) (onLanes (s2.me.guardBits g))) s3
        (ls, none) s4 ∧ s4.curIter s4.cc s4.ck = none) ∧
    (∃ g vs xo s s1 s2 s3 s4 base v ls, ∃ off : BitVec 11, Issues { infoOf g 8 allOn [xo] [vs] [] [] with store := true } s s1 ∧
      Gives (readS xo) s1 base s2 ∧ Gives (readV vs) s2 v s3 ∧ (s3.cluster (s3.clusterOf s3.cc)).bps = [] ∧
      (base + off.setWidth 64).toNat + 4 ≤ 2048 ∧ (base + off.setWidth 64).toNat % 4 = 0 ∧
      Gives (laneLocs { w := true } (fun n => BitVec.ofNat 64 (0x9 * 2 ^ 60 + n * 2 ^ 16 + (base + off.setWidth 64).toNat))
        (onLanes (s2.me.guardBits g))) s3 (ls, none) s4 ∧ s4.curIter s4.cc s4.ck = none) ∧
    (∃ g vs xb vi s s1 s2 s3 s4 s5 base i v ls, Issues (infoOf g 8 allOn [xb] [vi, vs] [] []) s s1 ∧
      Gives (readS xb) s1 base s2 ∧ Gives (readV vi) s2 i s3 ∧ Gives (readV vs) s3 v s4 ∧ (i.tag = .int32 ∨ i.tag = .raw) ∧
      (s4.cluster (s4.clusterOf s4.cc)).bps = [] ∧
      Gives (laneLocs { w := true } (fun n => base + (getLane i.bits n).signExtend 64) (onLanes (s1.me.guardBits g))) s4
        (ls, none) s5 ∧ s5.curIter s5.cc s5.ck = none) :=
  ⟨⟨g1, .v 2, .x 2, lane31, _, _, _, _, _, _, _, ⟨.h64, 0⟩, rfl, rfl, rfl, rfl, rfl, rfl⟩,
   ⟨g1, .v 2, .x 3, lane31, _, _, _, _, _, _, _, 2044, rfl, rfl, rfl, rfl, by decide, by decide, rfl, rfl⟩,
   ⟨g1, .v 2, .x 2, .v 1, lane31, _, _, _, _, _, _, _, _, _, rfl, rfl, rfl, rfl, .inr rfl, rfl, rfl, rfl⟩⟩

theorem wit_laneSlice :
    (∃ g vd xo s s1 s2 base, ∃ off : BitVec 11, Gives (readS xo) s1 base s2 ∧ Issues (infoOf g 8 allOn [xo] [] [] [vd]) s s1 ∧
      2048 < (base + off.setWidth 64).toNat + 4) ∧
    (∃ g vd xo s s1 s2 base, ∃ off : BitVec 11, Gives (readS xo) s1 base s2 ∧ Issues (infoOf g 8 allOn [xo] [] [] [vd]) s s1 ∧
      (base + off.setWidth 64).toNat + 4 ≤ 2048 ∧ (base + off.setWidth 64).toNat % 4 ≠ 0) ∧
    (∃ g vs xo s s1 s2 base, ∃ off : BitVec 11, Gives (readS xo) s1 base s2 ∧ Issues { infoOf g 8 allOn [xo] [vs] [] [] with store := true } s s1 ∧
      2048 < (base + off.setWidth 64).toNat + 4) ∧
    (∃ g vs xo s s1 s2 base, ∃ off : BitVec 11, Gives (readS xo) s1 base s2 ∧ Issues { infoOf g 8 allOn [xo] [vs] [] [] with store := true } s s1 ∧
      (base + off.setWidth 64).toNat + 4 ≤ 2048 ∧ (base + off.setWidth 64).toNat % 4 ≠ 0) :=
  ⟨⟨on, .v 0, .zero, s0, _, _, _, 2045, rfl, rfl, by decide⟩, ⟨on, .v 0, .zero, s0, _, _, _, 2043, rfl, rfl, by decide, by decide⟩,
   ⟨on, .v 0, .zero, s0, _, _, _, 2045, rfl, rfl, by decide⟩, ⟨on, .v 0, .zero, s0, _, _, _, 1, rfl, rfl, by decide, by decide⟩⟩

theorem wit_accumulatorAccess :
    (∃ g xb s s1 s2 s2' s3 s4 base ls, ∃ imm : Imm, Issues (infoOf g (formLen imm.form) 1 [xb] [] [] []) s s1 ∧
      Gives (readS xb) s1 base s2 ∧ (s2.cluster (s2.clusterOf s2.cc)).bps = [] ∧ Gives omCheck s2 () s2 ∧
      Gives (locM { r := true } allSpaces (base + imm.val).toNat 1024 64) s2 ls s2' ∧
      Gives (farCheck [((base + imm.val).toNat, ls)]) s2' () s3 ∧ s4 = s3.count s3.cc s3.ck 0x0A 1) ∧
    (∃ g xb s s1 s2 s3 base ls, ∃ imm : Imm, Issues (infoOf g (formLen imm.form) 1 [xb] [] [] []) s s1 ∧
      Gives (readS xb) s1 base s2 ∧ (s2.cluster (s2.clusterOf s2.cc)).bps = [] ∧
      Gives (locM { w := true } allSpaces (base + imm.val).toNat 1024 64) s2 ls s3 ∧
      Gives (checkWaiters (base + imm.val).toNat ls) s3 () s3 ∧ s3.curIter s3.cc s3.ck = none ∧ ls.length = 1024) ∧
    (∃ g xb s s1 s2 base, ∃ imm : Imm, Issues (infoOf g (formLen imm.form) 1 [xb] [] [] []) s s1 ∧ Gives (readS xb) s1 base s2) :=
  ⟨⟨on, .x 2, atMem 0x8000_0000_0000_0000, _, _, _, _, _, _, _, ⟨.h64, 0⟩, rfl, rfl, rfl, rfl, rfl, rfl, rfl⟩,
   ⟨on, .x 2, atMem 0x8000_0000_0000_0040, _, _, _, _, _, ⟨.h64, 0⟩, rfl, rfl, rfl, rfl, rfl, rfl, rfl⟩,
   ⟨on, .x 2, s0, _, _, _, ⟨.h64, 0⟩, rfl, rfl⟩⟩

theorem wit_pairs :
    (∃ g sh vh a b ma mb s s1 s2 s3 pa pb, halfOf sh = some (a, ma) ∧ halfOf vh = some (b, mb) ∧ Issues (pairInfo g s.me a b) s s1 ∧
      a.side = false ∧ b.side = false ∧ a.on s1.me = true ∧ b.on s1.me = true ∧ Gives ma s1 { puts := pa } s2 ∧
      Gives (checkPuts pa) s2 () s2 ∧ Gives mb s2 { puts := pb } s3 ∧ Gives (checkPuts pb) s3 () s3 ∧
      Gives (checkPuts (pa ++ pb)) s3 () s3 ∧ s3.curIter s3.cc s3.ck = none) ∧
    (∃ g sh vh a b ma mb s s1 s2 pa, halfOf sh = some (a, ma) ∧ halfOf vh = some (b, mb) ∧ Issues (pairInfo g s.me a b) s s1 ∧
      a.side = false ∧ b.side = false ∧ a.on s1.me = false ∧ b.on s1.me = true ∧ Gives mb s1 { puts := pa } s2 ∧
      Gives (checkPuts pa) s2 () s2 ∧ s2.curIter s2.cc s2.ck = none) :=
  ⟨⟨on, .mov on (.x 1) (.x 2), .vneg on (.v 0) (.v 1), _, _, _, _, vecs .fp32 .raw .raw, _, _, _, _, _, rfl, rfl, rfl, rfl, rfl, rfl, rfl,
    rfl, rfl, rfl, rfl, rfl, rfl⟩,
   ⟨g1, .mov g1 (.x 1) (.x 2), .vneg g1 (.v 0) (.v 1), _, _, _, _, (vecs .fp32 .raw .raw).modCtx 0 0 (fun x => x.setG 1 0x80000000), _, _, _, rfl, rfl, rfl, rfl, rfl, rfl, rfl, rfl, rfl, rfl⟩⟩

theorem wit_wordOperations :
    (∃ e ∈ Claim.feOps, ∃ g rd xb rs s s1 s2 s3 s4 base b ls, ∃ imm : Imm,
      Issues { infoOf g (formLen imm.form) 1 [xb, e.2.2.2.2 rs] [] [e.2.2.2.1 rd] [] with side := true } s s1 ∧
      Gives (readS xb) s1 base s2 ∧ Gives (readS (e.2.2.2.2 rs)) s2 b s3 ∧ (s3.cluster (s3.clusterOf s3.cc)).bps = [] ∧
      Gives (locM e.2.2.1 [0x8, 0xA, 0xB] (base + imm.val).toNat 8 8) s3 ls s4 ∧ Gives (checkS (e.2.2.2.1 rd)) s4 () s4) ∧
    (∃ e ∈ Claim.atomOps, ∃ g rd xb rs rc s s1 s2 s3 s4 s5 a b c ls, ∃ w : Bool,
      Issues { infoOf g 8 1 [xb, rs, e.2.2 rc] [] [rd] [] with side := true } s s1 ∧ Gives (readS xb) s1 a s2 ∧
      Gives (readS rs) s2 b s3 ∧ Gives (readS (e.2.2 rc)) s3 c s4 ∧ (s4.cluster (s4.clusterOf s4.cc)).bps = [] ∧
      Gives (locM { r := true, w := true } [0x0, 0x8, 0x9, 0xA, 0xB] a.toNat (if w then 4 else 8) (if w then 4 else 8)) s4 ls s5 ∧
      Gives (checkS rd) s5 () s5) :=
  ⟨⟨_, List.mem_cons_self, on, .x 1, .x 2, .zero, atMem 0x8000_0000_0000_0000, _, _, _, _, _, _, _, ⟨.h64, 8⟩, rfl, rfl, rfl, rfl, rfl, rfl⟩,
   ⟨_, List.mem_cons_self, on, .x 1, .x 2, .x 3, .zero, atMem 0x8000_0000_0000_0004, _, _, _, _, _, _, _, _, _, true, rfl, rfl, rfl, rfl,
    rfl, rfl, rfl⟩⟩

/-- The word at 8 is empty; a waiter's record is linked to it when `linked`. -/
def emptyWord (k : PendKind) (linked : Bool) : State :=
  { loading k with mem := { empty := [8], d := if linked then [(12, 1)] else [] } }

theorem wit_atomicMoves :
    (∃ c k op w loc addr b d rd, ∃ (s : State) (p : Pend), (s.ctx c k).pend = some p ∧ p.kind = .atom op w loc addr b d rd ∧
      Claim.MayMove s c k loc (if w then 4 else 8) ∧ s.mem.waited (loc / 8 * 8) = false) ∧
    (∃ c k op w loc addr b d rd, ∃ (s : State) (p : Pend), (s.ctx c k).pend = some p ∧ p.kind = .atom op w loc addr b d rd ∧
      Claim.MayMove s c k loc (if w then 4 else 8) ∧ s.mem.waited (loc / 8 * 8) = true) :=
  ⟨⟨0, 0, _, _, _, _, _, _, _, loading (.atom .cas true 4 0x8000_0000_0000_0004 7 0 (.x 1)), _, rfl, rfl,
    by unfold Claim.MayMove; decide, by decide⟩,
   ⟨0, 0, _, _, _, _, _, _, _, emptyWord (.atom .add false 8 0x8000_0000_0000_0008 7 0 (.x 1)) true, _, rfl, rfl,
    by unfold Claim.MayMove; decide, by decide⟩⟩

theorem wit_fullEmptyMoves :
    (∃ c k op loc addr b rd, ∃ (s : State) (p : Pend), (s.ctx c k).pend = some p ∧ p.kind = .fe op loc addr b rd ∧
      Claim.MayMove s c k loc 8 ∧ loc ∉ s.mem.empty) ∧
    (∃ c k op loc addr b rd, ∃ (s : State) (p : Pend), ∃ i, (s.ctx c k).pend = some p ∧ p.kind = .fe op loc addr b rd ∧
      Claim.MayMove s c k loc 8 ∧ loc ∈ s.mem.empty ∧ (s.mem.wordNow loc).testBit 32 = false ∧ op = .futr ∧
      s.freeRec c = some i) ∧
    (∃ c k op loc addr b rd, ∃ (s : State) (p : Pend), (s.ctx c k).pend = some p ∧ p.kind = .fe op loc addr b rd ∧
      Claim.MayMove s c k loc 8 ∧ loc ∈ s.mem.empty ∧ (s.mem.wordNow loc).testBit 32 = false ∧ op = .lde ∧
      s.freeRec c = none) :=
  ⟨⟨0, 0, _, _, _, _, _, loading (.fe .lde 8 0x8000_0000_0000_0008 0 (.x 1)), _, rfl, rfl, by unfold Claim.MayMove; decide, by decide⟩,
   ⟨0, 0, _, _, _, _, _, emptyWord (.fe .futr 8 0x8000_0000_0000_0008 0 (.x 1)) false, _, 0, rfl, rfl, by unfold Claim.MayMove; decide,
    by decide, by decide, rfl, rfl⟩,
   ⟨0, 0, _, _, _, _, _, (emptyWord (.fe .lde 8 0x8000_0000_0000_0008 0 (.x 1)) false).modCore 0 (fun y =>
      { y with pool := (List.range 256).map (fun i => (i, { ctx := 1, rd := .x 0, addr := 0, kind := .read })) }), _, rfl, rfl,
    by unfold Claim.MayMove; decide, by decide, by decide, rfl, by decide⟩⟩

theorem wit_moveReplies :
    (∃ c k, ∃ (s : State) (p : Pend) (r : Fin 32) (v : Word), (s.ctx c k).pend = some p ∧ p.reserve = [] ∧ p.popped = [] ∧
      s.power = .on ∧ s.runs c = true ∧ (s.part (s.core c).partid).preempted = false ∧ (s.cluster (s.clusterOf c)).skid = [] ∧
      p.kind = .value [.s (.x r) v]) ∧
    (∃ c k f, ∃ (s : State) (p : Pend), (s.ctx c k).pend = some p ∧ p.reserve = [] ∧ p.popped = [] ∧
      s.power = .on ∧ s.runs c = true ∧ (s.part (s.core c).partid).preempted = false ∧ (s.cluster (s.clusterOf c)).skid = [] ∧
      p.kind = .fault f ∧ s.curIter c k = none ∧ (s.ctx c k).h = false ∧ (s.ctx c k).tvec.getLsbD 0 = true) :=
  ⟨⟨0, 0, loading (.value [.s (.x 31) 5]), _, _, _, rfl, rfl, rfl, rfl, rfl, rfl, rfl, rfl⟩,
   ⟨0, 0, { code := .prot, tval := 8, acc := .write, kind := 2 }, (loading (.fault { code := .prot, tval := 8, acc := .write, kind := 2 })).modCtx 0 0 (fun x => { x with h := false, tvec := 1 }), _, rfl, rfl, rfl, rfl, rfl, rfl, rfl, rfl, rfl, rfl, rfl⟩⟩

theorem wit_orderings :
    (∃ e ∈ Claim.orderings, ∃ g rd xs s s1 s2 s3 a ls, Issues { infoOf g 8 1 [xs] [] [rd] [] with side := true } s s1 ∧
      Gives (readS xs) s1 a s2 ∧ (s2.cluster (s2.clusterOf s2.cc)).bps = [] ∧
      Gives (locM { r := true } [0x0, 0x8, 0xA, 0xB] a.toNat 8 8) s2 ls s3 ∧ Gives (checkS rd) s3 () s3 ∧ e = e) ∧
    (∃ e ∈ Claim.orderings, ∃ g xs rv s s1 s2 s3 s4 a v ls, Issues { infoOf g 8 1 [xs, rv] [] [] [] with side := true } s s1 ∧
      Gives (readS xs) s1 a s2 ∧ Gives (readS rv) s2 v s3 ∧ (s3.cluster (s3.clusterOf s3.cc)).bps = [] ∧
      Gives (locM { w := true } [0x0, 0x8, 0xA, 0xB] a.toNat 8 8) s3 ls s4 ∧ Gives (checkWaiters a.toNat ls) s4 () s4 ∧
      e = e) ∧
    (∃ (g : Guard) (s s1 : State), Issues { g, side := true } s s1) :=
  ⟨⟨_, List.mem_cons_self, on, .x 1, .x 2, atMem 0x8000_0000_0000_0008, _, _, _, _, _, rfl, rfl, rfl, rfl, rfl, rfl⟩,
   ⟨_, List.mem_cons_self, on, .x 2, .x 1, atMem 0x8000_0000_0000_0008, _, _, _, _, _, _, _, rfl, rfl, rfl, rfl, rfl, rfl, rfl⟩,
   ⟨on, s0, _, rfl⟩⟩

/-- Context 0 waits at an ordering; two of its writes are in no store; 64 bytes of the core's segment are bound to its first word. -/
def ordering (k : PendKind) : State :=
  { (loading k).modPart 0 (fun p => { p with started := true, binds := [(0, { base := 0xA000_0000_0000_0040, len := 64, sync := 0xA000_0000_0000_0000 })] }) with
    mem := { own := [(.ctx 0 0, [(8, 1), (2 ^ 56 + 72, 2)])], views := [(.ctx 0 0, [(8, ⟨1, 5⟩), (2 ^ 56 + 72, ⟨2, 6⟩)])], next := 3 } }

/-- The same, with no write of its own. -/
def settled (k : PendKind) : State := { ordering k with mem := { next := 3 } }

theorem wit_acquireMoves : ∃ c k sc addr loc rd, ∃ (s : State) (p : Pend), (s.ctx c k).pend = some p ∧ p.kind = .acq sc addr loc rd ∧
    s.runs c = true ∧ s.acquireReady (s.agentOf c k) sc loc = true ∧ (s.part (s.core c).partid).replay.mode = .off :=
  ⟨0, 0, _, _, _, _, ordering (.acq .group 0x8000_0000_0000_0000 0 (.x 1)), _, rfl, rfl, rfl, by decide, rfl⟩

theorem wit_releaseMoves :
    (∃ c k sc addr loc v, ∃ (s : State) (p : Pend), (s.ctx c k).pend = some p ∧ p.kind = .rel sc addr loc v ∧ s.runs c = true ∧
      (s.part (s.core c).partid).replay.mode = .off ∧
      s.releaseReady (s.agentOf c k) sc (s.core c).partid (wordKey c addr) = true) ∧
    (∃ c k sc addr loc v, ∃ (s : State) (p : Pend), (s.ctx c k).pend = some p ∧ p.kind = .rel sc addr loc v ∧ s.runs c = true ∧
      (s.part (s.core c).partid).replay.mode = .off ∧
      s.releaseReady (s.agentOf c k) sc (s.core c).partid (wordKey c addr) = false) :=
  ⟨⟨0, 0, _, _, _, _, settled (.rel .device 0x8000_0000_0000_0000 0 5), _, rfl, rfl, rfl, rfl, by decide⟩,
   ⟨0, 0, _, _, _, _, ordering (.rel .device 0x8000_0000_0000_0000 0 5), _, rfl, rfl, rfl, rfl, by decide⟩⟩

theorem wit_fenceMoves :
    (∃ c k sc, ∃ (s : State) (p : Pend), (s.ctx c k).pend = some p ∧ p.kind = .fence sc ∧ s.runs c = true ∧
      s.mem.reached (s.agentOf c k) sc (s.groupOf (s.agentOf c k)) (s.openBinding (s.core c).partid) = true) ∧
    (∃ c k sc, ∃ (s : State) (p : Pend), (s.ctx c k).pend = some p ∧ p.kind = .fence sc ∧ s.runs c = true ∧
      s.mem.reached (s.agentOf c k) sc (s.groupOf (s.agentOf c k)) (s.openBinding (s.core c).partid) = false) :=
  ⟨⟨0, 0, _, settled (.fence .system), _, rfl, rfl, rfl, by decide⟩, ⟨0, 0, _, ordering (.fence .group), _, rfl, rfl, rfl, by decide⟩⟩

/-- Two writes of one byte wait in one agent's buffer. -/
def draining : State :=
  { s0 with mem := { bufs := [{ agent := .ctx 0 0, stamp := 1, cells := [(8, 5)] }, { agent := .ctx 0 0, stamp := 2, cells := [(8, 6)] }], next := 3 } }

theorem wit_drain :
    (∃ i w, ∃ s : State, s.power = .on ∧ s.mem.bufs[i]? = some w ∧ s.mem.drainable i = true) ∧
    (∃ i, ∃ s : State, s.power = .on ∧ s.mem.drainable i = false) ∧ (∃ g, ∃ s : State, s.power = .on ∧ g < nGroups) ∧
    (∃ g, ∃ s : State, s.power = .on ∧ nGroups ≤ g) :=
  ⟨⟨0, _, draining, rfl, rfl, by decide⟩, ⟨1, draining, rfl, by decide⟩, ⟨nGroups - 1, s0, rfl, by decide⟩, ⟨nGroups, s0, rfl, by decide⟩⟩

/-- Context 0's copy registers: `n` bytes from 0x40 to 0x80 of the core's memory. -/
def copying (n fl : Word) : State := (settled (.value [])).modCtx 0 0 (fun x =>
  { x with pend := none, cps := 0x8000_0000_0000_0040, cpd := 0x8000_0000_0000_0080, cpsz := n, cpfl := fl })

/-- A tag of such a copy. -/
def copyTag (st : TagState) (map : Word) (rl : Option Word) : CopyTag :=
  { st, map, ctx := 0, part := 0, cps := 0x8000_0000_0000_0040, cpd := 0x8000_0000_0000_0080, cpxs := 0, cpys := 0, cpsz := 8, cpfl := 0, rl }

/-- Every tag of core 0 is in this state. -/
def tagged (st : TagState) : State := (copying 8 0).modCore 0 (fun y => { y with tags := (List.range 64).map (fun t => (t, copyTag st 0 none)) })

theorem wit_copyLaunch :
    (∃ g a b s s1 s2 s3 u v, ∃ k : Fin 8, (k.val = 0 ∨ k.val = 2 ∨ k.val = 4) ∧ Issues (copyInfo g [a, b] [] true) s s1 ∧
      Gives (readS a) s1 u s2 ∧ Gives (readS b) s2 v s3) ∧
    (∃ g rd s s1, Issues (copyInfo g [] [rd] true) s s1 ∧ (s1.cluster (s1.clusterOf s1.cc)).bps = [] ∧ Claim.copyRefused s1.me) ∧
    (∃ g rd s s1, Issues (copyInfo g [] [rd] true) s s1 ∧ (s1.cluster (s1.clusterOf s1.cc)).bps = [] ∧ ¬Claim.copyRefused s1.me ∧
      s1.me.cpfl.getLsbD 16 = true ∧ tget (s1.part s1.myPart).binds (s1.me.cpfl.extractLsb' 0 8).toNat = none) ∧
    (∃ g rd s s1, Issues (copyInfo g [] [rd] true) s s1 ∧ (s1.cluster (s1.clusterOf s1.cc)).bps = [] ∧ ¬Claim.copyRefused s1.me ∧
      s1.me.cpfl.getLsbD 16 = false ∧ s1.me.cpfl.getLsbD 17 = true ∧
      tget (s1.part s1.myPart).binds (s1.me.cpfl.extractLsb' 8 8).toNat = none) ∧
    (∃ g rd s s1, Issues (copyInfo g [] [rd] true) s s1 ∧ (s1.cluster (s1.clusterOf s1.cc)).bps = [] ∧ ¬Claim.copyRefused s1.me ∧
      s1.me.cpfl.getLsbD 16 = false ∧ s1.me.cpfl.getLsbD 17 = false ∧ ∀ t < 64, tget s1.myCore.tags t ≠ none) ∧
    (∃ g rd s s1 t, ∃ aq rl : Word, Issues (copyInfo g [] [rd] true) s s1 ∧ (s1.cluster (s1.clusterOf s1.cc)).bps = [] ∧
      ¬Claim.copyRefused s1.me ∧ s1.me.cpfl.getLsbD 16 = true ∧ s1.me.cpfl.getLsbD 17 = true ∧
      (tget (s1.part s1.myPart).binds (s1.me.cpfl.extractLsb' 0 8).toNat).map Binding.sync = some aq ∧
      (tget (s1.part s1.myPart).binds (s1.me.cpfl.extractLsb' 8 8).toNat).map Binding.sync = some rl ∧ t < 64 ∧ tget s1.myCore.tags t = none ∧
      (∀ j < t, tget s1.myCore.tags j ≠ none) ∧ Gives (checkS rd) s1 () s1 ∧
      Gives (checkS rd) (s1.launchCopy t (some aq) (some rl)) () (s1.launchCopy t (some aq) (some rl))) :=
  ⟨⟨on, .x 1, .x 2, s0, _, _, _, _, _, 4, .inr (.inr rfl), rfl, rfl, rfl⟩,
   ⟨on, .x 1, copying 8 0x300000, _, rfl, rfl, by unfold Claim.copyRefused; decide⟩,
   ⟨on, .x 1, copying 8 0x100FF, _, rfl, rfl, by unfold Claim.copyRefused; decide, rfl, rfl⟩,
   ⟨on, .x 1, copying 8 0x20100, _, rfl, rfl, by unfold Claim.copyRefused; decide, rfl, rfl, rfl⟩,
   ⟨on, .x 1, tagged .flight, _, rfl, rfl, by unfold Claim.copyRefused; decide, rfl, rfl, by decide⟩,
   ⟨on, .x 1, copying 8 0x30000, _, 0, _, _, rfl, rfl, by unfold Claim.copyRefused; decide, rfl, rfl, rfl, rfl, by decide, rfl,
    by decide, rfl, rfl⟩⟩

/-- Tags 0 and 63 of core 0 have ended, tag 63 with a fault. -/
def ended : State := (copying 8 0).modCore 0 (fun y =>
  { y with cpdone := 0x8000000000000001, tags := [(0, copyTag .done 0 none), (63, { copyTag .faulted 0 none with fault := some { code := .ue } })] })

theorem wit_copyWaits :
    (∃ g rd a s s1 s2 m, Issues (copyInfo g [a] [rd] false) s s1 ∧ Gives (readS a) s1 m s2 ∧ m ≠ 0 ∧
      s2.myCore.cpdone &&& m = 0 ∧ s2.myCore.cpdone &&& m ≠ m ∧ Gives (checkS rd) s2 () s2) ∧
    (∃ g rd a s s1 s2 m, Issues (copyInfo g [a] [rd] false) s s1 ∧ Gives (readS a) s1 m s2 ∧ m = 0 ∧
      Claim.noFault s2.myCore.tags (s2.myCore.cpdone &&& m) ∧ Gives (checkS rd) s2 () s2) ∧
    (∃ g rd a s s1 s2 m, Issues (copyInfo g [a] [rd] false) s s1 ∧ Gives (readS a) s1 m s2 ∧ s2.myCore.cpdone &&& m = m ∧
      m ≠ 0 ∧ Claim.noFault s2.myCore.tags m ∧ Gives (checkS rd) s2 () s2 ∧ (s2.myCore.cpdone &&& m).getLsbD 0 = true ∧ m.toNat < 64) ∧
    (∃ g rd a s s1 s2 m f, ∃ t < 64, Issues (copyInfo g [a] [rd] false) s s1 ∧ Gives (readS a) s1 m s2 ∧ s2.myCore.cpdone &&& m = m ∧
      m ≠ 0 ∧ Claim.firstFault s2.myCore.tags m f ∧ (s2.myCore.cpdone &&& m).getLsbD t = true ∧
      (∀ j < t, (s2.myCore.cpdone &&& m).getLsbD j = false) ∧ Claim.firstFault s2.myCore.tags (BitVec.twoPow 64 t) f ∧ 64 ≤ m.toNat) ∧
    (∃ g a s s1 s2 m, Issues (copyInfo g [a] [] true) s s1 ∧ Gives (readS a) s1 m s2) ∧
    (∃ g a s s1 s2 m tree q, Issues (copyInfo g [a] [] true) s s1 ∧ Gives (readS a) s1 m s2 ∧
      tget (s2.core (m.extractLsb' 0 13).toNat).trees (m.extractLsb' 16 6).toNat = some tree ∧
      receiverBit (m.extractLsb' 0 13).toNat s2.cc = some q ∧ tree.mask.getLsbD q = true ∧
      m = (m.extractLsb' 0 13).setWidth 64 ||| (m.extractLsb' 16 6).setWidth 64 <<< 16) :=
  ⟨⟨on, .x 1, .x 2, ended.modCtx 0 0 (fun x => x.setX 2 2), _, _, _, rfl, rfl, by decide, by decide, by decide, rfl⟩,
   ⟨on, .x 1, .zero, ended, _, _, _, rfl, rfl, rfl, by unfold Claim.noFault; decide, rfl⟩,
   ⟨on, .x 1, .x 2, ended.modCtx 0 0 (fun x => x.setX 2 1), _, _, _, rfl, rfl, by decide, by decide,
    by unfold Claim.noFault; decide, rfl, by decide, by decide⟩,
   ⟨on, .x 1, .x 2, ended.modCtx 0 0 (fun x => x.setX 2 0x8000000000000000), _, _, _, { code := .ue }, 63, by decide, rfl, rfl, by decide, by decide,
    ⟨[(0, copyTag .done 0 none)], 63, _, [], rfl, by decide, by decide, rfl, rfl⟩, by decide, by decide,
    ⟨[(0, copyTag .done 0 none)], 63, _, [], rfl, by decide, by decide, rfl, rfl⟩, by decide⟩,
   ⟨on, .x 2, ended, _, _, _, rfl, rfl⟩,
   ⟨on, .x 2, (ended.modCore 1 (fun y => { y with trees := [(63, { mask := 1, fbox := 3 })] })).modCtx 0 0 (fun x => x.setX 2 0x3F0001), _, _, _, _, 0,
    rfl, rfl, rfl, by decide, by decide, by decide⟩⟩

/-- A copy of eight bytes whose tag 5 is so far. -/
def inFlight (e : CopyTag) : State := (copying 8 0).modCore 0 (fun y => { y with tags := [(5, e)] })

theorem wit_copyEngine :
    (∃ c t chunk e ws, ∃ s : State, tget (s.core c).tags t = some e ∧ s.engineRuns c e.part = true ∧ e.st = .flight ∧
      (e.acquired = true ∨ e.aq = none) ∧ isMc e.cpfl = false ∧ chunk < 64 ∧ e.map.getLsbD chunk = false ∧
      (∀ p ∈ copyPieces e (chunk * chunkSize (copySize e.cpsz)) (min (chunkSize (copySize e.cpsz))
        (copySize e.cpsz - chunk * chunkSize (copySize e.cpsz))) (chunkSize (copySize e.cpsz) + 1),
        spaceOf p.1.toNat ≠ 0x9 ∧ spaceOf p.2.1.toNat ≠ 0x9 ∧ spaceOf p.1.toNat ≠ 0xC) ∧
      s.chunkWhere c e.part (copyPieces e (chunk * chunkSize (copySize e.cpsz)) (min (chunkSize (copySize e.cpsz))
        (copySize e.cpsz - chunk * chunkSize (copySize e.cpsz))) (chunkSize (copySize e.cpsz) + 1)) = .ok ws ∧
      ((ws.flatMap (fun w => w.1.zip w.2.1)).map Prod.fst ++ (ws.flatMap (fun w => w.1.zip w.2.1)).map Prod.snd).Nodup) ∧
    (∃ c t chunk e f, ∃ s : State, tget (s.core c).tags t = some e ∧ s.engineRuns c e.part = true ∧ e.st = .flight ∧
      (e.acquired = true ∨ e.aq = none) ∧ isMc e.cpfl = false ∧ chunk < 64 ∧ e.map.getLsbD chunk = false ∧
      (∀ p ∈ copyPieces e (chunk * chunkSize (copySize e.cpsz)) (min (chunkSize (copySize e.cpsz))
        (copySize e.cpsz - chunk * chunkSize (copySize e.cpsz))) (chunkSize (copySize e.cpsz) + 1),
        spaceOf p.1.toNat ≠ 0x9 ∧ spaceOf p.2.1.toNat ≠ 0x9 ∧ spaceOf p.1.toNat ≠ 0xC) ∧
      s.chunkWhere c e.part (copyPieces e (chunk * chunkSize (copySize e.cpsz)) (min (chunkSize (copySize e.cpsz))
        (copySize e.cpsz - chunk * chunkSize (copySize e.cpsz))) (chunkSize (copySize e.cpsz) + 1)) = .error f) :=
  ⟨⟨0, 5, 0, _, _, inFlight (copyTag .flight 0xFFFF_FFFF_FFFF_FFFE none), rfl, rfl, rfl, .inr rfl, rfl, by decide, by decide, by decide, rfl,
    by decide⟩,
   ⟨0, 5, 0, _, _, inFlight { copyTag .flight 0xFFFF_FFFF_FFFF_FFFE none with cps := 0x40 }, rfl, rfl, rfl, .inr rfl, rfl, by decide, by decide,
    by decide, rfl⟩⟩

theorem wit_copyCompletes :
    (∃ c t e, ∃ s : State, tget (s.core c).tags t = some e ∧ s.engineRuns c e.part = true ∧ e.st = .flight ∧ isMc e.cpfl = false ∧
      e.map ≠ BitVec.allOnes 64) ∧
    (∃ c t e, ∃ s : State, tget (s.core c).tags t = some e ∧ s.engineRuns c e.part = true ∧ e.st = .flight ∧ isMc e.cpfl = false ∧
      e.map = BitVec.allOnes 64 ∧ e.rl = none) ∧
    (∃ c t e loc y, ∃ s : State, tget (s.core c).tags t = some e ∧ s.engineRuns c e.part = true ∧ e.st = .flight ∧ isMc e.cpfl = false ∧
      e.map = BitVec.allOnes 64 ∧ e.rl = some y ∧ (s.part e.part).replay.mode = .off ∧
      s.releaseReady (.ctx c e.ctx) (copyScope e.cpfl) e.part y = true ∧ s.copySync c e { w := true } y = .ok loc) ∧
    (∃ c t e f y, ∃ s : State, tget (s.core c).tags t = some e ∧ s.engineRuns c e.part = true ∧ e.st = .flight ∧ isMc e.cpfl = false ∧
      e.map = BitVec.allOnes 64 ∧ e.rl = some y ∧ (s.part e.part).replay.mode = .off ∧
      s.releaseReady (.ctx c e.ctx) (copyScope e.cpfl) e.part y = true ∧ s.copySync c e { w := true } y = .error f) ∧
    (∃ c t e y, ∃ s : State, tget (s.core c).tags t = some e ∧ s.engineRuns c e.part = true ∧ e.st = .flight ∧ isMc e.cpfl = false ∧
      e.map = BitVec.allOnes 64 ∧ e.rl = some y ∧ (s.part e.part).replay.mode = .off ∧
      s.releaseReady (.ctx c e.ctx) (copyScope e.cpfl) e.part y = false) ∧
    (∃ c t tree, ∃ s : State, tget (s.core c).trees t = some tree ∧ s.runs c = true ∧ tree.mask ≠ 0 ∧
      ∀ q < 64, tree.mask.getLsbD q = true → tree.forwarded < tgetD tree.frees q 0) ∧
    (∃ c t tree, ∃ s : State, tget (s.core c).trees t = some tree ∧ s.runs c = true ∧ tree.mask ≠ 0 ∧
      ¬∀ q < 64, tree.mask.getLsbD q = true → tree.forwarded < tgetD tree.frees q 0) :=
  ⟨⟨0, 5, _, inFlight (copyTag .flight 0xFFFF_FFFF_FFFF_FFFE none), rfl, rfl, rfl, rfl, by decide⟩,
   ⟨0, 5, _, inFlight (copyTag .flight 0xFFFF_FFFF_FFFF_FFFF none), rfl, rfl, rfl, rfl, by decide, rfl⟩,
   ⟨0, 5, _, _, _, inFlight (copyTag .flight 0xFFFF_FFFF_FFFF_FFFF (some 0xA000_0000_0000_0000)), rfl, rfl, rfl, rfl, by decide, rfl, rfl,
    by decide, rfl⟩,
   ⟨0, 5, _, _, _, inFlight (copyTag .flight 0xFFFF_FFFF_FFFF_FFFF (some 0xA100_0000_0000_0000)), rfl, rfl, rfl, rfl, by decide, rfl, rfl,
    by decide, rfl⟩,
   ⟨0, 5, _, _, { inFlight (copyTag .flight 0xFFFF_FFFF_FFFF_FFFF (some 0xA000_0000_0000_0000)) with mem := (ordering (.value [])).mem }, rfl,
    rfl, rfl, rfl, by decide, rfl, rfl, by decide⟩,
   ⟨1, 63, _, s0.modCore 1 (fun y => { y with trees := [(63, { mask := 0x8000000000000001, fbox := 3, frees := [(0, 2), (63, 1)] })] }), rfl, rfl, by decide,
    by decide⟩,
   ⟨1, 63, _, s0.modCore 1 (fun y => { y with trees := [(63, { mask := 0x8000000000000001, fbox := 3, frees := [(0, 2)] })] }), rfl, rfl, by decide,
    by decide⟩⟩

/-- Partition 0 has started; core 0's contexts from 1 to `n` run, the others are vacant. -/
def started (n : Nat) : State :=
  { (s0.modPart 0 (fun p => { p with started := true })) with
    ctxs := (List.range 16).map (fun k => (k, { vctx := k, run := if k ≤ n then .held else .vacant })) }

/-- Context 3 of core 0 acts; the core's exit queue holds these words. -/
def third (l : List Word) : State := { (started 15).modCore 0 (fun y => { y with exitq := l }) with cur := (0, 3) }

theorem wit_contexts :
    (∃ g xpc xc s s1 s2 s3 pc c, Issues { taskInfo g [xpc, xc] [] with bar := true, priv := s.me.vctx != 0 } s s1 ∧
      Gives (readS xpc) s1 pc s2 ∧ Gives (readS xc) s2 c s3 ∧ pc.toNat % 4 ≠ 0) ∧
    (∃ g xpc xc s s1 s2 s3 pc c, Issues { taskInfo g [xpc, xc] [] with bar := true, priv := s.me.vctx != 0 } s s1 ∧
      Gives (readS xpc) s1 pc s2 ∧ Gives (readS xc) s2 c s3 ∧ pc.toNat % 4 = 0 ∧ 2 ^ 13 ≤ c.toNat) ∧
    (∃ g xpc xc s s1 s2 s3 pc c, Issues { taskInfo g [xpc, xc] [] with bar := true, priv := s.me.vctx != 0 } s s1 ∧
      Gives (readS xpc) s1 pc s2 ∧ Gives (readS xc) s2 c s3 ∧ pc.toNat % 4 = 0 ∧ c.toNat < 2 ^ 13 ∧
      s3.holdsCore s3.myPart c.toNat = false) ∧
    (∃ g xpc xc s s1 s2 s3 pc c, Issues { taskInfo g [xpc, xc] [] with bar := true, priv := s.me.vctx != 0 } s s1 ∧
      Gives (readS xpc) s1 pc s2 ∧ Gives (readS xc) s2 c s3 ∧ pc.toNat % 4 = 0 ∧ c.toNat < 2 ^ 13 ∧
      s3.holdsCore s3.myPart c.toNat = true ∧ ∀ k < 16, (s3.handFrom (s3.agentOf s3.cc s3.ck)).claimable c.toNat k = false) ∧
    (∃ g xpc xc s s1 s2 s3 pc c, ∃ k < 16, Issues { taskInfo g [xpc, xc] [] with bar := true, priv := s.me.vctx != 0 } s s1 ∧
      Gives (readS xpc) s1 pc s2 ∧ Gives (readS xc) s2 c s3 ∧ pc.toNat % 4 = 0 ∧ c.toNat < 2 ^ 13 ∧
      s3.holdsCore s3.myPart c.toNat = true ∧ (s3.handFrom (s3.agentOf s3.cc s3.ck)).claimable c.toNat k = true ∧
      ∀ j < k, (s3.handFrom (s3.agentOf s3.cc s3.ck)).claimable c.toNat j = false) ∧
    (∃ s : State, (s.me.live.left = 0 ∧ s.me.live.active = false) ∧ s.me.vctx ≠ 0) ∧
    (∃ s : State, (s.me.live.left = 0 ∧ s.me.live.active = false) ∧ s.me.vctx = 0) :=
  ⟨⟨on, .x 2, .zero, (started 0).modCtx 0 0 (fun x => x.setX 2 2), _, _, _, _, _, rfl, rfl, rfl, by decide⟩,
   ⟨on, .zero, .x 2, (started 0).modCtx 0 0 (fun x => x.setX 2 8192), _, _, _, _, _, rfl, rfl, rfl, rfl, by decide⟩,
   ⟨on, .zero, .x 2, (started 0).modCore 8191 (fun y => { y with partid := 1 }) |>.modCtx 0 0 (fun x => x.setX 2 8191), _, _, _, _, _, rfl, rfl, rfl, rfl,
    by decide, by decide⟩,
   ⟨on, .zero, .zero, started 15, _, _, _, _, _, rfl, rfl, rfl, rfl, by decide, by decide, by decide⟩,
   ⟨on, .zero, .zero, started 14, _, _, _, _, _, 15, by decide, rfl, rfl, rfl, rfl, by decide, by decide, by decide, by decide⟩,
   ⟨third [], ⟨rfl, rfl⟩, by decide⟩, ⟨s0, ⟨rfl, rfl⟩, rfl⟩⟩

theorem wit_exits :
    (∃ g xs s s1 s2 v, Issues { taskInfo g [xs] [] with bar := true, priv := s.me.vctx == 0 } s s1 ∧ Gives (readS xs) s1 v s2 ∧
      s2.foldReady s2.cc = true ∧ 16 ≤ s2.myCore.exitq.length) ∧
    (∃ g xs s s1 s2 v, Issues { taskInfo g [xs] [] with bar := true, priv := s.me.vctx == 0 } s s1 ∧ Gives (readS xs) s1 v s2 ∧
      s2.foldReady s2.cc = true ∧ s2.myCore.exitq.length < 16) ∧
    (∃ g s s1, Issues { taskInfo g [] [] with priv := s.me.vctx != 0 } s s1 ∧ s1.foldReady s1.cc = true ∧ s1.myCore.exitq = []) ∧
    (∃ g rd s s1 w r, Issues { taskInfo g [] [rd] with priv := s.me.vctx != 0 } s s1 ∧ s1.foldReady s1.cc = true ∧ s1.myCore.exitq = w :: r ∧
      Gives (checkS rd) (s1.modMyCore (fun y => { y with exitq := r })) () (s1.modMyCore (fun y => { y with exitq := r }))) ∧
    (∃ g s s1, Issues (taskInfo g [] []) s s1 ∧ s1.foldReady s1.cc = true ∧ (s1.me.vctx ≠ 0 ∨ s1.myCore.startBuf = none)) ∧
    (∃ g s s1 m, Issues (taskInfo g [] []) s s1 ∧ s1.foldReady s1.cc = true ∧ s1.me.vctx = 0 ∧ s1.myCore.startBuf = some m) :=
  ⟨⟨on, .zero, third (List.replicate 16 7), _, _, _, rfl, rfl, rfl, by decide⟩,
   ⟨on, .zero, third (List.replicate 15 7), _, _, _, rfl, rfl, rfl, by decide⟩,
   ⟨on, started 0, _, rfl, rfl, rfl⟩, ⟨on, .x 1, { third [7, 8] with cur := (0, 0) }, _, _, _, rfl, rfl, rfl, rfl⟩,
   ⟨on, third [], _, rfl, rfl, .inl (by decide)⟩,
   ⟨on, (started 0).modCore 0 (fun y => { y with startBuf := some { part := 0, core := 0, pc := 0x40, args := [1, 2, 3, 4] } }), _, _, rfl, rfl, rfl, rfl⟩⟩

/-- A record of eight words: its first instruction at 0x40, and this footprint. -/
def record (src foot : Word) : List Word := [0x40, 1, 2, 3, 4, src, foot, 0]

/-- Two tasks wait in queues 2 and 3, the second of higher priority; contexts 4 and 5 wait for work. -/
def dispensing (src foot : Word) : State := (s0.modCluster 0 (fun y => { y with
  sram := [(0, { queue := 2, arrival := 1, words := record src foot }), (1, { queue := 3, arrival := 2, words := record src foot })], waiters := [(0, 4), (0, 5)],
  tq := y.tq.set 3 { pri := 7 } }))

/-- A record's footprint is to be copied for context 4. -/
def fetchingFoot (src : Word) : State := (s0.modPart 0 (fun p => { p with started := true })).modCtx 0 4 (fun x =>
  { x with foot := record src 0x0000_0100_0000_0008, pend := some { kind := .footprint, len := 0 } })

/-- The first 2 GiB of partition 0's memory are mapped by one page; queue 15 has a ring there with one entry. -/
def ringed (base : Word) : State :=
  { ((s0.modPart 0 (fun p => { p with trt := 1 })).modCluster 0 (fun y => { y with
      tq := y.tq.set 15 { ring := some (base, 4), armed := true, head := 17, arrivals := [9] } })) with
    mem := { d := [(0, 0x01), (1, 0x80), (0x8000, 0x1F)] } }

theorem wit_dispenser :
    (∃ cl c k i t, ∃ s : State, s.chooseTask cl c k = some (i, t) ∧ (s.part (s.core c).partid).replay.mode = .off ∧ i = 1) ∧
    (∃ cl c k i t, ∃ s : State, s.clusterRuns cl = true ∧ s.chooseWaiter cl (s.cluster cl).waiters = some ((c, k), (i, t)) ∧
      (s.part (s.core c).partid).replay.mode = .off ∧ recSize t.words = 0) ∧
    (∃ cl c k i t, ∃ s : State, s.clusterRuns cl = true ∧ s.chooseWaiter cl (s.cluster cl).waiters = some ((c, k), (i, t)) ∧
      (s.part (s.core c).partid).replay.mode = .off ∧ recSize t.words ≠ 0) ∧
    (∃ cl, ∃ s : State, s.clusterRuns cl = true ∧ s.chooseWaiter cl (s.cluster cl).waiters = none) ∧
    (∃ c k ws f, ∃ (s : State) (p : Pend), (s.ctx c k).pend = some p ∧ p.kind = .footprint ∧ s.runs c = true ∧ (s.ctx c k).stopped = false ∧
      (s.ctx c k).foot = ws ∧ s.chunkWhere c (s.core c).partid
        [(recWord ws 5, BitVec.ofNat 64 (0x8 * 2 ^ 60 + recOff ws), recSize ws)] = .error f) ∧
    (∃ c k ws ps, ∃ (s : State) (p : Pend), (s.ctx c k).pend = some p ∧ p.kind = .footprint ∧ s.runs c = true ∧ (s.ctx c k).stopped = false ∧
      (s.ctx c k).foot = ws ∧ s.chunkWhere c (s.core c).partid
        [(recWord ws 5, BitVec.ofNat 64 (0x8 * 2 ^ 60 + recOff ws), recSize ws)] = .ok ps) :=
  ⟨⟨0, 0, 4, _, _, dispensing 0 0, rfl, rfl, rfl⟩, ⟨0, _, _, _, _, dispensing 0 0, by decide, rfl, rfl, rfl⟩,
   ⟨0, _, _, _, _, dispensing 0 8, by decide, rfl, rfl, by decide⟩, ⟨0, s0, by decide, rfl⟩,
   ⟨0, 4, _, _, fetchingFoot 0x40, _, rfl, rfl, rfl, rfl, rfl, rfl⟩,
   ⟨0, 4, _, _, fetchingFoot 0x8000_0000_0000_0040, _, rfl, rfl, rfl, rfl, rfl, rfl⟩⟩

/-- The entry that a cluster's ring gives next. -/
def oldest (s : State) (cl : Nat) (base : Word) (sz q : Nat) : Where :=
  s.locate (s.viaCluster cl (s.clusterCore cl) (s.core (s.clusterCore cl)).partid) { r := true } [0x0]
    (base.toNat + 64 * ((s.taskq cl q).head % 2 ^ sz)) 64 64

theorem wit_refill :
    (∃ cl q i base sz n r ls, ∃ s : State, s.clusterRuns cl = true ∧ s.refillFrom cl = some q ∧ q < 16 ∧ s.freeSram cl = some i ∧
      (s.taskq cl q).ring = some (base, sz) ∧ (s.taskq cl q).arrivals = n :: r ∧ oldest s cl base sz q = .at ls ∧ s.mem.badAt ls = none) ∧
    (∃ cl q i base sz n r ls, ∃ s : State, s.clusterRuns cl = true ∧ s.refillFrom cl = some q ∧ q < 16 ∧ s.freeSram cl = some i ∧
      (s.taskq cl q).ring = some (base, sz) ∧ (s.taskq cl q).arrivals = n :: r ∧ oldest s cl base sz q = .at ls ∧ s.mem.badAt ls ≠ none) ∧
    (∃ cl q i base sz n r f, ∃ s : State, s.clusterRuns cl = true ∧ s.refillFrom cl = some q ∧ q < 16 ∧ s.freeSram cl = some i ∧
      (s.taskq cl q).ring = some (base, sz) ∧ (s.taskq cl q).arrivals = n :: r ∧ oldest s cl base sz q = .fault f) :=
  ⟨⟨0, 15, 0, _, _, _, _, _, ringed 0x400, by decide, rfl, by decide, rfl, rfl, rfl, rfl, rfl⟩,
   ⟨0, 15, 0, _, _, _, _, _, (ringed 0x400).modMem (fun m => { m with bad := [0x440] }), by decide, rfl, by decide, rfl, rfl, rfl, rfl, by decide⟩,
   ⟨0, 15, 0, _, _, _, _, _, ringed 0x80000000, by decide, rfl, by decide, rfl, rfl, rfl, rfl⟩⟩

/-- Queue 7 of core 0 has a place reserved. -/
def reservedQ : State := (xs3 7 1 0).modCore 0 (fun y => { y with hwq := y.hwq.set 7 { reserved := 1 } })

theorem wit_queueSettings :
    (∃ e ∈ Claim.queueSettings, ∃ g xa xb s s1 s2 s3 a b, Issues (taskInfo g [xa, xb] []) s s1 ∧ Gives (readS xa) s1 a s2 ∧
      Gives (readS xb) s2 b s3 ∧ a &&& ~~~e.2.1 ≠ 0) ∧
    (∃ g xa xb s s1 s2 s3 a b, Issues (taskInfo g [xa, xb] []) s s1 ∧ Gives (readS xa) s1 a s2 ∧ Gives (readS xb) s2 b s3 ∧
      a &&& ~~~15 = 0 ∧ b &&& ~~~0xF_1FFF = 0 ∧ s3.inCluster (b.extractLsb' 0 13).toNat = true) ∧
    (∃ g xa xb s s1 s2 s3 a b, Issues (taskInfo g [xa, xb] []) s s1 ∧ Gives (readS xa) s1 a s2 ∧ Gives (readS xb) s2 b s3 ∧
      a &&& ~~~0x1F0F = 0 ∧ b &&& ~~~BitVec.allOnes 64 = 0 ∧ 4 ≤ (a.extractLsb' 8 5).toNat ∧ (a.extractLsb' 8 5).toNat ≤ 20 ∧
      b.toNat < 2 ^ 56 ∧ b.toNat % (64 * 2 ^ (a.extractLsb' 8 5).toNat) = 0 ∧
      (s3.taskq (s3.clusterOf s3.cc) (a.toNat % 16)).arrivals = []) ∧
    (∃ g xa xb s s1 s2 s3 a b, Issues (taskInfo g [xa, xb] []) s s1 ∧ Gives (readS xa) s1 a s2 ∧ Gives (readS xb) s2 b s3 ∧
      a.toNat < 8 ∧ b.toNat < 2 ∧ s3.foldReady s3.cc = true ∧ (s3.hq s3.cc a.toNat).reserved ≠ 0) ∧
    (∃ g xa xb s s1 s2 s3 a b, Issues (taskInfo g [xa, xb] []) s s1 ∧ Gives (readS xa) s1 a s2 ∧ Gives (readS xb) s2 b s3 ∧
      a.toNat < 8 ∧ b.toNat < 2 ∧ s3.foldReady s3.cc = true ∧ (s3.hq s3.cc a.toNat).reserved = 0 ∧ a.toNat < 256 ∧ b.toNat < 65536) ∧
    (∃ e ∈ Claim.queueStates, ∃ g rd xa s s1 s2 a, Issues (taskInfo g [xa] [rd]) s s1 ∧ Gives (readS xa) s1 a s2 ∧
      s2.foldReady s2.cc = true ∧ Gives (checkS rd) s2 () s2 ∧ e = e) ∧
    (∃ g rd xa s s1 s2 a, Issues (taskInfo g [xa] [rd]) s s1 ∧ Gives (readS xa) s1 a s2 ∧
      s2.inCluster (a.extractLsb' 0 13).toNat = false) ∧
    (∃ g rd xa s s1 s2 a, Issues (taskInfo g [xa] [rd]) s s1 ∧ Gives (readS xa) s1 a s2 ∧
      s2.inCluster (a.extractLsb' 0 13).toNat = true ∧ s2.foldReady (a.extractLsb' 0 13).toNat = true ∧ Gives (checkS rd) s2 () s2) ∧
    (∃ g rd xa s s1 s2 a, Issues (taskInfo g [xa] [rd]) s s1 ∧ Gives (readS xa) s1 a s2 ∧
      s2.inCluster (a.extractLsb' 0 13).toNat = true ∧ s2.foldReady (a.extractLsb' 0 13).toNat = false) ∧
    (∃ g xa s s1 s2 a, Issues (taskInfo g [xa] []) s s1 ∧ Gives (readS xa) s1 a s2 ∧ 16 ≤ a.toNat) ∧
    (∃ g xa s s1 s2 a, ∃ c k, Issues (taskInfo g [xa] []) s s1 ∧ Gives (readS xa) s1 a s2 ∧ a.toNat < 16 ∧ k < 16 ∧
      s2.clusterOf c = s2.clusterOf s2.cc ∧ c * 16 + k ≠ s2.cc * 16 + s2.ck ∧ (s2.ctx c k).origin = some a.toNat) :=
  ⟨⟨_, List.mem_cons_self, on, .x 2, .x 3, xs3 16 7 0, _, _, _, _, _, rfl, rfl, rfl, by decide⟩,
   ⟨on, .x 2, .x 3, xs3 15 0xF0033 0, _, _, _, _, _, rfl, rfl, rfl, by decide, by decide, by decide⟩,
   ⟨on, .x 2, .x 3, xs3 0x040F 0x400 0, _, _, _, _, _, rfl, rfl, rfl, by decide, by decide, by decide, by decide, by decide, by decide, rfl⟩,
   ⟨on, .x 2, .x 3, reservedQ, _, _, _, _, _, rfl, rfl, rfl, by decide, by decide,
    rfl, by decide⟩,
   ⟨on, .x 2, .x 3, xs3 7 1 0, _, _, _, _, _, rfl, rfl, rfl, by decide, by decide, rfl, rfl, by decide, by decide⟩,
   ⟨_, List.mem_cons_self, on, .x 1, .x 2, xs3 7 0 0, _, _, _, rfl, rfl, rfl, rfl, rfl⟩,
   ⟨on, .x 1, .x 2, xs3 4 0 0, _, _, _, rfl, rfl, by decide⟩,
   ⟨on, .x 1, .x 2, xs3 51 0 0, _, _, _, rfl, rfl, by decide, by decide, rfl⟩,
   ⟨on, .x 1, .x 2, (xs3 51 0 0).modCore 51 (fun y => { y with image := some 50 }), _, _, _, rfl, rfl, by decide, by decide⟩,
   ⟨on, .x 2, xs3 16 0 0, _, _, _, rfl, rfl, by decide⟩,
   ⟨on, .x 2, (xs3 15 0 0).modCtx 51 15 (fun x => { x with origin := some 15 }), _, _, _, 51, 15, rfl, rfl, by decide, by decide, by decide, by decide,
    rfl⟩⟩

/-- x2 holds 0x100; the record there begins with this byte; the queues' records fill `n` entries of the dispenser. -/
def filled (n : Nat) (b : Byte) : State :=
  { ((atMem 0x8000_0000_0000_0100).modCluster 0 (fun y =>
      { y with sram := (List.range n).map (fun i => (i, { queue := 1, arrival := i, words := [] })), arrival := n })) with
    mem := { views := [(.ctx 0 0, [(2 ^ 56 + 0x100, ⟨1, b⟩)])], next := 2 } }

/-- Core 0's deque holds these words, and x2 this one. -/
def dequed (l : List Word) (c : Word) : State := (xs3 c 0 0).modCore 0 (fun y => { y with deque := l })

/-- The words that eight loads of eight bytes give. -/
def loaded (s : State) (ls : List Nat) : List Word :=
  (List.range 8).map (fun i => BitVec.ofNat 64 (leVal (((s.loadUnits (s.agentOf s.cc s.ck) ((List.range 8).map (fun i =>
    (ls.drop (8 * i)).take 8))).1.drop (8 * i)).take 8)))

theorem wit_taskq :
    (∃ g xs s s1 s2 s3 a ls, Issues (taskInfo g [xs] []) s s1 ∧ Gives (readS xs) s1 a s2 ∧ (s2.cluster (s2.clusterOf s2.cc)).bps = [] ∧
      Gives (locM { r := true } [0x8] a.toNat 64 64) s2 ls s3 ∧ recOk (loaded s3 ls) = false) ∧
    (∃ g xs s s1 s2 s3 a ls i, ∃ n : Fin 16, Issues (taskInfo g [xs] []) s s1 ∧ Gives (readS xs) s1 a s2 ∧ (s2.cluster (s2.clusterOf s2.cc)).bps = [] ∧
      Gives (locM { r := true } [0x8] a.toNat 64 64) s2 ls s3 ∧ recOk (loaded s3 ls) = true ∧
      s3.freeSram (s3.clusterOf s3.cc) = some i ∧ (s3.taskq (s3.clusterOf s3.cc) n.val).arrivals = []) ∧
    (∃ g xs s s1 s2 a, Issues (taskInfo g [xs] []) s s1 ∧ Gives (readS xs) s1 a s2 ∧ s2.foldReady s2.cc = true) :=
  ⟨⟨on, .x 2, filled 0 1, _, _, _, _, _, rfl, rfl, rfl, rfl, by decide⟩,
   ⟨on, .x 2, filled 9 0, _, _, _, _, _, 9, 15, rfl, rfl, rfl, rfl, by decide, rfl, rfl⟩,
   ⟨on, .zero, s0, _, _, _, rfl, rfl, rfl⟩⟩

theorem wit_deques :
    (∃ g rd s s1, Issues (taskInfo g [] [rd]) s s1 ∧ s1.foldReady s1.cc = true ∧ (s1.part s1.myPart).replay.mode = .off ∧
      s1.myCore.deque = [] ∧ Gives (checkS rd) s1 () s1) ∧
    (∃ g rd s s1 r v, Issues (taskInfo g [] [rd]) s s1 ∧ s1.foldReady s1.cc = true ∧ (s1.part s1.myPart).replay.mode = .off ∧
      s1.myCore.deque = r ++ [v] ∧ r = [6] ∧ Gives (checkS rd) s1 () s1) ∧
    (∃ g rd xc s s1 s2 c, Issues (taskInfo g [xc] [rd]) s s1 ∧ Gives (readS xc) s1 c s2 ∧ (s2.part s2.myPart).replay.mode = .off ∧
      2 ^ 13 ≤ c.toNat) ∧
    (∃ g rd xc s s1 s2 c, Issues (taskInfo g [xc] [rd]) s s1 ∧ Gives (readS xc) s1 c s2 ∧ (s2.part s2.myPart).replay.mode = .off ∧
      c.toNat < 2 ^ 13 ∧ s2.inCluster c.toNat = false) ∧
    (∃ g rd xc s s1 s2 c, Issues (taskInfo g [xc] [rd]) s s1 ∧ Gives (readS xc) s1 c s2 ∧ (s2.part s2.myPart).replay.mode = .off ∧
      c.toNat < 2 ^ 13 ∧ s2.inCluster c.toNat = true ∧ s2.foldReady c.toNat = false) ∧
    (∃ g rd xc s s1 s2 c, Issues (taskInfo g [xc] [rd]) s s1 ∧ Gives (readS xc) s1 c s2 ∧ (s2.part s2.myPart).replay.mode = .off ∧
      c.toNat < 2 ^ 13 ∧ s2.inCluster c.toNat = true ∧ s2.foldReady c.toNat = true ∧ (s2.core c.toNat).deque = [] ∧ Gives (checkS rd) s2 () s2) ∧
    (∃ g rd xc s s1 s2 c v r, Issues (taskInfo g [xc] [rd]) s s1 ∧ Gives (readS xc) s1 c s2 ∧ (s2.part s2.myPart).replay.mode = .off ∧
      c.toNat < 2 ^ 13 ∧ s2.inCluster c.toNat = true ∧ s2.foldReady c.toNat = true ∧ (s2.core c.toNat).deque = v :: r ∧ Gives (checkS rd) s2 () s2 ∧
      r = [7]) :=
  ⟨⟨on, .x 1, s0, _, rfl, rfl, rfl, rfl, rfl⟩, ⟨on, .x 1, dequed [6, 7] 0, _, [6], 7, rfl, rfl, rfl, rfl, rfl, rfl⟩,
   ⟨on, .x 1, .x 2, dequed [] 8192, _, _, _, rfl, rfl, rfl, by decide⟩, ⟨on, .x 1, .x 2, dequed [] 4, _, _, _, rfl, rfl, rfl, by decide, by decide⟩,
   ⟨on, .x 1, .x 2, (dequed [] 51).modCore 51 (fun y => { y with image := some 50 }), _, _, _, rfl, rfl, rfl, by decide, by decide, by decide⟩,
   ⟨on, .x 1, .x 2, dequed [] 51, _, _, _, rfl, rfl, rfl, by decide, by decide, by decide, rfl, rfl⟩,
   ⟨on, .x 1, .x 2, dequed [6, 7] 0, _, _, _, _, _, rfl, rfl, rfl, by decide, by decide, by decide, rfl, rfl, rfl⟩⟩

/-- x2, x3 and x4 hold these words; partition 0 has started; core 0's send queue holds `n` replies; the reply slots are `r`. -/
def sending (a b c : Word) (n : Nat) (r : RSlot) : State :=
  ((xs3 a b c).modPart 0 (fun p => { p with started := true })).modCore 0 (fun y => { y with sendq := List.replicate n (.reply 0 0 0 0 0) }) |>.modCtx
    0 0 (fun x => { x with replies := Vector.replicate 4 r })

theorem wit_sends :
    (∃ g xd xa xb s s1 s2 s3 s4 d a b, Issues (taskInfo g [xd, xa, xb] []) s s1 ∧ Gives (readS xd) s1 d s2 ∧ Gives (readS xa) s2 a s3 ∧
      Gives (readS xb) s3 b s4 ∧ ¬Claim.boxOk s4 d) ∧
    (∃ g xd xa xb s s1 s2 s3 s4 d a b, Issues (taskInfo g [xd, xa, xb] []) s s1 ∧ Gives (readS xd) s1 d s2 ∧ Gives (readS xa) s2 a s3 ∧
      Gives (readS xb) s3 b s4 ∧ Claim.boxOk s4 d ∧ s4.foldReady s4.cc = true ∧ 16 ≤ s4.myCore.sendq.length) ∧
    (∃ g xd xa xb s s1 s2 s3 s4 d a b, Issues (taskInfo g [xd, xa, xb] []) s s1 ∧ Gives (readS xd) s1 d s2 ∧ Gives (readS xa) s2 a s3 ∧
      Gives (readS xb) s3 b s4 ∧ Claim.boxOk s4 d ∧ s4.foldReady s4.cc = true ∧ s4.myCore.sendq.length < 16) :=
  ⟨⟨on, .x 2, .x 3, .x 4, sending 0x1FE_0000 5 6 0 .empty, _, _, _, _, _, _, _, rfl, rfl, rfl, rfl, by unfold Claim.boxOk; decide⟩,
   ⟨on, .x 2, .x 3, .x 4, sending 0xFD_0033 5 6 16 .empty, _, _, _, _, _, _, _, rfl, rfl, rfl, rfl, by unfold Claim.boxOk; decide, rfl, by decide⟩,
   ⟨on, .x 2, .x 3, .x 4, sending 0xFD_0033 5 6 15 .empty, _, _, _, _, _, _, _, rfl, rfl, rfl, rfl, by unfold Claim.boxOk; decide, rfl, by decide⟩⟩

theorem wit_calls :
    (∃ g rd xd xa s s1 s2 s3 d a, ∃ k : Fin 4, Issues (taskInfo g [xd, xa] [rd]) s s1 ∧ Gives (readS xd) s1 d s2 ∧ Gives (readS xa) s2 a s3 ∧
      s3.me.vctx < 16 ∧ ¬Claim.boxOk s3 d ∧ k = 0) ∧
    (∃ g rd xd xa s s1 s2 s3 d a, ∃ k : Fin 4, Issues (taskInfo g [xd, xa] [rd]) s s1 ∧ Gives (readS xd) s1 d s2 ∧ Gives (readS xa) s2 a s3 ∧
      s3.me.vctx < 16 ∧ Claim.boxOk s3 d ∧ s3.me.replies.get k ≠ .empty) ∧
    (∃ g rd xd xa s s1 s2 s3 d a, ∃ k : Fin 4, Issues (taskInfo g [xd, xa] [rd]) s s1 ∧ Gives (readS xd) s1 d s2 ∧ Gives (readS xa) s2 a s3 ∧
      s3.me.vctx < 16 ∧ Claim.boxOk s3 d ∧ s3.me.replies.get k = .empty ∧ s3.foldReady s3.cc = true ∧ s3.myCore.sendq.length < 16) ∧
    (∃ g xd xa s s1 s2 s3 d a, ∃ k : Fin 4, Issues (taskInfo g [xd, xa] []) s s1 ∧ Gives (readS xd) s1 d s2 ∧ Gives (readS xa) s2 a s3 ∧
      Claim.boxOk s3 d ∧ s3.me.replies.get k = .empty ∧ s3.foldReady s3.cc = true ∧ s3.myCore.sendq.length < 16) ∧
    (∃ g xt xv s s1 s2 s3 t v, Issues (taskInfo g [xt, xv] []) s s1 ∧ Gives (readS xt) s1 t s2 ∧ Gives (readS xv) s2 v s3 ∧
      ¬(t.getLsbD 63 = true ∧ t.extractLsb' 22 41 = 0 ∧ t.extractLsb' 13 3 = 0)) ∧
    (∃ g xt xv s s1 s2 s3 t v, Issues (taskInfo g [xt, xv] []) s s1 ∧ Gives (readS xt) s1 t s2 ∧ Gives (readS xv) s2 v s3 ∧
      (t.getLsbD 63 = true ∧ t.extractLsb' 22 41 = 0 ∧ t.extractLsb' 13 3 = 0) ∧
      s3.holdsCore s3.myPart (t.extractLsb' 0 13).toNat = false) ∧
    (∃ g xt xv s s1 s2 s3 t v, Issues (taskInfo g [xt, xv] []) s s1 ∧ Gives (readS xt) s1 t s2 ∧ Gives (readS xv) s2 v s3 ∧
      (t.getLsbD 63 = true ∧ t.extractLsb' 22 41 = 0 ∧ t.extractLsb' 13 3 = 0) ∧
      s3.holdsCore s3.myPart (t.extractLsb' 0 13).toNat = true) :=
  ⟨⟨on, .x 1, .x 2, .x 3, sending 0x2000 0 0 0 .empty, _, _, _, _, _, 0, rfl, rfl, rfl, by decide, by unfold Claim.boxOk; decide, rfl⟩,
   ⟨on, .x 1, .x 2, .x 3, sending 0x1FFF 0 0 0 .pending, _, _, _, _, _, 3, rfl, rfl, rfl, by decide, by unfold Claim.boxOk; decide, by decide⟩,
   ⟨on, .x 1, .x 2, .x 3, sending 0x1FFF 0 0 15 .empty, _, _, _, _, _, 3, rfl, rfl, rfl, by decide, by unfold Claim.boxOk; decide, rfl, rfl,
    by decide⟩,
   ⟨on, .x 2, .x 3, sending 0x1FFF 0 0 15 .empty, _, _, _, _, _, 3, rfl, rfl, rfl, by unfold Claim.boxOk; decide, rfl, rfl, by decide⟩,
   ⟨on, .x 2, .x 3, sending 0x8000_0000_0040_0000 0 0 0 .empty, _, _, _, _, _, rfl, rfl, rfl, by decide⟩,
   ⟨on, .x 2, .x 3, xs3 0x8000_0000_003F_1FFF 0 0, _, _, _, _, _, rfl, rfl, rfl, by decide, by decide⟩,
   ⟨on, .x 2, .x 3, sending 0x8000_0000_003F_1FFF 0 0 0 .empty, _, _, _, _, _, rfl, rfl, rfl, by decide, by decide⟩⟩

/-- Context 0 has these events, mailbox 252 these messages, and its reply slots this. -/
def receiving (l : List (Word × Word)) (r : RSlot) : State := (sending 0 0 0 0 r).modCore 0 (fun y =>
  { y with mbox := [(252, { msgs := l })] }) |>.modCtx 0 0 (fun x => { x with events := l })

theorem wit_receives :
    (∃ g s s1, ∃ mb : Byte, Issues (taskInfo g [] []) s s1 ∧ mb = 253) ∧
    (∃ g s s1, ∃ mb : Byte, Issues (taskInfo g [] []) s s1 ∧ mb = 254 ∧ s1.me.events = []) ∧
    (∃ g s s1 w r, ∃ mb : Byte, Issues (taskInfo g [] []) s s1 ∧ mb = 254 ∧ s1.me.events = w :: r) ∧
    (∃ g s s1, ∃ mb : Byte, Issues (taskInfo g [] []) s s1 ∧ mb ≠ 253 ∧ mb ≠ 254 ∧ s1.foldReady s1.cc = true ∧
      (tgetD s1.myCore.mbox mb.toNat {}).msgs = []) ∧
    (∃ g s s1 w r, ∃ mb : Byte, Issues (taskInfo g [] []) s s1 ∧ mb ≠ 253 ∧ mb ≠ 254 ∧ s1.foldReady s1.cc = true ∧
      (tgetD s1.myCore.mbox mb.toNat {}).msgs = w :: r) ∧
    (∃ g rd s s1, ∃ k : Fin 4, Issues (taskInfo g [] [rd]) s s1 ∧ s1.me.replies.get k = .empty) ∧
    (∃ g rd s s1, ∃ k : Fin 4, Issues (taskInfo g [] [rd]) s s1 ∧ s1.me.replies.get k = .pending) ∧
    (∃ g rd s s1 v, ∃ k : Fin 4, Issues (taskInfo g [] [rd]) s s1 ∧ s1.me.replies.get k = .full v ∧
      Gives (checkS rd) (s1.modMe (fun x => { x with replies := x.replies.set k.val .empty k.isLt })) ()
        (s1.modMe (fun x => { x with replies := x.replies.set k.val .empty k.isLt }))) :=
  ⟨⟨on, s0, _, 253, rfl, rfl⟩, ⟨on, receiving [] .empty, _, 254, rfl, rfl, rfl⟩, ⟨on, receiving [(1, 2), (3, 4)] .empty, _, _, _, 254, rfl, rfl, rfl⟩,
   ⟨on, receiving [] .empty, _, 252, rfl, by decide, by decide, rfl, rfl⟩,
   ⟨on, receiving [(1, 2)] .empty, _, _, _, 252, rfl, by decide, by decide, rfl, rfl⟩,
   ⟨on, .x 1, receiving [] .empty, _, 3, rfl, rfl⟩, ⟨on, .x 1, receiving [] .pending, _, 3, rfl, rfl⟩,
   ⟨on, .x 1, receiving [] (.full 9), _, _, 3, rfl, rfl, rfl⟩⟩

/-- A message for mailbox 7 of core 1, where `n` messages wait; another of the same sender is before it when `early`. -/
def message : Msg := { part := 0, src := 0, sctx := 0, dst := 1, box := 7, w0 := 1, w1 := 2, sent := 0 }
/-- The network holds it. -/
def inNet (n : Nat) (early : Bool) : State := { (sending 0 0 0 3 .empty).modCore 1 (fun y =>
  { y with mbox := [(7, { msgs := List.replicate n (5, 6) })] }) with net := [.msg { message with src := if early then 0 else 2 }, .msg message] }

/-- A reply of 9 to slot 3 of core 0's context 0, which holds `r`, and waits for it with this. -/
def replied (r : RSlot) (p : Option Pend) : State := { (sending 0 0 0 0 r).modCtx 0 0 (fun x => { x with pend := p }) with net := [.reply 0 0 0 3 9] }

theorem wit_messageMoves :
    (∃ c e r, ∃ s : State, (s.core c).sendq = e :: r ∧ s.runs c = true) ∧
    (∃ i : Nat, ∃ (s : State) (m : Msg), s.net[i]? = some (NetItem.msg m) ∧ m.dst < 2 ^ 20 ∧ s.runs m.dst = true ∧ (s.core m.dst).partid = m.part ∧
      (s.part m.part).replay.mode = .off ∧ 4 ≤ (tgetD (s.core m.dst).mbox m.box {}).msgs.length) ∧
    (∃ i : Nat, ∃ (s : State) (m : Msg), s.net[i]? = some (NetItem.msg m) ∧ m.dst < 2 ^ 20 ∧ s.runs m.dst = true ∧ (s.core m.dst).partid = m.part ∧
      (s.part m.part).replay.mode = .off ∧
      ∃ j < i, ∃ n : Msg, s.net[j]? = some (NetItem.msg n) ∧ n.src = m.src ∧ n.sctx = m.sctx ∧ n.dst = m.dst ∧ n.box = m.box ∧ n.part = m.part) ∧
    (∃ i : Nat, ∃ (s : State) (m : Msg), s.net[i]? = some (NetItem.msg m) ∧ m.dst < 2 ^ 20 ∧ s.runs m.dst = true ∧ (s.core m.dst).partid = m.part ∧
      (s.part m.part).replay.mode = .off ∧ (tgetD (s.core m.dst).mbox m.box {}).msgs.length < 4 ∧
      ∀ j < i, ∀ n : Msg, s.net[j]? = some (NetItem.msg n) →
        ¬(n.src = m.src ∧ n.sctx = m.sctx ∧ n.dst = m.dst ∧ n.box = m.box ∧ n.part = m.part)) :=
  ⟨⟨0, _, _, sending 0 0 0 2 .empty, rfl, rfl⟩, ⟨1, inNet 4 false, message, rfl, by decide, rfl, rfl, rfl, by decide⟩,
   ⟨1, inNet 3 true, message, rfl, by decide, rfl, rfl, rfl, 0, by decide, _, rfl, rfl, rfl, rfl, rfl, rfl⟩,
   ⟨1, inNet 3 false, message, rfl, by decide, rfl, rfl, rfl, by decide, fun j hj n hn => by
      cases Nat.lt_one_iff.mp hj; cases Option.some.inj hn; decide⟩⟩

theorem wit_replies :
    (∃ i : Nat, ∃ part c v w j, ∃ (s : State) (k : Fin 4), s.net[i]? = some (NetItem.reply part c v k w) ∧ s.runs c = true ∧ (s.core c).partid = part ∧
      s.physOf c v = some j ∧ (s.ctx c j).replies.get k ≠ .pending) ∧
    (∃ i : Nat, ∃ part c v w j, ∃ (s : State) (k : Fin 4) (p : Pend) (r : Fin 32), s.net[i]? = some (NetItem.reply part c v k w) ∧ s.runs c = true ∧
      (s.core c).partid = part ∧ s.physOf c v = some j ∧ (s.ctx c j).replies.get k = .pending ∧ (s.ctx c j).pend = some p ∧
      p.kind = .rcall k (.x r) ∧ p.reserve = []) ∧
    (∃ i : Nat, ∃ part c v w j, ∃ (s : State) (k : Fin 4), s.net[i]? = some (NetItem.reply part c v k w) ∧ s.runs c = true ∧ (s.core c).partid = part ∧
      s.physOf c v = some j ∧ (s.ctx c j).replies.get k = .pending ∧ (s.ctx c j).pend = none) :=
  ⟨⟨0, _, _, _, _, _, replied .empty none, _, rfl, rfl, rfl, rfl, by decide⟩,
   ⟨0, _, _, _, _, _, replied .pending (some { kind := .rcall 3 (.x 31) }), _, _, 31, rfl, rfl, rfl, rfl, rfl, rfl, rfl, rfl⟩,
   ⟨0, _, _, _, _, _, replied .pending none, _, rfl, rfl, rfl, rfl, rfl, rfl⟩⟩

/-- x2 and x3 hold these words; context 0's memberships are `bsm`; set 5 is this. -/
def gathered (a b : Word) (bsm : BitVec 32) (o : Option BarSet) : State := ((xs3 a b 0).modPart 0 (fun p =>
  { p with sets := match o with | some b => [(5, b)] | none => [] })).modCtx 0 0 (fun x => { x with bsm })

/-- A set of two members at group scope, of cluster 1. -/
def pair1 : BarSet := { n := 2, scope := .group, cl := 1, members := [(16, (false, 0))] }

theorem wit_barrierSets :
    (∃ b : BarSet, b.arr + 1 = b.n) ∧ (∃ b : BarSet, b.arr + 1 ≠ b.n) ∧ (∃ b : BarSet, b.n = 1) ∧
    (∃ (b : BarSet) (m : Nat), 1 < b.n ∧ b.arrived m = false ∧ b.arr = b.n - 1) :=
  ⟨⟨{ pair1 with arr := 1 }, rfl⟩, ⟨pair1, by decide⟩, ⟨{ pair1 with n := 1 }, rfl⟩,
   ⟨{ pair1 with arr := 1, members := [(16, (false, 0)), (17, (true, 0))] }, 16, by decide, by decide, rfl⟩⟩

theorem wit_joins :
    (∃ g xs xc s s1 s2 s3 n c, Issues (tableInfo g [xs, xc] []) s s1 ∧ Gives (readS xs) s1 n s2 ∧ Gives (readS xc) s2 c s3 ∧
      128 ≤ n.toNat) ∧
    (∃ g xs xc s s1 s2 s3 n c, Issues (tableInfo g [xs, xc] []) s s1 ∧ Gives (readS xs) s1 n s2 ∧ Gives (readS xc) s2 c s3 ∧
      n.toNat < 128 ∧ ¬(c &&& ~~~0x33_FFFF = 0 ∧ (c.extractLsb' 0 18).toNat ≠ 0 ∧ (c.extractLsb' 0 18).toNat ≤ 131072 ∧
        c.extractLsb' 20 2 ≠ 3)) ∧
    (∃ g xs xc s s1 s2 s3 n c, Issues (tableInfo g [xs, xc] []) s s1 ∧ Gives (readS xs) s1 n s2 ∧ Gives (readS xc) s2 c s3 ∧
      n.toNat < 128 ∧ (c &&& ~~~0x33_FFFF = 0 ∧ (c.extractLsb' 0 18).toNat ≠ 0 ∧ (c.extractLsb' 0 18).toNat ≤ 131072 ∧
        c.extractLsb' 20 2 ≠ 3) ∧ bsmFree (s3.ctx s3.cc s3.joiner).bsm = none) ∧
    (∃ g xs xc s s1 s2 s3 n c j b, Issues (tableInfo g [xs, xc] []) s s1 ∧ Gives (readS xs) s1 n s2 ∧ Gives (readS xc) s2 c s3 ∧
      n.toNat < 128 ∧ (c &&& ~~~0x33_FFFF = 0 ∧ (c.extractLsb' 0 18).toNat ≠ 0 ∧ (c.extractLsb' 0 18).toNat ≤ 131072 ∧
        c.extractLsb' 20 2 ≠ 3) ∧ bsmFind (s3.ctx s3.cc s3.joiner).bsm n.toNat = none ∧
      bsmFree (s3.ctx s3.cc s3.joiner).bsm = some j ∧ s3.barSet s3.myPart n.toNat = some b ∧ b.n ≠ (c.extractLsb' 0 18).toNat) ∧
    (∃ g xs xc s s1 s2 s3 n c j b, Issues (tableInfo g [xs, xc] []) s s1 ∧ Gives (readS xs) s1 n s2 ∧ Gives (readS xc) s2 c s3 ∧
      n.toNat < 128 ∧ (c &&& ~~~0x33_FFFF = 0 ∧ (c.extractLsb' 0 18).toNat ≠ 0 ∧ (c.extractLsb' 0 18).toNat ≤ 131072 ∧
        c.extractLsb' 20 2 ≠ 3) ∧ bsmFind (s3.ctx s3.cc s3.joiner).bsm n.toNat = none ∧
      bsmFree (s3.ctx s3.cc s3.joiner).bsm = some j ∧ s3.barSet s3.myPart n.toNat = some b ∧ b.n = (c.extractLsb' 0 18).toNat ∧
      c.extractLsb' 20 2 = 0 ∧ b.members.length ≠ b.n ∧ b.scope = .group ∧ b.cl ≠ s3.clusterOf s3.cc) ∧
    (∃ g xs xc s s1 s2 s3 n c j, Issues (tableInfo g [xs, xc] []) s s1 ∧ Gives (readS xs) s1 n s2 ∧ Gives (readS xc) s2 c s3 ∧
      n.toNat < 128 ∧ (c &&& ~~~0x33_FFFF = 0 ∧ (c.extractLsb' 0 18).toNat ≠ 0 ∧ (c.extractLsb' 0 18).toNat ≤ 131072 ∧
        c.extractLsb' 20 2 ≠ 3) ∧ bsmFind (s3.ctx s3.cc s3.joiner).bsm n.toNat = none ∧
      bsmFree (s3.ctx s3.cc s3.joiner).bsm = some j ∧ s3.barSet s3.myPart n.toNat = none) :=
  ⟨⟨on, .x 2, .x 3, gathered 128 2 0 none, _, _, _, _, _, rfl, rfl, rfl, by decide⟩,
   ⟨on, .x 2, .x 3, gathered 127 0x20001 0 none, _, _, _, _, _, rfl, rfl, rfl, by decide, by decide⟩,
   ⟨on, .x 2, .x 3, gathered 127 0x20000 0x84838281 none, _, _, _, _, _, rfl, rfl, rfl, by decide, by decide, rfl⟩,
   ⟨on, .x 2, .x 3, gathered 5 3 0x00838281 (some pair1), _, _, _, _, _, _, _, rfl, rfl, rfl, by decide, by decide, rfl, rfl, rfl, by decide⟩,
   ⟨on, .x 2, .x 3, gathered 5 2 0x00838281 (some pair1), _, _, _, _, _, _, _, rfl, rfl, rfl, by decide, by decide, rfl, rfl, rfl, rfl, rfl, by decide,
    rfl, by decide⟩,
   ⟨on, .x 2, .x 3, gathered 127 0x20_0001 0 none, _, _, _, _, _, _, rfl, rfl, rfl, by decide, by decide, rfl, rfl, rfl⟩⟩

/-- Set 5 has two members, context 0 of core 0 in slot 2 among them; the first `arrived`; the phase is this. -/
def waiting (arrived : Bool) (ph : BitVec 32) (b : CtlBlock) : State :=
  let o : BarSet :=
    { n := 2, scope := .group, cl := 0, arr := if arrived then 1 else 0, ph := ph, members := [(0, (arrived, ph)), (16, (false, 0))] }
  (gathered 5 ph.toNat 0x00850000 (some o)).modCtx 0 0 (fun x => { x with live := b })

theorem wit_leaves :
    (∃ g xs s s1 s2 n, Issues (tableInfo g [xs] []) s s1 ∧ Gives (readS xs) s1 n s2 ∧ 128 ≤ n.toNat) ∧
    (∃ g xs s s1 s2 n, Issues (tableInfo g [xs] []) s s1 ∧ Gives (readS xs) s1 n s2 ∧ n.toNat < 128 ∧
      bsmFind (s2.ctx s2.cc s2.joiner).bsm n.toNat = none) ∧
    (∃ g xs s s1 s2 n j b c, Issues (tableInfo g [xs] []) s s1 ∧ Gives (readS xs) s1 n s2 ∧ n.toNat < 128 ∧
      bsmFind (s2.ctx s2.cc s2.joiner).bsm n.toNat = some j ∧ s2.barSet s2.myPart n.toNat = some b ∧
      b.leave (ctxKey s2.cc (s2.ctx s2.cc s2.joiner).vctx) = some c) :=
  ⟨⟨on, .x 2, gathered 128 0 0 none, _, _, _, rfl, rfl, by decide⟩, ⟨on, .x 2, gathered 127 0 0 none, _, _, _, rfl, rfl, by decide, rfl⟩,
   ⟨on, .x 2, waiting false 7 {}, _, _, _, _, _, _, rfl, rfl, by decide, rfl, rfl, rfl⟩⟩

theorem wit_arrivals :
    (∃ g rd s s1, ∃ k : Fin 4, Issues (tableInfo g [] [rd]) s s1 ∧ bsmSlot (s1.ctx s1.cc s1.joiner).bsm k.val = none) ∧
    (∃ g rd s s1 n b, ∃ k : Fin 4, Issues (tableInfo g [] [rd]) s s1 ∧ Gives (slotSet k) s1 (n, b) s1 ∧ Gives (checkS rd) s1 () s1 ∧
      b.arrived (ctxKey s1.cc (s1.ctx s1.cc s1.joiner).vctx) = true) ∧
    (∃ g rd s s1 n b, ∃ k : Fin 4, Issues (tableInfo g [] [rd]) s s1 ∧ Gives (slotSet k) s1 (n, b) s1 ∧ Gives (checkS rd) s1 () s1 ∧
      b.arrived (ctxKey s1.cc (s1.ctx s1.cc s1.joiner).vctx) = false ∧
      s1.mem.reached (s1.agentOf s1.cc s1.ck) b.scope (s1.groupOf (s1.agentOf s1.cc s1.ck)) (fun _ => true) = false) ∧
    (∃ g rd s s1 n b, ∃ k : Fin 4, Issues (tableInfo g [] [rd]) s s1 ∧ Gives (slotSet k) s1 (n, b) s1 ∧ Gives (checkS rd) s1 () s1 ∧
      b.arrived (ctxKey s1.cc (s1.ctx s1.cc s1.joiner).vctx) = false ∧
      s1.mem.reached (s1.agentOf s1.cc s1.ck) b.scope (s1.groupOf (s1.agentOf s1.cc s1.ck)) (fun _ => true) = true ∧
      s1.me.live.barw = false ∧ (b.arrive (ctxKey s1.cc (s1.ctx s1.cc s1.joiner).vctx)).past b.ph = false) ∧
    (∃ g xp s s1 s2 n b p, ∃ k : Fin 4, Issues (tableInfo g [xp] []) s s1 ∧ Gives (slotSet k) s1 (n, b) s1 ∧ Gives (readS xp) s1 p s2 ∧
      b.past (p.setWidth 32) = false) ∧
    (∃ g xp s s1 s2 n b p, ∃ k : Fin 4, Issues (tableInfo g [xp] []) s s1 ∧ Gives (slotSet k) s1 (n, b) s1 ∧ Gives (readS xp) s1 p s2 ∧
      b.past (p.setWidth 32) = true) ∧
    (∃ g xp rd s s1 s2 n b p, ∃ k : Fin 4, Issues (tableInfo g [xp] []) s s1 ∧ Gives (slotSet k) s1 (n, b) s1 ∧ Gives (readS xp) s1 p s2 ∧
      s1.me.live.barw = true ∧ b.past s1.me.live.phase = true ∧ Issues (tableInfo g [] [.x rd]) s s1) :=
  ⟨⟨on, .x 1, waiting false 7 {}, _, 3, rfl, rfl⟩, ⟨on, .x 1, waiting true 7 {}, _, _, _, 2, rfl, rfl, rfl, by decide⟩,
   ⟨on, .x 1, { waiting false 7 {} with mem := (ordering (.value [])).mem }, _, _, _, 2, rfl, rfl, rfl, by decide, by decide⟩,
   ⟨on, .x 1, waiting false 7 {}, _, _, _, 2, rfl, rfl, rfl, by decide, by decide, rfl, by decide⟩,
   ⟨on, .x 3, waiting true 7 {}, _, _, _, _, _, 2, rfl, rfl, rfl, by decide⟩,
   ⟨on, .zero, waiting true 0x7FFFFFFF {}, _, _, _, _, _, 2, rfl, rfl, rfl, by decide⟩,
   ⟨on, .zero, 1, waiting false 0 { barw := true, phase := 0xFFFFFFFF }, _, _, _, _, _, 2, rfl, rfl, rfl, rfl, by decide, rfl⟩⟩

theorem wit_binds :
    (∃ g rd xb xl xs s s1 s2 s3 s4 b l y, Issues (tableInfo g [xb, xl, xs] [rd]) s s1 ∧ Gives (readS xb) s1 b s2 ∧ Gives (readS xl) s2 l s3 ∧
      Gives (readS xs) s3 y s4 ∧ b.extractLsb' 60 4 ∉ [0, 8, 10, 11]) ∧
    (∃ g rd xb xl xs s s1 s2 s3 s4 b l y, Issues (tableInfo g [xb, xl, xs] [rd]) s s1 ∧ Gives (readS xb) s1 b s2 ∧ Gives (readS xl) s2 l s3 ∧
      Gives (readS xs) s3 y s4 ∧ b.toNat < 2 ^ 56 ∧ b.toNat % 64 = 0 ∧ l = 0) ∧
    (∃ g rd xb xl xs s s1 s2 s3 s4 b l y, Issues (tableInfo g [xb, xl, xs] [rd]) s s1 ∧ Gives (readS xb) s1 b s2 ∧ Gives (readS xl) s2 l s3 ∧
      Gives (readS xs) s3 y s4 ∧ b.toNat + l.toNat ≤ 2 ^ 56 ∧ b.toNat % 64 = 0 ∧ l.toNat % 64 = 0 ∧ l ≠ 0 ∧ y.toNat + 8 ≤ 2 ^ 56 ∧
      y.toNat % 8 ≠ 0) ∧
    (∃ g rd xb xl xs s s1 s2 s3 s4 b l y e, Issues (tableInfo g [xb, xl, xs] [rd]) s s1 ∧ Gives (readS xb) s1 b s2 ∧ Gives (readS xl) s2 l s3 ∧
      Gives (readS xs) s3 y s4 ∧ Gives (bindCheck b l y) s4 e s4 ∧ Gives (checkS rd) s4 () s4 ∧ b.toNat + l.toNat ≤ 2 ^ 56 ∧
      b.toNat % 64 = 0 ∧ l.toNat % 64 = 0 ∧ l ≠ 0 ∧ y.toNat + 8 ≤ 2 ^ 56 ∧ y.toNat % 8 = 0) ∧
    (∃ g xi s s1 s2 i, Issues (tableInfo g [xi] []) s s1 ∧ Gives (readS xi) s1 i s2 ∧ 256 ≤ i.toNat) ∧
    (∃ g xi s s1 s2 i, Issues (tableInfo g [xi] []) s s1 ∧ Gives (readS xi) s1 i s2 ∧ i.toNat < 256) :=
  ⟨⟨on, .x 1, .x 2, .x 3, .x 4, xs3 0x9000_0000_0000_0000 64 0, _, _, _, _, _, _, _, rfl, rfl, rfl, rfl, by decide⟩,
   ⟨on, .x 1, .x 2, .x 3, .x 4, xs3 64 0 0, _, _, _, _, _, _, _, rfl, rfl, rfl, rfl, by decide, by decide, rfl⟩,
   ⟨on, .x 1, .x 2, .x 3, .x 4, xs3 0xFF_FFFF_FFFF_FFC0 64 4, _, _, _, _, _, _, _, rfl, rfl, rfl, rfl, by decide, by decide, by decide, by decide,
    by decide, by decide⟩,
   ⟨on, .x 1, .x 2, .x 3, .x 4, xs3 0xFF_FFFF_FFFF_FFC0 64 0xFF_FFFF_FFFF_FFF8, _, _, _, _, _, _, _, _, rfl, rfl, rfl, rfl, rfl, rfl, by decide,
    by decide, by decide, by decide, by decide, by decide⟩,
   ⟨on, .x 2, xs3 256 0 0, _, _, _, rfl, rfl, by decide⟩, ⟨on, .x 2, xs3 255 0 0, _, _, _, rfl, rfl, by decide⟩⟩

/-- Partition 0's table holds this at entry 0 and in `n` entries; context 0 waits for this change. -/
def binding (n : Nat) (e : Option Binding) : State := ((loading (.bind (.x 1))).modPart 0 (fun p => { p with
  binds := (List.range n).map (fun i => (i, { base := BitVec.ofNat 64 (64 * i), len := 64, sync := 0 })), bindNew := [{ core := 0, ctx := 0, entry := e, idx := 0 }] }))

theorem wit_bindingChanges :
    (∃ part, ∃ i : Nat, ∃ rd, ∃ (s : State) (b : BindChange) (p : Pend), (s.part part).bindNew[i]? = some b ∧ b.live = true ∧
      (s.ctx b.core b.ctx).pend = some p ∧ p.kind = .bind rd ∧ b.entry = none) ∧
    (∃ part, ∃ i : Nat, ∃ rd e, ∃ (s : State) (b : BindChange) (p : Pend), (s.part part).bindNew[i]? = some b ∧ b.live = true ∧
      (s.ctx b.core b.ctx).pend = some p ∧ p.kind = .bind rd ∧ b.entry = some e ∧
      ∃ o ∈ (s.part part).binds, o.2.base.toNat < e.base.toNat + e.len ∧ e.base.toNat < o.2.base.toNat + o.2.len) ∧
    (∃ part, ∃ i : Nat, ∃ rd e, ∃ (s : State) (b : BindChange) (p : Pend), (s.part part).bindNew[i]? = some b ∧ b.live = true ∧
      (s.ctx b.core b.ctx).pend = some p ∧ p.kind = .bind rd ∧ b.entry = some e ∧
      (∀ o ∈ (s.part part).binds, ¬(o.2.base.toNat < e.base.toNat + e.len ∧ e.base.toNat < o.2.base.toNat + o.2.len)) ∧
      ∀ j < 256, tget (s.part part).binds j ≠ none) ∧
    (∃ part, ∃ i : Nat, ∃ rd e, ∃ (s : State) (b : BindChange) (p : Pend), ∃ j < 256, (s.part part).bindNew[i]? = some b ∧ b.live = true ∧
      (s.ctx b.core b.ctx).pend = some p ∧ p.kind = .bind rd ∧ b.entry = some e ∧
      (∀ o ∈ (s.part part).binds, ¬(o.2.base.toNat < e.base.toNat + e.len ∧ e.base.toNat < o.2.base.toNat + o.2.len)) ∧
      tget (s.part part).binds j = none ∧ ∀ k < j, tget (s.part part).binds k ≠ none) :=
  ⟨⟨0, 0, _, binding 3 none, _, _, rfl, rfl, rfl, rfl, rfl⟩,
   ⟨0, 0, _, _, binding 3 (some { base := 0x80, len := 64, sync := 0 }), _, _, rfl, rfl, rfl, rfl, rfl, _, List.mem_cons_of_mem _ (List.mem_cons_of_mem _ List.mem_cons_self),
    by decide, by decide⟩,
   ⟨0, 0, _, _, binding 256 (some { base := 0x4000, len := 64, sync := 0 }), _, _, rfl, rfl, rfl, rfl, rfl, by decide, by decide⟩,
   ⟨0, 0, _, _, binding 3 (some { base := 0xC0, len := 64, sync := 0 }), _, _, 3, by decide, rfl, rfl, rfl, rfl, rfl, by decide, rfl, by decide⟩⟩

/-- x2 and x3 hold these words; core `c` is die 0's allocator core of partition 0, which has started. -/
def allocating (a b : Word) (c : Nat) : State := ((xs3 a b 0).modPart 0 (fun p => { p with started := true })).modDie 0 (fun d =>
  { d with alloc := d.alloc.set 0 (some c) })

theorem wit_slotTable :
    (∃ e ∈ Claim.slotWords, ∃ g xp xv s s1 s2 s3 p v, Issues (tableInfo g [xp, xv] []) s s1 ∧ Gives (readS xp) s1 p s2 ∧
      Gives (readS xv) s2 v s3 ∧ ¬(p &&& ~~~0x1FFF_00FF_1FFF = 0) ∧ e = e) ∧
    (∃ e ∈ Claim.slotWords, ∃ g xp xv s s1 s2 s3 p v, Issues (tableInfo g [xp, xv] []) s s1 ∧ Gives (readS xp) s1 p s2 ∧
      Gives (readS xv) s2 v s3 ∧ p &&& ~~~0x1FFF_00FF_1FFF = 0 ∧
      ¬(s3.cc < 8192 ∧ ((s3.die (s3.cc / 256)).alloc.toList[s3.myPart]?.getD none) = some (s3.cc % 256) ∧ (p.extractLsb' 8 5).toNat = s3.cc / 256) ∧
      e = e) ∧
    (∃ e ∈ Claim.slotWords, ∃ g xp xv s s1 s2 s3 p v, Issues (tableInfo g [xp, xv] []) s s1 ∧ Gives (readS xp) s1 p s2 ∧
      Gives (readS xv) s2 v s3 ∧ p &&& ~~~0x1FFF_00FF_1FFF = 0 ∧
      (s3.cc < 8192 ∧ ((s3.die (s3.cc / 256)).alloc.toList[s3.myPart]?.getD none) = some (s3.cc % 256) ∧ (p.extractLsb' 8 5).toNat = s3.cc / 256) ∧
      ¬(e.2.2 = 3 ∨ s3.holdsCore s3.myPart (placeCore p) = true)) ∧
    (∃ e ∈ Claim.slotWords, ∃ g xp xv s s1 s2 s3 p v, Issues (tableInfo g [xp, xv] []) s s1 ∧ Gives (readS xp) s1 p s2 ∧
      Gives (readS xv) s2 v s3 ∧ p &&& ~~~0x1FFF_00FF_1FFF = 0 ∧
      (s3.cc < 8192 ∧ ((s3.die (s3.cc / 256)).alloc.toList[s3.myPart]?.getD none) = some (s3.cc % 256) ∧ (p.extractLsb' 8 5).toNat = s3.cc / 256) ∧
      (e.2.2 = 3 ∨ s3.holdsCore s3.myPart (placeCore p) = true) ∧ ¬Claim.slotValue s3 e.2.2 p v) ∧
    (∃ e ∈ Claim.slotWords, ∃ g xp xv s s1 s2 s3 p v, Issues (tableInfo g [xp, xv] []) s s1 ∧ Gives (readS xp) s1 p s2 ∧
      Gives (readS xv) s2 v s3 ∧ p &&& ~~~0x1FFF_00FF_1FFF = 0 ∧
      (s3.cc < 8192 ∧ ((s3.die (s3.cc / 256)).alloc.toList[s3.myPart]?.getD none) = some (s3.cc % 256) ∧ (p.extractLsb' 8 5).toNat = s3.cc / 256) ∧
      (e.2.2 = 3 ∨ s3.holdsCore s3.myPart (placeCore p) = true) ∧ Claim.slotValue s3 e.2.2 p v) ∧
    (∃ e ∈ Claim.slotWords, ∃ g rd xp s s1 s2 p, Issues (tableInfo g [xp] [rd]) s s1 ∧ Gives (readS xp) s1 p s2 ∧
      p &&& ~~~0x1FFF_00FF_1FFF ≠ 0 ∧ e = e) ∧
    (∃ e ∈ Claim.slotWords, ∃ g rd xp s s1 s2 p, Issues (tableInfo g [xp] [rd]) s s1 ∧ Gives (readS xp) s1 p s2 ∧
      p &&& ~~~0x1FFF_00FF_1FFF = 0 ∧ (e.2.2 = 3 ∨ s2.holdsCore s2.myPart (placeCore p) = true) ∧ Gives (checkS rd) s2 () s2) :=
  ⟨⟨_, List.mem_cons_self, on, .x 2, .x 3, allocating 0x2000 0 0, _, _, _, _, _, rfl, rfl, rfl, by decide, rfl⟩,
   ⟨_, List.mem_cons_self, on, .x 2, .x 3, allocating 0x1FFF_00FF_00FF 0 1, _, _, _, _, _, rfl, rfl, rfl, by decide, by decide, rfl⟩,
   ⟨_, List.mem_cons_self, on, .x 2, .x 3, (allocating 0x00FF 0 0).modCore 255 (fun y => { y with partid := 1 }), _, _, _, _, _, rfl, rfl, rfl, by decide, by decide,
    by decide⟩,
   ⟨_, .tail _ (.tail _ (.tail _ (.head _))), on, .x 2, .x 3, allocating 0 0x10000 0, _, _, _, _, _, rfl, rfl, rfl, by decide, by decide, .inl rfl,
    by change ¬(_ < 2 ^ 16); decide⟩,
   ⟨_, .tail _ (.tail _ (.tail _ (.head _))), on, .x 2, .x 3, allocating 0 0xFFFF 0, _, _, _, _, _, rfl, rfl, rfl, by decide, by decide, .inl rfl,
    by change _ < 2 ^ 16; decide⟩,
   ⟨_, List.mem_cons_self, on, .x 1, .x 2, allocating 0x2000_0000_0000 0 0, _, _, _, rfl, rfl, by decide, rfl⟩,
   ⟨_, List.mem_cons_self, on, .x 1, .x 2, allocating 0x1FFF_00FF_1FFF 0 0, _, _, _, rfl, rfl, by decide, by decide, rfl⟩⟩

/-- Context 0's change of slot 3's word B on core 0 is pending; its word A is this. -/
def changing (a : Word) (k : PendKind) : State := { (loading k).modCore 0 (fun y => { y with slots := [(3, { a, b := 8 })] }) with
  slotNew := [{ core := 0, ctx := 0, place := 0x30000, sel := 1, v := 16 }] }

theorem wit_slotChanges :
    (∃ i : Nat, ∃ (s : State) (b : SlotChange) (p : Pend), s.slotNew[i]? = some b ∧ b.live = true ∧ (s.ctx b.core b.ctx).pend = some p ∧
      p.kind = .slotw ∧ s.slotBusy b = false ∧ b.sel < 2 ∧ s.slotOk b.sel (placeCore b.place) (placeSlot b.place) (s.core b.core).partid b.v = true) ∧
    (∃ i : Nat, ∃ (s : State) (b : SlotChange) (p : Pend), s.slotNew[i]? = some b ∧ b.live = true ∧ (s.ctx b.core b.ctx).pend = some p ∧
      p.kind = .slotw ∧ s.slotBusy b = false ∧ b.sel < 2 ∧ s.slotOk b.sel (placeCore b.place) (placeSlot b.place) (s.core b.core).partid b.v = false) ∧
    (∃ i : Nat, ∃ (s : State) (b : SlotChange) (p : Pend), s.slotNew[i]? = some b ∧ b.live = true ∧ (s.ctx b.core b.ctx).pend = some p ∧
      p.kind = .slotw ∧ s.slotBusy b = true) :=
  ⟨⟨0, changing 0 .slotw, _, _, rfl, rfl, rfl, rfl, by decide, by decide, by decide⟩,
   ⟨0, changing 0x8000_0000 .slotw, _, _, rfl, rfl, rfl, rfl, by decide, by decide, by decide⟩,
   ⟨0, (changing 1 .slotw).modCtx 5 1 (fun x => { x with pend := some { kind := .acq .group 0 8 .zero } }), _, _, rfl, rfl, rfl, rfl, by decide⟩⟩

/-- Partition 0 has started; its stream 16383 is this; x2 names it and x3 holds this word. -/
def streaming (b : Word) (st : Stream) : State := { (xs3 16383 b 0).modPart 0 (fun p => { p with started := true, resident := true }) with
  streams := [(16383, st)] }
/-- An open stream of partition 0. -/
def flow : Stream := { part := 0, endpoint := 1, opened := true }

/-- A snapshot stands at position 5. -/
def snapped : Stream := { flow with gnc := 5, snaps := flow.snaps.set 0 (some 5) }

theorem wit_streamReads :
    (∃ f ∈ Claim.streamReads, ∃ g rd xs s s1 s2 v, Issues (taskInfo g [xs] [rd]) s s1 ∧ Gives (readS xs) s1 v s2 ∧ 2 ^ 14 ≤ v.toNat ∧ f = f) ∧
    (∃ f ∈ Claim.streamReads, ∃ g rd xs s s1 s2 v st, Issues (taskInfo g [xs] [rd]) s s1 ∧ Gives (readS xs) s1 v s2 ∧ v.toNat < 2 ^ 14 ∧
      s2.stream? v.toNat = some st ∧ st.opened = false ∧ f = f) ∧
    (∃ g rd xs s s1 s2 v st, Issues (taskInfo g [xs] [rd]) s s1 ∧ Gives (readS xs) s1 v s2 ∧ Claim.openStream s2 v st ∧
      Gives (checkS rd) s2 () s2 ∧ (∀ f ∈ st.gap, f.seq ≠ st.nseq) ∧ st.avail = []) ∧
    (∃ g rd xs s s1 s2 v st j r, Issues (taskInfo g [xs] [rd]) s s1 ∧ Gives (readS xs) s1 v s2 ∧ Claim.openStream s2 v st ∧
      Gives (checkS rd) s2 () s2 ∧ (∀ f ∈ st.gap, f.seq ≠ st.nseq) ∧ st.avail = j :: r) ∧
    (∃ g rd xs xv s s1 s2 s3 v e st, Issues (taskInfo g [xs, xv] [rd]) s s1 ∧ Gives (readS xs) s1 v s2 ∧ Gives (readS xv) s2 e s3 ∧
      Claim.openStream s3 v st ∧ Gives (checkS rd) s3 () s3 ∧ st.tpPend = false ∧ 64 ≤ st.gnc - st.pbc) ∧
    (∃ f ∈ Claim.cursors, ∃ g rd xs s s1 s2 v st, Issues (taskInfo g [xs] [rd]) s s1 ∧ Gives (readS xs) s1 v s2 ∧ Claim.openStream s2 v st ∧
      Gives (checkS rd) s2 () s2 ∧ f.2 st = 5) ∧
    (∃ g rd xs xp s s1 s2 s3 v p st, Issues (taskInfo g [xs, xp] [rd]) s s1 ∧ Gives (readS xs) s1 v s2 ∧ Gives (readS xp) s2 p s3 ∧
      Claim.openStream s3 v st ∧ ¬(p.toNat < 2 ^ 32 ∧ p.toNat ≤ st.gnc ∧ (st.snap st.newest).getD 0 ≤ p.toNat)) ∧
    (∃ g rd xs xp s s1 s2 s3 v p st, Issues (taskInfo g [xs, xp] [rd]) s s1 ∧ Gives (readS xs) s1 v s2 ∧ Gives (readS xp) s2 p s3 ∧
      Claim.openStream s3 v st ∧ (p.toNat < 2 ^ 32 ∧ p.toNat ≤ st.gnc ∧ (st.snap st.newest).getD 0 ≤ p.toNat) ∧ Gives (checkS rd) s3 () s3) :=
  ⟨⟨_, List.mem_cons_self, on, .x 1, .x 2, xs3 16384 0 0, _, _, _, rfl, rfl, by decide, rfl⟩,
   ⟨_, List.mem_cons_self, on, .x 1, .x 2, streaming 0 { flow with opened := false }, _, _, _, _, rfl, rfl, by decide, rfl, rfl, rfl⟩,
   ⟨on, .x 1, .x 2, streaming 0 flow, _, _, _, _, rfl, rfl, ⟨by decide, rfl, rfl, rfl⟩, rfl, nofun, rfl⟩,
   ⟨on, .x 1, .x 2, streaming 0 { flow with avail := [63, 0] }, _, _, _, _, _, _, rfl, rfl, ⟨by decide, rfl, rfl, rfl⟩, rfl, nofun, rfl⟩,
   ⟨on, .x 1, .x 2, .x 3, streaming 0 { flow with gnc := 64 }, _, _, _, _, _, _, rfl, rfl, rfl, ⟨by decide, rfl, rfl, rfl⟩, rfl, rfl, by decide⟩,
   ⟨_, List.mem_cons_self, on, .x 1, .x 2, streaming 0 { flow with gnc := 5 }, _, _, _, _, rfl, rfl, ⟨by decide, rfl, rfl, rfl⟩, rfl, rfl⟩,
   ⟨on, .x 1, .x 2, .x 3, streaming 6 { flow with gnc := 5 }, _, _, _, _, _, _, rfl, rfl, rfl, ⟨by decide, rfl, rfl, rfl⟩, by decide⟩,
   ⟨on, .x 1, .x 2, .x 3, streaming 5 snapped, _, _, _, _, _, _, rfl, rfl, rfl,
    ⟨by decide, rfl, rfl, rfl⟩, by decide, rfl⟩⟩

/-- Three snapshots, two of them at one position, and a truncation at `p`. -/
def truncated (p : Nat) (late : Bool) (kvb : Word) : Stream :=
  { flow with
    gnc := 50, out := [(1, 7), (6, 8)], tpPend := true, tpLate := late, tpPos := p, kvb := kvb, claim := [1, 0, 15], newest := 15,
    snaps := ((flow.snaps.set 0 (some 3)).set 1 (some 3)).set 15 (some 9) }

theorem wit_truncations :
    (∃ g rd xs s s1 s2 v st, Issues (taskInfo g [xs] [rd]) s s1 ∧ Gives (readS xs) s1 v s2 ∧ Claim.openStream s2 v st ∧
      Gives (checkS rd) s2 () s2 ∧ st.tpPend = false) ∧
    (∃ g rd xs s s1 s2 v st, Issues (taskInfo g [xs] [rd]) s s1 ∧ Gives (readS xs) s1 v s2 ∧ Claim.openStream s2 v st ∧
      Gives (checkS rd) s2 () s2 ∧ st.tpPend = true ∧ st.kvb.getLsbD 63 = false ∧ ∀ j < 16, ∀ q, st.snap j = some q → st.tpPos < q) ∧
    (∃ g rd xs s s1 s2 v st j q, Issues (taskInfo g [xs] [rd]) s s1 ∧ Gives (readS xs) s1 v s2 ∧ Claim.openStream s2 v st ∧
      Gives (checkS rd) s2 () s2 ∧ st.tpPend = true ∧ st.kvb.getLsbD 63 = false ∧ st.tpLate = false ∧ j < 16 ∧ st.snap j = some q ∧
      q ≤ st.tpPos ∧ ∀ k < 16, ∀ r, st.snap k = some r → r ≤ st.tpPos → r < q ∨ (r = q ∧ (k = j ∨ st.claim.idxOf k < st.claim.idxOf j))) ∧
    (∃ g rd xs s s1 s2 v st, Issues (taskInfo g [xs] [rd]) s s1 ∧ Gives (readS xs) s1 v s2 ∧ Claim.openStream s2 v st ∧
      Gives (checkS rd) s2 () s2 ∧ st.tpPend = true ∧ st.kvb.getLsbD 63 = true) :=
  ⟨⟨on, .x 1, .x 2, streaming 0 flow, _, _, _, _, rfl, rfl, ⟨by decide, rfl, rfl, rfl⟩, rfl, rfl⟩,
   ⟨on, .x 1, .x 2, streaming 0 (truncated 2 false 0), _, _, _, _, rfl, rfl, ⟨by decide, rfl, rfl, rfl⟩, rfl, rfl, rfl, fun j hj q hq => by
      have h : ∀ j < 16, ∀ q ∈ (truncated 2 false 0).snap j, 2 < q := by decide
      exact h j hj q hq⟩,
   ⟨on, .x 1, .x 2, streaming 0 (truncated 3 false 0), _, _, _, _, 0, 3, rfl, rfl, ⟨by decide, rfl, rfl, rfl⟩, rfl, rfl, rfl, rfl, by decide, rfl,
    by decide, fun k hk r hr hp => by
      have h : ∀ k < 16, ∀ r ∈ (truncated 3 false 0).snap k, r ≤ 3 →
          r < 3 ∨ (r = 3 ∧ (k = 0 ∨ (truncated 3 false 0).claim.idxOf k < (truncated 3 false 0).claim.idxOf 0)) := by decide
      exact h k hk r hr hp⟩,
   ⟨on, .x 1, .x 2, streaming 0 (truncated 3 false 0x8000_0000_0005_0000), _, _, _, _, rfl, rfl, ⟨by decide, rfl, rfl, rfl⟩, rfl, rfl, rfl⟩⟩

/-- The owner 0 passes where its core is held. -/
theorem owner_zero (s : State) (d : Word) (h : s.ownerHeld s.myPart 0 = true) : Gives (checkOwner 0 d) s () s := by
  show checkOwner 0 d s = _
  unfold checkOwner
  rw [bind_ok (get_run s), show ownerOk 0 = true from rfl, h]; rfl

theorem wit_owners :
    (∃ g xs xo s s1 s2 s3 v d st, Issues (taskInfo g [xs, xo] []) s s1 ∧ Gives (readS xs) s1 v s2 ∧ Gives (readS xo) s2 d s3 ∧
      Claim.openStream s3 v st ∧ Gives (checkOwner d 0) s3 () s3 ∧ st.heldEv = []) ∧
    (∃ g xs xo s s1 s2 s3 v d st, Issues (taskInfo g [xs, xo] []) s s1 ∧ Gives (readS xs) s1 v s2 ∧ Gives (readS xo) s2 d s3 ∧
      Claim.openStream s3 v st ∧ st.heldEv.length = 1) ∧
    (∃ g xs xo s s1 s2 s3 v d st ls s4 ws s5, Issues (taskInfo g [xs, xo] []) s s1 ∧ Gives (readS xs) s1 v s2 ∧ Gives (readS xo) s2 d s3 ∧
      v.toNat < 2 ^ 14 ∧ s3.stream? v.toNat = some st ∧ st.part = s3.myPart ∧ st.opened = false ∧ spaceOf d.toNat = 0x8 ∧ d.toNat % 64 = 0 ∧
      (s3.cluster (s3.clusterOf s3.cc)).bps = [] ∧ Gives (locM { r := true } [0x8, 0xA] d.toNat 64 64) s3 ls s4 ∧
      Gives (loadWords ls) s4 ws s5 ∧ (ws.getD 0 0).toNat < 2 ^ 56 ∧ (ws.getD 0 0).toNat % 0x8000 = 0 ∧ (ws.getD 1 0).toNat < 2 ^ 56 ∧
      (ws.getD 1 0).toNat % 0x1_0000 = 0 ∧ ws.getD 2 0 &&& ~~~0x8000_0000_00FF_1FFF = 0 ∧ (∀ x ∈ ws.drop 4, x = 0) ∧
      Gives (checkOwner (ws.getD 3 0) d) s5 () s5) :=
  ⟨⟨on, .x 2, .x 3, streaming 0xF_1FFF flow, _, _, _, _, _, _, rfl, rfl, rfl, ⟨by decide, rfl, rfl, rfl⟩, rfl, rfl⟩,
   ⟨on, .x 2, .x 3, streaming 0 { flow with heldEv := [(1, 2)] }, _, _, _, _, _, _, rfl, rfl, rfl, ⟨by decide, rfl, rfl, rfl⟩, rfl⟩,
   ⟨on, .x 2, .x 3, streaming 0x8000_0000_0000_0040 { flow with opened := false }, _, _, _, _, 0x8000_0000_0000_0040, _, _, _, [0, 0, 0, 0, 0, 0, 0, 0], _, rfl, rfl, rfl, by decide, rfl, rfl, rfl,
    by decide, by decide, rfl, rfl, rfl, by decide, rfl, by decide, rfl, rfl, by simp, by apply owner_zero; decide +kernel⟩⟩

/-- A frame of this kind in sequence at `seq`, for the stream. -/
def frame (kind : Byte) (seq pf : BitVec 32) : Frame := { endpoint := 1, sid := 16383, kind, rsv := 0, seq, pf, payload := [] }

/-- The stream's memory is mapped when `m`. -/
def streamIn (m : Bool) (st : Stream) : State :=
  let s := streaming 0 st
  { (s.modPart 0 (fun p => { p with trt := if m then 1 else 0 })) with mem := { d := [(0, 0x01), (1, 0x80), (0x8000, 0x1F)] } }

/-- What a frame breaks. -/
def badFrame (f : Frame) (st : Stream) : Prop := f.endpoint ≠ st.endpoint ∨ st.opened = false ∨ 3 ≤ f.kind.toNat ∨
  496 < f.payload.length ∨ (f.kind = 1 ∧ f.payload ≠ []) ∨ f.rsv ≠ 0 ∨ 2 ^ 14 ≤ f.sid.toNat

/-- A stream whose gap buffer holds frames 1 to `n`. -/
def gapped (n : Nat) : Stream := { flow with gap := (List.range n).map (fun i => frame 0 (BitVec.ofNat 32 (i + 1)) 0) }

/-- A frame arrives for a stream, whose gap buffer does not hold the one it expects next. -/
abbrev FrameIn (s : State) (f : Frame) (i : Instr) (st : Stream) : Prop := Claim.brings i f ∧ s.stream? (f.sid.toNat % 2 ^ 14) = some st ∧
  s.power = .on ∧ f.mode.unused = false ∧ (s.part st.part).replay.mode = .off ∧ ∀ g ∈ st.gap, g.seq ≠ st.nseq

theorem wit_frames :
    (∃ (s : State) (f : Frame) (i : Instr) (st : Stream), FrameIn s f i st ∧ badFrame f st) ∧
    (∃ (s : State) (f : Frame) (i : Instr) (st : Stream), FrameIn s f i st ∧ ¬badFrame f st ∧ 2 ^ 31 ≤ (f.seq - st.nseq).toNat) ∧
    (∃ (s : State) (f : Frame) (i : Instr) (st : Stream), FrameIn s f i st ∧ ¬badFrame f st ∧ 0 < (f.seq - st.nseq).toNat ∧ (f.seq - st.nseq).toNat < 2 ^ 31 ∧
      (∀ g ∈ st.gap, g.seq ≠ f.seq) ∧ st.gap.length < 4) ∧
    (∃ (s : State) (f : Frame) (i : Instr) (st : Stream), FrameIn s f i st ∧ ¬badFrame f st ∧ 0 < (f.seq - st.nseq).toNat ∧
      (f.seq - st.nseq).toNat < 2 ^ 31 ∧ (∀ g ∈ st.gap, g.seq ≠ f.seq) ∧ 4 ≤ st.gap.length) ∧
    (∃ (s : State) (f : Frame) (i : Instr) (st : Stream), FrameIn s f i st ∧ ¬badFrame f st ∧ (f.seq - st.nseq).toNat = 0 ∧ st.gap = [] ∧ f.kind = 1) ∧
    (∃ (s : State) (f : Frame) (i : Instr) (st : Stream), FrameIn s f i st ∧ ¬badFrame f st ∧ (f.seq - st.nseq).toNat = 0 ∧ st.gap = [] ∧ f.kind ≠ 1 ∧
      64 ≤ st.avail.length + (if st.heldEntry.isSome then 1 else 0)) :=
  ⟨⟨streaming 0 flow, frame 3 0 0, .inputFrame _, flow, ⟨.inr (.inr ⟨by decide, by decide, rfl⟩), rfl, rfl, rfl, rfl, nofun⟩, by unfold badFrame; decide⟩,
   ⟨streaming 0 flow, frame 1 0x80000000 0, .ackFrame _, flow, ⟨.inl ⟨rfl, rfl⟩, rfl, rfl, rfl, rfl, nofun⟩, by unfold badFrame; decide, by decide⟩,
   ⟨streaming 0 flow, frame 1 0x7FFFFFFF 0, .ackFrame _, flow, ⟨.inl ⟨rfl, rfl⟩, rfl, rfl, rfl, rfl, nofun⟩, by unfold badFrame; decide, by decide,
    by decide, by decide, by decide⟩,
   ⟨streaming 0 (gapped 4), frame 0 5 0, .inputFrame _, gapped 4, ⟨.inr (.inr ⟨by decide, by decide, rfl⟩), rfl, rfl, rfl, rfl, by decide⟩,
    by unfold badFrame; decide, by decide, by decide, by decide, by decide⟩,
   ⟨streaming 0 flow, frame 1 0 0, .ackFrame _, flow, ⟨.inl ⟨rfl, rfl⟩, rfl, rfl, rfl, rfl, nofun⟩, by unfold badFrame; decide, rfl, rfl, rfl⟩,
   ⟨streaming 0 { flow with avail := List.replicate 63 0, heldEntry := some 0 }, frame 2 0 0, .bargeFrame _,
    { flow with avail := List.replicate 63 0, heldEntry := some 0 }, ⟨.inr (.inl ⟨rfl, rfl⟩), rfl, rfl, rfl, rfl, nofun⟩, by unfold badFrame; decide, rfl,
    rfl, by decide, by decide⟩⟩

theorem wit_framesEnter :
    (∃ (s : State) (f : Frame) (i : Instr) (st : Stream) (t : State), FrameIn s f i st ∧ ¬badFrame f st ∧ (f.seq - st.nseq).toNat = 0 ∧ st.gap = [] ∧ f.kind ≠ 1 ∧
      st.avail.length + (if st.heldEntry.isSome then 1 else 0) < 64 ∧ (s.uetBytes false (16 + f.payload.length)).fillEntry (f.sid.toNat % 2 ^ 14) st f = .ok t ∧ f.kind = 2 ∧
      min (max f.pf.toNat st.pbc) st.gnc < st.gnc) ∧
    (∃ (s : State) (f : Frame) (i : Instr) (st : Stream) (a : Word), FrameIn s f i st ∧ ¬badFrame f st ∧ (f.seq - st.nseq).toNat = 0 ∧ st.gap = [] ∧ f.kind ≠ 1 ∧
      st.avail.length + (if st.heldEntry.isSome then 1 else 0) < 64 ∧ (s.uetBytes false (16 + f.payload.length)).fillEntry (f.sid.toNat % 2 ^ 14) st f = .error a) ∧
    (∃ n st r, ∃ s : State, s.stream? n = some st ∧ s.power = .on ∧ st.out.find? (fun r => decide (st.sentTo ≤ r.1)) = some r ∧ r.1 = 6) :=
  ⟨⟨streamIn true { flow with gnc := 9, pbc := 3 }, frame 2 0 8, .bargeFrame _, { flow with gnc := 9, pbc := 3 }, _,
    ⟨.inr (.inl ⟨rfl, rfl⟩), rfl, rfl, rfl, rfl, nofun⟩, by unfold badFrame; decide, rfl, rfl, by decide, by decide, rfl, rfl, by decide⟩,
   ⟨streamIn false flow, frame 0 0 0, .inputFrame _, flow, _, ⟨.inr (.inr ⟨by decide, by decide, rfl⟩), rfl, rfl, rfl, rfl, nofun⟩,
    by unfold badFrame; decide, rfl, rfl, by decide, by decide, rfl⟩,
   ⟨16383, _, _, streaming 0 { flow with out := [(1, 7), (6, 8)], sentTo := 2 }, rfl, rfl, rfl, rfl⟩⟩

/-- A tensor of 100 buoys of partition 0 in core 0's memory. -/
def tensor : Tensor :=
  { part := 0, base := 0xA000_0000_0000_1000, count := 100, stride := 64, boff := 0, prog := 0, skip := 0xA000_0000_0000_0100,
    sync := 0xA000_0000_0000_0080, owner := 0, home := 0 }

/-- Tensor 31 of cluster 0 is this, with these requests; x2 names it, x3 holds this word; partition 0 has started. -/
def sweeping (b : Word) (e : Tensor) (r : List (Nat × Nat × Nat × Bool)) : State := ((xs3 31 b 0).modPart 0 (fun p => { p with started := true, resident := true })).modCluster
  0 (fun y => { y with tensors := [(31, e)], requests := r })

theorem wit_tensorFaults :
    (∃ f ∈ Claim.tensorPairs, ∃ g xt xn s s1 s2 s3 v n, Issues (sweepInfo g [xt, xn] []) s s1 ∧ Gives (readS xt) s1 v s2 ∧
      Gives (readS xn) s2 n s3 ∧ 32 ≤ v.toNat ∧ f = f) ∧
    (∃ f ∈ Claim.tensorPairs, ∃ g xt xn s s1 s2 s3 v n e, Issues (sweepInfo g [xt, xn] []) s s1 ∧ Gives (readS xt) s1 v s2 ∧
      Gives (readS xn) s2 n s3 ∧ v.toNat < 32 ∧ s3.tensor? (s3.clusterOf s3.cc) v.toNat = some e ∧ e.part ≠ s3.myPart ∧ f = f) ∧
    (∃ f ∈ Claim.tensorStates, ∃ g rd xt s s1 s2 v e, Issues (sweepInfo g [xt] [rd]) s s1 ∧ Gives (readS xt) s1 v s2 ∧
      Claim.tensorNamed s2 v e ∧ Gives (checkS rd) s2 () s2 ∧ f = f) :=
  ⟨⟨_, List.mem_cons_self, on, .x 2, .x 3, xs3 32 0 0, _, _, _, _, _, rfl, rfl, rfl, by decide, rfl⟩,
   ⟨_, List.mem_cons_self, on, .x 2, .x 3, sweeping 0 { tensor with part := 1 } [], _, _, _, _, _, _, rfl, rfl, rfl, by decide, rfl, by decide, rfl⟩,
   ⟨_, List.mem_cons_self, on, .x 1, .x 2, sweeping 0 tensor [], _, _, _, _, rfl, rfl, ⟨by decide, rfl, rfl⟩, rfl, rfl⟩⟩

theorem wit_sweepInstructions :
    (∃ g xt xn s s1 s2 s3 v n e, Issues (sweepInfo g [xt, xn] []) s s1 ∧ Gives (readS xt) s1 v s2 ∧ Gives (readS xn) s2 n s3 ∧
      Claim.tensorNamed s3 v e ∧ e.pend < 2 ^ 32 ∧ 1 ≤ n.toNat ∧ n.toNat < 2 ^ 32 ∧ n.toNat < e.count ∧ (s3.part e.part).replay.mode = .off) ∧
    (∃ g xt xn s s1 s2 s3 v n e l, Issues (sweepInfo g [xt, xn] []) s s1 ∧ Gives (readS xt) s1 v s2 ∧ Gives (readS xn) s2 n s3 ∧
      Claim.tensorNamed s3 v e ∧ n.toNat < e.count ∧ (s3.part e.part).replay.mode = .off ∧ tget e.flags n.toNat = none ∧
      s3.flagLoc (s3.clusterOf s3.cc) n.toNat e = some l) ∧
    (∃ g xt xn s s1 s2 s3 v n e, Issues (sweepInfo g [xt, xn] []) s s1 ∧ Gives (readS xt) s1 v s2 ∧ Gives (readS xn) s2 n s3 ∧
      Claim.tensorNamed s3 v e ∧ n.toNat < e.count ∧ (s3.part e.part).replay.mode = .off ∧ tget e.flags n.toNat ≠ none) ∧
    (∃ g xt xn s s1 s2 s3 v n e, Issues (sweepInfo g [xt, xn] []) s s1 ∧ Gives (readS xt) s1 v s2 ∧ Gives (readS xn) s2 n s3 ∧
      Claim.tensorNamed s3 v e ∧ n.toNat < e.count ∧ (s3.part e.part).replay.mode = .off ∧ s3.flagLoc (s3.clusterOf s3.cc) n.toNat e = none) ∧
    (∃ g xt xn s s1 s2 s3 v n e, Issues (sweepInfo g [xt, xn] []) s s1 ∧ Gives (readS xt) s1 v s2 ∧ Gives (readS xn) s2 n s3 ∧
      Claim.tensorNamed s3 v e ∧ n = 0 ∧ Gives (checkOwner n 0) s3 () s3 ∧ e.held = []) ∧
    (∃ g xt xn s s1 s2 s3 v n e, Issues (sweepInfo g [xt, xn] []) s s1 ∧ Gives (readS xt) s1 v s2 ∧ Gives (readS xn) s2 n s3 ∧
      Claim.tensorNamed s3 v e ∧ e.count ≤ n.toNat ∧ 2 ^ 32 ≤ n.toNat) ∧
    (∃ g xt s s1 s2 v e, Issues (sweepInfo g [xt] []) s s1 ∧ Gives (readS xt) s1 v s2 ∧ Claim.tensorNamed s2 v e ∧ e.run = false) ∧
    (∃ g xt s s1 s2 v e, Issues (sweepInfo g [xt] []) s s1 ∧ Gives (readS xt) s1 v s2 ∧ Claim.tensorNamed s2 v e ∧ e.run = true) :=
  ⟨⟨on, .x 2, .x 3, sweeping 99 tensor [], _, _, _, _, _, _, rfl, rfl, rfl, ⟨by decide, rfl, rfl⟩, by decide, by decide, by decide, by decide, rfl⟩,
   ⟨on, .x 2, .x 3, sweeping 99 tensor [], _, _, _, _, _, _, _, rfl, rfl, rfl, ⟨by decide, rfl, rfl⟩, by decide, rfl, rfl, rfl⟩,
   ⟨on, .x 2, .x 3, sweeping 99 { tensor with flags := [(99, 0)] } [], _, _, _, _, _, _, rfl, rfl, rfl, ⟨by decide, rfl, rfl⟩, by decide, rfl,
    by decide⟩,
   ⟨on, .x 2, .x 3, sweeping 99 { tensor with base := 0 } [], _, _, _, _, _, _, rfl, rfl, rfl, ⟨by decide, rfl, rfl⟩, by decide, rfl, rfl⟩,
   ⟨on, .x 2, .x 3, sweeping 0 tensor [], _, _, _, _, _, _, rfl, rfl, rfl, ⟨by decide, rfl, rfl⟩, rfl, rfl, rfl⟩,
   ⟨on, .x 2, .x 3, sweeping 0x1_0000_0000 tensor [], _, _, _, _, _, _, rfl, rfl, rfl, ⟨by decide, rfl, rfl⟩, by decide, by decide⟩,
   ⟨on, .x 2, sweeping 0 tensor [], _, _, _, _, rfl, rfl, ⟨by decide, rfl, rfl⟩, rfl⟩,
   ⟨on, .x 2, sweeping 0 { tensor with run := true } [], _, _, _, _, rfl, rfl, ⟨by decide, rfl, rfl⟩, rfl⟩⟩

theorem wit_sweepAnswers : ∃ f ∈ Claim.tensorStates, ∃ c k cl t old, ∃ (s : State) (p : Pend) (r : Fin 32), (s.ctx c k).pend = some p ∧
    p.kind = .ask (.tensor cl t f.2.1 old (.x r)) ∧ p.reserve = [] ∧ s.power = .on ∧ s.runs c = true ∧
    (s.part (s.core c).partid).preempted = false ∧ (s.cluster (s.clusterOf c)).skid = [] ∧ s.tensor? cl t = some tensor :=
  ⟨_, List.mem_cons_self, 0, 0, 0, 31, 0, (sweeping 0 tensor []).modCtx 0 0 (fun x => { x with pend := some { kind := .ask (.tensor 0 31 0 0 (.x 31)) } }),
   _, 31, rfl, rfl, rfl, rfl, rfl, rfl, rfl, rfl⟩

theorem wit_sweepPeriods :
    (∃ cl t e, ∃ s : State, s.tensor? cl t = some e ∧ s.power = .on ∧ (s.cluster cl).frozen = false ∧ s.periodDue cl e = false) ∧
    (∃ cl t e, ∃ s : State, s.tensor? cl t = some e ∧ s.power = .on ∧ (s.cluster cl).frozen = false ∧ s.periodDue cl e = true) ∧
    (∃ cl r e ls, ∃ s : State, s.running cl = none ∧ s.oldestReq cl = some r ∧ s.tensor? cl r.2.1 = some e ∧ s.tenderMoves cl r.2.1 e = true ∧
      (s.part e.part).replay.mode = .off ∧
      ((s.modTensor cl r.2.1 (fun _ => { e with sn := e.sn + 1, run := true, pos := none, mapped := false, pend := if r.2.2.2 then e.pend else e.pend - 1 })).modCluster
        cl (fun y => { y with requests := takeReq y.requests r })).sweepLocs cl
        { e with sn := e.sn + 1, run := true, pos := none, mapped := false, pend := if r.2.2.2 then e.pend else e.pend - 1 } { r := true } [0x0, 0xA, 0xB]
        e.sync.toNat 8 8 = .ok ls) ∧
    (∃ v : Visit, v.steps = 0 ∧ v.delay = none) :=
  ⟨⟨0, 31, _, sweeping 0 { tensor with cont := true, per := 1 } [], rfl, rfl, rfl, by decide⟩,
   ⟨0, 31, _, (sweeping 0 { tensor with cont := true, per := 10, since := 5 } []).modCore 0 (fun y => { y with cyc := 15 }), rfl, rfl, rfl, by decide⟩,
   ⟨0, _, _, _, sweeping 0 { tensor with pend := 2 } [(9, 31, 2, false), (8, 31, 1, true)], rfl, rfl, rfl, by decide, rfl, rfl⟩,
   ⟨startVisit 0 31 1 [] 0, rfl, rfl⟩⟩

/-- The tensor's sweep runs. -/
def swept (e : Tensor) : State := sweeping 0 { e with run := true, sn := 7 } []

/-- The tensor in its sweep, at element 3 of three. -/
def atThree : Tensor := { tensor with awake := [3, 9, 40], pos := some 3, run := true, sn := 7 }

/-- The machine that a visit runs on: its far-tier reads have asked for their window. -/
abbrev asked (s : State) (i : Nat) (e : Tensor) : Bool × State := s.farAsk (.sweep 0 31 e.sn.toNat) i (farNeed (s.visit 0 31 i e).2.2)

theorem visit_off {s : State} {cl t : Nat} (h : (s.tensor? cl t).all (fun f => decide ((s.part f.part).replay.mode = .off)) = true) (f : Tensor)
    (hf : s.tensor? cl t = some f) : (s.part f.part).replay.mode = .off := by
  rw [hf] at h; exact of_decide_eq_true h

theorem calm_visit : (asked (swept atThree) 9 atThree).1 = true ∧ ((asked (swept atThree) 9 atThree).2.visit 0 31 9 atThree).2.1 = false := by
  decide +kernel

theorem wit_sweepVisits :
    (∃ e i, ∃ s : State, s.running 0 = some (31, e) ∧ e.nextAwake = some i ∧ s.tenderMoves 0 31 e = true ∧
      (∀ f, ((asked s i e).2.visit 0 31 i e).1.tensor? 0 31 = some f → (((asked s i e).2.visit 0 31 i e).1.part f.part).replay.mode = .off) ∧
      (asked s i e).1 = true ∧ ((asked s i e).2.visit 0 31 i e).2.1 = false) ∧
    (∃ cl t e u, ∃ s : State, s.running cl = some (t, e) ∧ s.tensor? cl t = some e ∧ e.nextAwake = none ∧ s.tenderMoves cl t e = true ∧
      e.mapped = false ∧ s.writeSkip cl t e (List.range ((e.count + 63) / 64)) = .ok u) ∧
    (∃ cl t e u c, ∃ s : State, s.running cl = some (t, e) ∧ s.tensor? cl t = some e ∧ e.nextAwake = none ∧ s.tenderMoves cl t e = true ∧
      e.mapped = false ∧ s.writeSkip cl t e (List.range ((e.count + 63) / 64)) = .error (u, c)) ∧
    (∃ cl t e ls, ∃ s : State, s.running cl = some (t, e) ∧ s.tensor? cl t = some e ∧ e.nextAwake = none ∧ s.tenderMoves cl t e = true ∧
      e.mapped = true ∧ s.sweepLocs cl e { w := true } [0x0, 0xA, 0xB] e.sync.toNat 8 8 = .ok ls ∧ (s.part e.part).replay.mode = .off ∧
      s.releaseReady (.sweep cl t e.sn.toNat) .device e.part (BitVec.ofNat 64 (normAddr e.home e.sync.toNat)) = true) :=
  ⟨⟨atThree, 9, swept atThree, rfl, rfl, by decide, visit_off (by decide +kernel), calm_visit⟩,
   ⟨0, 31, _, _, swept tensor, rfl, rfl, rfl, by decide, rfl, rfl⟩,
   ⟨0, 31, _, _, _, swept { tensor with skip := 0x100 }, rfl, rfl, rfl, by decide, rfl, rfl⟩,
   ⟨0, 31, _, _, swept { tensor with mapped := true }, rfl, rfl, rfl, by decide, rfl, rfl, rfl, by decide⟩⟩

/-- The tensor's program lies in the first page of partition 0, mapped without caching. -/
def visiting (code : List Byte) : State :=
  let s := sweeping 0 { atThree with prog := 0x2000 } []
  { s.modCluster 0 (fun y => { y with tlb := [{ part := 0, base := 0, size := 2 ^ 19, pa := 0, r := true, w := true, x := true, nc := true, level := 3 }] }) with
    mem := { next := 2, views := [(.sweep 0 31 7, (List.range code.length).map (fun i => (0x2000 + i, ⟨1, code.getD i 0⟩)))] } }

/-- Its program is a branch to itself with two moves of a temporary behind it. -/
def spending : State := visiting (((encode (.br on ⟨.h64, 0⟩)).getD []) ++ (List.range 2).flatMap (fun _ => [0x10, 0, 0, 0, 0x50, 0x02, 0, 0]))

/-- Its program loads from slot 0 of core 0, whose block lies in the far tier; the die's window has admitted its one request. -/
def throttled : State :=
  let s := visiting (([.li on (.x 0) ⟨.h64, -4⟩, .li on (.x 1) ⟨.h64, 60⟩, .shl on false (.x 0) (.x 0) (.x 1), .ld on (.x 2) (.x 0) ⟨.h64, 0⟩] :
    List Instr).flatMap (fun i => (encode i).getD []))
  { (s.modCore 0 (fun y => { y with slots := [(0, { a := 0x1_8013_0001 })] })).modDie 0 (fun d =>
      { d with granules := d.granules.set 0 { valid := true }, limit := 1, admitted := 1 }) with
    mem := { s.mem with d := [(3 * 2 ^ 56, 5), (3 * 2 ^ 56 + 5, 0x10)] } }

/-- The tensor with its program. -/
abbrev programmed : Tensor := { atThree with prog := 0x2000 }

theorem denied_visit : (asked throttled 9 programmed).1 = false := by decide +kernel

theorem spent_visit : (asked spending 9 programmed).1 = true ∧ ((asked spending 9 programmed).2.visit 0 31 9 programmed).2.1 = true := by
  decide +kernel

theorem wit_sweepThrottled : ∃ e i, ∃ s : State, s.running 0 = some (31, e) ∧ e.nextAwake = some i ∧ s.tenderMoves 0 31 e = true ∧
    (∀ f, ((asked s i e).2.visit 0 31 i e).1.tensor? 0 31 = some f → (((asked s i e).2.visit 0 31 i e).1.part f.part).replay.mode = .off) ∧
    (asked s i e).1 = false :=
  ⟨programmed, 9, throttled, rfl, rfl, by decide, visit_off (by decide +kernel), denied_visit⟩

theorem wit_sweepOverrun : ∃ e i, ∃ s : State, s.running 0 = some (31, e) ∧ e.nextAwake = some i ∧ s.tenderMoves 0 31 e = true ∧
    (∀ f, ((asked s i e).2.visit 0 31 i e).1.tensor? 0 31 = some f → (((asked s i e).2.visit 0 31 i e).1.part f.part).replay.mode = .off) ∧
    (asked s i e).1 = true ∧ ((asked s i e).2.visit 0 31 i e).2.1 = true :=
  ⟨programmed, 9, spending, rfl, rfl, by decide, visit_off (by decide +kernel), spent_visit⟩

/-- A descriptor at 0x40 of core 0's memory: its words in the view of context 0; the skip map at 0x100 wakes elements 0 and 64. -/
def declaring (b : Word) (count : Nat) (n : Nat) : State :=
  let ws : List Word := [b, BitVec.ofNat 64 (count + 64 * 2 ^ 32), 0, 0, 0xA000_0000_0000_0100, 0, 0xA000_0000_0000_0080, 0]
  { ((xs3 0x8000_0000_0000_0040 0 0).modPart 0 (fun p => { p with started := true })).modCluster 0 (fun y => { y with
      tensors := (List.range n).map (fun t => (t, tensor)) }) with
    mem := { views := [(.ctx 0 0, (List.range 64).map (fun i => (2 ^ 56 + 64 + i, ⟨1, (ws.getD (i / 8) 0).extractLsb' (8 * (i % 8)) 8⟩)) ++
      [(2 ^ 56 + 256, ⟨1, 1⟩), (2 ^ 56 + 264, ⟨1, 1⟩)])], next := 2 } }

/-- SWDECL's reads, up to its checks. -/
abbrev Declares (s s1 s2 s3 s4 : State) (g : Guard) (rd : SDst) (xa : SSrc) (a : Word) (ls : List Nat) (ws : List Word) : Prop :=
  Issues (sweepInfo g [xa] [rd]) s s1 ∧ Gives (readS xa) s1 a s2 ∧ (s2.cluster (s2.clusterOf s2.cc)).bps = [] ∧
    Gives (locM { r := true } allSpaces a.toNat 64 64) s2 ls s3 ∧ Gives (loadWords ls) s3 ws s4 ∧
    (s4.cluster (s4.clusterOf s4.cc)).bps = []

/-- The words of `declaring`'s descriptor. -/
def descriptor (b count : Word) : List Word := [b, count, 0, 0, 0xA000_0000_0000_0100, 0, 0xA000_0000_0000_0080, 0]

theorem wit_declares :
    (∃ g rd xa s s1 s2 a ls s3 ws s4, Declares s s1 s2 s3 s4 g rd xa a ls ws ∧ tensorDescOk ws = false) ∧
    (∃ g rd xa s s1 s2 a ls s3 ws s4, Declares s s1 s2 s3 s4 g rd xa a ls ws ∧ tensorDescOk ws = true ∧
      Gives (checkOwner (ws.getD 5 0) a) s4 () s4 ∧
      s4.namesAll (tensorFrom s4.myPart s4.cc ws).base.toNat (((tensorFrom s4.myPart s4.cc ws).count - 1) * (tensorFrom s4.myPart s4.cc ws).stride +
        (tensorFrom s4.myPart s4.cc ws).boff + 32) = true) :=
  ⟨⟨on, .x 1, .x 2, declaring 0xA000_0000_0000_1000 0 0, _, _, 0x8000_0000_0000_0040, _, _, descriptor 0xA000_0000_0000_1000 0x40_0000_0000, _, ⟨rfl, rfl, rfl, rfl, rfl, by decide +kernel⟩, by decide⟩,
   ⟨on, .x 1, .x 2, declaring 0xA000_0000_0000_1000 100 0, _, _, 0x8000_0000_0000_0040, _, _, descriptor 0xA000_0000_0000_1000 0x40_0000_0064, _, ⟨rfl, rfl, rfl, rfl, rfl, by decide +kernel⟩,
    by decide, by apply owner_zero; decide +kernel, by decide +kernel⟩⟩

/-- The names of the descriptor that the words give. -/
def spanOf (s : State) (ws : List Word) : Nat :=
  let e := tensorFrom s.myPart s.cc ws
  (e.count - 1) * e.stride + e.boff + 32

theorem wit_declareEntry :
    (∃ g rd xa s s1 s2 a ls s3 ws s4, Declares s s1 s2 s3 s4 g rd xa a ls ws ∧ tensorDescOk ws = true ∧
      Gives (checkOwner (ws.getD 5 0) a) s4 () s4 ∧ s4.namesAll (tensorFrom s4.myPart s4.cc ws).base.toNat (spanOf s4 ws) = false) ∧
    (∃ g rd xa s s1 s2 a ls s3 ws s4 sl s5 ms s6, Declares s s1 s2 s3 s4 g rd xa a ls ws ∧ tensorDescOk ws = true ∧
      s4.namesAll (tensorFrom s4.myPart s4.cc ws).skip.toNat 16 = true ∧ s4.namesAll (tensorFrom s4.myPart s4.cc ws).sync.toNat 8 = true ∧
      Gives (locM { r := true } [0x0, 0xA, 0xB] (tensorFrom s4.myPart s4.cc ws).skip.toNat 16 8) s4 sl s5 ∧
      s5.sweepRead (s5.agentOf s5.cc s5.ck) sl = (ms, s6) ∧ Gives (checkS rd) s6 () s6 ∧
      s6.tensor? (s6.clusterOf s6.cc) 31 = none ∧ ∀ j < 31, s6.tensor? (s6.clusterOf s6.cc) j ≠ none) ∧
    (∃ s6 : State, ∀ t < 32, s6.tensor? (s6.clusterOf s6.cc) t ≠ none) :=
  ⟨⟨on, .x 1, .x 2, (declaring 0xA000_0500_0000_1000 100 0).modCore 5 (fun y => { y with partid := 1 }), _, _, 0x8000_0000_0000_0040, _, _,
     descriptor 0xA000_0500_0000_1000 0x40_0000_0064, _, ⟨rfl, rfl, rfl, rfl, rfl, by decide +kernel⟩, by decide, by apply owner_zero; decide +kernel,
     by decide +kernel⟩,
   ⟨on, .x 1, .x 2, declaring 0xA000_0000_0000_1000 100 31, _, _, 0x8000_0000_0000_0040, _, _, descriptor 0xA000_0000_0000_1000 0x40_0000_0064, _,
     locsFrom (2 ^ 56 + 256) 16, _, [1, 1], _, ⟨rfl, rfl, rfl, rfl, rfl, by decide +kernel⟩, by decide, by decide +kernel, by decide +kernel, rfl, rfl,
     rfl, by decide +kernel, by decide +kernel⟩,
   ⟨declaring 0 0 32, by decide +kernel⟩⟩

/-- x2 and x3 hold these words; partition 0 has started. -/
def counting (a b : Word) : State := (xs3 a b 0).modPart 0 (fun p => { p with started := true, resident := true })

theorem wit_counterReads :
    (∃ g rd s s1, ∃ id : BitVec 12, Issues (cntInfo g [] [rd]) s s1 ∧ Claim.bankQuiet s1 ∧ ¬Claim.counterNamed id.toNat) ∧
    (∃ g rd s s1 i, ∃ id : BitVec 12, Issues (cntInfo g [] [rd]) s s1 ∧ Claim.bankQuiet s1 ∧ cntId id.toNat = some i ∧
      Gives (checkS rd) s1 () s1 ∧ ¬Claim.counterFar i) ∧
    (∃ g rd s s1 i, ∃ id : BitVec 12, Issues (cntInfo g [] [rd]) s s1 ∧ Claim.bankQuiet s1 ∧ cntId id.toNat = some i ∧
      Gives (checkS rd) s1 () s1 ∧ Claim.counterFar i) ∧
    (∃ g rd s s1, ∃ (id : BitVec 12) (n : Fin 8), Issues (cntInfo g [] [rd]) s s1 ∧ Claim.bankQuiet s1 ∧ id.toNat = 0xA0 + n.val ∧
      Gives (checkS rd) s1 () s1) ∧
    (∃ g rd s s1, ∃ (id : BitVec 12) (n : Fin 4), Issues (cntInfo g [] [rd]) s s1 ∧ Claim.bankQuiet s1 ∧ id.toNat = 0xC0 + n.val ∧
      Gives (checkS rd) s1 () s1) ∧
    (∃ g rd s s1, ∃ id : BitVec 12, Issues (cntInfo g [] [rd]) s s1 ∧ Claim.bankQuiet s1 ∧ id = 0xF0 ∧ Gives (checkS rd) s1 () s1) ∧
    (∃ g rd s s1, ∃ id : BitVec 12, Issues (cntInfo g [] [rd]) s s1 ∧ Claim.bankQuiet s1 ∧ 0xD0 ≤ id.toNat ∧ id ≠ 0xF0) ∧
    (∃ s : State, s.myPart ≠ 0) ∧ (∃ (s : State) (v j : Nat), s.physOf s.cc v = some j) :=
  ⟨⟨on, .x 1, s0, _, 5, rfl, rfl, by unfold Claim.counterNamed; decide⟩,
   ⟨on, .x 1, s0, _, _, 0x7C, rfl, rfl, rfl, rfl, fun h => h⟩,
   ⟨on, .x 1, s0, _, _, 0xC3, rfl, rfl, rfl, rfl, trivial⟩, ⟨on, .x 1, s0, _, 0xA7, 7, rfl, rfl, rfl, rfl⟩,
   ⟨on, .x 1, s0, _, 0xC3, 3, rfl, rfl, rfl, rfl⟩, ⟨on, .x 1, s0, _, 0xF0, rfl, rfl, rfl, rfl⟩,
   ⟨on, .x 1, s0, _, 0xD0, rfl, rfl, by decide, by decide⟩, ⟨s0.modCore 0 (fun y => { y with partid := 1 }), by decide⟩, ⟨s0, 15, 15, rfl⟩⟩

theorem wit_counterAnswers :
    (∃ c k id cfg n, ∃ (s : State) (p : Pend) (r : Fin 32), (s.ctx c k).pend = some p ∧ p.kind = .ask (.cnt id cfg (.x r)) ∧ p.reserve = [] ∧
      s.power = .on ∧ s.runs c = true ∧ (s.part (s.core c).partid).preempted = false ∧ (s.cluster (s.clusterOf c)).skid = [] ∧
      cntId id = some (.l2 n)) ∧
    (∃ c k id cfg n, ∃ (s : State) (p : Pend) (r : Fin 32), (s.ctx c k).pend = some p ∧ p.kind = .ask (.cnt id cfg (.x r)) ∧ p.reserve = [] ∧
      s.power = .on ∧ s.runs c = true ∧ (s.part (s.core c).partid).preempted = false ∧ (s.cluster (s.clusterOf c)).skid = [] ∧
      cntId id = some (.fabric n)) :=
  ⟨⟨0, 0, 0xC3, true, 3, loading (.ask (.cnt 0xC3 true (.x 31))), _, 31, rfl, rfl, rfl, rfl, rfl, rfl, rfl, rfl⟩,
   ⟨0, 0, 0xD7, false, 7, loading (.ask (.cnt 0xD7 false (.x 31))), _, 31, rfl, rfl, rfl, rfl, rfl, rfl, rfl, rfl⟩⟩

theorem wit_counterValues :
    (∃ g a s s1 s2 v, ∃ id : BitVec 12, Issues (cntInfo g [a] []) s s1 ∧ Gives (readS a) s1 v s2 ∧ Claim.counterNamed id.toNat ∧ id ≠ 0xF1 ∧
      2 ^ 48 ≤ v.toNat) ∧
    (∃ g a s s1 s2 v, ∃ id : BitVec 12, Issues (cntInfo g [a] []) s s1 ∧ Gives (readS a) s1 v s2 ∧ Claim.counterNamed id.toNat ∧
      id.toNat < 0xA8 ∧ v.toNat < 2 ^ 48) ∧
    (∃ g a s s1 s2 v, ∃ (id : BitVec 12) (n : Fin 4), Issues (cntInfo g [a] []) s s1 ∧ Gives (readS a) s1 v s2 ∧ id.toNat = 0xC0 + n.val ∧
      v.toNat < 2 ^ 48) ∧
    (∃ g a s s1 s2 v, ∃ (id : BitVec 12) (n : Fin 8), Issues (cntInfo g [a] []) s s1 ∧ Gives (readS a) s1 v s2 ∧ id.toNat = 0xD0 + n.val ∧
      v.toNat < 2 ^ 48 ∧ s2.myPart = 0) ∧
    (∃ g a s s1 s2 v, ∃ (id : BitVec 12) (n : Fin 8), Issues (cntInfo g [a] []) s s1 ∧ Gives (readS a) s1 v s2 ∧ id.toNat = 0xD0 + n.val ∧
      2 ^ 48 ≤ v.toNat ∧ s2.myPart ≠ 0) ∧
    (∃ g a s s1 s2 v, ∃ id : BitVec 12, Issues (cntInfo g [a] []) s s1 ∧ Gives (readS a) s1 v s2 ∧ id = 0xF1 ∧ v.toNat < 2 ^ 56 ∧
      v.toNat % (16 * 2 ^ sampS s2.myCore.sampler.cfg) = 0) :=
  ⟨⟨on, .x 2, counting 0x1_0000_0000_0000 0, _, _, _, 0xA7, rfl, rfl, by unfold Claim.counterNamed; decide, by decide, by decide⟩,
   ⟨on, .x 2, counting 0xFFFF_FFFF_FFFF 0, _, _, _, 0xA7, rfl, rfl, by unfold Claim.counterNamed; decide, by decide, by decide⟩,
   ⟨on, .x 2, counting 0xFFFF_FFFF_FFFF 0, _, _, _, 0xC3, 3, rfl, rfl, rfl, by decide⟩,
   ⟨on, .x 2, counting 0xFFFF_FFFF_FFFF 0, _, _, _, 0xD7, 7, rfl, rfl, rfl, by decide, rfl⟩,
   ⟨on, .x 2, (counting 0x1_0000_0000_0000 0).modCore 0 (fun y => { y with partid := 1 }), _, _, _, 0xD7, 7, rfl, rfl, rfl, by decide, by decide⟩,
   ⟨on, .x 2, counting 0xFF_FFFF_FFFF_0000 0, _, _, _, 0xF1, rfl, rfl, rfl, by decide, by decide⟩⟩

theorem wit_counterWrites :
    (∃ g a s s1 s2 v, ∃ id : BitVec 12, Issues (cntInfo g [a] []) s s1 ∧ Gives (readS a) s1 v s2 ∧ 0xA0 ≤ id.toNat ∧ id.toNat ≤ 0xA7 ∧
      Claim.progCfg v) ∧
    (∃ g a s s1 s2 v, ∃ id : BitVec 12, Issues (cntInfo g [a] []) s s1 ∧ Gives (readS a) s1 v s2 ∧ 0xA0 ≤ id.toNat ∧ id.toNat ≤ 0xA7 ∧
      ¬Claim.progCfg v) ∧
    (∃ g a s s1 s2 v, ∃ (id : BitVec 12) (n : Fin 4), Issues (cntInfo g [a] []) s s1 ∧ Gives (readS a) s1 v s2 ∧ id.toNat = 0xC0 + n.val ∧
      ¬Claim.l2Cfg v) ∧
    (∃ g a s s1 s2 v, ∃ (id : BitVec 12) (n : Fin 4), Issues (cntInfo g [a] []) s s1 ∧ Gives (readS a) s1 v s2 ∧ id.toNat = 0xC0 + n.val ∧
      Claim.l2Cfg v ∧ v ≠ 0 ∧ s2.holdsCore s2.myPart (v.extractLsb' 16 13).toNat = false) ∧
    (∃ g a s s1 s2 v, ∃ (id : BitVec 12) (n : Fin 4), Issues (cntInfo g [a] []) s s1 ∧ Gives (readS a) s1 v s2 ∧ id.toNat = 0xC0 + n.val ∧
      Claim.l2Cfg v ∧ s2.holdsCore s2.myPart (v.extractLsb' 16 13).toNat = true) ∧
    (∃ g a s s1 s2 v, ∃ id : BitVec 12, Issues (cntInfo g [a] []) s s1 ∧ Gives (readS a) s1 v s2 ∧ id = 0xF0 ∧ Claim.samplerCfg v) ∧
    (∃ g a s s1 s2 v, ∃ id : BitVec 12, Issues (cntInfo g [a] []) s s1 ∧ Gives (readS a) s1 v s2 ∧ id = 0xF0 ∧ ¬Claim.samplerCfg v) ∧
    (∃ g a s s1 s2 v, ∃ id : BitVec 12, Issues (cntInfo g [a] []) s s1 ∧ Gives (readS a) s1 v s2 ∧ 0xD0 ≤ id.toNat ∧ id.toNat ≤ 0xD7) ∧
    (∃ g a s s1 s2 v, ∃ id : BitVec 12, Issues (cntInfo g [a] []) s s1 ∧ Gives (readS a) s1 v s2 ∧ id.toNat < 0x91 ∧ Claim.counterNamed id.toNat) :=
  ⟨⟨on, .x 2, counting 0xFFFF_3F14 0, _, _, _, 0xA7, rfl, rfl, by decide, by decide, by unfold Claim.progCfg; decide⟩,
   ⟨on, .x 2, counting 7 0, _, _, _, 0xA0, rfl, rfl, by decide, by decide, by unfold Claim.progCfg; decide⟩,
   ⟨on, .x 2, counting 5 0, _, _, _, 0xC0, 0, rfl, rfl, rfl, by unfold Claim.l2Cfg; decide⟩,
   ⟨on, .x 2, (counting 0x50304 0).modCore 5 (fun y => { y with partid := 1 }), _, _, _, 0xC3, 3, rfl, rfl, rfl, by unfold Claim.l2Cfg; decide, by decide, by decide⟩,
   ⟨on, .x 2, counting 0x1FFF0304 0, _, _, _, 0xC3, 3, rfl, rfl, rfl, by unfold Claim.l2Cfg; decide, by decide⟩,
   ⟨on, .x 2, counting 0xF_0000_0000_0010 0, _, _, _, 0xF0, rfl, rfl, rfl, by unfold Claim.samplerCfg; decide⟩,
   ⟨on, .x 2, counting 15 0, _, _, _, 0xF0, rfl, rfl, rfl, by unfold Claim.samplerCfg; decide⟩,
   ⟨on, .x 2, counting 0 0, _, _, _, 0xD7, rfl, rfl, by decide, by decide⟩,
   ⟨on, .x 2, counting 0 0, _, _, _, 0x90, rfl, rfl, by decide, by unfold Claim.counterNamed; decide⟩⟩

theorem wit_counterMemory :
    (∃ g a s s1 s2 s3 b ls, Issues (cntInfo g [a] []) s s1 ∧ Gives (readS a) s1 b s2 ∧ (s2.cluster (s2.clusterOf s2.cc)).bps = [] ∧
      Gives (locM { w := true } [0x8] b.toNat 136 64) s2 ls s3 ∧ Gives (checkWaiters b.toNat ls) s3 () s3 ∧ Claim.bankQuiet s3 ∧
      s3.curIter s3.cc s3.ck = none ∧ ls.length = 136) ∧
    (∃ g a s s1 s2 s3 b ls, Issues (cntInfo g [a] []) s s1 ∧ Gives (readS a) s1 b s2 ∧ (s2.cluster (s2.clusterOf s2.cc)).bps = [] ∧
      Gives (locM { w := true } [0x8] b.toNat 64 64) s2 ls s3 ∧ Gives (checkWaiters b.toNat ls) s3 () s3 ∧ Claim.bankQuiet s3 ∧
      s3.curIter s3.cc s3.ck = none ∧ ls.length = 64) ∧
    (∃ g a s s1 s2 s3 b ls, Issues (cntInfo g [a] []) s s1 ∧ Gives (readS a) s1 b s2 ∧ (s2.cluster (s2.clusterOf s2.cc)).bps = [] ∧
      Gives (locM { r := true } [0x8] b.toNat 40 64) s2 ls s3) :=
  ⟨⟨on, .x 2, counting 0x8000_0000_0000_0040 0, _, _, _, _, _, rfl, rfl, rfl, rfl, rfl, rfl, rfl, rfl⟩,
   ⟨on, .x 2, counting 0x8000_0000_0000_0040 0, _, _, _, _, _, rfl, rfl, rfl, rfl, rfl, rfl, rfl, rfl⟩,
   ⟨on, .x 2, counting 0x8000_0000_0000_0040 0, _, _, _, _, _, rfl, rfl, rfl, rfl⟩⟩

/-- Core 0's counter 7 counts cycles; its sampler has a record due; overflow events of contexts 0 and 1 are due. -/
def overflowing (m : Bool) : State :=
  let s := (counting 0 0).modCore 0 (fun y => { y with
    pcnt := y.pcnt.set 7 { val := 0xFFFF_FFFF_FFFF, cfg := 0x301 }
    sampler := { y.sampler with cfg := 0x1_0000_0000_0010, base := 0x1000, due := [(1, 2)], index := 3 } })
  { (s.modPart 0 (fun p => { p with trt := if m then 1 else 0 })).modCtx 0 1 (fun x => { x with run := .held }) with
    mem := { d := [(0, 0x01), (1, 0x80), (0x8000, 0x1F)] }, ovfDue := [(0, 0, 0, 0xA0, 5), (0, 0, 1, 0xA7, 6)], l2Pending := [(0, 0, 0xC0, 7)] }

/-- The sampler's oldest record has gone and its index has advanced. -/
abbrev sampled (s : State) (c : Nat) (l : List (Word × Word)) : State := s.modCore c (fun y =>
  { y with sampler := { (s.core c).sampler with due := l, index := ((s.core c).sampler.index + 1) % 2 ^ 48 } })

theorem wit_counterMoves :
    (∃ c nready, ∃ s : State, nready < 17 ∧ (s.core c).cntNew = []) ∧
    (∃ die, ∃ i : Nat, ∃ (s : State) (b : BankWrite), (s.die die).bankNew[i]? = some b ∧
      ∀ e ∈ (s.die die).bankNew.take i, ¬(e.core = b.core ∧ e.ctx = b.ctx)) ∧
    (∃ die, ∃ i : Nat, ∃ (s : State) (b : BankWrite), (s.die die).bankNew[i]? = some b ∧
      ∃ e ∈ (s.die die).bankNew.take i, e.core = b.core ∧ e.ctx = b.ctx) ∧
    (∃ i : Nat, ∃ p c v id cyc k, ∃ s : State, s.ovfDue[i]? = some (p, c, v, id, cyc) ∧ s.runs c = true ∧ (s.core c).partid = p ∧ s.physOf c v = some k ∧
      (s.ctx c k).run = .vacant) ∧
    (∃ i : Nat, ∃ p c v id cyc k, ∃ s : State, s.ovfDue[i]? = some (p, c, v, id, cyc) ∧ s.runs c = true ∧ (s.core c).partid = p ∧ s.physOf c v = some k ∧
      (s.ctx c k).run ≠ .vacant ∧ (s.ctx c k).events.length < 8) ∧
    (∃ i : Nat, ∃ p c v id cyc, ∃ s : State, s.ovfDue[i]? = some (p, c, v, id, cyc) ∧ s.runs c = true ∧ (s.core c).partid = p ∧
      s.physOf c v = none) ∧
    (∃ i : Nat, ∃ p c v id cyc, ∃ s : State, s.ovfDue[i]? = some (p, c, v, id, cyc) ∧ (s.core c).partid ≠ p) ∧
    (∃ i : Nat, ∃ key owner id cyc, ∃ s : State, s.l2Pending[i]? = some (key, owner, id, cyc) ∧ (s.part (s.core owner).partid).resident = true ∧
      (s.core owner).partid = key % 16 ∧ s.runs owner = true) ∧
    (∃ i : Nat, ∃ key owner id cyc, ∃ s : State, s.l2Pending[i]? = some (key, owner, id, cyc) ∧ (s.part (s.core owner).partid).resident = false) ∧
    (∃ c r l ls, ∃ s : State, (s.core c).sampler.due = r :: l ∧ (sampled s c l).locate ((sampled s c l).viaCluster ((sampled s c l).clusterOf c) c
        ((sampled s c l).core c).partid) { w := true } [0x0] ((s.core c).sampler.base.toNat + 16 * ((s.core c).sampler.index % 2 ^ sampS (s.core c).sampler.cfg)) 16 16 = .at ls ∧
      s.mem.badAt ls = none ∧ ls.length = 16 ∧ ls.Nodup) :=
  ⟨⟨0, 16, overflowing true, by decide, rfl⟩,
   ⟨0, 0, s0.modDie 0 (fun d => { d with bankNew := [{ core := 1, ctx := 2, bank := 15, n := 3, val := some 5, cfg := none }] }), _, rfl, by decide⟩,
   ⟨0, 1, s0.modDie 0 (fun d => { d with bankNew := [{ core := 1, ctx := 2, bank := 15, n := 3, val := some 5, cfg := none }, { core := 1, ctx := 2, bank := 0, n := 0, val := none, cfg := none }] }),
    _, rfl, _, List.mem_cons_self, rfl, rfl⟩,
   ⟨0, _, _, _, _, _, _, overflowing true, rfl, rfl, rfl, rfl, rfl⟩, ⟨1, _, _, _, _, _, _, overflowing true, rfl, rfl, rfl, rfl, by decide, by decide⟩,
   ⟨1, _, _, _, _, _, (overflowing true).modCore 0 (fun y => { y with mask := 1 }), rfl, rfl, rfl, rfl⟩,
   ⟨1, _, _, _, _, _, (overflowing true).modCore 0 (fun y => { y with partid := 1 }), rfl, by decide⟩,
   ⟨0, _, _, _, _, overflowing true, rfl, rfl, rfl, rfl⟩,
   ⟨0, _, _, _, _, { overflowing true with parts := [] }, rfl, rfl⟩,
   ⟨0, _, _, _, overflowing true, rfl, rfl, by decide +kernel, by decide +kernel, by decide +kernel⟩⟩

theorem wit_breakpoints :
    (∃ (g : Guard) (s s1 : State), Issues { g } s s1) ∧
    (∃ (e : Instr × Info) (s s1 : State), e ∈ Claim.debugOps on (.x 1) (.x 2) (.x 3) ∧ Issues e.2 s s1 ∧ s1.curIter s1.cc s1.ck ≠ none) ∧
    (∃ (e : Instr × Info) (s s1 s2 s3 : State) (u v : Word), e ∈ Claim.debugOps on (.x 1) (.x 2) (.x 3) ∧ Issues e.2 s s1 ∧
      s1.curIter s1.cc s1.ck = none ∧ Gives (readS (.x 2)) s1 u s2 ∧ Gives (readS (.x 3)) s2 v s3 ∧ ¬Claim.itemNamed u) ∧
    (∃ (e : Instr × Info) (s s1 s2 s3 : State) (u v : Word), e ∈ Claim.debugOps on (.x 1) (.x 2) (.x 3) ∧ Issues e.2 s s1 ∧
      s1.curIter s1.cc s1.ck = none ∧ Gives (readS (.x 2)) s1 u s2 ∧ Gives (readS (.x 3)) s2 v s3 ∧ Claim.itemNamed u ∧ ¬Claim.itemHeld s3 u) ∧
    (∃ g a s s1 s2 u, ∃ op : Fin 11, op ≠ 0 ∧ Issues (infoOf g 8 1 [a] [] [] []) s s1 ∧ Gives (readS a) s1 u s2) ∧
    (∃ g rd a s s1 s2 u, Issues (infoOf g 8 1 [a] [] [rd] []) s s1 ∧ s1.curIter s1.cc s1.ck = none ∧ Gives (readS a) s1 u s2 ∧
      Claim.itemNamed u ∧ Claim.itemHeld s2 u ∧ Gives (checkS rd) s2 () s2) :=
  ⟨⟨on, s0, _, rfl⟩,
   ⟨_, inLoop 3 3 id, _, List.mem_cons_self, rfl, by decide⟩,
   ⟨_, counting 52 0, _, _, _, _, _, List.mem_cons_self, rfl, rfl, rfl, rfl, by unfold Claim.itemNamed; decide⟩,
   ⟨_, (counting 0x5_0033 0).modCore 5 (fun y => { y with partid := 1 }), _, _, _, _, _, List.mem_cons_self, rfl, rfl, rfl, rfl, by unfold Claim.itemNamed; decide,
    by unfold Claim.itemHeld; decide⟩,
   ⟨on, .x 2, s0, _, _, _, 10, by decide, rfl, rfl⟩,
   ⟨on, .x 1, .x 2, counting 0x1FFF_0F33 0, _, _, _, rfl, rfl, rfl, by unfold Claim.itemNamed; decide, by unfold Claim.itemHeld; decide, rfl⟩⟩

/-- A BKPT of two operands reads both. -/
abbrev Debugs (s s1 s2 s3 : State) (u v : Word) : Prop :=
  Issues (infoOf on 8 1 [.x 2, .x 3] [] [] []) s s1 ∧ s1.curIter s1.cc s1.ck = none ∧ Gives (readS (.x 2)) s1 u s2 ∧
    Gives (readS (.x 3)) s2 v s3 ∧ Claim.itemNamed u ∧ Claim.itemHeld s3 u

theorem wit_breakpointWrites :
    (∃ s s1 s2 s3 u v, Debugs s s1 s2 s3 u v ∧ 48 < (u.extractLsb' 0 8).toNat) ∧
    (∃ s s1 s2 s3 u v, Debugs s s1 s2 s3 u v ∧ (u.extractLsb' 0 8).toNat < 48 ∧ (u.extractLsb' 0 8).toNat % 2 = 0) ∧
    (∃ s s1 s2 s3 u v, Debugs s s1 s2 s3 u v ∧ (u.extractLsb' 0 8).toNat < 32 ∧ (u.extractLsb' 0 8).toNat % 2 = 1 ∧
      v &&& ~~~0x3F_01FF = 0) ∧
    (∃ s s1 s2 s3 u v, Debugs s s1 s2 s3 u v ∧ (u.extractLsb' 0 8).toNat < 48 ∧ (u.extractLsb' 0 8).toNat % 2 = 1 ∧
      v &&& ~~~0x3F_01FF ≠ 0) ∧
    (∃ s s1 s2 s3 u v, Debugs s s1 s2 s3 u v ∧ (u.extractLsb' 0 8).toNat = 48 ∧ v &&& ~~~0x1_FFFF_003F ≠ 0) ∧
    (∃ s s1 s2 s3 u v, Debugs s s1 s2 s3 u v ∧ 65536 ≤ v.toNat) ∧
    (∃ s s1 s2 s3 u v k, Debugs s s1 s2 s3 u v ∧ v.toNat < 65536 ∧
      s3.physOf (u.extractLsb' 16 13).toNat (u.extractLsb' 8 4).toNat = some k) ∧
    (∃ (g : Guard) (s s1 : State), Issues { g } s s1 ∧ s1.curIter s1.cc s1.ck = none) ∧
    (∃ g a s s1 s2 u, Issues (infoOf g 8 1 [a] [] [] []) s s1 ∧ s1.curIter s1.cc s1.ck = none ∧ Gives (readS a) s1 u s2 ∧
      Claim.itemNamed u ∧ Claim.itemHeld s2 u ∧ u.getLsbD 63 = false) :=
  ⟨⟨counting 51 0, _, _, _, _, _, ⟨rfl, rfl, rfl, rfl, by unfold Claim.itemNamed; decide, by unfold Claim.itemHeld; decide⟩, by decide⟩,
   ⟨counting 46 0, _, _, _, _, _, ⟨rfl, rfl, rfl, rfl, by unfold Claim.itemNamed; decide, by unfold Claim.itemHeld; decide⟩, by decide, by decide⟩,
   ⟨counting 31 0x3F_01FF, _, _, _, _, _, ⟨rfl, rfl, rfl, rfl, by unfold Claim.itemNamed; decide, by unfold Claim.itemHeld; decide⟩, by decide, by decide, by decide⟩,
   ⟨counting 47 0x200, _, _, _, _, _, ⟨rfl, rfl, rfl, rfl, by unfold Claim.itemNamed; decide, by unfold Claim.itemHeld; decide⟩, by decide, by decide, by decide⟩,
   ⟨counting 48 0x40, _, _, _, _, _, ⟨rfl, rfl, rfl, rfl, by unfold Claim.itemNamed; decide, by unfold Claim.itemHeld; decide⟩, by decide, by decide⟩,
   ⟨counting 0 65536, _, _, _, _, _, ⟨rfl, rfl, rfl, rfl, by unfold Claim.itemNamed; decide, by unfold Claim.itemHeld; decide⟩, by decide⟩,
   ⟨counting 0xF00 65535, _, _, _, _, _, 15, ⟨rfl, rfl, rfl, rfl, by unfold Claim.itemNamed; decide, by unfold Claim.itemHeld; decide⟩, by decide, rfl⟩,
   ⟨on, s0, _, rfl, rfl⟩,
   ⟨on, .x 2, counting 0x1FFF_0F33 0, _, _, _, rfl, rfl, rfl, by unfold Claim.itemNamed; decide, by unfold Claim.itemHeld; decide, by decide⟩⟩

/-- Context 0's step has expired; its tail has two records; its trace session is open for every record type. -/
def tracing (stt : Bool) (tail : List (List Word)) : State := me (fun x => { x with
  stepDue := true, dbc := { stt := stt }, trace := { mask := 0xFFFF_FFFF, opened := true, tail := tail } })

theorem wit_trace :
    (∃ c k, ∃ s : State, s.runs c = true ∧ (s.ctx c k).stepDue = true ∧ (s.ctx c k).dbc.stt = true) ∧
    (∃ c k, ∃ s : State, s.runs c = true ∧ (s.ctx c k).stepDue = true ∧ (s.ctx c k).dbc.stt = false) ∧
    (∃ c, ∃ s : State, s.power = .on ∧ (s.core c).foghornDue = true ∧ (s.core c).halted = false) ∧
    (∃ c k r l, ∃ s : State, (s.ctx c k).trace.tail = r :: l ∧ s.runs c = true) ∧
    (∃ g a s s1 s2 v, ∃ imm : Imm, Issues (markInfo g (formLen imm.form) [a]) s s1 ∧ Gives (readS a) s1 v s2 ∧
      s2.me.trace.opened = true ∧ s2.me.trace.mask.getLsbD 0x0D = true ∧ s2.me.trace.tail = [] ∧ s2.me.trace.loss = 0) ∧
    (∃ g a s s1 s2 v, ∃ imm : Imm, Issues (markInfo g (formLen imm.form) [a]) s s1 ∧ Gives (readS a) s1 v s2 ∧
      s2.me.trace.opened = false ∧ (s2.part s2.myPart).replay.mode = .off) ∧
    (∃ g form s s1, Issues (markInfo g (formLen form) []) s s1 ∧ s1.me.trace.loss = 0) :=
  ⟨⟨0, 0, tracing true [], rfl, rfl, rfl⟩, ⟨0, 0, tracing false [], rfl, rfl, rfl⟩,
   ⟨0, s0.modCore 0 (fun y => { y with foghornDue := true }), rfl, rfl, rfl⟩, ⟨0, 0, _, _, tracing false [[1, 2], [3]], rfl, rfl⟩,
   ⟨on, .x 2, tracing false [], _, _, _, ⟨.h96, 5⟩, rfl, rfl, rfl, rfl, rfl, rfl⟩, ⟨on, .x 2, s0, _, _, _, ⟨.h96, 5⟩, rfl, rfl, rfl, rfl⟩,
   ⟨on, .h96, s0, _, rfl, rfl⟩⟩

/-- Context 3 of core 0 runs with this deadline at cycle 100, and this request. -/
def deadline (d : Word) (p : Option Pend) : State := (s0.modCore 0 (fun y => { y with cyc := 100 })).modCtx 0 3 (fun x =>
  { x with run := .held, ydl := d, pend := p })

/-- Partition 0 stops; core 0 has stopped when `c`; its context 0 has a buffered write. -/
def preempting (c : Bool) : State :=
  let s := (s0.modCore 0 (fun y => { y with cyc := 100 })).modPart 0 (fun p => { p with started := true, resident := true, stopping := true })
  { s.modCtx 0 0 (fun x => { x with run := .held, stopped := c }) with
    mem := { bufs := [{ agent := .ctx 0 0, stamp := 1, cells := [(8, 5)] }], own := [(.ctx 0 0, [(8, 1)])], next := 2 } }

theorem wit_preemption :
    (∃ g rd s s1 s2, Issues { infoOf g 8 1 [] [] [rd] [] with side := true } s s1 ∧ Gives (checkS rd) s1 () s2 ∧ s1.me.ydl = 0) ∧
    (∃ g rd s s1 s2, Issues { infoOf g 8 1 [] [] [rd] [] with side := true } s s1 ∧ Gives (checkS rd) s1 () s2 ∧ s1.me.ydl ≠ 0 ∧
      ((s2.putS rd 1).retire 8).loopsOf ((s2.putS rd 1).retire 8).cc ((s2.putS rd 1).retire 8).ck = []) ∧
    (∃ c k, ∃ s : State, s.runs c = true ∧ k ∈ s.ctxsOf c ∧ s.expired c k = true ∧ s.atBoundary c k = true ∧ s.loopsOf c k = [] ∧
      ∀ j ∈ s.ctxsOf c, j ≠ k → s.expired c j = false) ∧
    (∃ c, ∃ s : State, ∀ k ∈ s.ctxsOf c, s.expired c k = true → s.atBoundary c k = false) ∧
    (∃ p, ∃ s : State, s.power = .on ∧ (s.part p).started = true ∧ (s.part p).resident = true ∧ (s.part p).stopping = true ∧
      (s.part p).preempted = false ∧ ∀ c ∈ s.coresIn p, s.coreStopped c = true) ∧
    (∃ p c, ∃ s : State, c ∈ s.coresIn p ∧ s.coreStopped c = false) :=
  ⟨⟨on, .x 1, s0, _, _, rfl, rfl, rfl⟩, ⟨on, .x 1, me (fun x => { x with ydl := 5 }), _, _, rfl, rfl, by decide, rfl⟩,
   ⟨0, 3, deadline 99 none, rfl, by decide, by decide, rfl, rfl, by decide⟩,
   ⟨0, deadline 99 (some { kind := .value [] }), by decide⟩,
   ⟨0, preempting true, rfl, rfl, rfl, rfl, rfl, by decide⟩, ⟨0, 0, preempting false, by decide, by decide⟩⟩

/-- What a computation of the thread gives. -/
theorem gives_of {α : Type} (m : M α) (s : State) (h : (m s).isOk = true) : ∃ v t, Gives m s v t := by
  unfold Gives
  match m s, h with
  | .ok (v, t), _ => exact ⟨v, t, rfl⟩

/-- A service core acts; x2 and x3 hold these words; granule 0 of die 0 is partition 0's; context 5 of core 0 is this. -/
def imaging (a b : Word) (x : Ctx) : State :=
  { (((s0.modDie 0 (fun d => { d with granules := d.granules.set 0 { valid := true } })).modCtx 8192 0 (fun y => (y.setX 2 a).setX 3 b)).modCtx
      0 5 (fun _ => x)) with cur := (8192, 0) }

theorem wit_imageFaults :
    (∃ g xa xc s s1 s2 s3 a t, Issues (imgInfo g xa xc s) s s1 ∧ Gives (readS xa) s1 a s2 ∧ Gives (readS xc) s2 t s3 ∧
      t &&& ~~~0xF_1FFF ≠ 0) ∧
    (∃ g xa xc s s1 s2 s3 a t, Issues (imgInfo g xa xc s) s s1 ∧ Gives (readS xa) s1 a s2 ∧ Gives (readS xc) s2 t s3 ∧
      t &&& ~~~0xF_1FFF = 0 ∧ spaceOf a.toNat ≠ 0x0 ∧ spaceOf a.toNat ≠ 0xB) ∧
    (∃ g xa xc s s1 s2 s3 a t, Issues (imgInfo g xa xc s) s s1 ∧ Gives (readS xa) s1 a s2 ∧ Gives (readS xc) s2 t s3 ∧
      t &&& ~~~0xF_1FFF = 0 ∧ spaceOf a.toNat = 0xB ∧ a.toNat % 128 ≠ 0) ∧
    (∃ g xa xc s s1 s2 s3 a t, Issues (imgInfo g xa xc s) s s1 ∧ Gives (readS xa) s1 a s2 ∧ Gives (readS xc) s2 t s3 ∧
      t &&& ~~~0xF_1FFF = 0 ∧ spaceOf a.toNat = 0xB ∧ a.toNat % 128 = 0 ∧
      savable (s3.ctx (s3.ownerOn (t.extractLsb' 0 13).toNat (t.extractLsb' 16 4).toNat) (t.extractLsb' 16 4).toNat) = false) :=
  ⟨⟨on, .x 2, .x 3, imaging 0 0x2000 {}, _, _, _, _, _, rfl, rfl, rfl, by decide⟩,
   ⟨on, .x 2, .x 3, imaging 0xA000_0000_0000_0000 0xF_1FFF {}, _, _, _, _, _, rfl, rfl, rfl, by decide, by decide, by decide⟩,
   ⟨on, .x 2, .x 3, imaging 0xB000_0000_0000_0040 0x5_0000 {}, _, _, _, _, _, rfl, rfl, rfl, by decide, by decide, by decide⟩,
   ⟨on, .x 2, .x 3, imaging 0xB000_0000_0000_0080 0x5_0000 { run := .held, vctx := 5 }, _, _, _, _, _, rfl, rfl, rfl, by decide, by decide, by decide, by decide⟩⟩

theorem locsFrom_length (l n : Nat) : (locsFrom l n).length = n := by
  induction n generalizing l with
  | zero => rfl
  | succ n ih => simp [locsFrom, ih]

theorem locsFrom_le (l n : Nat) : ∀ x ∈ locsFrom l n, l ≤ x := by
  induction n generalizing l with
  | zero => intro x h; cases h
  | succ n ih =>
    intro x h
    cases h with
    | head => exact Nat.le_refl _
    | tail _ h => exact Nat.le_of_succ_le (ih (l + 1) x h)

theorem locsFrom_nodup (l n : Nat) : (locsFrom l n).Nodup := by
  induction n generalizing l with
  | zero => exact List.nodup_nil
  | succ n ih =>
    exact List.nodup_cons.mpr ⟨fun h => Nat.not_succ_le_self l (locsFrom_le (l + 1) n l h), ih (l + 1)⟩

/-- Where CSAVE puts the image. -/
def saving : State := imaging 0xB000_0000_0000_0080 0x5_0000 { run := .held, stopped := true, vctx := 5 }

theorem saving_length : (saving.begun.image (saving.begun.ownerOn ((0x5_0000 : Word).extractLsb' 0 13).toNat ((0x5_0000 : Word).extractLsb' 16 4).toNat)
    ((0x5_0000 : Word).extractLsb' 16 4).toNat).length = 4992 := by decide +kernel

theorem saving_locs : ∃ s4, Gives (locM { w := true } [0x0, 0xB] (0xB000_0000_0000_0080 : Word).toNat 4992 128) saving.begun
    (locsFrom (3 * 2 ^ 56 + 128) 4992) s4 ∧ Gives (checkWaiters (0xB000_0000_0000_0080 : Word).toNat (locsFrom (3 * 2 ^ 56 + 128) 4992)) s4 () s4 :=
  ⟨_, rfl, rfl⟩

theorem wit_imageSaved : ∃ g xa xc s s1 s2 s3 a t ls s4, Issues (imgInfo g xa xc s) s s1 ∧ Gives (readS xa) s1 a s2 ∧
    Gives (readS xc) s2 t s3 ∧ t &&& ~~~0xF_1FFF = 0 ∧ spaceOf a.toNat = 0xB ∧ a.toNat % 128 = 0 ∧
    savable (s3.ctx (s3.ownerOn (t.extractLsb' 0 13).toNat (t.extractLsb' 16 4).toNat) (t.extractLsb' 16 4).toNat) = true ∧
    (s3.cluster (s3.clusterOf s3.cc)).bps = [] ∧
    Gives (locM { w := true } [0x0, 0xB] a.toNat
      (s3.image (s3.ownerOn (t.extractLsb' 0 13).toNat (t.extractLsb' 16 4).toNat) (t.extractLsb' 16 4).toNat).length 128) s3 ls s4 ∧
    Gives (checkWaiters a.toNat ls) s4 () s4 ∧
    ls.length = (s3.image (s3.ownerOn (t.extractLsb' 0 13).toNat (t.extractLsb' 16 4).toNat) (t.extractLsb' 16 4).toNat).length ∧ ls.Nodup := by
  obtain ⟨s4, h, k⟩ := saving_locs
  exact ⟨on, .x 2, .x 3, saving, saving.begun, saving.begun, saving.begun, 0xB000_0000_0000_0080, 0x5_0000, _, s4, rfl, rfl, rfl,
    by decide, by decide, by decide, by decide, rfl, by rw [saving_length]; exact h, k, by rw [saving_length]; exact locsFrom_length _ _, locsFrom_nodup _ _⟩

/-- A memory in which an agent's view names some writes that no store holds. -/
def seenBy (a : Agent) (t : Tbl Held) : MemSys := { views := [(a, t)], next := 2 }

theorem seenBy_view (a : Agent) (t : Tbl Held) (l : Nat) : (seenBy a t).view a l = tgetD t l default := by
  simp [seenBy, MemSys.view, aget]

theorem seenBy_candidates (a : Agent) (t : Tbl Held) (l : Nat) : (seenBy a t).candidates a l =
    if (tgetD t l default).stamp = 0 then [tgetD t l default, default, default, default] else [tgetD t l default] := by
  unfold MemSys.candidates
  rw [seenBy_view, show (seenBy a t).dHeld l = default from rfl, show (seenBy a t).yHeld l = default from rfl,
    show tgetD (seenBy a t).floor l default = default from rfl, show (seenBy a t).g = [] from rfl]
  split
  · rename_i h; simp [h]
  · rename_i h; simp [h, show (default : Held).stamp = 0 from rfl]

theorem seenBy_pick (a : Agent) (t : Tbl Held) (l i : Nat) : (seenBy a t).pick a (byteCut 0 i) 0 l = tgetD t l default := by
  unfold MemSys.pick
  rw [seenBy_candidates, show byteCut 0 i = 0 from rfl]
  split
  · rename_i h; simp [chooseHeld, h, show (default : Held).stamp = 0 from rfl]
  · simp [chooseHeld]

theorem seenBy_beside (a : Agent) (t : Tbl Held) (hs : List Held) (l : Nat) : (seenBy a t).beside hs l = 0 := by
  unfold MemSys.beside
  rw [show (seenBy a t).units = [] from rfl]
  induction hs with
  | nil => rfl
  | cons h r ih => simpa [tgetD, tget] using ih

theorem seenBy_picks (a : Agent) (t : Tbl Held) (ls is : List Nat) (h : is.length = ls.length) :
    (ls.zip ((ls.map (fun _ => 0)).zip is)).map (fun p => (seenBy a t).pick a (byteCut 0 p.2.2) p.2.1 p.1) = ls.map (fun l => tgetD t l default) := by
  induction ls generalizing is with
  | nil => rfl
  | cons l r ih =>
    cases is with
    | nil => cases h
    | cons i is => simp only [List.map_cons, List.zip_cons_cons, seenBy_pick, ih is (Nat.succ.inj h)]

theorem seenBy_chosen (a : Agent) (t : Tbl Held) (ls : List Nat) : (seenBy a t).chosen a 0 ls = ls.map (fun l => tgetD t l default) := by
  unfold MemSys.chosen
  have hs := seenBy_picks a t ls (List.range ls.length) List.length_range
  cases hn : ls.length * ((seenBy a t).g.length + 4) with
  | zero => simpa [MemSys.pickAll] using hs
  | succ n =>
    simp only [MemSys.pickAll, hs]
    rw [if_pos (List.all_eq_true.mpr fun p hp => ?_)]
    obtain ⟨_, -, h⟩ := List.mem_map.mp (List.of_mem_zip hp).2
    simp [← h, seenBy_beside]

theorem seenBy_raise (a : Agent) (t : Tbl Held) (ls : List Nat) :
    (ls.zip (ls.map (fun l => tgetD t l default))).foldl (fun m p => m.raiseView a p.1 p.2) (seenBy a t) = seenBy a t := by
  induction ls with
  | nil => rfl
  | cons l r ih => simpa [MemSys.raiseView, seenBy_view] using ih

theorem seenBy_load (a : Agent) (t : Tbl Held) (ls : List Nat) : (seenBy a t).load a 0 ls =
    (ls.map (fun l => (tgetD t l default).byte), seenBy a t) := by
  simp [MemSys.load, seenBy_chosen, seenBy_raise]

theorem seenBy_open (a : Agent) (t : Tbl Held) (l : Nat) : (seenBy a t).open? a l = false := by
  unfold MemSys.open?
  rw [seenBy_candidates, seenBy_view]
  split
  · rename_i h; simp [h, show (default : Held).stamp = 0 from rfl]
  · simp

theorem seenBy_loads (s : State) (a : Agent) (t : Tbl Held) (h : s.mem = seenBy a t) (us : List (List Nat)) :
    s.loadUnits a us = (us.flatten.map (fun l => (tgetD t l default).byte), s) := by
  induction us with
  | nil => rfl
  | cons u r ih =>
    have k : s.loadNow a u = (u.map (fun l => (tgetD t l default).byte), s) := by
      have o : u.any (s.mem.open? a) = false := by rw [h]; simp [seenBy_open]
      simp only [State.loadNow, o, Bool.false_eq_true, if_false]
      rw [h, seenBy_load, ← h]
    simp [State.loadUnits, k, ih]

/-- The image at the place is zeros, with this byte at an offset. -/
def restoring (b : Byte) : State := { imaging 0xB000_0000_0000_0080 0x5_0000 {} with
  mem := seenBy (.ctx 8192 0) [(3 * 2 ^ 56 + 128 + 0x1348, ⟨1, b⟩)] }

/-- The bytes there, as CREST's loads bring them. -/
def zerosAnd (b : Byte) : List Byte := ((List.range (4992 / 8)).map (fun i => ((locsFrom (3 * 2 ^ 56 + 128) 4992).drop (8 * i)).take 8)).flatten.map
  (fun l => (tgetD [(3 * 2 ^ 56 + 128 + 0x1348, (⟨1, b⟩ : Held))] l default).byte)

theorem restoring_loads (b : Byte) (bs : List Byte) (hb : zerosAnd b = bs) : Gives (loadBytes (0xB000_0000_0000_0080 : Word).toNat 4992) (restoring b).begun
    bs (restoring b).begun := by
  have h : Gives (locM { r := true } [0x0, 0xB] (0xB000_0000_0000_0080 : Word).toNat 4992 128) (restoring b).begun
    (locsFrom (3 * 2 ^ 56 + 128) 4992) (restoring b).begun := rfl
  have w : watchCheck 1 ((List.range 4992).map (fun i => (0xB000_0000_0000_0080 : Word).toNat + i)) (restoring b).begun =
    .ok ((), (restoring b).begun) := rfl
  unfold Gives loadBytes
  rw [bind_ok w, bind_ok h, bind_ok (get_run _), show (restoring b).begun.agentOf (restoring b).begun.cc (restoring b).begun.ck = .ctx 8192 0 from rfl,
    seenBy_loads (restoring b).begun (.ctx 8192 0) [(3 * 2 ^ 56 + 128 + 0x1348, ⟨1, b⟩)] rfl, ← hb]
  rfl

theorem chunks (n : Nat) (ls : List Nat) (h : ls.length = 8 * n) :
    ((List.range n).map (fun i => (ls.drop (8 * i)).take 8)).flatten = ls := by
  induction n generalizing ls with
  | zero => rw [List.eq_nil_of_length_eq_zero h]; rfl
  | succ n ih =>
    have k := ih (ls.drop 8) (by rw [List.length_drop, h]; omega)
    rw [List.range_succ_eq_map, List.map_cons, List.map_map, List.flatten_cons]
    have e : (fun i => (ls.drop (8 * i)).take 8) ∘ Nat.succ = fun i => ((ls.drop 8).drop (8 * i)).take 8 := by
      funext i; simp [List.drop_drop]; congr 2; omega
    rw [e, k]; simp

theorem locsFrom_append (l m n : Nat) : locsFrom l (m + n) = locsFrom l m ++ locsFrom (l + m) n := by
  induction m generalizing l with
  | zero => simp [locsFrom]
  | succ m ih => rw [Nat.succ_add]; simp [locsFrom, ih, Nat.add_assoc, Nat.add_comm 1 m]

theorem zerosFrom (k : Nat) (b : Byte) (l n : Nat) (h : k < l ∨ l + n ≤ k) :
    (locsFrom l n).map (fun l => (tgetD [(k, (⟨1, b⟩ : Held))] l default).byte) = List.replicate n 0 := by
  induction n generalizing l with
  | zero => rfl
  | succ n ih =>
    simp only [locsFrom, List.map_cons, List.replicate_succ]
    rw [ih (l + 1) (by omega)]
    have : k ≠ l := by omega
    simp [tgetD, tget, this, show (default : Held).byte = 0 from rfl]

theorem zerosAnd_eq (b : Byte) : zerosAnd b = List.replicate 0x1348 0 ++ b :: List.replicate 55 0 := by
  have l := zerosFrom (3 * 2 ^ 56 + 128 + 0x1348) b (3 * 2 ^ 56 + 128) 0x1348 (.inr (by decide))
  have r := zerosFrom (3 * 2 ^ 56 + 128 + 0x1348) b (3 * 2 ^ 56 + 128 + 0x1348 + 1) 55 (.inl (by decide))
  have m : (locsFrom (3 * 2 ^ 56 + 128 + 0x1348) 1).map (fun l => (tgetD [(3 * 2 ^ 56 + 128 + 0x1348, (⟨1, b⟩ : Held))] l default).byte) = [b] := by
    simp [locsFrom, tgetD, tget]
  unfold zerosAnd
  rw [chunks (4992 / 8) _ (locsFrom_length _ _), show 8 * (4992 / 8) = 0x1348 + (1 + 55) from rfl, locsFrom_append, locsFrom_append, List.map_append,
    List.map_append, l, m, r]
  rfl

theorem zeros_loaded : zerosAnd 0 = List.replicate 0x1348 0 ++ 0 :: List.replicate 55 0 := zerosAnd_eq 0
theorem one_loaded : zerosAnd 1 = List.replicate 0x1348 0 ++ 1 :: List.replicate 55 0 := zerosAnd_eq 1

theorem wit_imageRestored :
    (∃ g xa xc s s1 s2 s3 a t head bs s4 s5, ∃ v : State, Issues (imgInfo g xa xc s) s s1 ∧ Gives (readS xa) s1 a s2 ∧ Gives (readS xc) s2 t s3 ∧
      t &&& ~~~0xF_1FFF = 0 ∧ spaceOf a.toNat = 0xB ∧ a.toNat % 128 = 0 ∧
      (s3.ctx (s3.ownerOn (t.extractLsb' 0 13).toNat (t.extractLsb' 16 4).toNat) (t.extractLsb' 16 4).toNat).run = .vacant ∧
      Gives (loadBytes a.toNat (imgLen 0)) s3 head s4 ∧ Gives (loadBytes a.toNat (imgLen (min (imgAt head 0x1340 8) 2))) s4 bs s5 ∧
      s5.imageLoad (t.extractLsb' 0 13).toNat (t.extractLsb' 16 4).toNat bs = some v) ∧
    (∃ g xa xc s s1 s2 s3 a t head bs s4 s5, Issues (imgInfo g xa xc s) s s1 ∧ Gives (readS xa) s1 a s2 ∧ Gives (readS xc) s2 t s3 ∧
      t &&& ~~~0xF_1FFF = 0 ∧ spaceOf a.toNat = 0xB ∧ a.toNat % 128 = 0 ∧
      (s3.ctx (s3.ownerOn (t.extractLsb' 0 13).toNat (t.extractLsb' 16 4).toNat) (t.extractLsb' 16 4).toNat).run = .vacant ∧
      Gives (loadBytes a.toNat (imgLen 0)) s3 head s4 ∧ Gives (loadBytes a.toNat (imgLen (min (imgAt head 0x1340 8) 2))) s4 bs s5 ∧
      s5.imageLoad (t.extractLsb' 0 13).toNat (t.extractLsb' 16 4).toNat bs = none) := by
  have good : ((restoring 0).begun.imageLoad ((0x5_0000 : Word).extractLsb' 0 13).toNat ((0x5_0000 : Word).extractLsb' 16 4).toNat
    (List.replicate 0x1348 0 ++ 0 :: List.replicate 55 0)).isSome = true := by decide +kernel
  have bad : ((restoring 1).begun.imageLoad ((0x5_0000 : Word).extractLsb' 0 13).toNat ((0x5_0000 : Word).extractLsb' 16 4).toNat
    (List.replicate 0x1348 0 ++ 1 :: List.replicate 55 0)).isNone = true := by decide +kernel
  have n : imgLen (min (imgAt (List.replicate 0x1348 0 ++ 0 :: List.replicate 55 0) 0x1340 8) 2) = 4992 := by decide +kernel
  have m : imgLen (min (imgAt (List.replicate 0x1348 0 ++ 1 :: List.replicate 55 0) 0x1340 8) 2) = 4992 := by decide +kernel
  obtain ⟨v, hv⟩ := Option.isSome_iff_exists.mp good
  have h0 := restoring_loads 0 _ zeros_loaded
  have h1 := restoring_loads 1 _ one_loaded
  exact ⟨⟨on, .x 2, .x 3, restoring 0, (restoring 0).begun, (restoring 0).begun, (restoring 0).begun, 0xB000_0000_0000_0080, 0x5_0000, _, _, _, _, v,
      rfl, rfl, rfl, by decide, by decide, by decide, rfl, h0, by rw [n]; exact h0, hv⟩,
    ⟨on, .x 2, .x 3, restoring 1, (restoring 1).begun, (restoring 1).begun, (restoring 1).begun, 0xB000_0000_0000_0080, 0x5_0000, _, _, _, _,
      rfl, rfl, rfl, by decide, by decide, by decide, rfl, h1, by rw [m]; exact h1, Option.isNone_iff_eq_none.mp bad⟩⟩

/-- Context 0 of core 0 runs. -/
def running (f : Ctx → Ctx) : State := s0.modCtx 0 0 (fun x => f { x with run := .held })

/-- Core 5 is at home on core 0, whose image is core 0's; context 1 of core 5 waits for its own; `w` is in core 0's weight queue. -/
def folded (w : List WAcc) : State :=
  ((s0.modCore 0 (fun y => { y with wq := w, mask := 1 })).modCore 5 (fun y => { y with home := 0, mask := 2 })).modCtx 5 1 (fun x =>
    { x with run := .held, wait := some (.wmem, .fold 0 5) })

/-- Contexts 0 and 1 wait for a walk of the first page. -/
def missed : State := (running (fun x => { x with wait := some (.wmem, .walked 0 0 0) })).modCluster 0 (fun y =>
  { y with misses := [{ part := 0, page := 0, joined := [(0, 0, 0)] }] }) |>.modDie 0 (fun d => { d with walkq := [(0, 0, 0)] })

theorem wit_cycle :
    (∃ p, ∃ s : State, s.clocked p = false) ∧
    (∃ p, ∃ s : State, s.clocked p = true ∧ s.expired (s.ownerOn p ((s.core p).cyc.toNat % 16)) ((s.core p).cyc.toNat % 16) = true) ∧
    (∃ p c k, ∃ s : State, s.clocked p = true ∧ k = (s.core p).cyc.toNat % 16 ∧ c = s.ownerOn p k ∧ (s.ctx c k).stepDue = false ∧
      s.expired c k = false ∧ s.periodFirst p = false ∧ s.ready c k = true) ∧
    (∃ p c k, ∃ s : State, s.clocked p = true ∧ k = (s.core p).cyc.toNat % 16 ∧ c = s.ownerOn p k ∧ (s.ctx c k).stepDue = false ∧
      s.expired c k = false ∧ s.periodFirst p = false ∧ s.ready c k = false ∧ (s.core c).home = p ∧ (s.ctx c k).wait = none) ∧
    (∃ c k, ∃ s : State, ∃ block : Word, s.runs c = true ∧ (s.ctx c k).run = .held ∧ (s.ctx c k).fetched = [] ∧
      ∀ l ∈ s.blockLocs (s.viaThread c k) (blockOf block.toNat), l = none) ∧
    (∃ c k l, ∃ s : State, ∃ block : Word, s.runs c = true ∧ (s.ctx c k).run = .held ∧ (s.ctx c k).fetched = [] ∧
      some l ∈ s.blockLocs (s.viaThread c k) (blockOf block.toNat) ∧
      ((s.blockLocs (s.viaThread c k) (blockOf block.toNat)).filterMap id).Nodup) ∧
    (∃ cl, ∃ i : Nat, ∃ m, ∃ s : State, (s.cluster cl).misses[i]? = some m ∧ s.power = .on ∧ (s.cluster cl).frozen = false ∧
      ((s.die (dieOfCl cl)).walkq.take 64).contains (cl, m.part, m.page) = true ∧ (s.cluster cl).missWait = [] ∧
      ∃ j ∈ m.joined, (s.ctx j.1 j.2.1).wait.map Prod.snd = some (.walked cl m.part j.2.2) ∧
        (s.walk m.part (m.page * 2 ^ 19)).covers m.page j.2.2 = true) ∧
    (∃ p v cls k, ∃ s : State, s.runs p = true ∧ (s.core v).home = p ∧ (s.core p).image.getD p ≠ v ∧ k ∈ s.ctxsOf v ∧
      (s.ctx v k).wait = some (cls, .fold p v) ∧ (s.core ((s.core p).image.getD p)).wq = [] ∧ s.laneBusy ((s.core p).image.getD p) = false) ∧
    (∃ p v cls k, ∃ s : State, s.runs p = true ∧ (s.core v).home = p ∧ (s.core p).image.getD p ≠ v ∧ k ∈ s.ctxsOf v ∧
      (s.ctx v k).wait = some (cls, .fold p v) ∧ (s.core ((s.core p).image.getD p)).wq ≠ []) :=
  ⟨⟨0, {}, by decide⟩,
   ⟨0, (s0.modCore 0 (fun y => { y with cyc := 115 })).modCtx 0 3 (fun x => { x with run := .held, ydl := 114 }), by decide, by decide⟩,
   ⟨0, _, _, running id, by decide, rfl, rfl, by decide, by decide, by decide, by decide⟩,
   ⟨0, _, _, s0, by decide, rfl, rfl, by decide, by decide, by decide, by decide, by decide, by decide⟩,
   ⟨0, 0, running id, 0x40, rfl, rfl, rfl, by decide⟩,
   ⟨0, 0, 2 ^ 56 + 64, running id, 0x8000_0000_0000_0050, rfl, rfl, rfl, by decide, by decide⟩,
   ⟨0, 0, _, missed, rfl, rfl, rfl, rfl, rfl, _, List.mem_cons_self, rfl, rfl⟩,
   ⟨0, 5, _, 1, folded [], rfl, rfl, by decide, by decide, rfl, rfl, by decide +kernel⟩,
   ⟨0, 5, _, 1, folded [{ ctx := 0, lo := 0, hi := 16 }], rfl, rfl, by decide, by decide, rfl, by decide⟩⟩

/-- Whether an image verifies is free: the first two clauses cover a boot in either case, and so do the two of a commit. -/
theorem wit_boot :
    (∀ s : State, s.power = .off → (s.torn = false ∧ Config.verifies s.store = true) ∨ (s.torn = true ∨ Config.verifies s.store = false)) ∧
    (∃ s : State, s.power = .off ∧ s.torn = true) ∧ (∃ s : State, s.power ≠ .off ∧ s.torn = true) ∧
    (∃ s : State, s.power = .recovery ∧ (Config.verifies s.staged = true ∨ Config.verifies s.staged = false)) ∧
    (∃ s : State, s.power = .on ∧ 2 ^ 40 < (if s.keyUsed < s.keyWindow then s.keyUsed else s.keyNext) + 1024) ∧
    (∃ s : State, s.power = .on ∧ (if s.keyUsed < s.keyWindow then s.keyUsed else s.keyNext) + 1024 ≤ 2 ^ 40 ∧
      s.keyUsed ≤ s.keyNext ∧ s.keyWindow ≤ s.keyNext) := by
  refine ⟨fun s _ => ?_, ⟨{ torn := true }, rfl, rfl⟩, ⟨{ torn := true, power := .on }, by decide, rfl⟩, ⟨{ power := .recovery }, rfl, ?_⟩,
    ⟨{ power := .on, keyNext := 2 ^ 40 }, rfl, by decide⟩, ⟨{ power := .on, keyNext := 2 ^ 40 - 1024 }, rfl, by decide, by decide, by decide⟩⟩
  · cases s.torn <;> cases Config.verifies s.store <;> simp
  · cases Config.verifies ({ power := .recovery } : State).staged <;> simp

theorem wit_links :
    (∃ s : State, s.power = .on) ∧ (∃ s : State, ∃ (die : Fin 4) (dst : BitVec 16), s.power = .on ∧ tgetD (tgetD s.fwd die.val []) dst.toNat 0 = 0) ∧
    (∃ s : State, ∃ (die : Fin 4) (dst : BitVec 32) (p : Packet), s.power = .on ∧ tgetD (tgetD s.fwd die.val []) dst.toNat 0 ≠ 0 ∧ p.mode = .rud) ∧
    (∃ s : State, ∃ (die : Fin 4) (dst : BitVec 32) (p : Packet), s.power = .on ∧ tgetD (tgetD s.fwd die.val []) dst.toNat 0 ≠ 0 ∧ p.mode = .idempotent) ∧
    (∃ cl i, ∃ (s : State) (e : Task), s.power = .on ∧ tget (s.cluster cl).sram i = some e ∧ e.poisoned = false ∧ i < 256) :=
  ⟨⟨s0, rfl⟩, ⟨s0, 3, 7, rfl, rfl⟩, ⟨{ s0 with fwd := [(3, [(7, 1)])] }, 3, 7, { payload := [], mode := .rud }, rfl, by decide, rfl⟩,
   ⟨{ s0 with fwd := [(3, [(7, 1)])] }, 3, 7, { payload := [], mode := .idempotent }, rfl, by decide, rfl⟩, ⟨0, 1, dispensing 0 0, _, rfl, rfl, rfl, by decide⟩⟩

/-- A host request with this body. -/
def asking (part : Nat) (body : List Byte) (op : Nat := 11) : HostReq :=
  { ver := 1, op, flags := 0, part, scn := 0, rsv := 0, seq := 7, len := body.length, htag := 9, body }

/-- Service core 0 takes requests; partition 1 is there; the system store names this memory. -/
def serving (d : Memory) : State := { ((s0.modPart 1 (fun p => { p with started := true, resident := true, ranges := [(0, 2 ^ 24)]
                                                                        trt := 1 })).modPart 0 (fun p =>
  { p with started := true, resident := true, ranges := [(0, 2 ^ 24)], trt := 1 })) with
  services := [(0, { released := true })], mem := { d } }

/-- A request reaches a service core whose command would run now. -/
abbrev Asks (i : Instr) (r : HostReq) (op : Nat) (p0 : Bool) (f : State → Option Ans) (s : State) : Prop :=
  Claim.command i r op p0 f ∧ s.power = .on ∧ (f (s.svcBegin r.scn)).isSome = true

/-- The service core of a request is there. -/
abbrev Here (r : HostReq) (s : State) : Prop := r.scn < 128 ∧ (tgetD s.services r.scn {}).gone = false

theorem wit_hostRequests :
    (∃ i r op p0 f s, Asks i r op p0 f s ∧ r.mode.unused = true) ∧
    (∃ i r op p0 f s, Asks i r op p0 f s ∧ r.mode.unused = false ∧ r.op ≠ op ∧ 1 ≤ r.op ∧ r.op ≤ 11) ∧
    (∃ i r op p0 f s, Asks i r op p0 f s ∧ r.mode.unused = false ∧ r.op = op ∧ ¬Here r s) ∧
    (∃ i r op p0 f s, Asks i r op p0 f s ∧ r.mode.unused = false ∧ r.op = op ∧ ¬Claim.header r) ∧
    (∃ i r op p0 f s, Asks i r op p0 f s ∧ r.mode.unused = false ∧ 11 < r.op ∧ r.op ≠ op) ∧
    (∃ i r op p0 f s, Asks i r op p0 f s ∧ r.mode.unused = false ∧ Here r s ∧ Claim.header r ∧ r.op = op ∧
      (tgetD s.services r.scn {}).released = true ∧ p0 = true ∧ r.part ≠ 0) ∧
    (∃ i r op p0 f s a, Asks i r op p0 f s ∧ r.mode.unused = false ∧ Here r s ∧ Claim.header r ∧ r.op = op ∧
      (tgetD s.services r.scn {}).released = true ∧ (p0 = true → r.part = 0) ∧ s.present r.part = true ∧
      (s.part r.part).replay.mode = .off ∧ f (Claim.heard s r) = some a ∧ a.later = false ∧ a.status = 0) ∧
    (∃ i r op p0 f, ∃ s : State, Claim.command i r op p0 f ∧ s.power = .recovery ∧ r.mode.unused = false ∧ Here r s ∧ Claim.header r ∧
      r.op = op ∧ op ≠ 2 ∧ op ≠ 11) :=
  ⟨⟨_, { asking 0 [] with mode := .idempotent }, _, _, _, serving [], ⟨.inr (.inr (.inr (.inr (.inr (.inr (.inr (.inr (.inr (.inr (.inr ⟨rfl, rfl, rfl, rfl⟩)))))))))), rfl, rfl⟩, rfl⟩,
   ⟨_, asking 0 [] 7, _, _, _, serving [], ⟨.inr (.inr (.inr (.inr (.inr (.inr (.inr (.inr (.inr (.inr (.inr ⟨rfl, rfl, rfl, rfl⟩)))))))))), rfl, rfl⟩, rfl, by decide, by decide, by decide⟩,
   ⟨_, { asking 0 [] with scn := 128 }, _, _, _, serving [], ⟨.inr (.inr (.inr (.inr (.inr (.inr (.inr (.inr (.inr (.inr (.inr ⟨rfl, rfl, rfl, rfl⟩)))))))))), rfl, rfl⟩, rfl, rfl, by decide⟩,
   ⟨_, { asking 0 [] with ver := 2 }, _, _, _, serving [], ⟨.inr (.inr (.inr (.inr (.inr (.inr (.inr (.inr (.inr (.inr (.inr ⟨rfl, rfl, rfl, rfl⟩)))))))))), rfl, rfl⟩, rfl, rfl, by unfold Claim.header; decide⟩,
   ⟨_, asking 0 [] 12, _, _, _, serving [], ⟨.inr (.inr (.inr (.inr (.inr (.inr (.inr (.inr (.inr (.inr (.inr ⟨rfl, rfl, rfl, rfl⟩)))))))))), rfl, rfl⟩, rfl, by decide, by decide⟩,
   ⟨_, asking 1 [] 7, _, _, _, serving [], ⟨.inr (.inr (.inr (.inr (.inr (.inr (.inl ⟨rfl, rfl, rfl, rfl⟩)))))), rfl, rfl⟩, rfl, by decide, by unfold Claim.header; decide, rfl, rfl, rfl, by decide⟩,
   ⟨_, asking 1 [], _, _, _, serving [], _, ⟨.inr (.inr (.inr (.inr (.inr (.inr (.inr (.inr (.inr (.inr (.inr ⟨rfl, rfl, rfl, rfl⟩)))))))))), rfl, rfl⟩, rfl, by decide, by unfold Claim.header; decide, rfl, rfl, nofun, rfl, rfl, rfl, rfl,
    rfl⟩,
   ⟨_, asking 1 [] 7, _, _, _, { serving [] with power := .recovery }, .inr (.inr (.inr (.inr (.inr (.inr (.inl ⟨rfl, rfl, rfl, rfl⟩)))))), rfl, rfl, by decide, by unfold Claim.header; decide, rfl, by decide,
    by decide⟩⟩

theorem wit_refusedCommands :
    ∃ i r op p0 f a, ∃ s : State, Claim.command i r op p0 f ∧ f s = some a ∧ a.status = 1 :=
  ⟨_, asking 0 [1], _, _, _, _, serving [], .inr (.inr (.inr (.inr (.inr (.inr (.inr (.inr (.inr (.inr (.inr ⟨rfl, rfl, rfl, rfl⟩)))))))))),
      rfl, rfl⟩

theorem wit_hostMemory :
    (∃ r : HostReq, 8 ≤ r.len ∧ spaceOf (wordAt r.body 0).toNat ∉ [0x0, 0xA, 0xB, 0xC]) ∧
    (∃ r : HostReq, ∃ s : State, ∃ ls : List Nat, 8 ≤ r.len ∧ spaceOf (wordAt r.body 0).toNat ∈ [0x0, 0xA, 0xB, 0xC] ∧ ls.Nodup ∧
      ls.length < (r.body.drop 8).length ∧ 0 < ls.length ∧ (ls.length ≤ 1 ∨ ∀ l ∈ ls, l / 8 * 8 ∉ s.mem.empty) ∧
      (∀ i < ls.length, spaceOf (wordAt r.body 0 + BitVec.ofNat 64 i).toNat ≠ 0xC ∧
        s.svcByte r.part { w := true } [0x0, 0xA, 0xB, 0xC] (wordAt r.body 0 + BitVec.ofNat 64 i) = .ok (ls.getD i 0)) ∧
      s.svcByte r.part { w := true } [0x0, 0xA, 0xB, 0xC] (wordAt r.body 0 + BitVec.ofNat 64 ls.length) = .error
          (Claim.faultStatus (wordAt r.body 0 + BitVec.ofNat 64 ls.length))) ∧
    (∃ r : HostReq, ∃ s : State, ∃ ls : List Nat, 8 ≤ r.len ∧ spaceOf (wordAt r.body 0).toNat ∈ [0x0, 0xA, 0xB, 0xC] ∧ ls.Nodup ∧
      ls.length = (r.body.drop 8).length ∧ 0 < ls.length ∧ (ls.length ≤ 1 ∨ ∀ l ∈ ls, l / 8 * 8 ∉ s.mem.empty) ∧
      (∀ i < ls.length, spaceOf (wordAt r.body 0 + BitVec.ofNat 64 i).toNat ≠ 0xC ∧
        s.svcByte r.part { w := true } [0x0, 0xA, 0xB, 0xC] (wordAt r.body 0 + BitVec.ofNat 64 i) = .ok (ls.getD i 0))) ∧
    (∃ r : HostReq, r.len = 16 ∧ numAt r.body 8 4 = 1048569) ∧
    (∃ r : HostReq, ∃ s : State, ∃ ls : List Nat, r.len = 16 ∧ zerosAt r.body 12 4 = true ∧ 1 ≤ numAt r.body 8 4 ∧ numAt r.body 8 4 ≤ 1048568 ∧
      spaceOf (wordAt r.body 0).toNat ∈ [0x0, 0xA, 0xB, 0xC] ∧ ls.Nodup ∧ ls.length = numAt r.body 8 4 ∧
      (∀ i < numAt r.body 8 4, s.svcByte r.part { r := true } [0x0, 0xA, 0xB, 0xC] (wordAt r.body 0 + BitVec.ofNat 64 i) = .ok (ls.getD i 0)) ∧
      s.mem.badAt ls = none) ∧
    (∃ r : HostReq, ∃ s : State, Here r s ∧ r.mode.unused = false ∧ r.op = 2 ∧ Claim.header r ∧ s.power = .recovery ∧ r.part = 0 ∧ 8 < r.len ∧
      s.staging = []) :=
  ⟨⟨asking 0 [0, 0, 0, 0, 0, 0, 0, 0x10], by decide, by decide⟩,
   ⟨asking 0 [0xFF, 0xFF, 0x0F, 0, 0, 0, 0, 0xA0, 1, 2], serving [], [2 ^ 56 + 0xFFFFF], by decide, by decide, by decide, by decide, by decide, by decide,
      by intro i h; match i, h with | 0, _ => exact ⟨by decide, rfl⟩, rfl⟩,
   ⟨asking 0 [0xFE, 0xFF, 0x0F, 0, 0, 0, 0, 0xA0, 1, 2], serving [], [2 ^ 56 + 0xFFFFE, 2 ^ 56 + 0xFFFFF], by decide, by decide, by decide, by decide, by decide, by decide,
      by
        intro i h
        match i, h with
        | 0, _ => exact ⟨by decide, rfl⟩
        | 1, _ => exact ⟨by decide, rfl⟩⟩,
   ⟨asking 0 [0, 0, 0, 0, 0, 0, 0, 0xA0, 0xF9, 0xFF, 0xF, 0, 0, 0, 0, 0], by decide, by decide⟩,
   ⟨asking 0 [0xFE, 0xFF, 0x0F, 0, 0, 0, 0, 0xA0, 2, 0, 0, 0, 0, 0, 0, 0], serving [], [2 ^ 56 + 0xFFFFE, 2 ^ 56 + 0xFFFFF], by decide, by decide, by decide, by decide, by decide,
      by decide, by decide, by
        intro i h
        replace h : i < 2 := h
        match i, h with
        | 0, _ => rfl
        | 1, _ => rfl, by decide⟩,
   ⟨asking 0 [0, 0, 0, 0, 0, 0, 0, 0, 5] 2, { serving [] with power := .recovery }, by decide, rfl, rfl, by unfold Claim.header; decide, rfl, rfl, by decide, rfl⟩⟩

/-- Partition 0's tables at 0 map the first page so, partition 1's at 0x10000 so; an access of core 0, of that partition, to
0x80000 has not completed. -/
def tables (e f : List (Nat × Byte)) (busy : Option Nat) : State :=
  let s := (serving ([(1, 0x80), (0x8000, 1), (0x8001, 0x90), (0x9000, 1), (0x9001, 0xA0)] ++ e ++
    [(0x10000, 1), (0x10001, 0x80), (0x10002, 1), (0x18000, 1), (0x18001, 0x90), (0x18002, 1), (0x19000, 1), (0x19001, 0xA0), (0x19002, 1)] ++ f)).modPart 1
      (fun p => { p with trt := 0x1_0001 })
  let s : State := { s with mem := { s.mem with d := (0, 1) :: s.mem.d } }
  match busy with
  | none => s
  | some p => (s.modCore 0 (fun y => { y with partid := p })).modCtx 0 0 (fun x =>
      { x with pend := some { kind := .load [{ locs := [0x80007], own := [] }] (.scalar (.x 1) 1 false) [] } })

/-- The body of a one-record MAP. -/
def mapBody (pa e v : List Byte) : List Byte := [1, 0, 0, 0, 0, 0, 0, 0] ++ pa ++ e ++ v
/-- The leaf of the first page. -/
def lf : Leaf := { part := 0, base := 0, size := 2 ^ 19, pa := 0x8_0000, r := true, w := true, x := true, nc := false, level := 3 }
/-- Zero bytes. -/
def zs (n : Nat) : List Byte := List.replicate n 0

theorem wit_hostTables :
    (∃ r : HostReq, ∃ s : State, r.len = 32 ∧ numAt r.body 0 4 = 1 ∧ zerosAt r.body 4 4 = true ∧ numAt r.body 8 8 % 8 = 0 ∧
      numAt r.body 24 8 < 2 ^ 56 ∧ (∀ x ∈ s.path r.part (numAt r.body 24 8), x.2.1 ≠ numAt r.body 8 8)) ∧
    (∃ r : HostReq, ∃ s : State, ∃ level old, r.len = 32 ∧ numAt r.body 0 4 = 1 ∧ zerosAt r.body 4 4 = true ∧ numAt r.body 8 8 % 8 = 0 ∧
      numAt r.body 24 8 < 2 ^ 56 ∧
      (s.path r.part (numAt r.body 24 8)).find? (fun x => x.2.1 == numAt r.body 8 8) = some (level, numAt r.body 8 8, old) ∧
      numAt r.body 24 8 % pageSize level = 0 ∧ s.holdsPA r.part (numAt r.body 8 8) 8 = true ∧
      s.entryHeld r.part level (wordAt r.body 16) = true ∧
      s.leavesIn r.part (numAt r.body 24 8) (pageSize level) (pageSize level / 2 ^ 19) = [] ∧ (wordAt r.body 16).getLsbD 0 = true) ∧
    (∃ r : HostReq, ∃ s : State, ∃ pa e, r.len = 16 ∧ numAt r.body 0 8 % 2 ^ 19 = 0 ∧ numAt r.body 8 8 = 2 ^ 19 ∧ numAt r.body 0 8 + 2 ^ 19 ≤ 2 ^ 56 ∧
      (s.path r.part (numAt r.body 0 8)).getLast? = some (3, pa, e) ∧ e % 4 = 3 ∧ malformedEntry 3 e = false ∧
      s.entryBusy r.part 3 e = true) ∧
    (∃ r : HostReq, ∃ s : State, ∃ pa e, r.len = 16 ∧ numAt r.body 0 8 % 2 ^ 19 = 0 ∧ numAt r.body 8 8 = 2 ^ 19 ∧ numAt r.body 0 8 + 2 ^ 19 ≤ 2 ^ 56 ∧
      (s.path r.part (numAt r.body 0 8)).getLast? = some (3, pa, e) ∧ e % 4 = 3 ∧ malformedEntry 3 e = false ∧
      s.entryBusy r.part 3 e = false) ∧
    (∃ r : HostReq, r.len = 16 ∧ numAt r.body 8 8 = 0) ∧
    (∃ r : HostReq, ∃ s : State, r.len = 32 ∧ numAt r.body 0 8 % 2 ^ 19 = 0 ∧ numAt r.body 8 8 = 2 ^ 19 ∧ numAt r.body 0 8 + 2 ^ 19 ≤ 2 ^ 56 ∧
      1 ≤ numAt r.body 16 1 ∧ numAt r.body 16 1 ≤ 15 ∧ numAt r.body 17 1 ≤ 7 ∧ zerosAt r.body 18 6 = true ∧ numAt r.body 24 8 % 2 ^ 19 = 0 ∧
      numAt r.body 24 8 + 2 ^ 19 ≤ 2 ^ 56 ∧ (s.part (numAt r.body 16 1)).started = false) ∧
    (∃ r : HostReq, ∃ s : State, ∃ l, r.len = 32 ∧ numAt r.body 0 8 % 2 ^ 19 = 0 ∧ numAt r.body 8 8 = 2 ^ 19 ∧
      numAt r.body 0 8 + 2 ^ 19 ≤ 2 ^ 56 ∧ 1 ≤ numAt r.body 16 1 ∧ numAt r.body 16 1 ≤ 15 ∧ numAt r.body 17 1 ≤ 7 ∧ zerosAt r.body 18 6 = true ∧
      numAt r.body 24 8 % 2 ^ 19 = 0 ∧ numAt r.body 24 8 + 2 ^ 19 ≤ 2 ^ 56 ∧ (s.part (numAt r.body 16 1)).started = true ∧
      s.walk r.part (numAt r.body 0 8) = .leaf l ∧
      ∀ x pb e, (s.path (numAt r.body 16 1) (numAt r.body 24 8)).getLast? = some (x, pb, e) → x ≠ 3) ∧
    (∀ b : Bool, ∃ r : HostReq, ∃ s : State, ∃ l pa old, r.len = 32 ∧ numAt r.body 0 8 % 2 ^ 19 = 0 ∧ numAt r.body 8 8 = 2 ^ 19 ∧
      numAt r.body 0 8 + 2 ^ 19 ≤ 2 ^ 56 ∧ 1 ≤ numAt r.body 16 1 ∧ numAt r.body 16 1 ≤ 15 ∧ numAt r.body 17 1 ≤ 7 ∧ zerosAt r.body 18 6 = true ∧
      numAt r.body 24 8 % 2 ^ 19 = 0 ∧ numAt r.body 24 8 + 2 ^ 19 ≤ 2 ^ 56 ∧ (s.part (numAt r.body 16 1)).started = true ∧
      s.walk r.part (numAt r.body 0 8) = .leaf l ∧ (s.path (numAt r.body 16 1) (numAt r.body 24 8)).getLast? = some (3, pa, old) ∧
      s.entryBusy (numAt r.body 16 1) 3 old = b) := by
  refine ⟨⟨asking 0 (mapBody [8, 0xA0, 0, 0, 0, 0, 0, 0] [0x1F, 0, 8, 0, 0, 0, 0, 0] (zs 8)), tables [] [] none, by decide, by decide, by decide, by decide, by decide, by decide⟩,
    ⟨asking 0 (mapBody [0, 0xA0, 0, 0, 0, 0, 0, 0] [0x1F, 0, 8, 0, 0, 0, 0, 0] (zs 8)), tables [] [] none, 3, 0, by decide, by decide, by decide, by decide, by decide, by decide,
      by decide, by decide, by decide, by decide, by decide⟩,
    ⟨asking 0 (zs 8 ++ [0, 0, 8] ++ zs 5), tables [(0xA000, 0x1F), (0xA002, 8)] [] (some 0), 0xA000, 0x8001F, by decide, by decide, by decide, by decide, by decide, by decide, by decide, by decide⟩,
    ⟨asking 0 (zs 8 ++ [0, 0, 8] ++ zs 5), tables [(0xA000, 0x1F), (0xA002, 8)] [] none, 0xA000, 0x8001F, by decide, by decide, by decide, by decide, by decide, by decide, by decide, by decide⟩,
    ⟨asking 0 (zs 16), by decide, by decide⟩,
    ⟨asking 0 (zs 8 ++ [0, 0, 8] ++ zs 5 ++ [2] ++ zs 15), tables [] [] none, by decide, by decide, by decide, by decide, by decide, by decide, by decide, by decide, by decide, by decide, by decide⟩,
    ⟨asking 0 (zs 8 ++ [0, 0, 8] ++ zs 5 ++ [1, 7] ++ zs 6 ++ zs 6 ++ [4, 0]), tables [(0xA000, 0x1F), (0xA002, 8)] [] none, lf, by decide,
      by decide, by decide, by decide, by decide, by decide, by decide, by decide, by decide, by decide, by decide, by decide, fun x pb e h => by
        have k : (tables [(0xA000, 0x1F), (0xA002, 8)] [] none |>.path 1 (2 ^ 50)).getLast? = some (0, 66560, 0) := by decide
        have g : some (0, 66560, 0) = some (x, pb, e) := k.symm.trans h
        cases g; decide⟩,
    fun b => ?_⟩
  cases b
  · exact ⟨asking 0 (zs 8 ++ [0, 0, 8] ++ zs 5 ++ [1, 7] ++ zs 14), tables [(0xA000, 0x1F), (0xA002, 8)] [(0x1A000, 0x1F), (0x1A002, 8)] none, lf, 0x1A000, 0x8001F, by decide,
      by decide, by decide, by decide, by decide, by decide, by decide, by decide, by decide, by decide, by decide, by decide, by decide, by decide⟩
  · exact ⟨asking 0 (zs 8 ++ [0, 0, 8] ++ zs 5 ++ [1, 7] ++ zs 14), tables [(0xA000, 0x1F), (0xA002, 8)] [(0x1A000, 0x1F), (0x1A002, 8)] (some 1), lf, 0x1A000, 0x8001F, by decide,
      by decide, by decide, by decide, by decide, by decide, by decide, by decide, by decide, by decide, by decide, by decide, by decide, by decide⟩

/-- PSTART of this partition: cluster 1 and the second 512 KiB of memory. -/
def starting (p : Byte) : HostReq := asking 0 ([p] ++ zs 28 ++ [0x10] ++ zs 7 ++ [0x10] ++ zs 2 ++ [2] ++ zs 127 ++ [1] ++ zs 7 ++ [0, 0, 8] ++ zs 5 ++ [0, 0, 8] ++ zs 5)

theorem leVal_id (x : BitVec 32) : leVal (leCut 4 x.toNat) = x.toNat := by
  have h := x.isLt
  simp [leCut, leVal]
  omega

/-- GROUP of this module alone. -/
def grouping : HostReq := asking 0 ([5, 0, 1, 0, 0, 0, 0, 0] ++ leCut 4 Config.moduleId.toNat)

theorem grouping_ok : (cmdGroup grouping s0).status = 0 := by
  have n : numAt grouping.body 8 4 = Config.moduleId.toNat := leVal_id _
  have l : numAt grouping.body 2 2 = 1 := rfl
  unfold cmdGroup
  simp only [l, List.range_one, List.map_cons, List.map_nil, Nat.mul_zero, Nat.add_zero, n]
  simp [show grouping.len = 12 from rfl, show zerosAt grouping.body 1 1 = true from rfl, show zerosAt grouping.body 4 4 = true from rfl, stOk,
    show s0.routeAll [] = some s0 from rfl]

/-- SESSION of session 3: a sum of one word. -/
def defining (sop : Byte) : List Byte := [3, 0, sop] ++ zs 5 ++ (if sop = 1 then [] else [2, 5, 1, 0] ++ zs 4 ++ zs 7 ++ [0xA0] ++ [8] ++ zs 6 ++ [0xA0] ++
  [16] ++ zs 6 ++ [0xA0] ++ [24] ++ zs 6 ++ [0xA0] ++ zs 24)

/-- Session 3 of partition 1. -/
def session : Session := { part := 1, kind := 2, grp := 5, n := 1, ca := 0xA000_0000_0000_0000, cs := 0xA000_0000_0000_0008, ra := 0xA000_0000_0000_0010,
                           rs := 0xA000_0000_0000_0018 }

/-- Which peers a partition has, and so whether the forwarding table holds them, is free: the two clauses of PSTART cover either case. -/
theorem wit_hostPartitions :
    (∃ r : HostReq, ∃ s : State, pstartOk r = true ∧ (s.part (numAt r.body 0 1)).started = true) ∧
    (∃ r : HostReq, ¬(r.len < 176) ∧ numAt r.body 0 1 = 0) ∧ (∃ r : HostReq, numAt r.body 24 8 = 0x1400_0000_0000) ∧
    (∀ (s : State) p, (s.routeAll (Config.peersOf p)).isSome = true ∨ s.routeAll (Config.peersOf p) = none) ∧
    (∃ r : HostReq, ∃ s : State, pstartOk r = true ∧ (s.part (numAt r.body 0 1)).started = false ∧
      s.freeFor (numAt r.body 1 1 == 1) (bitsAt r.body 40 64) (bitsAt r.body 104 64) (rangesOf r.body (numAt r.body 168 4)) = true ∧
      (∀ q ∈ s.parts, q.2.started = false ∨ q.2.resident = false ∨ ∀ c ∈ bitsAt r.body 40 64, c ∉ q.2.clusters) ∧ bitsAt r.body 40 64 = [1] ∧
      rangesOf r.body (numAt r.body 168 4) = [(0x80000, 0x80000)]) ∧
    (∃ r : HostReq, r.len = 8 ∧ numAt r.body 0 1 = 0) ∧
    (∃ r : HostReq, ∃ s : State, r.len = 8 ∧ zerosAt r.body 1 7 = true ∧ 1 ≤ numAt r.body 0 1 ∧ numAt r.body 0 1 ≤ 15 ∧ (s.part (numAt r.body 0 1)).started = false) ∧
    (∃ r : HostReq, ∃ s : State, r.len = 8 ∧ zerosAt r.body 1 7 = true ∧ 1 ≤ numAt r.body 0 1 ∧ numAt r.body 0 1 ≤ 15 ∧
      (s.part (numAt r.body 0 1)).started = true ∧ (s.part (numAt r.body 0 1)).resident = true) ∧
    (∃ r : HostReq, r.len ≠ 0) ∧ (∃ r : HostReq, ∃ s : State, r.len = 0 ∧ r.part = 0 ∧ s.power = .recovery ∧ s.sreq = false) ∧
    (∃ r : HostReq, ∃ s : State, (cmdGroup r s).status = 0) ∧ (∃ r : HostReq, ∃ s : State, (cmdDefine r s).status = 0) ∧
    (∃ r : HostReq, ∃ s : State, (cmdRemove r s).status = 0 ∧ (s.sessions.map Prod.fst).Nodup) :=
  ⟨⟨starting 1, serving [], by decide +kernel, by decide⟩, ⟨starting 0, by decide, by decide⟩, ⟨asking 0 (zs 29 ++ [0x14, 0, 0]), by decide⟩,
   fun s p => by cases s.routeAll (Config.peersOf p) <;> simp,
   ⟨starting 2, s0, by decide +kernel, by decide, by decide +kernel, by decide, by decide +kernel, by decide⟩,
   ⟨asking 0 (zs 8), by decide, by decide⟩, ⟨asking 0 (2 :: zs 7), s0, by decide, by decide, by decide, by decide, by decide⟩,
   ⟨asking 0 (1 :: zs 7), serving [], by decide, by decide, by decide, by decide, by decide, by decide⟩, ⟨asking 0 [1], by decide⟩,
   ⟨asking 0 [], { power := .recovery }, by decide, by decide, by decide, by decide⟩, ⟨grouping, s0, grouping_ok⟩,
   ⟨asking 0 (defining 0), { serving [] with groups := [(5, [1])] }, by decide⟩,
   ⟨asking 1 (defining 1), { serving [] with sessions := [(3, session)] }, by decide, by decide⟩⟩

/-- The least launch image: one section of four bytes in core stores. -/
def leastImage : List Byte := [1, 0, 0, 0, 1] ++ zs 19 ++ [100] ++ zs 40 ++ [1, 0, 0, 4] ++ zs 7 ++ [5] ++ zs 3 ++ [96] ++ zs 15 ++ [0x1C, 0, 0, 0]

/-- Partition 0's tables and its first page lie in the far tier, which no L2 caches. -/
def farTables : State := (serving (([(0, 1), (1, 0x80), (5, 0x10), (0x8000, 1), (0x8001, 0x90), (0x8005, 0x10), (0x9000, 1), (0x9001, 0xA0), (0x9005, 0x10),
  (0xA000, 0x1F), (0xA002, 8), (0xA005, 0x10)] : Memory).map (fun e => (2 ^ 44 + e.1, e.2)))).modPart 0 (fun p => { p with trt := 0x1000_0000_0001 })

/-- The image stands at the first page of partition 0, as service core 0 sees it. -/
def launching : State :=
  let s := farTables
  { s with mem := { s.mem with views := [(.svc 0, (List.range 100).map (fun i => (2 ^ 44 + 0x8_0000 + i, ⟨1, leastImage.getD i 0⟩)))], next := 2 } }

/-- LAUNCH of it on core 0 with a completion word in its core store. -/
def launchReq : HostReq := asking 0 (zs 48 ++ [0x40] ++ zs 6 ++ [0xA0] ++ [1] ++ zs 7 ++ [0, 0]) 1

/-- Core 0's keeper is held or vacant; its start buffer. -/
def toStart (run : RunState) (b : Option StartMsg) : State := { (((serving []).modCore 0 (fun y => { y with startBuf := b })).modCtx 0 0 (fun x => { x with run })) with
  net := [.start { part := 0, core := 0, pc := 0x100, args := [1, 2, 3, 4] }] }

/-- A launch waits for `n` cores. -/
def completing (n : Nat) : State := { serving [(2 ^ 56 + 0x40, 1)] with launches := [{ scn := 0, req := launchReq, cw := 0xA000_0000_0000_0040, ncore := n }] }

theorem launching_len : leastImage.length = 100 := by decide
theorem launching_ok : (cmdLaunch launchReq (Claim.heard launching launchReq)).status = 0 ∧
    (cmdLaunch launchReq (Claim.heard launching launchReq)).later = true := by decide +kernel

/-- The two other clauses of the requests: one taken and answered later, and one that waits. -/
theorem wit_hostRequestsLater :
    (∃ i r op p0 f s a, Asks i r op p0 f s ∧ r.mode.unused = false ∧ Here r s ∧ Claim.header r ∧ r.op = op ∧
      (tgetD s.services r.scn {}).released = true ∧ (p0 = true → r.part = 0) ∧ s.present r.part = true ∧
      (s.part r.part).replay.mode = .off ∧ f (Claim.heard s r) = some a ∧ a.later = true) ∧
    (∃ i r op p0 f, ∃ s : State, Claim.command i r op p0 f ∧ s.power = .on ∧ f (s.svcBegin r.scn) = none) :=
  ⟨⟨_, launchReq, _, _, _, launching, _, ⟨.inl ⟨rfl, rfl, rfl, rfl⟩, rfl, rfl⟩, rfl, by decide, by unfold Claim.header; decide, rfl, rfl, nofun, rfl, rfl,
      rfl, launching_ok.2⟩,
   ⟨_, asking 0 (zs 8 ++ [0, 0, 8] ++ zs 5) 5, _, _, _, tables [(0xA000, 0x1F), (0xA002, 8)] [] (some 0),
      .inr (.inr (.inr (.inr (.inl ⟨rfl, rfl, rfl, rfl⟩)))), rfl, by decide +kernel⟩⟩

/-- A tenant of core 0 asks service core 0, by a call or a send, to store 5 at 0xA000_0000_0000_0040. -/
def mailing (w1 : Word) (call : Bool) : State :=
  let s := farTables
  { s with
    mem := { s.mem with
      views := [(.svc 0, (List.range 17).map (fun i => (2 ^ 44 + 0x8_0000 + i, ⟨1, ([9] ++ zs 7 ++ [0x40] ++ zs 6 ++ [0xA0, 5]).getD i 0⟩)))], next := 2 }
    net := [.forward { part := 0, src := 0, sctx := 0, dst := 8192, box := 253, w0 := 2, w1, sent := 0, call } 0] }

/-- The tenant's request of the only item in flight. -/
def tenant (s : State) : Option Ans :=
  (({ s with net := s.net.eraseIdx 0 } : State).svcBegin 0).tenantCmd (((2 : Word).extractLsb' 0 8).toNat) 0 0 (2 &&& ~~~0xFF)

theorem tenant_ok (call : Bool) : ∃ a, tenant (mailing 0x30_0000 call) = some a ∧ a.st.net = [] ∧ a.status = 0 := by
  have h : (match tenant (mailing 0x30_0000 call) with
    | some a => decide (a.st.net = [] ∧ a.status = 0)
    | none => false) = true := by cases call <;> decide +kernel
  match e : tenant (mailing 0x30_0000 call) with
  | some a => rw [e] at h; exact ⟨a, rfl, of_decide_eq_true h⟩
  | none => rw [e] at h; cases h

/-- A stop report is in flight to service core 0, which holds `n`. -/
def reporting (n : Nat) : State := { s0 with
  net := [.stop 0 5 0 1 2]
  services := [(0, { released := true, reports := List.replicate n (1, 0, 2, 3) })] }

theorem wit_launches :
    (∃ r : HostReq, numAt r.body 56 4 = 0) ∧
    (∃ r : HostReq, ∃ s : State, (cmdLaunch r s).status = 0) ∧
    (∃ ss : List Sect, ∃ base, ∃ i : Nat, ∃ (x : Sect) (a : Nat), ss[i]? = some x ∧ (placeSects ss base)[i]? = some a ∧ x.core = true) ∧
    (∃ ss : List Sect, ∃ base, ∃ i : Nat, ∃ (x : Sect) (a : Nat), ss[i]? = some x ∧ (placeSects ss base)[i]? = some a ∧ x.core = false ∧ base < a) ∧
    (∃ i : Nat, ∃ m : StartMsg, ∃ s : State, s.net[i]? = some (NetItem.start m) ∧ s.runs m.core = true ∧ (s.core m.core).partid = m.part ∧
      (∀ e ∈ s.net.take i, ∀ n, e = .start n → n.core = m.core → n.part ≠ m.part) ∧ (s.part m.part).preempted = false ∧
      s.keeperIdle m.core (s.keeper m.core) = true ∧ (s.ctx m.core (s.keeper m.core)).stopped = false ∧ m.args.length = 4) ∧
    (∃ i : Nat, ∃ m : StartMsg, ∃ s : State, s.net[i]? = some (NetItem.start m) ∧ s.runs m.core = true ∧ (s.core m.core).partid = m.part ∧
      (∀ e ∈ s.net.take i, ∀ n, e = .start n → n.core = m.core → n.part ≠ m.part) ∧ (s.part m.part).preempted = false ∧
      s.keeperIdle m.core (s.keeper m.core) = false ∧ (s.core m.core).startBuf = none) ∧
    (∃ i : Nat, ∃ m : StartMsg, ∃ s : State, s.net[i]? = some (NetItem.start m) ∧ s.runs m.core = true ∧ (s.core m.core).partid = m.part ∧
      (∀ e ∈ s.net.take i, ∀ n, e = .start n → n.core = m.core → n.part ≠ m.part) ∧ (s.part m.part).preempted = false ∧
      s.keeperIdle m.core (s.keeper m.core) = false ∧ (s.core m.core).startBuf ≠ none) ∧
    (∃ i : Nat, ∃ (l : LaunchRec) (ls : List Nat), ∃ s : State, s.launches[i]? = some l ∧ s.power = .on ∧ s.present l.req.part = true ∧
      s.locate (s.viaEngine 0 l.req.part) { r := true } [0x0, 0xA, 0xB] l.cw.toNat 8 8 = .at ls ∧
      leVal (ls.map (Memory.get s.mem.d)) < l.ncore) ∧
    (∃ i : Nat, ∃ (l : LaunchRec) (ls : List Nat), ∃ s : State, s.launches[i]? = some l ∧ s.power = .on ∧ s.present l.req.part = true ∧
      s.locate (s.viaEngine 0 l.req.part) { r := true } [0x0, 0xA, 0xB] l.cw.toNat 8 8 = .at ls ∧
      l.ncore ≤ leVal (ls.map (Memory.get s.mem.d))) ∧
    (∀ b : Bool, ∃ i : Nat, ∃ (m : Msg) (scn : Nat) (a : Ans), ∃ s : State, s.net[i]? = some (.forward m scn) ∧ s.power = .on ∧ (tgetD s.services scn {}).released = true ∧
      s.present m.part = true ∧ (s.part m.part).replay.mode = .off ∧
      (({ s with net := s.net.eraseIdx i } : State).svcBegin scn).tenantCmd (m.w0.extractLsb' 0 8).toNat scn m.part (m.w0 &&& ~~~0xFF) = some a ∧
      a.st.net = s.net.eraseIdx i ∧ m.call = b) ∧
    (∀ n, ∃ i : Nat, ∃ (scn core part : Nat) (w0 w1 : Word), ∃ s : State, s.net[i]? = some (.stop scn core part w0 w1) ∧ s.power = .on ∧
      (tgetD s.services scn {}).released = true ∧ (tgetD s.services scn {}).reports.length = n) := by
  refine ⟨⟨asking 0 [], by decide⟩, ⟨launchReq, _, launching_ok.1⟩,
    ⟨[sectOf leastImage 96 0], 0, 0, _, _, rfl, rfl, by decide⟩,
    ⟨[{ sectOf leastImage 96 0 with core := false }], 0x1001, 0, _, 0x1020, rfl, by decide, rfl, by decide⟩,
    ⟨0, _, toStart .vacant none, rfl, rfl, rfl, nofun, rfl, by decide, by decide, rfl⟩,
    ⟨0, _, toStart .held none, rfl, rfl, rfl, nofun, rfl, by decide, rfl⟩,
    ⟨0, _, toStart .held (some { part := 0, core := 0, pc := 0, args := [] }), rfl, rfl, rfl, nofun, rfl, by decide, by decide⟩,
    ⟨0, _, locsFrom (2 ^ 56 + 0x40) 8, completing 2, rfl, rfl, rfl, rfl, by decide⟩,
    ⟨0, _, locsFrom (2 ^ 56 + 0x40) 8, completing 1, rfl, rfl, rfl, rfl, by decide⟩, fun b => ?_,
    fun n => ⟨0, 0, 5, 0, 1, 2, reporting n, rfl, rfl, rfl, List.length_replicate⟩⟩
  obtain ⟨a, h, k, _⟩ := tenant_ok b
  exact ⟨0, _, 0, a, mailing 0x30_0000 b, rfl, rfl, rfl, rfl, rfl, h, k, rfl⟩

/-- Partition 1 runs on core 0, time-sliced, and may be stopping; partition 2 is saved. -/
def switching (stopping preempted : Bool) (saved : Option SaveArea) : State :=
  ((((s0.modCore 0 (fun y => { y with partid := 1 })).modCtx 0 0 (fun x => { x with run := .held, stopped := preempted })).modPart 1 (fun p =>
    { p with started := true, sliced := true, resident := true, stopping, preempted, clusters := [0] }))).modPart 2 (fun p =>
      { p with started := true, sliced := true, clusters := [0], saved })

/-- Partition 2 has one held context, of virtual core 2. -/
def savedArea : SaveArea := { cores := [(2, { home := 2, partid := 2 })], ctxs := [(37, { run := .held, vcid := 2, vctx := 5, stopped := true, tvec := 0x100 })] }

theorem wit_worldSwitch :
    (∃ (s : State) (out : Nat), s.power = .on ∧ (s.part out).started = true ∧ (s.part out).sliced = true ∧ (s.part out).resident = true ∧
      (s.part out).stopping = false ∧ ∃ c k, k < 16 ∧ c ∈ s.coresIn out ∧ (s.ctx c k).run ≠ .vacant) ∧
    (∃ (s : State) (out inn : Nat) (homes : List (Nat × Nat)) (a : SaveArea) (seats : List Seat), s.power = .on ∧ (s.part out).started = true ∧ (s.part out).sliced = true ∧ (s.part out).resident = true ∧
      (s.part out).stopping = true ∧ (s.part out).preempted = true ∧ out ≠ inn ∧ (s.part inn).saved = some a ∧ seatsOf a homes = some seats ∧
      (s.clustersFree inn = true ∨ (∀ q ∈ s.parts, q.1 = out ∨ q.1 = inn)) ∧ (seats.map Seat.v).Nodup ∧
      (∀ e ∈ seats, (e.ctxs.map Prod.snd).Nodup ∧ ∀ x ∈ e.ctxs, x.2 < 16) ∧ rising (s.parts.map Prod.fst) = true ∧
      ∃ e ∈ seats, ∃ x ∈ e.ctxs, (tgetD a.ctxs (e.v * 16 + x.1) {}).run ≠ .vacant) ∧
    (∃ (s : State) (out inn : Nat), s.power = .on ∧ (s.part out).stopping = true ∧ (s.part out).preempted = false ∧ (s.part inn).saved = none) :=
  ⟨⟨switching false false none, 1, rfl, rfl, rfl, rfl, rfl, 0, 0, by decide, by decide, by decide⟩,
   ⟨switching true true (some savedArea), 1, 2, [], savedArea, [{ v := 2, home := 2, alone := true, segb := 0, ctxs := [(5, 5)] }], rfl, rfl, rfl, rfl, rfl, rfl, by decide, rfl, rfl,
      .inr (by decide), by decide, by decide, by decide, _, List.mem_cons_self, _, List.mem_cons_self, by decide⟩,
   ⟨switching true false none, 1, 2, rfl, rfl, rfl, rfl⟩⟩

theorem wit_combining :
    (∃ a b : List Lane × BitVec 5, (a.2 ||| b.2) &&& 24 ≠ 0) ∧
    (∃ a b : List Lane × BitVec 5, (a.2 ||| b.2) &&& 24 = 0 ∧ a.1.length = b.1.length ∧ ∃ i x y, 1 ≤ i ∧ a.1[i]? = some x ∧ b.1[i]? = some y ∧
      ∃ ma mb, a.1[0]? = some ma ∧ b.1[0]? = some mb ∧ (fp32.num ma.toNat).isNan = true) ∧
    (∃ a b : List Lane × BitVec 5, (a.2 ||| b.2) &&& 24 = 0 ∧ a.1.length = b.1.length ∧ ∃ i x y, 1 ≤ i ∧ a.1[i]? = some x ∧ b.1[i]? = some y ∧
      ∃ ma mb, a.1[0]? = some ma ∧ b.1[0]? = some mb ∧ (fp32.num ma.toNat).isNan = false ∧ (fp32.num mb.toNat).isNan = false) :=
  ⟨⟨([], 8), ([], 0), by decide⟩,
   ⟨([0x7FC0_0000, 0], 0), ([0, 0], 0), by decide, rfl, 1, 0, 0, by decide, rfl, rfl, _, _, rfl, rfl, by decide⟩,
   ⟨([0xFF80_0000, 0], 1), ([0, 0], 4), by decide, rfl, 1, 0, 0, by decide, rfl, rfl, _, _, rfl, rfl, by decide, by decide⟩⟩

/-- This module and two others. -/
def first : List Nat := [Config.moduleId.toNat, 2, 3]
/-- This module second of three. -/
def second : List Nat := [Config.moduleId.toNat + 1, Config.moduleId.toNat, 3]

/-- Session 3 of partition 0, in a group of three modules; its CS holds this byte, and a mark of an empty leaf. -/
def rounding (ms : List Nat) (m z : Byte) (c : Bool) (vs : List ((Nat × Nat) × List Lane × BitVec 5)) : State :=
  { serving [] with
    mem := { d := [(2 ^ 56 + 8, m)] ++ (if z = 0 then [] else [(2 ^ 56 + 15, z)]), dStamp := [(2 ^ 56 + 8, 1), (2 ^ 56 + 15, 1)], next := 2 }
    groups := [(5, ms)], sessions := [(3, { session with part := 0, contributed := c, values := vs })] }

/-- The session there. -/
def sessionOf (c : Bool) (vs : List ((Nat × Nat) × List Lane × BitVec 5)) : Session := { session with part := 0, contributed := c, values := vs }

/-- A session that runs. -/
abbrev Running (s : State) (sid : Nat) (e : Session) : Prop :=
  tget s.sessions sid = some e ∧ s.sessionRuns e = true ∧ (s.part e.part).replay.mode = .off

theorem first_idx (m z : Byte) (c d : Bool) (vs ws : List ((Nat × Nat) × List Lane × BitVec 5)) : (rounding first m z c vs).memberIdx (sessionOf d ws) = 0 := by
  change (first.findIdx? (· == Config.moduleId.toNat)).getD 0 = 0
  simp [first, List.findIdx?_cons]

theorem second_idx (m z : Byte) (c d : Bool) (vs ws : List ((Nat × Nat) × List Lane × BitVec 5)) : (rounding second m z c vs).memberIdx (sessionOf d ws) = 1 := by
  change (second.findIdx? (· == Config.moduleId.toNat)).getD 0 = 1
  simp [second, List.findIdx?_cons]

theorem wit_contribution : ∀ (m z : Byte) (odd : Bool), (m = 2 ∧ z = 0) ∨ (m = 1 ∧ z = 0) ∨ (m = 1 ∧ z = 0x80) →
    ∃ (s : State) (sid : Nat) (e : Session) (loc : Nat), Running s sid e ∧ e.contributed = false ∧ (e.kind = 0 → s.memberIdx e = 0) ∧
      s.sessionWord e { r := true } e.cs = some loc ∧ s.acquireReady (relayOf sid) .device loc = true ∧
      ((s.used (s.viaEngine 0 e.part) 16 e.cs.toNat (locsFrom loc 8)).acquireBy (relayOf sid) .device e.part loc e.cs).1 =
        BitVec.ofNat 64 (m.toNat + z.toNat * 2 ^ 56) ∧ s.memberIdx e = if odd then 1 else 0 := by
  intro m z odd h
  cases odd
  · refine ⟨rounding first m z false [], 3, sessionOf false [], 2 ^ 56 + 8, ⟨rfl, rfl, rfl⟩, rfl, nofun, ?_⟩
    rcases h with ⟨rfl, rfl⟩ | ⟨rfl, rfl⟩ | ⟨rfl, rfl⟩ <;> exact ⟨by decide, by decide, by decide, first_idx _ _ _ _ _ _⟩
  · refine ⟨rounding second m z false [], 3, sessionOf false [], 2 ^ 56 + 8, ⟨rfl, rfl, rfl⟩, rfl, nofun, ?_⟩
    rcases h with ⟨rfl, rfl⟩ | ⟨rfl, rfl⟩ | ⟨rfl, rfl⟩ <;> exact ⟨by decide, by decide, by decide, second_idx _ _ _ _ _ _⟩

/-- A node that this member combines, and has not yet. -/
abbrev Due (s : State) (sid : Nat) (e : Session) (level node : Nat) : Prop :=
  Running s sid e ∧ 0 < level ∧ node < nodesAt (s.members e).length level ∧ node * 2 ^ level = s.memberIdx e ∧ aget e.values (level, node) = none

/-- Node 0 of level 1 with these values. -/
theorem due (vs : List ((Nat × Nat) × List Lane × BitVec 5)) (h : aget vs (1, 0) = none) :
    Due (rounding first 0 0 false vs) 3 (sessionOf false vs) 1 0 :=
  ⟨⟨rfl, rfl, rfl⟩, by decide, by change 0 < nodesAt 3 1; decide, (first_idx _ _ _ _ _ _).symm, h⟩

theorem wit_treeNodes :
    (∃ s sid e level node a b, Due s sid e level node ∧ aget e.values (level - 1, 2 * node) = some a ∧ aget e.values (level - 1, 2 * node + 1) = some b) ∧
    (∃ s sid e level node a, Due s sid e level node ∧ aget e.values (level - 1, 2 * node) = some a ∧ aget e.values (level - 1, 2 * node + 1) = none ∧
      nodesAt (s.members e).length (level - 1) = 2 * node + 1) ∧
    (∃ s sid e level node a, Due s sid e level node ∧ aget e.values (level - 1, 2 * node) = some a ∧ aget e.values (level - 1, 2 * node + 1) = none ∧
      2 * node + 1 < nodesAt (s.members e).length (level - 1)) ∧
    (∃ (s : State) (sid : Nat) (e : Session), ∃ level node, Running s sid e ∧ node * 2 ^ level ≠ s.memberIdx e) ∧
    (∃ (s : State) (sid : Nat) (e : Session), ∃ l k, Running s sid e ∧ aget e.values (l, k) = none ∧ ¬(l = 0 ∧ k = s.memberIdx e)) :=
  ⟨⟨_, 3, sessionOf false [((0, 0), ([1], 0)), ((0, 1), ([2], 0))], 1, 0, _, _, due _ rfl, rfl, rfl⟩,
   ⟨rounding [Config.moduleId.toNat] 0 0 false [((0, 0), ([1], 0))], 3, sessionOf false [((0, 0), ([1], 0))], 1, 0, _,
    ⟨⟨rfl, rfl, rfl⟩, by decide, by decide, by
      change 0 = ([Config.moduleId.toNat].findIdx? (· == Config.moduleId.toNat)).getD 0
      simp, rfl⟩, rfl, rfl, rfl⟩,
   ⟨_, 3, sessionOf false [((0, 0), ([1], 0))], 1, 0, _, due _ rfl, rfl, rfl, by decide⟩,
   ⟨rounding first 0 0 false [], 3, sessionOf false [], 1, 1, ⟨rfl, rfl, rfl⟩, by rw [first_idx]; decide⟩,
   ⟨rounding first 0 0 false [], 3, sessionOf false [], 0, 2, ⟨rfl, rfl, rfl⟩, rfl, by rw [first_idx]; decide⟩⟩

/-- A session whose root has this value on a member that has contributed. -/
abbrev Ends (s : State) (sid : Nat) (e : Session) (rs : Nat) (v : List Lane × BitVec 5) : Prop :=
  Running s sid e ∧ e.contributed = true ∧ s.sessionWord e { w := true } e.rs = some rs ∧
    aget e.values (rootLevel (s.members e).length, 0) = some v

/-- Its result address lies in no space of memory. -/
def astray : Session := { sessionOf true [((2, 0), ([7], 4))] with ra := 0x1000_0000_0000_0000 }

theorem wit_rounds :
    (∃ s sid e rs v, Ends s sid e rs v ∧ v.2 &&& 24 ≠ 0) ∧
    (∃ s sid e rs v, Ends s sid e rs v ∧ v.2 &&& 24 = 0 ∧ v.1.length = elemsOfKind e.kind e.n ∧
      ∃ l < rootLevel (s.members e).length, s.memberIdx e % 2 ^ (l + 1) = 0 ∧ s.memberIdx e + 2 ^ l < (s.members e).length) ∧
    (∃ s sid e rs v, Ends s sid e rs v ∧ v.2 &&& 24 = 0 ∧ v.1.length = elemsOfKind e.kind e.n ∧
      ∀ ls, s.locate (s.viaEngine 0 e.part) { w := true } [0x0, 0xA, 0xB] e.ra.toNat (4 * v.1.length) 1 ≠ .at ls) ∧
    (∃ s sid e rs v ls, Ends s sid e rs v ∧ v.2 &&& 24 = 0 ∧ v.1.length = elemsOfKind e.kind e.n ∧
      s.locate (s.viaEngine 0 e.part) { w := true } [0x0, 0xA, 0xB] e.ra.toNat (4 * v.1.length) 1 = .at ls ∧
      (∀ l ∈ ls, s.mem.waited (l / 8 * 8) = false) ∧ s.mem.badAt ls = none ∧ ls.length = 4 * v.1.length ∧ ls.Nodup ∧ (∀ i < 8, rs + i ∉ ls)) :=
  ⟨⟨rounding first 0 0 true [((2, 0), ([], 16))], 3, sessionOf true [((2, 0), ([], 16))], 2 ^ 56 + 24, _, ⟨⟨rfl, rfl, rfl⟩, rfl, by decide, rfl⟩, by decide⟩,
   ⟨rounding first 0 0 true [((2, 0), ([7], 4))], 3, sessionOf true [((2, 0), ([7], 4))], 2 ^ 56 + 24, _, ⟨⟨rfl, rfl, rfl⟩, rfl, by decide, rfl⟩, by decide, rfl,
    1, by decide, by rw [first_idx] <;> decide, by rw [first_idx]; decide⟩,
   ⟨{ rounding first 0 0 true [] with sessions := [(3, astray)] }, 3, astray, 2 ^ 56 + 24, _, ⟨⟨rfl, rfl, rfl⟩, rfl, by decide, rfl⟩, by decide, rfl, nofun⟩,
   ⟨rounding first 0 0 true [((2, 0), ([7], 4))], 3, sessionOf true [((2, 0), ([7], 4))], 2 ^ 56 + 24, _, [2 ^ 56 + 16, 2 ^ 56 + 17, 2 ^ 56 + 18, 2 ^ 56 + 19],
    ⟨⟨rfl, rfl, rfl⟩, rfl, by decide, rfl⟩, by decide, rfl, rfl, by decide, by decide, rfl, by decide, by decide⟩⟩

/-- Context 0 of core 0 is about to issue the NOP at its PC. -/
def issuing (pc : Word) : State := { nops.modCtx 0 0 (fun x => { x with pc }) with issue := some (0, 0) }

theorem wit_decodeEncode :
    (∃ i bs, Instr.wf i = true ∧ encode i = some bs ∧ bs.length = 16) ∧ (∃ i, Instr.wf i = true ∧ encode i = none) :=
  ⟨⟨.pairWord on (.mov on .zero .zero) (.vneg on .zero .zero), _, by decide, rfl, rfl⟩, ⟨.reservedEncoding, by decide, by decide⟩⟩

theorem wit_reservedWords :
    (∃ lo : Nat, lo % 4 ≠ 3 ∧ lo / 2 ^ 2 % 2 ^ 6 ∉ Claim.majors) ∧
    (∃ lo : Nat, lo % 4 ≠ 3 ∧ 0x80 ≤ lo / 2 ^ 36 % 2 ^ 8 ∧ lo / 2 ^ 2 % 2 ^ 6 ∉ [0x04, 0x05, 0x06, 0x12]) ∧
    (∃ lo hi : Nat, lo % 4 = 3 ∧ hi / 2 ^ 58 % 2 ^ 6 ≠ 0) ∧ (∃ lo hi d, decodeWord lo hi = some d) :=
  ⟨⟨0x1C, by decide, by decide⟩, ⟨0x0000_0800_0000_0004 + 0x18, by decide, by decide, by decide⟩, ⟨3, 2 ^ 63, by decide, by decide⟩,
   ⟨0x0000_0010_0000_0008, 0, .one .endl, by decide⟩⟩

theorem wit_keepsSound : ∃ s t : State, s.Sound ∧ step s = .next t := ⟨issuing 0, _, rfl, rfl⟩

theorem wit_stepRuns :
    (∃ s : State, ∃ c k n, ∃ s1 : State, s.power ≠ .off ∧ s.issue = some (c, k) ∧
      Gives (lengthAt (s.ctx c k).pc) ({ s with issue := none, cur := (c, k), acct := .iss } : State) n s1 ∧ 32 < (s.ctx c k).pc.toNat % 32 + n) ∧
    (∃ s : State, ∃ c k n, ∃ s1 : State, ∃ bs, ∃ t : State, ∃ i m, s.power ≠ .off ∧ s.issue = some (c, k) ∧
      Gives (lengthAt (s.ctx c k).pc) ({ s with issue := none, cur := (c, k), acct := .iss } : State) n s1 ∧ (s.ctx c k).pc.toNat % 32 + n ≤ 32 ∧
      Gives (fetchBytes (s.ctx c k).pc.toNat n) s1 bs t ∧ decode bs = some (i, m) ∧ ∃ u, exec i.instr t = .next u) ∧
    (∃ s : State, ∃ c k n, ∃ s1 : State, ∃ bs, ∃ t : State, s.power ≠ .off ∧ s.issue = some (c, k) ∧
      Gives (lengthAt (s.ctx c k).pc) ({ s with issue := none, cur := (c, k), acct := .iss } : State) n s1 ∧ (s.ctx c k).pc.toNat % 32 + n ≤ 32 ∧
      Gives (fetchBytes (s.ctx c k).pc.toNat n) s1 bs t ∧ decode bs = none) ∧
    (∃ s : State, ∃ c k blk, s.power ≠ .off ∧ s.issue = some (c, k) ∧
      ({ s with issue := none, cur := (c, k), acct := .iss } : State).me.fetched.find? (fun f => f.1.toNat == (s.ctx c k).pc.toNat / 32 * 32) = some blk ∧
      (s.ctx c k).pc.toNat / 2 ^ 60 ≠ 0x8) ∧
    (∃ s : State, s.power = .off ∧ s.issue ≠ none) ∧ (∃ s : State, s.power = .off ∧ s.issue = none ∧ s.agenda = []) ∧
    (∃ (s : State) (i : Instr) (r : List Instr), s.power ≠ .off ∧ s.issue = none ∧ s.agenda = i :: r ∧ isEvent i = true) :=
  ⟨⟨issuing 28, 0, 0, _, _, by decide, rfl, rfl, by decide⟩,
   ⟨issuing 24, 0, 0, _, _, _, _, _, _, by decide, rfl, rfl, by decide, rfl, rfl, _, rfl⟩,
   ⟨issuing 4, 0, 0, _, _, _, _, by decide, rfl, rfl, by decide, rfl, by decide⟩,
   ⟨issuing 8, 0, 0, _, by decide, rfl, rfl, by decide⟩,
   ⟨{ issue := some (0, 0) }, rfl, by decide⟩, ⟨{}, rfl, rfl, rfl⟩, ⟨{ s0 with agenda := [.powerOn] }, _, _, by decide, rfl, rfl, by decide⟩⟩

theorem wit_registerFrame :
    (∃ e ∈ Claim.scalarOps, ∃ g w rd a b s s1 s2 s3 u v, Issues (binInfo g rd a b) s s1 ∧ Gives (readS a) s1 u s2 ∧
      Gives (readS b) s2 v s3 ∧ Gives (checkS rd) s3 () s3 ∧ (s.part s.myPart).replay.mode = .off ∧ exec (e.1 g w rd a b) s ≠ .fault .unpowered) ∧
    (∃ e ∈ Claim.logicOps, ∃ g rd a b s s1 s2 s3 u v, Issues (binInfo g rd a b) s s1 ∧ Gives (readS a) s1 u s2 ∧
      Gives (readS b) s2 v s3 ∧ Gives (checkS rd) s3 () s3 ∧ (s.part s.myPart).replay.mode = .off ∧ exec (e.1 g rd a b) s ≠ .fault .unpowered) ∧
    (∃ e ∈ Claim.vec2, ∃ g, ∃ (d a b : Fin 16), ∃ s s1 t, Issues (vecInfo g [.v a, .v b] [.v d]) s s1 ∧ (s.me.v.get a).tag ∈ e.2.1 ∧ (s.me.v.get b).tag ∈ e.2.1 ∧
      Claim.format e.2.2.1 [(s.me.v.get a).tag, (s.me.v.get b).tag] = some t ∧ exec (e.1 g (.v d) (.v a) (.v b)) s ≠ .fault .unpowered) ∧
    (∃ e ∈ Claim.vec1, ∃ g, ∃ (d a : Fin 16), ∃ s s1, Issues (vecInfo g [.v a] [.v d]) s s1 ∧ (s.me.v.get a).tag ∈ e.2.1 ∧
      exec (e.1 g (.v d) (.v a)) s ≠ .fault .unpowered) ∧
    (∃ e ∈ Claim.vec3, ∃ g, ∃ (d a b c : Fin 16), ∃ s s1 t, Issues (vecInfo g [.v a, .v b, .v c] [.v d]) s s1 ∧ (s.me.v.get a).tag ∈ e.2.1 ∧
      (s.me.v.get b).tag ∈ e.2.1 ∧ (s.me.v.get c).tag ∈ e.2.1 ∧ Claim.format .int32 [(s.me.v.get a).tag, (s.me.v.get b).tag, (s.me.v.get c).tag] = some t ∧
      exec (e.1 g (.v d) (.v a) (.v b) (.v c)) s ≠ .fault .unpowered) :=
  ⟨⟨_, List.mem_cons_self, on, true, .x 31, .x 0, .cid, s0, _, _, _, _, _, rfl, rfl, rfl, rfl, rfl, nofun⟩,
   ⟨_, List.mem_cons_self, on, .zero, .zero, .x 31, s0, _, _, _, _, _, rfl, rfl, rfl, rfl, rfl, nofun⟩,
   ⟨_, List.mem_cons_self, on, 2, 1, 2, vecs .fp32 .fp32 .raw, _, .fp32, rfl, by decide, by decide, rfl, nofun⟩,
   ⟨_, List.mem_cons_self, on, 1, 1, vecs .bf16 .raw .raw, _, rfl, by decide, nofun⟩,
   ⟨_, List.mem_cons_self, on, 3, 1, 2, 3, vecs .fp16 .fp16 .fp16, _, .fp16, rfl, by decide, by decide, by decide, rfl, nofun⟩⟩

/-- One page's miss waits in cluster 0, whose die walks it. -/
def walking : State := (s0.modCluster 0 (fun y => { y with misses := [{ part := 0, page := 0, joined := [] }] })).modDie 0 (fun d =>
  { d with walkq := [(0, 0, 0)] })

theorem wit_formsThatComplete :
    (∃ s : State, ∃ g rd a b u v space x, ∃ disp : Imm, Claim.calm s g ∧ Claim.register rd ∧ Claim.value s a = some u ∧ Claim.value s b = some v ∧
      Claim.pgaAddr space u (v + if disp.form = .h64 then 0 else disp.val) = some x) ∧
    (∃ s : State, ∃ g xd xb d b, ∃ imm : Imm, Claim.calm s g ∧ s.curIter s.cc s.ck = none ∧ Claim.value s xd = some d ∧
      Claim.value s xb = some b ∧ descC d = false ∧ descOk d = true ∧ (b + imm.val).toNat % 16 = 0 ∧ s.foldReady s.cc = true) ∧
    (∃ s : State, ∃ c k, ∃ w : WAcc, ∃ r d src, ∃ p : Pend, k < 16 ∧ s.runs c = true ∧ (s.core c).wq = w :: r ∧ w.ctx = k ∧ w.dropped = false ∧
      w.load = some (d, src, false) ∧ descC d = false ∧ spaceOf src.toNat = 0x8 ∧ src.toNat / 2 ^ 20 % 2 ^ 40 = 0 ∧
      src.toNat % 2 ^ 20 + 16 * descEs d * descCnt d ≤ (s.core c).segl.toNat ∧
      (s.core c).segb.toNat + (src.toNat % 2 ^ 20 + 16 * descEs d * descCnt d) ≤ 2 ^ 20 ∧ s.mem.bad = [] ∧ (s.ctx c k).pend = some p ∧ p.kind = .weight) ∧
    (∀ n ∈ [0, 0x90, 0xA7, 0xC3, 0xD7, 0xF0, 0xF2], ∃ s : State, ∃ g rd i, Claim.calm s g ∧ s.curIter s.cc s.ck = none ∧ Claim.register rd ∧
      cntId n = some i) ∧
    (∃ s : State, ∃ g a v, Claim.calm s g ∧ s.curIter s.cc s.ck = none ∧ Claim.value s a = some v ∧ v.toNat < 2 ^ 32 ∧ v.extractLsb' 14 2 = 0 ∧
      (v.extractLsb' 0 8).toNat = 0x14) ∧
    (∀ grp : Fin 4, ∃ s : State, ∃ g a v, Claim.calm s g ∧ s.curIter s.cc s.ck = none ∧ Claim.value s a = some v ∧ spaceOf v.toNat = 0x8 ∧
      v.toNat / 2 ^ 20 % 2 ^ 40 = 0 ∧ v.toNat % 64 = 0 ∧
      v.toNat % 2 ^ 20 + (if grp = 0 then 40 else if grp = 1 then 136 else if grp = 2 then 128 else 64) ≤ s.myCore.segl.toNat ∧
      s.myCore.segb.toNat + (v.toNat % 2 ^ 20 + (if grp = 0 then 40 else if grp = 1 then 136 else if grp = 2 then 128 else 64)) ≤ 2 ^ 20 ∧
      s.mem.bad = [] ∧ s.mem.empty = []) ∧
    (∃ s : State, ∃ die b r, (s.die die).bankNew = b :: r ∧ b.val = some 5) ∧
    (∃ s : State, ∃ p c v id cyc r, s.ovfDue = (p, c, v, id, cyc) :: r ∧ s.runs c = true ∧ (s.core c).partid = p) ∧
    (∃ s : State, ∃ c r l, (s.core c).sampler.due = r :: l) ∧
    (∃ s : State, ∃ p, s.power = .on ∧ s.clocked p = true ∧ (s.ctx (s.ownerOn p ((s.core p).cyc.toNat % 16)) ((s.core p).cyc.toNat % 16)).stepDue = false ∧
      s.periodFirst p = false ∧ s.ready (s.ownerOn p ((s.core p).cyc.toNat % 16)) ((s.core p).cyc.toNat % 16) = true) ∧
    (∃ s : State, ∃ c k, ∃ block : Word, s.runs c = true ∧ (s.ctx c k).run = .held ∧ (s.ctx c k).fetched = [] ∧ spaceOf block.toNat = 0x8 ∧
      block.toNat / 2 ^ 20 % 2 ^ 40 = 0 ∧ block.toNat % 32 = 0 ∧ block.toNat % 2 ^ 20 + 32 ≤ (s.core c).segl.toNat ∧
      (s.core c).segb.toNat + (block.toNat % 2 ^ 20 + 32) ≤ 2 ^ 20) ∧
    (∃ s : State, ∃ cl m r q, s.power = .on ∧ (s.cluster cl).frozen = false ∧ (s.cluster cl).misses = m :: r ∧ (s.cluster cl).missWait = [] ∧
      (s.die (dieOfCl cl)).walkq = (cl, m.part, m.page) :: q) ∧
    (∃ s : State, ∃ p v cls k, s.runs p = true ∧ (s.core v).home = p ∧ (s.core p).image.getD p ≠ v ∧ k < 16 ∧
      tget s.ctxs (v * 16 + k) = some { s.ctx v k with wait := some (cls, .fold p v) } ∧
      (s.core ((s.core p).image.getD p)).wq = [] ∧ s.laneBusy ((s.core p).image.getD p) = false) :=
  ⟨⟨s0, on, .x 31, .zero, .cid, _, _, 0xA, _, ⟨.h64, 0⟩, ⟨by decide, rfl⟩, trivial, rfl, rfl, rfl⟩,
   ⟨xs3 0x8000_0000_0000_0010 0x3C0000 0, on, .x 3, .x 2, _, _, ⟨.h64, 16⟩, ⟨by decide, rfl⟩, rfl, rfl, rfl, by decide, by decide, by decide, rfl⟩,
   ⟨loadDue 0x8000_0000_0000_0000, 0, 0, _, _, _, _, _, by decide, rfl, rfl, rfl, rfl, rfl, rfl, rfl, rfl, by decide, by decide, rfl, rfl, rfl⟩,
   fun n h => ⟨s0, on, .zero, (cntId n).get (by revert n; decide), ⟨by decide, rfl⟩, rfl, trivial, (Option.some_get _).symm⟩,
   ⟨xs3 0x314 0 0, on, .x 2, _, ⟨by decide, rfl⟩, rfl, rfl, by decide, by decide, by decide⟩,
   fun grp => ⟨xs3 0x8000_0000_0000_0040 0 0, on, .x 2, _, ⟨by decide, rfl⟩, rfl, rfl, by decide, by decide, by decide, by revert grp; decide,
     by revert grp; decide, rfl, rfl⟩,
   ⟨s0.modDie 0 (fun d => { d with bankNew := [{ core := 1, ctx := 2, bank := 15, n := 3, val := some 5, cfg := none }] }), 0, _, _, rfl, rfl⟩,
   ⟨overflowing true, _, _, _, _, _, _, rfl, rfl, rfl⟩, ⟨overflowing true, 0, _, _, rfl⟩,
   ⟨running id, 0, rfl, by decide, by decide, by decide, by decide⟩,
   ⟨me (fun x => { x with run := .held }), 0, 0, 0x8000_0000_0000_0FE0, rfl, rfl, rfl, rfl, by decide, by decide, by decide, by decide⟩,
   ⟨walking, 0, _, _, _, rfl, rfl, rfl, rfl, rfl⟩,
   ⟨folded [], 0, 5, .wmem, 1, rfl, rfl, by decide, by decide, rfl, rfl, by decide +kernel⟩⟩

/-! One step each, with the spec's own examples. -/

/-- The state after an instruction. -/
def after (i : Instr) (s : State) : State :=
  match exec i s with
  | .next t => t
  | _ => s

/-- v1 and v2 hold these lanes in lane 0 on. -/
def lanes (t1 : Tag) (l1 : List Lane) (t2 : Tag) (l2 : List Lane) : State :=
  me (fun x => { x with v := (x.v.set 1 { bits := ofLanes (fun n => l1.getD n 0), tag := t1 }).set 2 { bits := ofLanes (fun n => l2.getD n 0), tag := t2 }, tvec := 0x201 })

/-- Lanes 0 to `n - 1` of a v register. -/
def seen (s : State) (r : Fin 16) (n : Nat) : List Lane := (List.range n).map (getLane (s.me.v.get r).bits)

/-- R124's example. -/
theorem test_extf : (after (.extf on true (.x 1) (.x 2) 4 7) (xs3 0xF80 0 0)).me.x.get 1 = 0xFFFF_FFFF_FFFF_FFF8 := by decide +kernel

/-- The first turns of the counted branch. -/
theorem test_addi : ((after (.addi on false (.x 2) (.x 2) ⟨.h64, -1⟩) (xs3 2 0 0)).me.x.get 2, (after (.addi on false (.x 2) (.x 2) ⟨.h64, -1⟩) (xs3 2 0 0)).me.pc) =
    (1, 8) := by decide +kernel
theorem test_cmp : (after (.cmp on false .ne 1 (.x 2) .zero) (xs3 1 0 0)).me.gReg 1 = 0xFFFF_FFFF := by decide +kernel

/-- The first two steps of the tag example. -/
theorem test_fmt : ((after (.viadd on .wrap (.v 1) (.v 1) (.v 2)) (lanes .fp32 [0x3F80_0000] .int32 [1])).me.tval,
    seen (after (.viadd on .wrap (.v 1) (.v 1) (.v 2)) (lanes .fp32 [0x3F80_0000] .int32 [1])) 1 1) = (0x11, [0x3F80_0000]) := by decide +kernel
theorem test_viadd : seen (after (.viadd on .wrap (.v 1) (.v 1) (.v 2)) (lanes .int32 [0x3F80_0000] .int32 [1])) 1 1 = [0x3F80_0001] := by decide +kernel

/-- The conversion table. -/
theorem test_vcvt : (seen (after (.vcvt on false false .int32 (.v 3) (.v 1)) (lanes .fp32 [0x4020_0000, 0xC020_0000] .raw [])) 3 2,
    (after (.vcvt on false false .int32 (.v 3) (.v 1)) (lanes .fp32 [0x4020_0000, 0xC020_0000] .raw [])).me.ff) = ([2, 0xFFFF_FFFE], 1) := by decide +kernel
theorem test_vcvt_fp32 : seen (after (.vcvt on false false .fp32 (.v 3) (.v 1)) (lanes .int32 [16777217] .raw [])) 3 1 = [0x4B80_0000] := by decide +kernel
theorem test_vpack : seen (after (.vpack on false false .bf16 (.v 3) (.v 1) (.v 2)) (lanes .fp32 [0x3F80_8000, 0x7F7F_FFFF] .fp32 [0x3F81_8000, 0])) 3 2 =
    [0x3F82_3F80, 0x0000_7F80] := by decide +kernel

/-- R180's example. -/
theorem test_vunpk : ((after (.vunpk on false .bf16 true (.v 2) (.v 1)) (lanes .dyad8 [0x7739_0A07] .raw [])).me.v.get 2).tag = .bf16 ∧
    seen (after (.vunpk on false .bf16 true (.v 2) (.v 1)) (lanes .dyad8 [0x7739_0A07] .raw [])) 2 1 = [0x0000_BEC0] := by decide +kernel

/-- The exponential sequence, instruction by instruction. -/
def expIn : List Lane := [0x3E80_0000, 0x42FF_0000, 0x4300_0000, 0xC315_8000, 0xFF80_0000, 0x8000_0000]
def expN : List Lane := [0x0000_0000, 0x4300_0000, 0x4300_0000, 0xC316_0000, 0xFF80_0000, 0x8000_0000]
def expF : List Lane := [0x3E80_0000, 0xBF00_0000, 0, 0x3F00_0000, 0x7FC0_0000, 0]
def expM : List Lane := [0x3F98_37F0, 0x3F35_04F3, 0x3F80_0000, 0x3FB5_04F3, 0x7FC0_0000, 0x3F80_0000]
theorem test_vrnd : seen (after (.vrnd on (.v 3) (.v 1)) (lanes .fp32 expIn .raw [])) 3 6 = expN := by decide +kernel
theorem test_vsub : seen (after (.vsub on (.v 3) (.v 1) (.v 2)) (lanes .fp32 expIn .fp32 expN)) 3 6 = expF := by decide +kernel
theorem test_vfexp : seen (after (.vfexp on (.v 3) (.v 1)) (lanes .fp32 expF .raw [])) 3 6 = expM := by decide +kernel
theorem test_vexpi : seen (after (.vexpi on (.v 3) (.v 1) (.v 2)) (lanes .fp32 expM .fp32 expN)) 3 6 =
    [0x3F98_37F0, 0x7F35_04F3, 0x7F80_0000, 0x0000_0001, 0, 0x3F80_0000] := by decide +kernel

/-- The scan and reduction under a guard of four lanes. -/
def scanning : State := (lanes .int32 [1, 2, 3, 4, 5] .raw []).modCtx 0 0 (fun x => x.setG 3 0xF)
theorem test_vscan : seen (after (.vscan ⟨false, 3⟩ (.v 3) (.v 1)) scanning) 3 5 = [1, 3, 6, 10, 0] := by decide +kernel
theorem test_vreda : seen (after (.vreda ⟨false, 3⟩ (.v 3) (.v 1)) scanning) 3 5 = [10, 10, 10, 10, 0] := by decide +kernel

/-- The block-scaled slice. -/
theorem test_mmad : mmadElem 0 (fun _ => 0x3DCD) 0 [100, 0xF9, 3, 127] [0x07, 0x0A, 0x39, 0x77] 1 = (0x4115_F240, 0) := by decide +kernel

/-- The four-level walk. -/
theorem test_walk : ({ (s0.modPart 0 (fun p => { p with trt := 0x1_0001 })) with mem := { d := [(0x1_0018, 1), (0x1_001A, 2), (0x2_0028, 1), (0x2_002A, 3),
    (0x3_0048, 1), (0x3_0049, 0x10), (0x3_004A, 3), (0x3_1088, 0x0F), (0x3_108A, 0x08), (0x3_108C, 0x10)] } } : State).walk 0 0x1802_9288_1234 =
    .leaf { part := 0, base := 0x1802_9288_0000, size := 2 ^ 19, pa := 0x10_0008_0000, r := true, w := true, x := false, nc := false, level := 3 } := by
  decide +kernel

/-- The folded core's stores: beyond its segment, and misaligned. -/
def segmented : State := ((xs3 0x8000_0000_0004_0000 7 0x8000_0000_0003_FFFC).modCore 0 (fun y => { y with segb := 0x4_0000, segl := 0x4_0000 })).modCtx 0 0 (fun x => { x with tvec := 0x201 })
theorem test_seg : (after (.st on (.x 3) (.x 2) ⟨.h64, 0⟩) segmented).me.tcause.extractLsb' 0 8 = 9 ∧
    (after (.st on (.x 3) (.x 4) ⟨.h64, 0⟩) segmented).me.tcause.extractLsb' 0 8 = 6 := by decide +kernel

/-- The root of the eight modules' tree. -/
theorem test_rescale : combine 5 (combine 5 (combine 5 ([0x4040_0000, 0x3F80_0000, 0x3F80_0000, 0x4000_0000], 0) ([0x3F80_0000, 0x4080_0000, 0x4080_0000, 0], 0))
      (combine 5 ([0x4000_0000, 0x4000_0000, 0x4000_0000, 0x4000_0000], 0) ([0x4000_0000, 0x3F80_0000, 0, 0x3F80_0000], 0)))
    (combine 5 (combine 5 ([0, 0x4100_0000, 0x4100_0000, 0x4100_0000], 0) (identity 5 2))
      (combine 5 ([0x4080_0000, 0x3F80_0000, 0x3F80_0000, 0], 0) ([0x4040_0000, 0x4000_0000, 0x4000_0000, 0x4000_0000], 0))) =
    ([0x4080_0000, 0x4088_0000, 0x4080_0000, 0x4050_0000], 0) := by decide +kernel

/-- The store that fits. -/
theorem test_st : ((after (.st on (.x 3) (.x 2) ⟨.h64, 0⟩) (segmented.modCtx 0 0 (fun x => x.setX 2 0x8000_0000_0003_FFF8))).mem.bufs.flatMap
    (fun b => b.cells)).map Prod.fst = locsFrom (2 ^ 56 + 0x7_FFF8) 8 := by decide +kernel

/-- The first instruction after reset: the SYSRD of the tag example, from its word. -/
theorem test_first : (match step (State.reset.withFetchWord 64 0x0000_9000_0000_500C) with
    | .next t => (t.ctx 0 0).pc
    | _ => 0) = 0x8000_0000_0000_0008 := by decide +kernel

end

end Sys2Proof.Tests
end

section
/-! PROOFS. O17: system registers and format tags (R84 to R92), with what an issued instruction's fault answers and what a loop
frame's version is after a write of it. -/

namespace Sys2Proof.Machine

variable {s t u s1 s2 : State}

/-! Stops, and effects before the retirement. -/

/-- A fault of an issued instruction is taken in the state its issue left (R91, R110). -/
theorem run_fault {i : Info} {body : M Unit} {c : Cause} (hp : Issues i s t) (hb : body t = .error (.fault c)) :
    run i body s = .next { t.takeFault t.cc t.ck c with acct := .iss } :=
  run_stop hp hb

/-- An instruction-precise fault of an issued instruction is taken at once (R91, R116). -/
theorem run_trap {i : Info} {body : M Unit} {c : Cause} (hp : Issues i s t) (hb : body t = .error (.trap c)) :
    run i body s = .next { t.enterTrap t.cc t.ck c with acct := .iss } :=
  run_stop hp hb

/-- An effect, then the retirement. -/
theorem bind_retire {α : Type} {m : M α} {a : α} {len : Nat} (h : m s = .ok (a, t)) :
    (do let _ ← m; modify (fun s => s.retire len) : M Unit) s = .ok ((), t.retire len) :=
  bind_ok h

/-- A retiring instruction writes its context back, so an unchanged write before it leaves no trace. -/
theorem State.retire_modMe_id (s : State) (len : Nat) : (s.modMe (fun x => x)).retire len = s.retire len := by
  have hcount : ((s.modMe (fun x => x)).count s.cc s.ck 0x08 1) = (s.count s.cc s.ck 0x08 1).modMe (fun x => x) := rfl
  calc (s.modMe (fun x => x)).retire len
      = ((s.count s.cc s.ck 0x08 1).modMe (fun x => x)).modMe (fun x => retireCtx x len) :=
        congrArg (State.modMe · (fun x => retireCtx x len)) hcount
    _ = s.retire len := State.modMe_modMe _ _ _

theorem preciseOn_ok {α : Type} {codes : List FaultCode} {m : M α} {a : α} (h : m s = .ok (a, t)) :
    preciseOn codes m s = .ok (a, t) := by
  simp only [preciseOn, h]

theorem preciseOn_fault {α : Type} {codes : List FaultCode} {m : M α} {c : Cause} (h : m s = .error (.fault c))
    (hc : codes.contains c.code = true) : preciseOn codes m s = .error (.trap c) := by
  simp only [preciseOn, h, hc, if_true]

/-- An instruction whose whole effect is one scalar result. -/
theorem runPuts_scalar {i : Info} {body : M (List Put)} {rd : SDst} {v : Word} (hi : Issues i s s1)
    (hb : Gives body s1 [.s rd v] s2) (hc : Gives (checkS rd) s2 () s2) :
    runPuts i body s = .next ((s2.putS rd v).retire i.len) :=
  runPuts_next hi hb (bind_ok hc)

/-! SYSRD. -/

/-- CTXST's fields, as R85 lists them from the lowest on. -/
theorem State.ctxst_eq (s : State) : s.ctxst s.cc s.ck =
    BitVec.ofNat 64 (s.me.ff.toNat + s.me.rm.toNat * 2 ^ 8 + (if s.me.h then 2 ^ 12 else 0) +
      (if s.me.vctx = 0 then 2 ^ 16 else 0) +
      ((List.finRange 2).countP (fun f => (s.fr s.cc f).st != .free && (s.fr s.cc f).opener == s.ck)) * 2 ^ 17 +
      (if s.me.cm then 2 ^ 19 else 0) + s.me.crew % 16 * 2 ^ 20) := by
  have hframes : List.finRange 2 = [0, 1] := by decide
  have hme : s.ctx s.cc s.ck = s.me := rfl
  simp only [State.ctxst, State.heldCount, hframes, hme, bitN, decide_eq_true_eq]
  exact congrArg (BitVec.ofNat 64) (by omega)

/-- Each register of the list reads as it says. -/
theorem State.sysReg_of_mem (s : State) {e : Nat × (State → Word)} (he : e ∈ Claim.sysReads) :
    s.sysReg s.cc s.ck e.1 = some (e.2 s) := by
  simp only [Claim.sysReads, List.mem_cons, List.not_mem_nil, or_false] at he
  rcases he with rfl | rfl | rfl | rfl | rfl | rfl | rfl | rfl | rfl | rfl | rfl | rfl | rfl | rfl | rfl | rfl | rfl |
    rfl | rfl
  case inl => exact congrArg some s.ctxst_eq
  all_goals simp [State.sysReg, State.me, State.myCore, State.myPart, cpszMask, cpflMask]

/-- The other numbers are reserved or CPGO's. -/
theorem State.sysReg_none (s : State) (c k : Nat) {n : Nat} (hn : n ∉ [0x0C] ++ Claim.sysReads.map Prod.fst) :
    s.sysReg c k n = none := by
  simp only [Claim.sysReads, List.map_cons, List.map_nil, List.cons_append, List.nil_append, List.mem_cons,
    List.not_mem_nil, or_false, not_or] at hn
  unfold State.sysReg
  split <;> simp_all

/-- SYSRD of a register that is there writes its value (R90). -/
theorem sysrd_next {g : Guard} {rd : SDst} {n : Byte} {v : Word} (hi : Issues (infoOf g 8 1 [] [] [rd] []) s s1)
    (hv : s1.sysReg s1.cc s1.ck n.toNat = some v) (hc : Gives (checkS rd) s1 () s1) :
    exec (.sysrd g rd n) s = .next ((s1.putS rd v).retire 8) := by
  refine run_retire hi (preciseOn_ok ?_)
  rw [bind_ok (get_run s1), hv]
  exact finish_run (bind_ok hc)

/-- SYSRD of a reserved number raises an instruction-precise ILLEGAL (R90, R91). -/
theorem sysrd_reserved {g : Guard} {rd : SDst} {n : Byte} (hi : Issues (infoOf g 8 1 [] [] [rd] []) s s1)
    (hv : s1.sysReg s1.cc s1.ck n.toNat = none) :
    exec (.sysrd g rd n) s = .next { s1.enterTrap s1.cc s1.ck { code := .illegal } with acct := .iss } := by
  refine run_trap hi (preciseOn_fault ?_ (by decide))
  rw [bind_ok (get_run s1), hv]
  rfl

theorem sysrdResults : Said.SysrdResults := by
  intro g rd n s s1 hi
  refine ⟨fun e he hn hc => ?_, fun hn hc => ?_, fun hn => ?_⟩
  · exact sysrd_next hi (hn ▸ s1.sysReg_of_mem he) hc
  · exact sysrd_next hi (by rw [hn]; rfl) hc
  · exact sysrd_reserved hi (s1.sysReg_none _ _ hn)

/-! SYSWR. -/

@[simp] theorem needLevel_held (old v m : Word) (s : State) : needLevel true old v m s = .ok ((), s) := rfl

theorem needLevel_same (held : Bool) {old v m : Word} (h : old &&& m = v &&& m) (s : State) :
    needLevel held old v m s = .ok ((), s) := by
  simp [needLevel, h]

theorem needLevel_denied {old v m : Word} (h : old &&& m ≠ v &&& m) (s : State) :
    needLevel false old v m s = .error (.fault { code := .priv }) := by
  rw [needLevel, beq_eq_false_iff_ne.mpr h]
  rfl

/-- SYSWR of a register whose fields may be written completes (R90). -/
theorem syswr_next {g : Guard} {n : Byte} {a : SSrc} {v : Word}
    (hi : Issues { infoOf g 8 1 [a] [] [] [] with side := true } s s1) (hv : Gives (readS a) s1 v s2)
    (hn : sysKnown n.toNat = true) (hw : Gives (writeSys n.toNat v) s2 () u) :
    exec (.syswr g n a) s = .next (u.retire 8) := by
  refine run_retire hi ?_
  rw [hn, bind_ok (ensure_true _ _ s1), bind_ok hv]
  exact bind_retire hw

/-- SYSWR of a field whose level is not held faults, its iteration committed (R90, R91). -/
theorem syswr_fault {g : Guard} {n : Byte} {a : SSrc} {v : Word} {c : Cause}
    (hi : Issues { infoOf g 8 1 [a] [] [] [] with side := true } s s1) (hv : Gives (readS a) s1 v s2)
    (hn : sysKnown n.toNat = true) (hw : writeSys n.toNat v s2 = .error (.fault c)) :
    exec (.syswr g n a) s = .next { s1.takeFault s1.cc s1.ck c with acct := .iss } := by
  refine run_fault hi ?_
  rw [hn, bind_ok (ensure_true _ _ s1), bind_ok hv]
  exact bind_error hw

/-- A barrel core's thread does not hold level S (R81). -/
theorem levelS_false {c : Nat} (hc : c < 8192) : decide (8192 ≤ c) = false := decide_eq_false (Nat.not_le.mpr hc)

/-- The registers that need no level: what is written, and the others by which nothing changes (R84). -/
theorem writeSys_of_mem {e : Nat × (Ctx → Word → Ctx)} (he : e ∈ Claim.sysWrites) (v : Word) (s : State) :
    ∃ u : State, Gives (writeSys e.1 v) s () u ∧ u.retire 8 = (s.modMe (fun x => e.2 x v)).retire 8 := by
  simp only [Claim.sysWrites, List.mem_cons, List.not_mem_nil, or_false] at he
  rcases he with rfl | rfl | rfl | rfl | rfl | rfl | rfl | rfl | rfl | rfl
  iterate 6 exact ⟨_, rfl, rfl⟩
  all_goals exact ⟨s, rfl, (s.retire_modMe_id 8).symm⟩

theorem sysKnown_of_mem {e : Nat × (Ctx → Word → Ctx)} (he : e ∈ Claim.sysWrites) : sysKnown e.1 = true := by
  simp only [Claim.sysWrites, List.mem_cons, List.not_mem_nil, or_false] at he
  rcases he with rfl | rfl | rfl | rfl | rfl | rfl | rfl | rfl | rfl | rfl <;> decide

/-- CTXST's H asks for level H or S; its other fields for none (R85). -/
theorem writeSys_ctxst_eq (v : Word) (s : State) : writeSys 0x00 v s = (do
    needLevel (s.me.h || decide (8192 ≤ s.cc)) (BitVec.ofNat 64 (bitN s.me.h 12)) v (BitVec.ofNat 64 (2 ^ 12))
    modify (fun s => s.modMe (fun x =>
      { x with h := v.getLsbD 12, rm := (v >>> 8).setWidth 2, ff := v.setWidth 5 })) : M Unit) s := rfl

theorem writeSys_tcause_eq (v : Word) (s : State) : writeSys 0x01 v s = (do
    needLevel s.me.h s.me.tcause v tcauseMask
    modify (fun s => s.modMe (fun x => { x with tcause := v &&& tcauseMask })) : M Unit) s := rfl

theorem writeSys_tpc_eq (v : Word) (s : State) : writeSys 0x02 v s = (do
    needLevel s.me.h s.me.tpc v (BitVec.allOnes 64)
    modify (fun s => s.modMe (fun x => { x with tpc := v })) : M Unit) s := rfl

theorem writeSys_tval_eq (v : Word) (s : State) : writeSys 0x03 v s = (do
    needLevel s.me.h s.me.tval v (BitVec.allOnes 64)
    modify (fun s => s.modMe (fun x => { x with tval := v })) : M Unit) s := rfl

theorem writeSys_ydl_eq (v : Word) (s : State) : writeSys 0x08 v s = (do
    needLevel (decide (8192 ≤ s.cc)) s.me.ydl v (BitVec.allOnes 64)
    modify (fun s => s.modMe (fun x => { x with ydl := v })) : M Unit) s := rfl

/-- CTXST.H is not asked to change exactly when bit 12 is as it stands (R85, R90). -/
theorem and_ctxstH (v : Word) : v &&& BitVec.ofNat 64 (2 ^ 12) = if v.getLsbD 12 then BitVec.ofNat 64 (2 ^ 12) else 0 :=
  BitVec.and_twoPow v 12

theorem writeSys_ctxst {v : Word} (h : s.me.h = true ∨ v.getLsbD 12 = false) :
    Gives (writeSys 0x00 v) s () (s.modMe (fun x =>
      { x with h := v.getLsbD 12, rm := v.extractLsb' 8 2, ff := v.extractLsb' 0 5 })) := by
  have hff : v.setWidth 5 = v.extractLsb' 0 5 := BitVec.setWidth_eq_extractLsb' (by decide)
  rw [Gives, writeSys_ctxst_eq, ← hff]
  refine bind_ok (a := ()) ?_
  cases hm : s.me.h with
  | true => exact needLevel_held _ _ _ s
  | false =>
    have hv : v.getLsbD 12 = false := h.resolve_left (by simp [hm])
    refine needLevel_same _ ?_ s
    rw [and_ctxstH v, hv]
    rfl

theorem writeSys_ctxst_denied {v : Word} (hc : s.cc < 8192) (hh : s.me.h = false) (hv : v.getLsbD 12 = true) :
    writeSys 0x00 v s = .error (.fault { code := .priv }) := by
  rw [writeSys_ctxst_eq, hh, levelS_false hc]
  refine bind_error (needLevel_denied ?_ s)
  rw [and_ctxstH v, hv]
  decide

/-- A register that is one field, written at a level that is not held (R90). -/
theorem needLevel_word_denied {old v : Word} (h : v ≠ old) (s : State) :
    needLevel false old v (BitVec.allOnes 64) s = .error (.fault { code := .priv }) := by
  refine needLevel_denied ?_ s
  rw [BitVec.and_allOnes, BitVec.and_allOnes]
  exact h.symm

/-- SYSWR of a register that is one field of level H (R85, R90). -/
theorem syswr_word {g : Guard} {n : Byte} {a : SSrc} {v old : Word} {f : Ctx → Ctx}
    (hi : Issues { infoOf g 8 1 [a] [] [] [] with side := true } s s1) (hv : Gives (readS a) s1 v s2)
    (hn : sysKnown n.toNat = true) (hw : writeSys n.toNat v s2 = (do
      needLevel s2.me.h old v (BitVec.allOnes 64)
      modify (fun s => s.modMe f) : M Unit) s2) :
    (s2.me.h = true → exec (.syswr g n a) s = .next ((s2.modMe f).retire 8)) ∧
    (s2.me.h = false → v ≠ old →
      exec (.syswr g n a) s = .next { s1.takeFault s1.cc s1.ck { code := .priv } with acct := .iss }) := by
  refine ⟨fun hh => syswr_next hi hv hn ?_, fun hh hne => syswr_fault hi hv hn ?_⟩
  · rw [Gives, hw, hh]
    exact bind_ok (needLevel_held _ _ _ s2)
  · rw [hw, hh]
    exact bind_error (needLevel_word_denied hne s2)

/-- CPSZ's fields are its low 48 bits (R235). -/
theorem getElem_cpszMask {i : Nat} (hi : i < 64) : cpszMask[i] = decide (i < 48) := by
  have hmask : cpszMask = (BitVec.allOnes 48).setWidth 64 := by decide
  simp only [hmask, BitVec.getElem_setWidth, BitVec.getLsbD_allOnes]

/-- A write of CPSZ keeps the 16 bits above its fields (R90, R235). -/
theorem maskIn_cpszMask (old v : Word) : maskIn old v cpszMask = old.extractLsb' 48 16 ++ v.extractLsb' 0 48 := by
  ext i hi
  simp only [maskIn, BitVec.getElem_or, BitVec.getElem_and, BitVec.getElem_not, getElem_cpszMask hi]
  rw [BitVec.getElem_append]
  by_cases h48 : i < 48
  · simp [h48, hi]
  · simp [h48, hi, show 48 + (i - 48) = i by omega]

theorem syswrResults : Said.SyswrResults := by
  intro g n a s s1 s2 v hi hv hc
  refine ⟨fun e he hn => ?_, fun hn => ⟨fun h => ?_, fun hh hb => ?_⟩, fun e he hn => ?_, fun hn hh => ?_, fun hn => ?_,
    fun hn => ?_, fun hn hne => ?_⟩
  · obtain ⟨u, hw, hu⟩ := writeSys_of_mem he v s2
    rw [← hu]
    exact syswr_next hi hv (hn ▸ sysKnown_of_mem he) (hn ▸ hw)
  · exact syswr_next hi hv (by rw [hn]; decide) (hn ▸ writeSys_ctxst h)
  · exact syswr_fault hi hv (by rw [hn]; decide) (hn ▸ writeSys_ctxst_denied hc hh hb)
  · simp only [List.mem_cons, List.not_mem_nil, or_false] at he
    rcases he with rfl | rfl
    · exact syswr_word hi hv (by rw [hn]; decide) (by rw [hn]; exact writeSys_tpc_eq v s2)
    · exact syswr_word hi hv (by rw [hn]; decide) (by rw [hn]; exact writeSys_tval_eq v s2)
  · refine syswr_next hi hv (by rw [hn]; decide) ?_
    rw [Gives, hn, writeSys_tcause_eq, hh]
    exact bind_ok (needLevel_held _ _ _ _)
  · simp only [← maskIn_cpszMask]
    exact syswr_next hi hv (by rw [hn]; decide) (by rw [hn]; rfl)
  · exact syswr_next hi hv (by rw [hn]; decide) (by rw [hn]; rfl)
  · refine syswr_fault hi hv (by rw [hn]; decide) ?_
    rw [hn, writeSys_ydl_eq, levelS_false hc]
    exact bind_error (needLevel_word_denied hne s2)

/-! FMTG and FMTS. -/

/-- FMTS of a name that is none of a loop's issues as any instruction does (R92). -/
theorem execFmts_of_no_loop {g : Guard} {d : VDst} {t : Tag} (hd : VDst.loops d = []) (s : State) : execFmts g (.v d) t s =
    run (infoOf g 8 1 [] [] [] [d]) (do fmtsBody (.v d) t; modify (fun s => s.retire 8)) s := by
  have hlds : { infoOf g 8 1 [] [] [] [d] with lds := [] } = infoOf g 8 1 [] [] [] [d] := by simp [infoOf, hd]
  rw [execFmts, hlds, ite_self]

/-- FMTS that is guarded on writes no name under R101, so that the depth limit does not hold it back (R92, R106). -/
theorem execFmts_on {g : Guard} {d : VDst} {t : Tag} (hg : s.me.guardBits g &&& 1 ≠ 0) : execFmts g (.v d) t s =
    run { infoOf g 8 1 [] [] [] [d] with lds := [] } (do fmtsBody (.v d) t; modify (fun s => s.retire 8)) s := by
  have hon : (infoOf g 8 1 [] [] [] [d]).on s.me = true := bne_iff_ne.mpr hg
  rw [execFmts, hon, if_pos rfl]

theorem execFmts_z {g : Guard} {n : Fin 2} {t : Tag} (s : State) : execFmts g (.z n) t s =
    run (infoOf g 8 1 [] [] [] []) (do fmtsBody (.z n) t; modify (fun s => s.retire 8)) s := by
  have hlds : { infoOf g 8 1 [] [] [] [] with lds := [] } = infoOf g 8 1 [] [] [] [] := rfl
  rw [execFmts, hlds, ite_self]

/-- FMTS completes once its effect is made. -/
theorem fmts_next {g : Guard} {dst : TagDst} {t : Tag} {i : Info}
    (hrun : execFmts g dst t s = run i (do fmtsBody dst t; modify (fun s => s.retire 8)) s)
    (hi : Issues i s s1) (hb : Gives (fmtsBody dst t) s1 () u) : exec (.fmts g dst t) s = .next (u.retire 8) :=
  hrun.trans (run_retire hi (bind_retire hb))

/-- A write of no lane changes the tag alone. -/
@[simp] theorem mergeLanes_none (a b : BitVec 1024) : mergeLanes 0 a b = b := rfl

/-- An element of a vector, read after it is written. -/
theorem vector_get_set_self {α : Type} {n : Nat} (xs : Vector α n) (i : Fin n) (a : α) : (xs.set i.val a i.isLt).get i = a :=
  Vector.getElem_set_self i.isLt

/-- An element of a vector, read after another is written. -/
theorem vector_get_set_of_ne {α : Type} {n : Nat} (xs : Vector α n) {i j : Fin n} (a : α) (h : j ≠ i) :
    (xs.set i.val a i.isLt).get j = xs.get j :=
  Vector.getElem_set_ne i.isLt j.isLt (fun hij => h (Fin.ext hij.symm))

@[simp] theorem Ctx.setV_get_self (x : Ctx) (r : Fin 16) (m : Lane) (b : BitVec 1024) (t : Tag) :
    (x.setV r m b t).v.get r = { bits := mergeLanes m b (x.v.get r).bits, tag := t } := by
  rw [Ctx.setV, vector_get_set_self]

theorem Ctx.setV_get_of_ne (x : Ctx) {r n : Fin 16} (m : Lane) (b : BitVec 1024) (t : Tag) (h : n ≠ r) :
    (x.setV r m b t).v.get n = x.v.get n := by
  rw [Ctx.setV, vector_get_set_of_ne _ _ h]

@[simp] theorem Ctx.setZ_get_self (x : Ctx) (n : Fin 2) (b : BitVec 8192) (t : Tag) :
    (x.setZ n b t).z.get n = { bits := b, tag := t } := by
  rw [Ctx.setZ, vector_get_set_self]

theorem Ctx.setZ_get_of_ne (x : Ctx) {n m : Fin 2} (b : BitVec 8192) (t : Tag) (h : m ≠ n) :
    (x.setZ n b t).z.get m = x.z.get m := by
  rw [Ctx.setZ, vector_get_set_of_ne _ _ h]

/-! A loop frame's versions, read after written. -/

@[simp] theorem LFrame.ver?_setVer_self (F : LFrame) (v : Ver) : (F.setVer v).ver? v.name v.iter = some v := by
  simp [LFrame.ver?, LFrame.setVer]

theorem LFrame.ver?_setVer_of_ne (F : LFrame) (v : Ver) {name : Nat} {i : Int} (h : ¬(name = v.name ∧ i = v.iter)) :
    (F.setVer v).ver? name i = F.ver? name i := by
  have hv : (v.name == name && v.iter == i) = false := by
    refine Bool.eq_false_iff.mpr (fun hb => h ?_)
    obtain ⟨hname, hiter⟩ := (Bool.and_eq_true_iff).mp hb
    exact ⟨(beq_iff_eq.mp hname).symm, (beq_iff_eq.mp hiter).symm⟩
  have hkeep : ∀ u : Ver, decide ((!(u.name == v.name && u.iter == v.iter)) = true ∧ (u.name == name && u.iter == i) = true) =
      (u.name == name && u.iter == i) := by
    intro u
    by_cases hu : (u.name == name && u.iter == i) = true
    · have hne : (u.name == v.name && u.iter == v.iter) = false := by
        obtain ⟨rfl, rfl⟩ : u.name = name ∧ u.iter = i := by simpa using hu
        simpa using h
      simp [hu, hne]
    · simp [hu]
  rw [LFrame.ver?, LFrame.setVer, List.find?_cons_of_neg (by rw [hv]; exact Bool.false_ne_true), List.find?_filter]
  simp only [hkeep, LFrame.ver?]

/-- A version is found under its own name and iteration. -/
theorem LFrame.ver?_key {F : LFrame} {name : Nat} {i : Int} {v : Ver} (h : F.ver? name i = some v) :
    v.name = name ∧ v.iter = i := by
  simpa using List.find?_some h

/-- Passing copies on from iteration `j` leaves the versions before it (R101). -/
theorem LFrame.ver?_propagate_of_lt (name m : Nat) {i : Int} (n : Nat) : ∀ {j : Int} (F : LFrame), i < j →
    (F.propagate name j n).ver? m i = F.ver? m i := by
  induction n with
  | zero => intro j F _; rfl
  | succ n ih =>
    intro j F hij
    rw [LFrame.propagate]
    split
    · rfl
    next v hv =>
      obtain ⟨-, hiter⟩ := LFrame.ver?_key hv
      split
      · exact ih F (by omega)
      · split
        · rfl
        next src _ =>
          rw [ih _ (by omega), LFrame.ver?_setVer_of_ne]
          rintro ⟨-, hi⟩
          exact absurd (hi.trans hiter) (by omega)

/-- A version that needs no copy is there as it was put. -/
theorem LFrame.ver?_putVer_self (F : LFrame) {v : Ver} (h : v.need = 0) : (F.putVer v).ver? v.name v.iter = some v := by
  have hset := F.ver?_setVer_self v
  rw [LFrame.putVer, LFrame.propagate, hset]
  simp only [h, if_true]
  rw [LFrame.ver?_propagate_of_lt _ _ _ _ (by omega), hset]

@[simp] theorem State.fr_modFr (s : State) (c : Nat) (f : Fin 2) (g : LFrame → LFrame) : (s.modFr c f g).fr c f = g (s.fr c f) := by
  simp only [State.modFr, State.setFr, State.fr, State.modCore, State.core_setCore, vector_get_set_self]

@[simp] theorem State.me_modFr (s : State) (c : Nat) (f : Fin 2) (g : LFrame → LFrame) : (s.modFr c f g).me = s.me := rfl

/-- A w name of the current iteration is read as its version holds it, once it needs no copy (R102). -/
theorem readLoop_run {name : Nat} {f : Fin 2} {u : Iter} {v : Ver} (hcur : s.curFrame s.cc s.ck = some (f, some u))
    (hv : (s.fr s.cc f).ver? name u.i = some v) (hn : v.need = 0) : Gives (readLoop name 0) s (v.bits, v.tag) s := by
  simp [Gives, readLoop, hcur, hv, LFrame.val?, hn]

/-- FMTS of a w name puts its version again, with the tag and no longer carried (R92). -/
theorem retagLoop_run {name : Nat} {t : Tag} {f : Fin 2} {u : Iter} {v : Ver}
    (hcur : s.curFrame s.cc s.ck = some (f, some u)) (hv : (s.fr s.cc f).ver? name u.i = some v) (hn : v.need = 0) :
    Gives (retagLoop name t) s () (s.modFr s.cc f (fun F => F.putVer { v with carried := false, tag := t })) := by
  obtain ⟨hname, hiter⟩ := LFrame.ver?_key hv
  rw [Gives, retagLoop, bind_ok (readLoop_run hcur hv hn), bind_ok (get_run s), hcur, hname, hiter, hn]
  rfl

theorem tagInstructions : Said.TagInstructions := by
  refine ⟨fun g rd a s s1 s2 u hi hv hc => ?_, fun g rd n s s1 hi hc => ?_, fun g r t s s1 hi => ?_, fun g n t s s1 hi => ?_,
    fun g r t s s1 f u v hi hg hcur hv hn => ?_, rfl⟩
  · exact runPuts_scalar hi (bind_ok hv) hc
  · exact runPuts_scalar hi rfl hc
  · refine ⟨s1.modMe (fun x => x.setV r 0 0 t), fmts_next (execFmts_of_no_loop rfl s) hi rfl, ?_⟩
    rw [State.me_modMe, Ctx.setV_get_self, mergeLanes_none]
    exact ⟨rfl, rfl, fun n hn => Ctx.setV_get_of_ne _ _ _ _ hn, rfl⟩
  · refine ⟨s1.modMe (fun x => x.setZ n (x.z.get n).bits t), fmts_next (execFmts_z s) hi rfl, ?_⟩
    rw [State.me_modMe, Ctx.setZ_get_self]
    exact ⟨rfl, fun m hm => Ctx.setZ_get_of_ne _ _ _ hm, rfl⟩
  · refine ⟨_, fmts_next (execFmts_on hg) hi (retagLoop_run hcur hv hn), State.me_modFr _ _ _ _, ?_⟩
    obtain ⟨hname, hiter⟩ := LFrame.ver?_key hv
    rw [State.fr_modFr, ← hname, ← hiter]
    exact LFrame.ver?_putVer_self (v := { v with carried := false, tag := t }) _ hn

/-- Settles O17: what each system register reads as, what SYSWR may write at which level, and that FMTS puts the register, or the
loop version, back with another tag. -/
theorem systemRegisters : Obligations.SystemRegisters := ⟨sysrdResults, syswrResults, tagInstructions⟩

end Sys2Proof.Machine
end

section
/-! PROOFS. O56 and O57: the values after reset, and the instruction that a slot's step fetches, decodes and executes. -/

namespace Sys2Proof.Machine

variable {s t u : State}

/-! Reset (R20, R82, R84, R203, R409). -/

/-- An element of a vector of equal elements. -/
theorem vector_get_replicate {α : Type} {n : Nat} (a : α) (i : Fin n) : (Vector.replicate n a).get i = a :=
  Vector.getElem_replicate i.isLt

/-- A guard register of a context whose guards are all zero: g0 reads all ones (R82). -/
theorem Ctx.gReg_of_zero {x : Ctx} (h : x.g = Vector.replicate 7 0) (n : Fin 8) :
    x.gReg n = if n = 0 then BitVec.allOnes 32 else 0 := by
  unfold Ctx.gReg
  split
  next h0 => rw [if_pos (Fin.ext h0)]; rfl
  next h0 => rw [if_neg (fun hn => h0 (congrArg Fin.val hn)), h, vector_get_replicate]

theorem resetValues : Said.ResetValues := by
  refine ⟨rfl, rfl, rfl, fun _ => rfl, fun c k => ?_, fun _ => ⟨rfl, rfl, rfl, rfl, rfl, rfl⟩⟩
  exact ⟨rfl, rfl, rfl, rfl, rfl, rfl, rfl, rfl, rfl, rfl, fun r => vector_get_replicate _ r, Ctx.gReg_of_zero rfl,
    fun r => vector_get_replicate _ r, fun n => vector_get_replicate _ n⟩

/-- Settles O56: the reset state lists nothing in any table, so that every register and byte reads as its default. -/
theorem resetState : Obligations.ResetState := ⟨resetValues, Memory.nil_wf⟩

/-! Fetching (R59, R71, R417). -/

/-- The length that a first byte announces (R59). -/
theorem lengthOf'_eq (b : Byte) :
    lengthAt.lengthOf' b = if b.toNat % 4 = 0 then 8 else if b.toNat % 4 = 1 then 12 else 16 := by
  unfold lengthAt.lengthOf'
  split
  next h0 => rw [if_pos h0]
  next h1 => rw [if_neg (by omega), if_pos h1]
  next h0 h1 => rw [if_neg h0, if_neg h1]

/-- The length of an instruction is the one that its first byte announces (R59). -/
theorem lengthAt_eq_ok {a : Word} {n : Nat} (h : Gives (lengthAt a) s n t) :
    ∃ b : Byte, n = if b.toNat % 4 = 0 then 8 else if b.toNat % 4 = 1 then 12 else 16 := by
  obtain ⟨bs, _, -, hn⟩ := bind_eq_ok h
  cases hn
  exact ⟨bs.headD 0, lengthOf'_eq _⟩

/-- A block outside the own core store that has been fetched is read as it was fetched (R417). -/
theorem fetchBytes_held {a n : Nat} {blk : Word × List Byte}
    (hblk : s.me.fetched.find? (fun f => f.1.toNat == blockOf a) = some blk) (hsp : spaceOf a ≠ 0x8) :
    Gives (fetchBytes a n) s ((blk.2.drop (a % 32)).take n) s := by
  have hoff : a - blockOf a = a % 32 := by unfold blockOf; omega
  rw [Gives, fetchBytes, bind_ok (get_run s)]
  simp only [hblk, if_neg hsp, hoff]
  rfl

/-- An instruction that does not fit its fetch block raises PLACE (R71). -/
theorem fetchInstr_place {n : Nat} (hn : Gives (lengthAt s.me.pc) s n t) (h : 32 < s.me.pc.toNat % 32 + n) :
    fetchInstr s = .error (.fault { code := .place }) := by
  rw [fetchInstr, bind_ok (get_run s), bind_ok hn, decide_eq_false (Nat.not_le.mpr h)]
  exact bind_error (ensure_false _ _ t)

/-- One that fits is what its bytes decode to (R59, R79). -/
theorem fetchInstr_fits {n : Nat} {bs : List Byte} (hn : Gives (lengthAt s.me.pc) s n t) (h : s.me.pc.toNat % 32 + n ≤ 32)
    (hbs : Gives (fetchBytes s.me.pc.toNat n) t bs u) : fetchInstr s = .ok ((decode bs).map Prod.fst, u) := by
  rw [fetchInstr, bind_ok (get_run s), bind_ok hn, decide_eq_true h, bind_ok (ensure_true _ _ t), bind_ok hbs]
  rfl

/-! The step of a slot. -/

/-- The state in which the slot of context `k` of core `c` fetches. -/
abbrev State.slotOf (s : State) (c k : Nat) : State := { s with issue := none, cur := (c, k), acct := .iss }

/-- A step with a slot to issue is that slot's cycle. -/
theorem step_of_issue {c k : Nat} (hp : s.power ≠ .off) (hi : s.issue = some (c, k)) :
    step s = afterIssue c k (s.slotOf c k).runOne := by
  rw [step, if_neg hp, hi]
  rfl

/-- A fetch that stops, stops the slot's instruction. -/
theorem State.runOne_error {e : Stop} (h : fetchInstr s = .error e) : s.runOne = .next (s.stopped [] e) := by
  rw [State.runOne, h]

/-- A word that decodes to nothing is a reserved encoding (R79). -/
theorem State.runOne_reserved (h : fetchInstr s = .ok (none, t)) : s.runOne = exec .reservedEncoding t := by
  rw [State.runOne, h]
  rfl

/-- A decoded word is executed as the instruction it stands for, CREST and a pair word among them. -/
theorem State.runOne_decoded {d : Decoded} (h : fetchInstr s = .ok (some d, t)) : s.runOne = exec d.instr t := by
  rw [State.runOne, h]
  cases d <;> rfl

/-- Without the supply nothing issues and no event comes, but for the boot (R409). -/
theorem step_of_off (hp : s.power = .off) : step s =
    if s.issue.isSome || !s.agenda.isEmpty then .fault .unpowered else execPowerOn s := by
  rw [step, if_pos hp]

/-- The next event of the agenda. -/
theorem step_of_agenda {i : Instr} {r : List Instr} (hp : s.power ≠ .off) (hi : s.issue = none) (ha : s.agenda = i :: r)
    (he : isEvent i = true) : step s = exec i { s with agenda := r } := by
  rw [step, if_neg hp, hi, ha]
  exact if_pos he

/-- Settles O57: the slot's fetch either raises PLACE or answers what its bytes decode to, and that is executed; then the cycle
ends. -/
theorem stepRunsDecoded : Obligations.StepRunsDecoded := by
  refine ⟨fun s c k hp hi => ⟨fun n s1 hn => ⟨fun hlong => ?_, fun hfit bs t hbs => ⟨fun i m hd => ?_, fun hd => ?_⟩⟩,
    fun n s1 hn => lengthAt_eq_ok hn, fun blk n hblk hsp => ?_⟩,
    fun s hp => ⟨fun hsome => ?_, fun hi ha => ?_⟩, fun s i r hp hi ha he => step_of_agenda hp hi ha he⟩
  · rw [step_of_issue hp hi, State.runOne_error (fetchInstr_place (s := s.slotOf c k) hn hlong)]
    rfl
  · have hfetch : fetchInstr (s.slotOf c k) = .ok (some i, t) := by rw [fetchInstr_fits (s := s.slotOf c k) hn hfit hbs, hd]; rfl
    have hstep : step s = afterIssue c k (exec i.instr t) := by rw [step_of_issue hp hi, State.runOne_decoded hfetch]
    exact ⟨hstep, fun u hu => by rw [hstep, hu]; rfl⟩
  · have hfetch : fetchInstr (s.slotOf c k) = .ok (none, t) := by rw [fetchInstr_fits (s := s.slotOf c k) hn hfit hbs, hd]; rfl
    rw [step_of_issue hp hi, State.runOne_reserved hfetch]
  · exact fetchBytes_held (a := (s.ctx c k).pc.toNat) hblk hsp
  · rw [step_of_off hp]
    refine if_pos ?_
    rcases hsome with h | h
    · simp [Option.isSome_iff_ne_none.mpr h]
    · simp [h]
  · rw [step_of_off hp, hi, ha]
    rfl

end Sys2Proof.Machine
end

section
/-! PROOFS. O11: completion, NOP, the control transfers and REP (R13, R72 to R75, R134 to R137, R374). -/

namespace Sys2Proof.Machine

variable {s s1 s2 t u : State}

/-! Completion (R13, R72, R137, R374). -/

/-- The instruction that completes is counted on its core, and its context is the retired one. -/
theorem State.retire_eq (s : State) (len : Nat) : s.retire len =
    (s.setCore s.cc { s.myCore with cntEv := s.myCore.cntEv ++ [(0x08, s.ck, 1)] }).setCtx s.cc s.ck (retireCtx s.me len) := rfl

/-- Without delay slots or a repeat, the next instruction follows. -/
theorem nextPc_plain {x : Ctx} (hl : x.live.left = 0) (ha : x.live.active = false) (len : Nat) :
    nextPc x len = (x.pc + BitVec.ofNat 64 len, x.live) := by
  simp [nextPc, hl, ha]

/-- In a first delay slot, the second follows (R72). -/
theorem nextPc_slot {x : Ctx} (hl : 1 < x.live.left) (len : Nat) :
    nextPc x len = (x.pc + BitVec.ofNat 64 len, { x.live with left := x.live.left - 1 }) := by
  simp [nextPc, show 0 < x.live.left by omega, show x.live.left ≠ 1 by omega]

/-- After the second delay slot a taken transfer reaches its target (R72). -/
theorem nextPc_lastSlot {x : Ctx} (hl : x.live.left = 1) (len : Nat) : nextPc x len =
    (if x.live.taken then x.live.target else x.pc + BitVec.ofNat 64 len,
      { x.live with left := 0, taken := false, target := 0 }) := by
  simp [nextPc, hl]

/-- Within the body of a repeat the next of its instructions follows (R137). -/
theorem nextPc_body {x : Ctx} (hl : x.live.left = 0) (ha : x.live.active = true) (hp : x.live.pos + 1 ≠ x.live.blen)
    (len : Nat) : nextPc x len = (x.pc + BitVec.ofNat 64 len, { x.live with pos := x.live.pos + 1 }) := by
  simp [nextPc, hl, ha, hp]

/-- At the end of a pass that is not the last, the body begins again (R137). -/
theorem nextPc_pass {x : Ctx} (hl : x.live.left = 0) (ha : x.live.active = true) (hp : x.live.pos + 1 = x.live.blen)
    (hn : 1 < x.live.passes.toNat) (len : Nat) :
    nextPc x len = (x.live.start, { x.live with passes := x.live.passes - 1, pos := 0 }) := by
  simp [nextPc, hl, ha, hp, hn]

/-- After the last pass, the instruction after the body follows (R137). -/
theorem nextPc_lastPass {x : Ctx} (hl : x.live.left = 0) (ha : x.live.active = true) (hp : x.live.pos + 1 = x.live.blen)
    (hn : x.live.passes.toNat ≤ 1) (len : Nat) : nextPc x len = (x.pc + BitVec.ofNat 64 len,
      { x.live with active := false, start := 0, passes := 0, blen := 0, pos := 0 }) := by
  simp [nextPc, hl, ha, hp, Nat.not_lt.mpr hn]

/-- Without a step count, or with the one that never falls, nothing steps (R374). -/
theorem stepDown_still {x : Ctx} (h : x.dbc.steps = 0 ∨ x.dbc.steps = 0xFFFF) : stepDown x = x := by
  unfold stepDown
  exact if_pos (by simpa using h)

/-- The step count falls, and at its end the step is due (R374). -/
theorem stepDown_falls {x : Ctx} (h0 : x.dbc.steps ≠ 0) (hF : x.dbc.steps ≠ 0xFFFF) : stepDown x =
    { x with dbc := { x.dbc with steps := x.dbc.steps - 1 }, stepDue := x.stepDue || x.dbc.steps = 1 } := by
  unfold stepDown
  exact if_neg (by simpa using And.intro h0 hF)

/-- The context that has retired, before its step count falls. -/
def Ctx.moved (x : Ctx) (len : Nat) : Ctx :=
  { x with pc := (nextPc x len).1, live := (nextPc x len).2, wait := none, pend := none, walks := [], woke := false }

theorem retireCtx_eq (x : Ctx) (len : Nat) : retireCtx x len = stepDown (x.moved len) := rfl

/-- Without a step count, retiring moves the PC and ends the instruction's waits. -/
theorem retireCtx_still {x : Ctx} (h : x.dbc.steps = 0 ∨ x.dbc.steps = 0xFFFF) (len : Nat) : retireCtx x len = x.moved len :=
  stepDown_still (x := x.moved len) h

/-- With one, the count falls too (R374). -/
theorem retireCtx_falls {x : Ctx} (h0 : x.dbc.steps ≠ 0) (hF : x.dbc.steps ≠ 0xFFFF) (len : Nat) : retireCtx x len =
    { x.moved len with dbc := { x.dbc with steps := x.dbc.steps - 1 }, stepDue := x.stepDue || x.dbc.steps = 1 } :=
  stepDown_falls (x := x.moved len) h0 hF

/-- Retiring changes the PC, the live control block and the step count, and ends the instruction's waits; nothing else. -/
theorem retireCtx_frame (x : Ctx) (len : Nat) : retireCtx x len =
    { x with
      pc := (retireCtx x len).pc, live := (retireCtx x len).live, dbc := (retireCtx x len).dbc
      stepDue := (retireCtx x len).stepDue, wait := none, pend := none, walks := [], woke := false } := by
  rcases Classical.em (x.dbc.steps = 0 ∨ x.dbc.steps = 0xFFFF) with h | h
  · rw [retireCtx_still h]
    rfl
  · obtain ⟨h0, hF⟩ := not_or.mp h
    rw [retireCtx_falls h0 hF]
    rfl

theorem completionMovesThePc : Said.CompletionMovesThePc := by
  intro s len
  refine ⟨retireCtx s.me len, ⟨_, s.retire_eq len, rfl⟩, fun hl ha => ?_, fun hl => ?_, fun hl => ?_,
    fun hl ha => ⟨fun hp => ?_, fun hp hn => ?_, fun hp hn => ?_⟩, fun h => ?_, fun h0 hF => ?_, retireCtx_frame _ _⟩
  · rw [retireCtx_pc, retireCtx_live, nextPc_plain hl ha]
    exact ⟨rfl, rfl⟩
  · rw [retireCtx_pc, retireCtx_live, nextPc_slot hl]
    exact ⟨rfl, rfl⟩
  · rw [retireCtx_pc, retireCtx_live, nextPc_lastSlot hl]
    exact ⟨rfl, rfl⟩
  · rw [retireCtx_pc, retireCtx_live, nextPc_body hl ha (Nat.ne_of_lt hp)]
    exact ⟨rfl, rfl⟩
  · rw [retireCtx_pc, retireCtx_live, nextPc_pass hl ha hp hn]
    exact ⟨rfl, rfl⟩
  · rw [retireCtx_pc, retireCtx_live, nextPc_lastPass hl ha hp hn]
    exact ⟨rfl, rfl⟩
  · rw [retireCtx_still h]
    exact ⟨rfl, rfl⟩
  · rw [retireCtx_falls h0 hF]
    exact ⟨rfl, by simp⟩

/-! NOP and reserved encodings (R75, R79). -/

theorem nopAndReservedEncodings : Said.NopAndReservedEncodings :=
  ⟨fun _ _ _ _ _ hi => runPuts_next (ps := []) hi rfl rfl, fun _ => rfl⟩

/-! Instructions that change their context after they have retired. -/

/-- Without a request there is nothing to note popped entries in. -/
theorem Ctx.notes_of_no_pend {x : Ctx} (h : x.pend = none) (f : Pend → Pend) : { x with pend := x.pend.map f } = x := by
  cases x
  cases h
  rfl

/-- A context that has retired awaits nothing, whatever else of it is then changed. -/
theorem State.retire_modMe_notes (s : State) (len : Nat) {g : Ctx → Ctx} (hg : ∀ x : Ctx, x.pend = none → (g x).pend = none)
    (f : Pend → Pend) :
    ((s.retire len).modMe g).modMe (fun x => { x with pend := x.pend.map f }) = (s.retire len).modMe g := by
  simp only [State.retire, State.modMe_modMe, Ctx.notes_of_no_pend (hg _ (retireCtx_pend _ _)) f]

/-- An instruction that issues, retires, and then changes its context. -/
theorem runWith_retire_modMe {i : Info} {off body : M Unit} {len : Nat} {g : Ctx → Ctx} (hp : Issues i s t)
    (hb : body t = .ok ((), (u.retire len).modMe g)) (hg : ∀ x : Ctx, x.pend = none → (g x).pend = none) :
    runWith i off body s = .next ((u.retire len).modMe g) := by
  rw [runWith_eq, hp]
  simp only [hb]
  split
  · rfl
  · rw [State.retire_modMe_notes _ _ hg]

theorem run_retire_modMe {i : Info} {body : M Unit} {len : Nat} {g : Ctx → Ctx} (hp : Issues i s t)
    (hb : body t = .ok ((), (u.retire len).modMe g)) (hg : ∀ x : Ctx, x.pend = none → (g x).pend = none) :
    run i body s = .next ((u.retire len).modMe g) :=
  runWith_retire_modMe hp hb hg

/-- An instruction that issues and whose body faults. -/
theorem runWith_fault {i : Info} {off body : M Unit} {c : Cause} (hp : Issues i s t) (hb : body t = .error (.fault c)) :
    runWith i off body s = .next { t.takeFault t.cc t.ck c with acct := .iss } := by
  rw [runWith_eq, hp]
  simp only [hb]
  rfl

/-! The control transfers (R72, R134, R135). -/

/-- A transfer whose target is answered: with the delay slots' lengths read, it links and has two slots left, or raises ALIGN. -/
theorem runTransfer_transfers {i : Instr} {j : Info} {rd : SDst} {target : Word → M Word} {w : Word}
    (hexec : exec i s = runTransfer j rd target s) (hi : Issues { j with bar := true } s s1)
    (ht : Gives (target s1.me.pc) s1 w s2) : Claim.Transfers i j.len rd s s1 s2 w := by
  intro s3 link hlink hrd
  rw [hexec, runTransfer]
  refine ⟨fun hal => ⟨_, ?_, rfl⟩, fun hal => ?_⟩
  · refine runWith_retire_modMe hi ?_ fun _ hx => hx
    rw [bind_ok (get_run s1), bind_ok ht, bind_ok hlink, bind_ok hrd, decide_eq_true hal, bind_ok (ensure_true _ _ s3)]
    rfl
  · refine runWith_fault hi ?_
    rw [bind_ok (get_run s1), bind_ok ht, bind_ok hlink, bind_ok hrd, decide_eq_false hal]
    exact bind_error (ensure_false _ _ s3)

theorem controlTransfers : Said.ControlTransfers := by
  refine ⟨fun g imm s s1 hi => ⟨?_, ?_⟩, fun g rd imm s s1 hi => ?_, fun g rd a s s1 s2 t hi ht => ?_,
    fun g a s s1 s2 t hi ht => ?_⟩
  · exact runTransfer_transfers (j := infoOf g (formLen imm.form) 1 [] [] [] []) (target := fun pc => pure (pc + 4 * imm.val))
      rfl hi rfl
  · exact runTransfer_transfers (j := infoOf g (formLen imm.form) 1 [] [] [] []) (target := fun _ => pure imm.val) rfl hi rfl
  · exact runTransfer_transfers (j := infoOf g (formLen imm.form) 1 [] [] [rd] [])
      (target := fun pc => pure (pc + 4 * imm.val)) rfl hi rfl
  · exact runTransfer_transfers (j := infoOf g 8 1 [a] [] [rd] []) (target := fun _ => readS a) rfl hi ht
  · exact runTransfer_transfers (j := infoOf g 8 1 [a] [] [] []) (target := fun _ => readS a) rfl hi ht

/-! REP (R137). -/

theorem repStartsOrSkips : Said.RepStartsOrSkips := by
  intro g a blen imm s s1 s2 v hi hv
  refine ⟨fun hn => ?_, fun hn t s3 ht => ?_⟩
  all_goals refine run_retire_modMe hi ?_ ?_
  · rw [bind_ok hv, bind_ok (get_run s2)]
    simp only [if_neg hn]
    rfl
  · exact fun _ hx => hx
  · rw [bind_ok hv, bind_ok (get_run s2)]
    simp only [if_pos hn]
    exact bind_ok ht
  · exact fun _ hx => hx

/-- Settles O11: how the PC moves at completion, and what NOP, a reserved encoding, the control transfers and REP do. -/
theorem controlFlowResults : Obligations.ControlFlowResults :=
  ⟨completionMovesThePc, nopAndReservedEncodings, controlTransfers, repStartsOrSkips⟩

end Sys2Proof.Machine
end

section
/-! PROOFS. O46: how a service core takes a host request (R21, R218, R258, R301, R303 to R306, R410). -/

namespace Sys2Proof.Machine

variable {s t u : State} {r : HostReq} {op : Nat} {p0 : Bool} {f : State → Ans} {rec : State → Ans}

/-! Requests and replies. -/

/-- The header check is the header of R303. -/
theorem headOk_iff (r : HostReq) : headOk r = true ↔ Claim.header r := by
  simp [headOk, Claim.header, and_assoc]

/-- The low bytes of a number, one by one. -/
theorem leCut_eq_map (n v : Nat) : leCut n v = (List.range n).map (fun i => BitVec.ofNat 8 (v / 256 ^ i)) := by
  induction n generalizing v with
  | zero => rfl
  | succ n ih =>
    rw [leCut, ih, List.range_succ_eq_map, List.map_cons, List.map_map, Nat.pow_zero, Nat.div_one]
    refine congrArg (_ :: ·) (List.map_congr_left fun i _ => ?_)
    rw [Function.comp_apply, Nat.div_div_eq_div_mul, Nat.succ_eq_add_one, Nat.pow_succ, Nat.mul_comm]

/-- The bytes of a value are its fields of eight bits, from the lowest on. -/
theorem bytesOf_eq_map {w : Nat} (n : Nat) (v : BitVec w) :
    bytesOf n v = (List.range n).map (fun i => v.extractLsb' (8 * i) 8) := by
  rw [bytesOf, leCut_eq_map]
  refine List.map_congr_left fun i _ => ?_
  rw [BitVec.extractLsb', Nat.shiftRight_eq_div_pow, Nat.pow_mul]

/-- A reply repeats the request's header and carries the status and the bytes (R303, R306); it follows the replies that were
there. -/
theorem State.replyTo_replied (h : t.hostOut = s.hostOut) (r : HostReq) (st : Word) (data : List Byte) :
    Claim.replied s (t.replyTo r st data) r st data :=
  ⟨_, congrArg (· ++ _) h, rfl, rfl, rfl, rfl, rfl, rfl, rfl, rfl, congrArg (· ++ data) (bytesOf_eq_map 8 st)⟩

/-- Outside record and replay, a host request is always the next. -/
theorem State.hostTurn_of_off (h : (s.part r.part).replay.mode = .off) (op : Nat) : s.hostTurn op r = (true, true) := by
  simp [State.hostTurn, h]

/-- Outside record and replay, nothing is logged. -/
theorem State.logged_of_off {p : Nat} (h : (s.part p).replay.mode = .off) (kind : Nat) (key : Word) (c k : Nat) (d2 d3 : Word)
    (more : List (List Nat)) : s.logged p kind key c k d2 d3 more = s := by
  simp [State.logged, h]

/-! The request of a command, by what the service core finds of it. -/

/-- The state once a request's bytes are counted (R365). -/
abbrev State.requested (s : State) (r : HostReq) : State := s.uetBytes false (32 + r.len)

/-- The module is on or in recovery, and the request comes by a delivery mode that it uses (R301, R409). -/
def State.Takes (s : State) (r : HostReq) : Prop := s.power ≠ .off ∧ r.mode.unused = false

/-- The service core that a request names is there (R21). -/
def State.Here (s : State) (r : HostReq) : Prop := r.scn < 128 ∧ (tgetD s.services r.scn {}).gone = false

/-- A service core takes a request as the command `op` (R21, R301, R303, R304). -/
def State.Accepts (s : State) (op : Nat) (r : HostReq) : Prop := s.Takes r ∧ s.Here r ∧ Claim.header r ∧ r.op = op

theorem here_iff : (decide (128 ≤ r.scn) || (tgetD s.services r.scn {}).gone) = false ↔ s.Here r := by
  simp [State.Here]

theorem headed_iff : (!headOk r || r.op != op) = false ↔ Claim.header r ∧ r.op = op := by
  simp [headOk_iff]

/-- The request's OP is the command's, or no command's. -/
theorem passes_op (hop : r.op = op ∨ r.op = 0 ∨ 11 < r.op) : (r.op != op && knownOp r.op) = false := by
  simp only [knownOp, Bool.and_eq_false_iff, bne_eq_false_iff_eq, decide_eq_false_iff_not]
  omega

/-- A request by a delivery mode that the module does not use is dropped and counted (R301). -/
theorem runHost_unused (hp : s.power ≠ .off) (hm : r.mode.unused = true) :
    runHost op p0 r f rec s = .next { s with pktDrops := s.pktDrops + 1 } := by
  simp [runHost, hp, hm]

/-- A request of another command is that command's event. -/
theorem runHost_otherCommand (h : s.Takes r) (hop : r.op ≠ op) (h1 : 1 ≤ r.op) (h11 : r.op ≤ 11) :
    runHost op p0 r f rec s = .next s := by
  simp [runHost, knownOp, h.1, h.2, hop, h1, h11]

/-- A bad header, an OP of no command and a service core that is not there are BADCMD (R306; log 110). -/
theorem runHost_bad (h : s.Takes r) (hop : r.op = op ∨ r.op = 0 ∨ 11 < r.op)
    (hbad : ¬s.Here r ∨ ¬Claim.header r ∨ r.op ≠ op) :
    runHost op p0 r f rec s = .next ((s.requested r).replyTo r stBad []) := by
  simp only [runHost, beq_eq_false_iff_ne.mpr h.1, h.2, passes_op hop, Bool.false_eq_true, if_false]
  by_cases hh : s.Here r
  · have hhead : (!headOk r || r.op != op) = true := by
      rw [← Bool.not_eq_false, headed_iff]
      exact fun ⟨hhead, hop⟩ => hbad.elim (· hh) (·.elim (· hhead) (· hop))
    rw [here_iff.mpr hh, hhead]
    rfl
  · rw [eq_true_of_ne_false (mt here_iff.mp hh)]
    rfl

/-- Recovery answers what it accepts (R410). -/
theorem runHost_recovery (h : s.Accepts op r) (hp : s.power = .recovery) : runHost op p0 r f rec s =
    .next ((rec (s.requested r)).st.replyTo r (rec (s.requested r)).status (rec (s.requested r)).data) := by
  obtain ⟨⟨hon, hm⟩, hh, hhead, hop⟩ := h
  simp only [runHost, beq_eq_false_iff_ne.mpr hon, hm, passes_op (.inl hop), here_iff.mpr hh, headed_iff.mpr ⟨hhead, hop⟩,
    Bool.false_eq_true, if_false]
  rw [hp]
  rfl

/-- A command of partition 0 asked for by another is NOTHELD (R304, R306). -/
theorem runHost_notHeld (h : s.Accepts op r) (hp : s.power = .on) (hr : (tgetD s.services r.scn {}).released = true)
    (hpart : r.part ≠ 0) : runHost op true r f rec s = .next ((s.requested r).replyTo r stNotHeld []) := by
  obtain ⟨⟨hon, hm⟩, hh, hhead, hop⟩ := h
  simp only [runHost, beq_eq_false_iff_ne.mpr hon, hm, passes_op (.inl hop), here_iff.mpr hh, headed_iff.mpr ⟨hhead, hop⟩,
    hr, bne_iff_ne.mpr hpart, Bool.false_eq_true, if_false]
  rw [hp]
  rfl

/-- Outside record and replay, a released service core performs the command with its view refreshed, lets its writes go, and
replies unless the reply comes later (R258, R303). -/
theorem runHost_performs (h : s.Accepts op r) (hp : s.power = .on) (hr : (tgetD s.services r.scn {}).released = true)
    (hpart : p0 = true → r.part = 0) (hpres : s.present r.part = true) (hmode : (s.part r.part).replay.mode = .off) :
    runHost op p0 r f rec s =
      let a := f (Claim.heard s r)
      let v := a.st.svcEnd r.scn (r.flags == 1)
      .next (if a.later then v else v.replyTo r a.status a.data) := by
  obtain ⟨⟨hon, hm⟩, hh, hhead, hop⟩ := h
  have hp0 : (p0 && r.part != 0) = false := by
    rw [Bool.and_eq_false_iff, bne_eq_false_iff_eq]
    exact (Classical.em (p0 = true)).symm.imp Bool.eq_false_iff.mpr hpart
  have hlog := State.logged_of_off (s := s.requested r) hmode
  simp only [runHost, beq_eq_false_iff_ne.mpr hon, hm, passes_op (.inl hop), here_iff.mpr hh, headed_iff.mpr ⟨hhead, hop⟩,
    hr, hp0, hpres, State.hostTurn_of_off hmode, hlog, Bool.false_eq_true, if_false, if_true]
  rw [hp]
  rfl

/-! The commands (R305). -/

/-- A waiting command is left alone while it must wait (R218), and else performed. -/
theorem runWaiting_eq (op : Nat) (p0 : Bool) (r : HostReq) (f : State → Option Ans) (s : State) : runWaiting op p0 r f s =
    if s.power = .on ∧ f (s.svcBegin r.scn) = none then .next s
    else runHost op p0 r (fun t => (f t).getD { status := stBad, st := t }) refuseRecovery s := by
  simp [runWaiting]

/-- A command that need not wait is performed. -/
theorem runHost_eq (op : Nat) (p0 : Bool) (r : HostReq) (f rec : State → Ans) (s : State) : runHost op p0 r f rec s =
    if s.power = .on ∧ some (f (s.svcBegin r.scn)) = none then .next s
    else runHost op p0 r (fun t => (some (f t)).getD { status := stBad, st := t }) rec s := by
  simp

/-- Every command of R305 is taken by the same rules; in recovery all but WRITE and STATUS are refused (R410). -/
theorem command_runs {i : Instr} {f : State → Option Ans} (h : Claim.command i r op p0 f) :
    ∃ rec : State → Ans, (op ≠ 2 → op ≠ 11 → rec = refuseRecovery) ∧ ∀ s, exec i s =
      if s.power = .on ∧ f (s.svcBegin r.scn) = none then .next s
      else runHost op p0 r (fun t => (f t).getD { status := stBad, st := t }) rec s := by
  rcases h with ⟨rfl, rfl, rfl, rfl⟩ | ⟨rfl, rfl, rfl, rfl⟩ | ⟨rfl, rfl, rfl, rfl⟩ | ⟨rfl, rfl, rfl, rfl⟩ |
    ⟨rfl, rfl, rfl, rfl⟩ | ⟨rfl, rfl, rfl, rfl⟩ | ⟨rfl, rfl, rfl, rfl⟩ | ⟨rfl, hsop, rfl, rfl, rfl⟩ |
    ⟨rfl, hsop, rfl, rfl, rfl⟩ | ⟨rfl, rfl, rfl, rfl⟩ | ⟨rfl, rfl, rfl, rfl⟩ | ⟨rfl, rfl, rfl, rfl⟩
  · exact ⟨refuseRecovery, fun _ _ => rfl, runHost_eq 1 false r (cmdLaunch r) refuseRecovery⟩
  · exact ⟨stageWrite r, fun h2 _ => absurd rfl h2, runHost_eq 2 false r (cmdWrite r) (stageWrite r)⟩
  · exact ⟨refuseRecovery, fun _ _ => rfl, runHost_eq 3 false r (cmdRead r) refuseRecovery⟩
  · exact ⟨refuseRecovery, fun _ _ => rfl, runWaiting_eq 4 false r (cmdMap r)⟩
  · exact ⟨refuseRecovery, fun _ _ => rfl, runWaiting_eq 5 false r (cmdUnmap r)⟩
  · exact ⟨refuseRecovery, fun _ _ => rfl, runWaiting_eq 6 true r (cmdShare r)⟩
  · exact ⟨refuseRecovery, fun _ _ => rfl, runHost_eq 7 true r (cmdGroup r) refuseRecovery⟩
  · exact ⟨refuseRecovery, fun _ _ => rfl, fun s => (if_neg hsop).trans (runHost_eq 8 false r (cmdDefine r) refuseRecovery s)⟩
  · exact ⟨refuseRecovery, fun _ _ => rfl, fun s => (if_pos hsop).trans (runHost_eq 8 false r (cmdRemove r) refuseRecovery s)⟩
  · exact ⟨refuseRecovery, fun _ _ => rfl, runHost_eq 9 true r (cmdPstart r) refuseRecovery⟩
  · exact ⟨refuseRecovery, fun _ _ => rfl, runHost_eq 10 true r (cmdPstop r) refuseRecovery⟩
  · exact ⟨recoveryStatus r, fun _ h11 => absurd rfl h11, runHost_eq 11 false r (cmdStatus r) (recoveryStatus r)⟩

/-- Settles O46: every command runs through the one chain of checks, each of whose branches has its rule above. -/
theorem hostRequests : Obligations.HostRequests := by
  intro i r op p0 f hcmd s
  obtain ⟨rec, hrec, hexec⟩ := command_runs hcmd
  refine ⟨fun hp hnone => by rw [hexec, if_pos ⟨hp, hnone⟩], fun hp hsome => ?_, fun hp hm hh hhead hop h2 h11 => ?_⟩
  · have hon : s.power ≠ .off := by rw [hp]; decide
    have hrun : exec i s = runHost op p0 r (fun t => (f t).getD { status := stBad, st := t }) rec s := by
      rw [hexec, if_neg fun hwait => Option.isSome_iff_ne_none.mp hsome hwait.2]
    refine ⟨fun hm => hrun.trans (runHost_unused hon hm),
      fun hm hop h1 h11 => hrun.trans (runHost_otherCommand ⟨hon, hm⟩ hop h1 h11),
      fun hm hop => ⟨fun hbad => ⟨_, hrun.trans (runHost_bad ⟨hon, hm⟩ hop hbad), ?_, rfl, rfl⟩,
        fun hh hhead hop hr => ⟨fun hp0 hpart => ?_, fun hpart hpres hmode a ha => ?_⟩⟩⟩
    · exact State.replyTo_replied rfl r stBad []
    · subst hp0
      exact ⟨_, hrun.trans (runHost_notHeld ⟨⟨hon, hm⟩, hh, hhead, hop⟩ hp hr hpart),
        State.replyTo_replied rfl r stNotHeld [], rfl, rfl⟩
    · have hnext := hrun.trans (runHost_performs ⟨⟨hon, hm⟩, hh, hhead, hop⟩ hp hr hpart hpres hmode)
      simp only [ha, Option.getD_some] at hnext
      cases hl : a.later with
      | false =>
        rw [hl] at hnext
        exact ⟨_, hnext, rfl, rfl, rfl, fun _ => State.replyTo_replied rfl r a.status a.data, nofun⟩
      | true =>
        rw [hl] at hnext
        exact ⟨_, hnext, rfl, rfl, rfl, nofun, fun _ => ⟨rfl, rfl, rfl⟩⟩
  · have hon : s.power ≠ .off := by rw [hp]; decide
    have hrun : exec i s = runHost op p0 r (fun t => (f t).getD { status := stBad, st := t }) refuseRecovery s := by
      rw [hexec, if_neg fun hwait => absurd (hp.symm.trans hwait.1) (by decide), hrec h2 h11]
    exact ⟨_, hrun.trans (runHost_recovery ⟨⟨hon, hm⟩, hh, hhead, hop⟩ hp),
      State.replyTo_replied rfl r stBad [], rfl, rfl⟩

end Sys2Proof.Machine
end

section
/-! PROOFS. What an access may change besides what it writes: memory, caches, counters and the number of choices made (R214 to R216,
R247, R364). -/

namespace Sys2Proof.Machine

variable {s t u : State}

/-- A state with the memories, caches, counters and choices of another. -/
def State.accessedBy (s t : State) : State :=
  { s with
    mem := t.mem, cores := t.cores, clusters := t.clusters, dies := t.dies, parts := t.parts, l2Pending := t.l2Pending
    fresh := t.fresh }

/-- From `s` to `t` only what accesses may change has changed. -/
def State.Accessed (s t : State) : Prop := t = s.accessedBy t

/-- From `s` to `t` only caches, counters and the number of choices have changed. -/
def State.CachesOnly (s t : State) : Prop := s.Accessed t ∧ t.mem = s.mem

namespace State

theorem Accessed.refl (s : State) : s.Accessed s := rfl

theorem Accessed.trans (h : s.Accessed t) (k : t.Accessed u) : s.Accessed u :=
  calc u = t.accessedBy u := k
    _ = (s.accessedBy t).accessedBy u := congrArg (accessedBy · u) h
    _ = s.accessedBy u := rfl

theorem Accessed.net (h : s.Accessed t) : t.net = s.net :=
  (congrArg State.net h : t.net = (s.accessedBy t).net)
theorem Accessed.launches (h : s.Accessed t) : t.launches = s.launches :=
  (congrArg State.launches h : t.launches = (s.accessedBy t).launches)

theorem CachesOnly.refl (s : State) : s.CachesOnly s := ⟨rfl, rfl⟩

theorem CachesOnly.trans (h : s.CachesOnly t) (k : t.CachesOnly u) : s.CachesOnly u := ⟨h.1.trans k.1, k.2.trans h.2⟩

theorem Accessed.foldl {α : Type} {f : State → α → State} (hf : ∀ (s : State) (a : α), s.Accessed (f s a)) :
    ∀ (l : List α) (s : State), s.Accessed (l.foldl f s)
  | [], s => .refl s
  | a :: l, s => (hf s a).trans (Accessed.foldl hf l (f s a))

theorem CachesOnly.foldl {α : Type} {f : State → α → State} (hf : ∀ (s : State) (a : α), s.CachesOnly (f s a)) :
    ∀ (l : List α) (s : State), s.CachesOnly (l.foldl f s)
  | [], s => .refl s
  | a :: l, s => (hf s a).trans (CachesOnly.foldl hf l (f s a))

theorem CachesOnly.ite {b : Prop} [Decidable b] (h : s.CachesOnly t) : s.CachesOnly (if b then s else t) := by
  split
  · exact .refl s
  · exact h

/-! L2s and their counters. -/

theorem modDie_cachesOnly (s : State) (d : Nat) (f : Die → Die) : s.CachesOnly (s.modDie d f) := ⟨rfl, rfl⟩

theorem modCore_cachesOnly (s : State) (c : Nat) (f : Core → Core) : s.CachesOnly (s.modCore c f) := ⟨rfl, rfl⟩

theorem modBank_cachesOnly (s : State) (d p n : Nat) (f : PCnt → PCnt) : s.CachesOnly (s.modBank d p n f) := ⟨rfl, rfl⟩

theorem l2Overflow_cachesOnly (s : State) (d p n : Nat) (cfg : Word) : s.CachesOnly (s.l2Overflow d p n cfg) := by
  unfold l2Overflow
  dsimp only
  split <;> exact ⟨rfl, rfl⟩

theorem bankEvent_cachesOnly (s : State) (d p ev : Nat) : s.CachesOnly (s.bankEvent d p ev) := by
  refine CachesOnly.foldl (fun s n => ?_) _ s
  dsimp only
  split
  · split
    · exact (modBank_cachesOnly _ _ _ _ _).trans (l2Overflow_cachesOnly _ _ _ _ _)
    · exact modBank_cachesOnly _ _ _ _ _
  · exact .refl s

theorem flushBank_cachesOnly (s : State) (d c k : Nat) : s.CachesOnly (s.flushBank d c k) := by
  unfold flushBank
  split
  · exact .refl s
  · exact (s.modDie_cachesOnly d _).trans (CachesOnly.foldl (fun _ _ => modBank_cachesOnly _ _ _ _ _) _ _)

theorem evictLines_cachesOnly (s : State) (d : Nat) : s.CachesOnly (s.evictLines d) := by
  have hchoice : s.CachesOnly { s with fresh := s.fresh + 1 } := ⟨rfl, rfl⟩
  unfold evictLines
  refine CachesOnly.trans ?_ (CachesOnly.foldl (fun s e => ?_) _ _)
  · exact hchoice.trans (modDie_cachesOnly _ d _)
  · exact bankEvent_cachesOnly _ _ _ _

theorem useLine_cachesOnly (s : State) (part pa : Nat) : s.CachesOnly (s.useLine part pa) := by
  have hevict := s.evictLines_cachesOnly (pa / 2 ^ 35)
  unfold useLine
  dsimp only
  split
  · split
    · exact hevict.trans (bankEvent_cachesOnly _ _ _ _)
    · exact hevict
  · exact hevict.trans ((modDie_cachesOnly _ _ _).trans
      ((bankEvent_cachesOnly _ _ _ _).trans (bankEvent_cachesOnly _ _ _ _)))

theorem useL2_cachesOnly (s : State) (via : Via) (k a : Nat) (ls : List Nat) : s.CachesOnly (s.useL2 via k a ls) := by
  unfold useL2
  split
  · exact .refl s
  · exact CachesOnly.foldl (fun s line => (s.flushBank_cachesOnly _ _ _).trans (useLine_cachesOnly _ _ _)) _ s

/-! TLBs. -/

theorem useTrail_cachesOnly (s : State) (part v : Nat) : s.CachesOnly (s.useTrail part v) :=
  CachesOnly.foldl (fun s pa => s.useLine_cachesOnly part pa) _ s

theorem fillShared_cachesOnly (s : State) (cl : Nat) (l : Leaf) : s.CachesOnly (s.fillShared cl l) := by
  unfold fillShared
  dsimp only
  split
  · exact .refl s
  · exact ⟨rfl, rfl⟩

theorem useTlb_cachesOnly (s : State) (via : Via) (k v : Nat) : s.CachesOnly (s.useTlb via k v) := by
  have hfill (s : State) (cl : Nat) (l : Leaf) : s.CachesOnly ((s.useTrail via.part v).fillShared cl l) :=
    (s.useTrail_cachesOnly _ _).trans (fillShared_cachesOnly _ cl l)
  unfold useTlb
  split
  next l _ _ =>
    exact ((CachesOnly.ite (modCore_cachesOnly s _ _)).trans (CachesOnly.ite (hfill _ _ l))).trans (modCore_cachesOnly _ _ _)
  next l cl _ _ =>
    exact CachesOnly.ite (hfill s cl l)
  · exact useTrail_cachesOnly _ _ _
  · exact .refl s

theorem used_cachesOnly (s : State) (via : Via) (k a : Nat) (ls : List Nat) : s.CachesOnly (s.used via k a ls) := by
  unfold used
  split
  · exact .refl s
  · exact (CachesOnly.foldl (fun s v => s.useTlb_cachesOnly via k v) _ s).trans (useL2_cachesOnly _ via k a ls)

/-! Loads and stores. -/

theorem loadNow_accessed (s : State) (a : Agent) (unit : List Nat) : s.Accessed (s.loadNow a unit).2 := by
  unfold loadNow
  dsimp only
  split <;> rfl

theorem loadUnits_accessed (a : Agent) : ∀ (us : List (List Nat)) (s : State), s.Accessed (s.loadUnits a us).2
  | [], s => .refl s
  | v :: us, s => (s.loadNow_accessed a v).trans (loadUnits_accessed a us _)

theorem storeUnits_accessed (s : State) (a : Agent) (units : List (List Host.Cell)) (ext : Option KvExt) :
    s.Accessed (s.storeUnits a units ext) := by
  cases ext with
  | none => rfl
  | some x =>
    unfold storeUnits extend
    dsimp only
    split <;> rfl

theorem svcEnd_accessed (s : State) (scn : Nat) (sys : Bool) : s.Accessed (s.svcEnd scn sys) := rfl

end State

end Sys2Proof.Machine
end

section
/-! PROOFS. O50: LAUNCH and its start messages, the placement of sections, mailbox 253 and stop reports (R23, R25, R58, R305, R307,
R391, R418). -/

namespace Sys2Proof.Machine

variable {s t u : State}

/-! Reads of a service core (R221, R258, R306). -/

/-- FAULT with its address is not OK: its low bits are 3. -/
theorem stFault_ne_zero (a : Word) : stFault a ≠ 0 := by
  have hnat : (stFault a).toNat = (3 + a.toNat * 2 ^ 8 % 2 ^ 64) % 2 ^ 64 := by
    rw [stFault, BitVec.toNat_add, BitVec.toNat_shiftLeft, Nat.shiftLeft_eq]
    rfl
  have hlow : (stFault a).toNat % 256 = 3 := by omega
  intro h
  rw [h] at hlow
  exact absurd hlow (by decide)

theorem stBad_ne_zero : stBad ≠ 0 := by decide
theorem stNotHeld_ne_zero : stNotHeld ≠ 0 := by decide

/-- An access of a service core that fails does so with a status other than OK. -/
theorem State.svcByte_error {part : Nat} {need : Need} {spaces : List Nat} {a e : Word}
    (h : s.svcByte part need spaces a = .error e) : e ≠ 0 := by
  unfold State.svcByte at h
  split at h
  · split at h
    · exact Except.error.inj h ▸ stFault_ne_zero a
    · split at h
      · exact Except.error.inj h ▸ by decide
      · cases h
  · exact Except.error.inj h ▸ stFault_ne_zero a

theorem State.svcLocs_error {part : Nat} {spaces : List Nat} {e : Word} : ∀ (n : Nat) {a : Word},
    s.svcLocs part spaces a n = .error e → e ≠ 0
  | 0, _, h => by cases h
  | n + 1, a, h => by
    unfold State.svcLocs at h
    split at h
    next hbyte => exact Except.error.inj h ▸ State.svcByte_error hbyte
    next =>
      split at h
      next hrest => exact Except.error.inj h ▸ State.svcLocs_error n hrest
      next => cases h

theorem State.svcRead_error {scn part : Nat} {spaces : List Nat} {a e : Word} {n : Nat}
    (h : s.svcRead scn part spaces a n = .error e) : e ≠ 0 := by
  unfold State.svcRead at h
  split at h
  next hlocs => exact Except.error.inj h ▸ State.svcLocs_error n hlocs
  next => cases h

/-- A service core's read changes what an access may change. -/
theorem State.svcRead_accessed {scn part : Nat} {spaces : List Nat} {a : Word} {n : Nat} {bs : List Byte}
    (h : s.svcRead scn part spaces a n = .ok (bs, t)) : s.Accessed t := by
  unfold State.svcRead at h
  split at h
  next => cases h
  next ls _ =>
    obtain rfl : _ = t := congrArg Prod.snd (Except.ok.inj h)
    exact (s.used_cachesOnly _ _ _ ls).1.trans (State.loadUnits_accessed _ _ _)

/-! LAUNCH (R23, R25, R58, R305). -/

theorem distinct_iff : ∀ l : List Nat, distinct l = true ↔ l.Nodup
  | [] => by simp [distinct]
  | a :: l => by simp [distinct, distinct_iff l]

/-- The writes of an image's sections change what an access may change. -/
theorem State.placeAllSects_accessed {scn part : Nat} {cores : List Nat} : ∀ (xs : List (Sect × Nat)) {s : State},
    s.placeAllSects scn part cores xs = some t → s.Accessed t
  | [], s, h => Option.some.inj h ▸ .refl s
  | x :: xs, s, h => by
    unfold State.placeAllSects at h
    split at h
    · cases h
    · exact (State.Accessed.foldl (fun s l => s.storeUnits_accessed _ _ _) _ s).trans (State.placeAllSects_accessed xs h)

/-- The cores that a LAUNCH names (R305). -/
def launchCores (r : HostReq) : List Nat := (List.range (numAt r.body 56 4)).map (fun i => numAt r.body (64 + 2 * i) 2)

/-- What a LAUNCH that is taken leaves: the partition holds its cores, each is sent its start message, the completion word is
awaited, and the reply comes later (R23, R25). -/
def State.Launched (s : State) (r : HostReq) (a : Ans) : Prop :=
  a.later = true ∧ (∀ c ∈ launchCores r, s.holdsCore r.part c = true) ∧
    ∃ pc view, a.st.net = s.net ++ (launchCores r).map (fun c => .start
      { part := r.part, core := c, pc, args := (List.range 4).map (fun i => wordAt r.body (16 + 8 * i)), view := some view }) ∧
    a.st.launches = s.launches ++ [{ scn := r.scn, req := r, cw := wordAt r.body 48, ncore := numAt r.body 56 4 }]

/-- A LAUNCH that breaks a limit is BADCMD (R305, R306). -/
theorem cmdLaunch_bad {r : HostReq} (h : numAt r.body 56 4 = 0 ∨ 8192 < numAt r.body 56 4 ∨
    r.len ≠ 64 + 2 * numAt r.body 56 4 ∨ ¬(launchCores r).Nodup ∨ (wordAt r.body 0).toNat % 64 ≠ 0 ∨
    (wordAt r.body 48).toNat % 8 ≠ 0) (s : State) : (cmdLaunch r s).status = stBad := by
  unfold cmdLaunch
  dsimp only
  rw [if_pos]
  rcases h with h | h | h | h | h | h
  · simp only [beq_iff_eq.mpr h, Bool.or_true, Bool.true_or]
  · simp only [decide_eq_true h, Bool.or_true, Bool.true_or]
  · simp only [bne_iff_ne.mpr h, Bool.or_true, Bool.true_or]
  · have hdistinct : distinct ((List.range (numAt r.body 56 4)).map (fun i => numAt r.body (64 + 2 * i) 2)) = false :=
      Bool.eq_false_iff.mpr (mt (distinct_iff (launchCores r)).mp h)
    simp only [hdistinct, Bool.not_false, Bool.or_true]
  · simp only [bne_iff_ne.mpr h, Bool.or_true, Bool.true_or]
  · simp only [bne_iff_ne.mpr h, Bool.or_true, Bool.true_or]

/-- A LAUNCH that answers OK has been taken. -/
theorem cmdLaunch_ok {r : HostReq} : (cmdLaunch r s).status = 0 → s.Launched r (cmdLaunch r s) := by
  unfold cmdLaunch
  dsimp only
  split
  · exact fun h => absurd h stBad_ne_zero
  split
  · exact fun h => absurd h stNotHeld_ne_zero
  next hheld =>
  split
  next e he => exact fun h => absurd h (State.svcRead_error he)
  next h1 s1 hs1 =>
  split
  next e he => exact fun h => absurd h (State.svcRead_error he)
  next bs s2 hs2 =>
  split
  · exact fun h => absurd h stBad_ne_zero
  next ss pc _ =>
  split
  · exact fun h => absurd h stNotHeld_ne_zero
  next s3 hs3 =>
  split
  next ls _ =>
    intro _
    have hread := (State.svcRead_accessed hs1).trans (State.svcRead_accessed hs2)
    have hword := (s3.used_cachesOnly (s3.viaEngine 0 r.part) 16 (wordAt r.body 48).toNat ls).1.trans
      (State.storeUnits_accessed _ (.svc r.scn) [ls.map (fun l => (l, 0))] none)
    have hacc := (hread.trans (State.placeAllSects_accessed ss hs3)).trans
      (hword.trans (State.svcEnd_accessed _ r.scn (r.flags == 1)))
    refine ⟨rfl, fun c hc => ?_, pc, _, congrArg (· ++ _) hacc.net, congrArg (· ++ _) hacc.launches⟩
    simpa using mt (List.any_eq_true.mpr ⟨c, hc, ·⟩) hheld
  · exact fun h => absurd h (stFault_ne_zero _)

/-! The placement of sections (R58 step 1). -/

/-- Where a section is placed when the space before it ends at `base`. -/
def Sect.placed (x : Sect) (base : Nat) : Nat :=
  if x.core then 0x8 * 2 ^ 60 + x.coff else (base + 2 ^ x.algl - 1) / 2 ^ x.algl * 2 ^ x.algl

/-- Where the space it leaves begins. -/
def Sect.after (x : Sect) (base : Nat) : Nat := if x.core then base else x.placed base + x.size

theorem placeSects_cons (x : Sect) (ss : List Sect) (base : Nat) :
    placeSects (x :: ss) base = x.placed base :: placeSects ss (x.after base) := by
  rw [placeSects, Sect.after, Sect.placed]
  cases x.core <;> rfl

/-- A section outside the core stores is at the first multiple of its alignment that is free. -/
theorem Sect.placed_of_global {x : Sect} (h : x.core = false) (base : Nat) :
    x.placed base % 2 ^ x.algl = 0 ∧ base ≤ x.placed base ∧ x.placed base < base + 2 ^ x.algl := by
  have hpos : 0 < 2 ^ x.algl := Nat.two_pow_pos _
  rw [Sect.placed, h, if_neg Bool.false_ne_true]
  generalize 2 ^ x.algl = n at hpos
  have hdiv := Nat.div_add_mod (base + n - 1) n
  have hmod := Nat.mod_lt (base + n - 1) hpos
  rw [Nat.mul_comm] at hdiv
  exact ⟨Nat.mul_mod_left _ _, by omega, by omega⟩

theorem Sect.after_of_global {x : Sect} (h : x.core = false) (base : Nat) : x.after base = x.placed base + x.size := by
  rw [Sect.after, h, if_neg Bool.false_ne_true]

theorem Sect.after_of_core {x : Sect} (h : x.core = true) (base : Nat) : x.after base = base := by
  rw [Sect.after, h, if_pos rfl]

theorem Sect.le_after (x : Sect) (base : Nat) : base ≤ x.after base := by
  cases h : x.core with
  | true => exact Nat.le_of_eq (Sect.after_of_core h base).symm
  | false =>
    have := (Sect.placed_of_global h base).2.1
    rw [Sect.after_of_global h]
    omega

/-- Where the space before section `i` ends. -/
def spaceAt (ss : List Sect) (base i : Nat) : Nat := (ss.take i).foldl (fun b x => x.after b) base

theorem placeSects_length (ss : List Sect) (base : Nat) : (placeSects ss base).length = ss.length := by
  induction ss generalizing base with
  | nil => rfl
  | cons x ss ih => rw [placeSects_cons, List.length_cons, ih, List.length_cons]

/-- Each section is placed in the space that those before it leave. -/
theorem placeSects_getElem? (ss : List Sect) (base i : Nat) :
    (placeSects ss base)[i]? = ss[i]?.map (fun x => x.placed (spaceAt ss base i)) := by
  induction ss generalizing base i with
  | nil => rfl
  | cons x ss ih =>
    rw [placeSects_cons]
    cases i with
    | zero => rfl
    | succ i => exact ih (x.after base) i

theorem spaceAt_succ {ss : List Sect} {i : Nat} {x : Sect} (h : ss[i]? = some x) (base : Nat) :
    spaceAt ss base (i + 1) = x.after (spaceAt ss base i) := by
  rw [spaceAt, List.take_add_one, h, List.foldl_append]
  rfl

theorem spaceAt_succ_of_end {ss : List Sect} {i : Nat} (h : ss[i]? = none) (base : Nat) :
    spaceAt ss base (i + 1) = spaceAt ss base i := by
  rw [spaceAt, List.take_add_one, h, List.foldl_append]
  rfl

theorem spaceAt_le_succ (ss : List Sect) (base i : Nat) : spaceAt ss base i ≤ spaceAt ss base (i + 1) := by
  cases h : ss[i]? with
  | none => exact Nat.le_of_eq (spaceAt_succ_of_end h base).symm
  | some x => exact spaceAt_succ h base ▸ x.le_after _

/-- The space that is taken only grows. -/
theorem spaceAt_mono (ss : List Sect) (base : Nat) {i j : Nat} (h : i ≤ j) : spaceAt ss base i ≤ spaceAt ss base j := by
  induction h with
  | refl => exact Nat.le_refl _
  | step _ ih => exact Nat.le_trans ih (spaceAt_le_succ ss base _)

/-- `n` is `base` or the end of a section outside the core stores that comes before section `i`. -/
def EndsBefore (ss : List Sect) (base i n : Nat) : Prop := n = base ∨
  ∃ (j : Nat) (y : Sect) (b : Nat), j < i ∧ ss[j]? = some y ∧ y.core = false ∧ (placeSects ss base)[j]? = some b ∧
    n = b + y.size

theorem EndsBefore.succ {ss : List Sect} {base i n : Nat} : EndsBefore ss base i n → EndsBefore ss base (i + 1) n
  | .inl h => .inl h
  | .inr ⟨j, y, b, hj, h⟩ => .inr ⟨j, y, b, Nat.lt_succ_of_lt hj, h⟩

/-- The space taken ends at `base` or where an earlier section outside the core stores ends. -/
theorem spaceAt_endsBefore (ss : List Sect) (base i : Nat) : EndsBefore ss base i (spaceAt ss base i) := by
  induction i with
  | zero => exact .inl rfl
  | succ i ih =>
    cases h : ss[i]? with
    | none => exact spaceAt_succ_of_end h base ▸ ih.succ
    | some x =>
      rw [spaceAt_succ h]
      cases hx : x.core with
      | true => exact (Sect.after_of_core hx _).symm ▸ ih.succ
      | false =>
        have hplace : (placeSects ss base)[i]? = some (x.placed (spaceAt ss base i)) := by
          rw [placeSects_getElem?, h, Option.map_some]
        exact .inr ⟨i, x, _, Nat.lt_succ_self i, h, hx, hplace, Sect.after_of_global hx _⟩

/-- Sections are placed in table order, each as low as its alignment allows; those of core stores at their offset (R58 step 1). -/
theorem placeSects_places {ss : List Sect} {base i : Nat} {x : Sect} {a : Nat} (hx : ss[i]? = some x)
    (ha : (placeSects ss base)[i]? = some a) :
    (x.core = true → a = 2 ^ 63 + x.coff) ∧
    (x.core = false → a % 2 ^ x.algl = 0 ∧ base ≤ a ∧
      (∀ (j : Nat) (y : Sect) (b : Nat), j < i → ss[j]? = some y → y.core = false → (placeSects ss base)[j]? = some b →
        b + y.size ≤ a) ∧
      ∃ lo, EndsBefore ss base i lo ∧ lo ≤ a ∧ a < lo + 2 ^ x.algl) := by
  rw [placeSects_getElem?, hx, Option.map_some, Option.some_inj] at ha
  subst ha
  refine ⟨fun hc => by rw [Sect.placed, hc, if_pos rfl, show 0x8 * 2 ^ 60 = 2 ^ 63 from rfl], fun hc => ?_⟩
  obtain ⟨hal, hle, hlt⟩ := Sect.placed_of_global hc (spaceAt ss base i)
  refine ⟨hal, Nat.le_trans (spaceAt_mono ss base (Nat.zero_le i)) hle, fun j y b hj hy hyc hb => ?_,
    ⟨_, spaceAt_endsBefore ss base i, hle, hlt⟩⟩
  rw [placeSects_getElem?, hy, Option.map_some, Option.some_inj] at hb
  subst hb
  calc y.placed (spaceAt ss base j) + y.size
      = spaceAt ss base (j + 1) := by rw [spaceAt_succ hy, Sect.after_of_global hyc]
    _ ≤ spaceAt ss base i := spaceAt_mono ss base hj
    _ ≤ x.placed (spaceAt ss base i) := hle

/-! Views (R257, R263). -/

/-- A key that a table does not list has no entry. -/
theorem tget_of_not_mem {α : Type} {t : Tbl α} {k : Nat} (h : k ∉ t.map Prod.fst) : tget t k = none := by
  induction t with
  | nil => rfl
  | cons e t ih =>
    rw [List.map_cons, List.mem_cons, not_or] at h
    rw [tget, if_neg (fun hk => h.1 hk.symm), ih h.2]

namespace MemSys

variable (m : MemSys) (a : Agent)

@[simp] theorem view_setView_self (l : Nat) (h : Held) : (m.setView a l h).view a l = h := by
  simp [view, setView]

theorem view_setView_of_ne {l k : Nat} (h : Held) (hk : k ≠ l) : (m.setView a l h).view a k = m.view a k := by
  simp [view, setView, tgetD_tset_of_ne _ _ _ hk]

/-- A raised view names a write no older than the one it was raised to. -/
theorem le_view_raiseView (l : Nat) (h : Held) : h.stamp ≤ ((m.raiseView a l h).view a l).stamp := by
  unfold raiseView
  split
  · exact Nat.le_of_eq (congrArg Held.stamp (view_setView_self m a l h).symm)
  next hn => exact Nat.not_lt.mp hn

/-- Raising a view makes it name no older write anywhere. -/
theorem view_le_raiseView (l k : Nat) (h : Held) : (m.view a k).stamp ≤ ((m.raiseView a l h).view a k).stamp := by
  unfold raiseView
  split
  next hlt =>
    by_cases hk : k = l
    · subst hk
      rw [view_setView_self]
      exact Nat.le_of_lt hlt
    · exact Nat.le_of_eq (congrArg Held.stamp (view_setView_of_ne m a h hk).symm)
  next => exact Nat.le_refl _

@[simp] theorem dHeld_raiseView (l k : Nat) (h : Held) : (m.raiseView a l h).dHeld k = m.dHeld k := by
  unfold raiseView
  split <;> rfl

/-- Raising a view at some locations, one after another, makes it name no older write anywhere. -/
theorem view_le_raises {α : Type} (loc : α → Nat) (held : MemSys → α → Held) (xs : List α) (m : MemSys) (k : Nat) :
    (m.view a k).stamp ≤ ((xs.foldl (fun m x => m.raiseView a (loc x) (held m x)) m).view a k).stamp := by
  induction xs generalizing m with
  | nil => exact Nat.le_refl _
  | cons x xs ih => exact Nat.le_trans (m.view_le_raiseView a (loc x) k (held m x)) (ih _)

/-- A view that takes a hand-off names no write older than it carries (R257). -/
theorem le_view_handOffOf (t : Tbl Held) (m : MemSys) : ∀ x ∈ t, x.2.stamp ≤ ((m.handOffOf a t).view a x.1).stamp := by
  induction t generalizing m with
  | nil => exact nofun
  | cons y t ih =>
    intro x hx
    rcases List.mem_cons.mp hx with rfl | hx
    · exact Nat.le_trans (m.le_view_raiseView a x.1 x.2) (view_le_raises a Prod.fst (fun _ x => x.2) t _ x.1)
    · exact ih _ x hx

/-- A view raised to the device store at some locations names no older write there. -/
theorem le_view_raises_dHeld (ls : List Nat) (m : MemSys) : ∀ l ∈ ls,
    (m.dHeld l).stamp ≤ ((ls.foldl (fun m l => m.raiseView a l (m.dHeld l)) m).view a l).stamp := by
  induction ls generalizing m with
  | nil => exact nofun
  | cons k ls ih =>
    intro l hl
    rcases List.mem_cons.mp hl with rfl | hl
    · exact Nat.le_trans (m.le_view_raiseView a l _) (view_le_raises a id (fun m l => m.dHeld l) ls _ l)
    · have := ih (m.raiseView a k (m.dHeld k)) l hl
      rwa [dHeld_raiseView] at this

/-- A view that takes a hand-off from the device store names no older write than it holds (R257). -/
theorem le_view_handOff (l : Nat) : (m.dHeld l).stamp ≤ ((m.handOff a).view a l).stamp := by
  have hfold : m.handOff a = (m.dStamp.map Prod.fst).foldl (fun m l => m.raiseView a l (m.dHeld l)) m := rfl
  by_cases hl : l ∈ m.dStamp.map Prod.fst
  · exact hfold ▸ le_view_raises_dHeld a _ m l hl
  · have hzero : (m.dHeld l).stamp = 0 := by
      rw [dHeld, tgetD, tget_of_not_mem hl]
      rfl
    exact hzero ▸ Nat.zero_le _

end MemSys

/-! Start messages (R23, R25). -/

/-- The context of a keeper that takes a start message is fresh, but for the PC and x0 to x3 (R23). -/
theorem State.ctx_takeStart (s : State) (c k : Nat) (m : StartMsg) :
    (s.takeStart c k m).ctx c k = freshCtx (s.ctx c k) m.pc m.args :=
  State.ctx_setCtx s c k (freshCtx (s.ctx c k) m.pc m.args)

theorem freshCtx_x (old : Ctx) (pc : Word) (args : List Word) (n : Fin 32) :
    (freshCtx old pc args).x.get n = if n.val < 4 then args.getD n.val 0 else 0 :=
  Vector.getElem_ofFn n.isLt

/-- The view of a keeper that takes a start message is that of the launch's hand-off, or of one made now (R257). -/
theorem State.view_takeStart (s : State) (c k : Nat) (m : StartMsg) :
    (∀ t, m.view = some t → ∀ x ∈ t, x.2.stamp ≤ ((s.takeStart c k m).mem.view (.ctx c k) x.1).stamp) ∧
    (m.view = none → ∀ l, (s.mem.dHeld l).stamp ≤ ((s.takeStart c k m).mem.view (.ctx c k) l).stamp) := by
  refine ⟨fun t ht => ?_, fun hnone l => ?_⟩
  · have hmem : (s.takeStart c k m).mem = s.mem.handOffOf (.ctx c k) t := by simp [State.takeStart, ht]
    rw [hmem]
    exact MemSys.le_view_handOffOf _ t s.mem
  · have hmem : (s.takeStart c k m).mem = s.mem.handOff (.ctx c k) := by simp [State.takeStart, hnone]
    rw [hmem]
    exact MemSys.le_view_handOff s.mem _ l

/-- Start message `i` has come to its core: the core runs for its partition, which is not pre-empted, and no earlier message of
the partition is on its way there (R23, R25). -/
structure State.Comes (s : State) (i : Nat) (m : StartMsg) : Prop where
  item : s.net[i]? = some (.start m)
  runs : s.runs m.core = true
  part : (s.core m.core).partid = m.part
  first : ∀ e ∈ s.net.take i, ∀ n, e = .start n → n.core = m.core → n.part ≠ m.part
  going : (s.part m.part).preempted = false

/-- What a start message that has come does: the idle keeper takes it, else the core's start buffer if that is empty. -/
theorem startMessage_eq {i : Nat} {m : StartMsg} (h : s.Comes i m) : exec (.startMessage i) s =
    if s.keeperIdle m.core (s.keeper m.core) && !(s.ctx m.core (s.keeper m.core)).stopped then
      .next ((({ s with net := s.net.eraseIdx i } : State).modCluster (s.clusterOf m.core) (fun y =>
        { y with waiters := y.waiters.filter (· != (m.core, s.keeper m.core)) })).takeStart m.core (s.keeper m.core) m)
    else if (s.core m.core).startBuf.isNone then
      .next (({ s with net := s.net.eraseIdx i } : State).modCore m.core (fun y => { y with startBuf := some m }))
    else .next s := by
  show execStartMessage i s = _
  rw [execStartMessage, h.item]
  dsimp only
  rw [if_neg]
  · rfl
  · intro hheld
    simp only [h.runs, h.part, h.going, Bool.not_true, bne_self_eq_false, Bool.false_or, Bool.or_false] at hheld
    obtain ⟨e, he, hearlier⟩ := List.any_eq_true.mp hheld
    cases e with
    | start n =>
      obtain ⟨hcore, hpart⟩ := Bool.and_eq_true_iff.mp hearlier
      exact h.first _ he n rfl (beq_iff_eq.mp hcore) (beq_iff_eq.mp hpart)
    | _ => cases hearlier

/-- An idle keeper has no message waiting for it (R23, R25). -/
theorem State.startBuf_of_keeperIdle {c k : Nat} (h : s.keeperIdle c k = true) : (s.core c).startBuf = none := by
  simp only [State.keeperIdle, Bool.and_eq_true, Option.isNone_iff_eq_none] at h
  exact h.1

theorem startMessage_idle {i : Nat} {m : StartMsg} (h : s.Comes i m) (hidle : s.keeperIdle m.core (s.keeper m.core) = true)
    (hstop : (s.ctx m.core (s.keeper m.core)).stopped = false) : exec (.startMessage i) s =
      .next ((({ s with net := s.net.eraseIdx i } : State).modCluster (s.clusterOf m.core) (fun y =>
        { y with waiters := y.waiters.filter (· != (m.core, s.keeper m.core)) })).takeStart m.core (s.keeper m.core) m) := by
  rw [startMessage_eq h, hidle, hstop]
  rfl

theorem startMessage_buffered {i : Nat} {m : StartMsg} (h : s.Comes i m)
    (hbusy : s.keeperIdle m.core (s.keeper m.core) = false ∨ (s.ctx m.core (s.keeper m.core)).stopped = true)
    (hbuf : (s.core m.core).startBuf = none) : exec (.startMessage i) s =
      .next (({ s with net := s.net.eraseIdx i } : State).modCore m.core (fun y => { y with startBuf := some m })) := by
  rw [startMessage_eq h, if_neg (by rcases hbusy with hb | hb <;> simp [hb]), hbuf]
  rfl

theorem startMessage_waits {i : Nat} {m : StartMsg} (h : s.Comes i m) (hbuf : (s.core m.core).startBuf ≠ none) :
    exec (.startMessage i) s = .next s := by
  have hidle : s.keeperIdle m.core (s.keeper m.core) = false :=
    Bool.eq_false_iff.mpr fun hidle => hbuf (State.startBuf_of_keeperIdle hidle)
  rw [startMessage_eq h, hidle, Option.isNone_eq_false_iff.mpr (Option.isSome_iff_ne_none.mpr hbuf)]
  rfl

/-! The completion word, mailbox 253 and stop reports (R23, R307, R391, R418). -/

/-- A launch whose completion word can be read is answered OK when it has reached the number of cores (R23). -/
theorem launchComplete_eq {i : Nat} {l : LaunchRec} {ls : List Nat} (hl : s.launches[i]? = some l) (hp : s.power = .on)
    (hpres : s.present l.req.part = true)
    (hat : s.locate (s.viaEngine 0 l.req.part) { r := true } [0x0, 0xA, 0xB] l.cw.toNat 8 8 = .at ls) :
    exec (.launchComplete i) s = if l.ncore ≤ leVal (ls.map (Memory.get s.mem.d)) then
      .next (({ s with launches := s.launches.eraseIdx i } : State).replyTo l.req stOk []) else .next s := by
  show execLaunchComplete i s = _
  rw [execLaunchComplete, hl]
  dsimp only
  rw [if_neg (by simp [hp, hpres]), hat]
  rfl

/-- Outside replay every event may be made. -/
theorem State.turn_of_off {p : Nat} (h : (s.part p).replay.mode = .off) (kind : Nat) (key : Word) (c k : Nat) :
    s.turn p kind key c k = true := by
  simp [State.turn, h]

/-- A tenant's request is performed, and a call gets its status as the reply (R307). -/
theorem mailboxRequest_eq {i scn : Nat} {m : Msg} {a : Ans} (hm : s.net[i]? = some (.forward m scn)) (hp : s.power = .on)
    (hr : (tgetD s.services scn {}).released = true) (hpres : s.present m.part = true)
    (hmode : (s.part m.part).replay.mode = .off)
    (ha : (({ s with net := s.net.eraseIdx i } : State).svcBegin scn).tenantCmd (m.w0.extractLsb' 0 8).toNat scn m.part
      (m.w0 &&& ~~~0xFF) = some a) : exec (.mailboxRequest i) s =
      let t := a.st.svcEnd scn false
      .next (if m.call then { t with net := t.net ++ [.reply m.part m.src m.sctx (Fin.ofNat 4 (bitsOf m.w1.toNat 20 2)) a.status] }
        else t) := by
  have hcode : (m.w0.extractLsb' 0 8).toNat = m.w0.toNat % 256 := by simp [BitVec.extractLsb'_toNat]
  have hanswer : (({ s with net := ldel s.net i } : State).svcBegin scn).tenantCmd (m.w0.toNat % 256) scn m.part
      (m.w0 &&& ~~~0xFF) = some a := hcode ▸ ha
  show execMailboxRequest i s = _
  rw [execMailboxRequest, hm]
  dsimp only
  rw [if_neg (by simp [hp, hr, hpres]), if_neg (by simp [State.turn_of_off hmode]),
    State.logged_of_off (s := { s with net := ldel s.net i }) hmode, hanswer]

/-- A stop report is kept while the service core holds fewer than 64, and else counted as dropped (R418). -/
theorem stopReport_eq {i scn core part : Nat} {w0 w1 : Word} (hm : s.net[i]? = some (.stop scn core part w0 w1))
    (hp : s.power = .on) (hr : (tgetD s.services scn {}).released = true) : exec (.stopReport i) s =
      let v := tgetD s.services scn {}
      .next { s with
        net := s.net.eraseIdx i, sreq := true
        services := tset s.services scn (if v.reports.length < 64 then { v with reports := v.reports ++ [(core, part, w0, w1)] }
          else { v with dropped := v.dropped + 1 }) } := by
  show execStopReport i s = _
  rw [execStopReport, hm]
  dsimp only
  rw [if_neg (by simp [hp, hr])]
  rfl

/-- Settles O50: each clause from the rule of its event, a LAUNCH's from the chain of its checks, and the placement from the space
that the sections before one take. -/
theorem launchAndReports : Obligations.LaunchAndReports := by
  refine ⟨fun r s => ⟨fun h => cmdLaunch_bad h s, cmdLaunch_ok⟩,
    fun ss base => ⟨placeSects_length ss base, fun i x a hx ha => placeSects_places hx ha⟩,
    fun s i m hitem hruns hpart hfirst hgoing => ?_, fun s i l ls hl hp hpres hat => ?_,
    fun s i m scn a hm hp hr hpres hmode ha hnet => ?_, fun s i scn core part w0 w1 hm hp hr => ?_⟩
  · have h : s.Comes i m := ⟨hitem, hruns, hpart, hfirst, hgoing⟩
    refine ⟨fun hidle hstop _ => ⟨_, startMessage_idle h hidle hstop, rfl, ?_, ?_, fun n => ?_, State.view_takeStart _ _ _ m⟩,
      fun hbusy hbuf => ⟨_, startMessage_buffered h hbusy hbuf, rfl, ?_, rfl, rfl⟩, startMessage_waits h⟩
    · rw [State.ctx_takeStart]
      rfl
    · rw [State.ctx_takeStart]
      rfl
    · rw [State.ctx_takeStart]
      exact freshCtx_x _ _ _ n
    · rw [State.modCore, State.core_setCore]
  · rw [launchComplete_eq hl hp hpres hat]
    exact ⟨fun hlt => if_neg (Nat.not_le.mpr hlt),
      fun hle => ⟨_, if_pos hle, rfl, State.replyTo_replied rfl l.req stOk [], rfl, rfl⟩⟩
  · rw [mailboxRequest_eq hm hp hr hpres hmode ha]
    cases m.call with
    | false => exact ⟨_, rfl, rfl, fun _ => hnet, nofun⟩
    | true =>
      refine ⟨_, rfl, rfl, nofun, fun _ => ⟨Fin.ofNat 4 (bitsOf m.w1.toNat 20 2), ?_, congrArg (· ++ _) hnet⟩⟩
      simp [bitsOf, BitVec.extractLsb'_toNat, Nat.shiftRight_eq_div_pow]
  · rw [stopReport_eq hm hp hr]
    refine ⟨_, rfl, rfl, rfl, rfl, fun hroom => ?_, fun hfull => ?_⟩
    · dsimp only
      rw [tgetD_tset_self, if_pos hroom]
    · dsimp only
      rw [tgetD_tset_self, if_neg (Nat.not_lt.mpr hfull)]
      exact ⟨rfl, rfl⟩

end Sys2Proof.Machine
end

section
/-! PROOFS. O53, O54 and O55: words and instructions (R59 to R80). -/

namespace Sys2Proof

open Sys2Proof.Machine

/-! The round trip (R59 to R70). -/

/-- Every instruction's own law of its head, as one. -/
theorem Laws.Trip.statement (i : Instr) : Statement i :=
  i.casesOn
    nop br bra jal jalr ret rep trap loop loopOpen brk brkO iret vseed lfree sysrd syswr fmtg fmts add sub mul mulh mulhu div
    divu rem remu and or xor andn orn shl shr sar rol clz ctz popc min max minu maxu sel mov addi li extf insf pga cmp cmpi gand
    gor gnot vadd vsub vmul vfma vfms vmin vmax vabs vneg vcps vcmp vsel vrnd vfexp vexpi vlogb vrcp vrsq vcvt vpack vunpk viadd
    visub vimul vimad vand vor vxor vshl vshr vsar vdot4 vbcast vperm vrot vmovs vins vreda vredm vscan mmab mmai mmad zclr
    zscale zrd zwr zld zst wbld ldt swapt ld ldW ldWu ldH ldHu ldB ldBu st stW stH stB ldv stv ldg sts ldl stl pref lde stf ldf
    fempty futr futw aadd amin amax axch acas aand aor acqGroup acqDevice acqSystem relGroup relDevice relSystem fenceGroup
    fenceDevice fenceSystem cpw cpgo cpwany cpwall cpff cpclr cpclrF cpchk spawn quit reap waitw taskq taskqDeque take steal
    qcfgHwqueueType qcfgPriority qcfgOwner qcfgRing qcfgArm qcfgCounter qstatHwqueue qstatTaskqueue qstatCounter qstatDeque
    qstatExitqueue qstatMailbox qstatPoisonlog qstatDrops qrst send mrecv mrecvR rcall rcallN rreply bsdefJ bsdefL barv bwait
    barw rbind runbnd slotwA slotwB slotwE slotwT slotrdA slotrdB slotrdE slotrdT sframe semit scurGnc scurPbc scurTp scurNseq
    scurSnapshots scurLoss scurDrops strunc ssnap sownOwner sownOpen sownClose swdecl swdeclO swgo swgoC swgoW swstop swstopD
    swstatSn swstatPos swstatPend swstatLoss cntcfg cntrd cntrdC cntwr cntsv cntld bkpt bkptW bkptR bkptS bkptF bkptT tmark
    tmarkO tmarkC rmark tret yield csave endl reservedEncoding crest pairWord powerOn commit linkEvent scrub queueSramError
    launch startMessage launchComplete write read map unmap share group sessionDefine sessionRemove pstart pstop status
    mailboxRequest stopReport relayForward roundContribution treeCombine roundResult memberUnreachable inputFrame ackFrame
    bargeFrame outputRecordSend sweepPeriod sweepStart elementVisit visitOverrun sweepRelease instructionFetch memoryReply drain
    lift acquireMove releaseMove fenceMove atomicMove tlbWalkComplete frtWindow copyChunkLand copyComplete freebackCombine
    matrixComplete weightLoadComplete swaptComplete foldSwap slotChange bindingChange l2BankChange messageDepart messageEntry
    replyArrival taskDispatch footprintFetchComplete ringRefill deadlineExpiry preemptionComplete counterOverflow pcSample
    stepExpiry foghornCoreStop traceTailSend coreCycle worldSwitch powerLoss attestation

/-- Every instruction's own law of having an encoding, as one. -/
theorem Laws.Coded.statement (i : Instr) : Statement i :=
  i.casesOn
    nop br bra jal jalr ret rep trap loop loopOpen brk brkO iret vseed lfree sysrd syswr fmtg fmts add sub mul mulh mulhu div
    divu rem remu and or xor andn orn shl shr sar rol clz ctz popc min max minu maxu sel mov addi li extf insf pga cmp cmpi gand
    gor gnot vadd vsub vmul vfma vfms vmin vmax vabs vneg vcps vcmp vsel vrnd vfexp vexpi vlogb vrcp vrsq vcvt vpack vunpk viadd
    visub vimul vimad vand vor vxor vshl vshr vsar vdot4 vbcast vperm vrot vmovs vins vreda vredm vscan mmab mmai mmad zclr
    zscale zrd zwr zld zst wbld ldt swapt ld ldW ldWu ldH ldHu ldB ldBu st stW stH stB ldv stv ldg sts ldl stl pref lde stf ldf
    fempty futr futw aadd amin amax axch acas aand aor acqGroup acqDevice acqSystem relGroup relDevice relSystem fenceGroup
    fenceDevice fenceSystem cpw cpgo cpwany cpwall cpff cpclr cpclrF cpchk spawn quit reap waitw taskq taskqDeque take steal
    qcfgHwqueueType qcfgPriority qcfgOwner qcfgRing qcfgArm qcfgCounter qstatHwqueue qstatTaskqueue qstatCounter qstatDeque
    qstatExitqueue qstatMailbox qstatPoisonlog qstatDrops qrst send mrecv mrecvR rcall rcallN rreply bsdefJ bsdefL barv bwait
    barw rbind runbnd slotwA slotwB slotwE slotwT slotrdA slotrdB slotrdE slotrdT sframe semit scurGnc scurPbc scurTp scurNseq
    scurSnapshots scurLoss scurDrops strunc ssnap sownOwner sownOpen sownClose swdecl swdeclO swgo swgoC swgoW swstop swstopD
    swstatSn swstatPos swstatPend swstatLoss cntcfg cntrd cntrdC cntwr cntsv cntld bkpt bkptW bkptR bkptS bkptF bkptT tmark
    tmarkO tmarkC rmark tret yield csave endl reservedEncoding crest pairWord powerOn commit linkEvent scrub queueSramError
    launch startMessage launchComplete write read map unmap share group sessionDefine sessionRemove pstart pstop status
    mailboxRequest stopReport relayForward roundContribution treeCombine roundResult memberUnreachable inputFrame ackFrame
    bargeFrame outputRecordSend sweepPeriod sweepStart elementVisit visitOverrun sweepRelease instructionFetch memoryReply drain
    lift acquireMove releaseMove fenceMove atomicMove tlbWalkComplete frtWindow copyChunkLand copyComplete freebackCombine
    matrixComplete weightLoadComplete swaptComplete foldSwap slotChange bindingChange l2BankChange messageDepart messageEntry
    replyArrival taskDispatch footprintFetchComplete ringRefill deadlineExpiry preemptionComplete counterOverflow pcSample
    stepExpiry foghornCoreStop traceTailSend coreCycle worldSwitch powerLoss attestation

/-- An instruction that is no pair word has the bytes of its head. -/
theorem encode_of_not_pair {i : Instr} (h : ∀ g sh vh, i ≠ .pairWord g sh vh) : encode i = (encodeRaw i).map Raw.bytes := by
  unfold encode
  split
  · exact absurd rfl (h _ _ _)
  · rfl

/-- An instruction that is no pair word is well-formed under the conditions of R63 to R79 alone. -/
theorem Instr.wf_of_not_pair {i : Instr} (h : ∀ g sh vh, i ≠ .pairWord g sh vh) : i.wf = i.wfPlain := by
  unfold Instr.wf
  split
  · exact absurd rfl (h _ _ _)
  · rfl

/-- A half's well-formed head decodes to it without CREST's row. -/
theorem decodeRaw_half {i : Instr} {h : Raw} (hg : i.halfGuard ≠ none) (hw : i.wfPlain = true) (he : encodeRaw i = some h) :
    h.Fits ∧ decodeRaw h = some i := by
  obtain ⟨hfits, hhead⟩ := Laws.Trip.statement i hw h he
  exact ⟨hfits, decodeRaw_of_head hhead hg⟩

/-- A pair word's bytes decode to it (R68). -/
theorem decode_encode_pair {g : Guard} {sh vh : Instr} {bs : List Byte} (hw : (Instr.pairWord g sh vh).wf = true)
    (he : encode (.pairWord g sh vh) = some bs) (rest : List Byte) :
    decode (bs ++ rest) = some (.pair g sh vh, bs.length) := by
  simp only [Instr.wf, Bool.and_eq_true] at hw
  obtain ⟨⟨⟨⟨hs, hv⟩, hws⟩, hwv⟩, hp⟩ := hw
  obtain ⟨a, ha, b, hb, hbs⟩ : ∃ a, encodeRaw sh = some a ∧ ∃ b, encodeRaw vh = some b ∧
      some (leBytes 8 a.scalarHalf ++ leBytes 8 b.vectorHalf) = some bs := by
    simpa only [encode, bind, Option.bind_eq_some_iff] using he
  obtain rfl := Option.some.inj hbs
  obtain ⟨fa, da⟩ := decodeRaw_half (by simp [scalarHalf_guard hs]) hws ha
  obtain ⟨fb, db⟩ := decodeRaw_half (by simp [vectorHalf_guard hv]) hwv hb
  rw [decode_pair ha hb fa fb da db hs hv hp, List.length_append, leBytes_length, leBytes_length]

/-- The bytes of any other instruction decode to it (R59, R60). -/
theorem decode_encode_head {i : Instr} {bs : List Byte} (hnp : ∀ g sh vh, i ≠ .pairWord g sh vh) (hw : i.wf = true)
    (he : encode i = some bs) (rest : List Byte) :
    (decode (bs ++ rest)).map (fun d => (d.1.instr, d.2)) = some (i, bs.length) := by
  rw [encode_of_not_pair hnp] at he
  obtain ⟨h, hr, rfl⟩ := Option.map_eq_some_iff.mp he
  obtain ⟨hfits, hhead⟩ := Laws.Trip.statement i (Instr.wf_of_not_pair hnp ▸ hw) h hr
  obtain ⟨d, hd, rfl⟩ := Option.map_eq_some_iff.mp hhead
  rw [decode_bytes hfits, hd]
  rfl

/-- Settles O54: a pair word from its two halves, any other instruction from its head. -/
theorem decodeEncode : Obligations.DecodeEncode := by
  refine ⟨fun i hw bs he rest => ?_, Laws.Coded.statement⟩
  by_cases hp : ∃ g sh vh, i = .pairWord g sh vh
  · obtain ⟨g, sh, vh, rfl⟩ := hp
    rw [decode_encode_pair hw he]
    rfl
  · exact decode_encode_head (fun g sh vh h => hp ⟨g, sh, vh, h⟩) hw he rest

/-- Settles O53: each printed word is decoded. -/
theorem decodeKnownWords : Obligations.DecodeKnownWords := by
  refine ⟨fun e he => ?_, ?_, ?_, ?_⟩
  · simp only [Claim.knownWords, List.mem_cons, List.not_mem_nil, or_false] at he
    rcases he with rfl | rfl | rfl | rfl | rfl | rfl | rfl | rfl | rfl | rfl | rfl | rfl <;> rfl
  · rfl
  · rfl
  · rfl

/-! Reserved words (R76, R77, R79). -/

/-- A major that R76 does not list decodes to nothing. -/
theorem decodeRaw_of_major {h : Raw} (hm : h.major ∉ Claim.majors) : decodeRaw h = none := by
  unfold decodeRaw
  split
  case h_25 => rfl
  all_goals
    next hmajor => exact absurd (by simp [Claim.majors, hmajor]) hm

/-- Minor bit 7 is reserved in the majors that have no .w forms (R77). -/
theorem decodeRaw_of_minor {h : Raw} (hn : 128 ≤ h.minor) (hm : h.major ∉ [0x04, 0x05, 0x06, 0x12]) :
    decodeRaw h = none := by
  have hne : ∀ k < 128, h.minor ≠ k := fun k hk => by omega
  have hcmp : ¬h.minor < 32 := by omega
  unfold decodeRaw
  split
  case h_4 | h_5 | h_6 | h_15 => simp_all
  all_goals simp [hne, hcmp, decControl, decLoop, decSystem, decVecFloat, decVecFun, decVecInt, decLaneMove, decMatrix,
    decMatrixMem, decMemory, decFullEmpty, decOrder, decCopy, decTasks, decMessages, decTables, decStreams, decSweeps,
    decCounters, decDebug]

/-- CREST has one major and one minor (R401). -/
theorem decCrest_of_ne {h : Raw} (hc : ¬(h.major = 30 ∧ h.minor = 11)) : decCrest h = none := by
  have hb : (h.major == 30 && h.minor == 11) = false := by simpa using hc
  rw [decCrest, hb]
  rfl

/-- A word that is no pair word is decoded by its head, whose fields lie in their widths (R59, R60). -/
theorem decodeWord_head {lo hi : Nat} (h : lo % 4 ≠ 3) :
    ∃ f lit, litFits f lit = true ∧ decodeWord lo hi = decodeHead (Raw.ofHead f lo lit) := by
  obtain h0 | h1 | h2 : lo % 4 = 0 ∨ lo % 4 = 1 ∨ lo % 4 = 2 := by omega
  · exact ⟨.h64, 0, rfl, by simp [decodeWord, h0]⟩
  · refine ⟨.h96, BitVec.ofNat 64 (hi % 2 ^ 32), ?_, by simp [decodeWord, h1]⟩
    simp only [litFits, BitVec.toNat_ofNat, decide_eq_true_eq]
    omega
  · exact ⟨.h128, BitVec.ofNat 64 hi, rfl, by simp [decodeWord, h2]⟩

theorem Raw.fits_ofHead {f : Form} {lit : Word} (hl : litFits f lit = true) (x : Nat) : (Raw.ofHead f x lit).Fits := by
  refine ⟨?_, ?_, ?_, ?_, ?_, ?_, ?_, ?_, ?_, hl⟩ <;> exact Nat.mod_lt _ (by decide)

theorem Raw.fits_ofScalarHalf (x : Nat) : (Raw.ofScalarHalf x).Fits := by
  refine ⟨?_, ?_, ?_, ?_, ?_, ?_, ?_, ?_, ?_, rfl⟩ <;> exact Nat.mod_lt _ (by decide)

theorem Raw.fits_ofVectorHalf {g : Nat} (hg : g < 2 ^ 4) (y : Nat) : (Raw.ofVectorHalf g y).Fits := by
  refine ⟨?_, ?_, hg, ?_, ?_, ?_, ?_, ?_, ?_, rfl⟩ <;> exact Nat.mod_lt _ (by decide)

/-! What the decoder answers is well-formed (R79). -/

/-- Whatever a part of the decoder answers has the property. -/
def Yields {α : Type} (P : α → Prop) (o : Option α) : Prop := ∀ a, o = some a → P a

section

variable {α β : Type} {P : β → Prop}

theorem yields_none : Yields P none := nofun

theorem yields_some {b : β} : Yields P (some b) ↔ P b := ⟨fun h => h b rfl, fun h _ e => Option.some.inj e ▸ h⟩

theorem yields_bind {o : Option α} {f : α → Option β} : Yields P (o >>= f) ↔ ∀ a, o = some a → Yields P (f a) := by
  cases o with
  | none => exact ⟨fun _ => nofun, fun _ => nofun⟩
  | some a => exact ⟨fun h _ e => Option.some.inj e ▸ h, fun h => h a rfl⟩

theorem Yields.orElse {a b : Option β} (ha : Yields P a) (hb : Yields P b) : Yields P (a <|> b) := by
  cases a with
  | none => exact hb
  | some x => exact ha

end

theorem need_eq_some {b : Bool} {u : Unit} : need b = some u ↔ b = true := by cases b <;> simp

theorem gdOf_ne_zero {x : Nat} {gd : Fin 8} (h : gdOf x = some gd) : (gd != 0) = true := by
  unfold gdOf at h
  split at h
  next hx =>
    obtain rfl := Option.some.inj h
    exact bne_iff_ne.mpr (fun h0 => absurd (congrArg Fin.val h0) (Nat.ne_of_gt hx.1))
  · cases h

theorem scalarCC_scalar {x : Nat} {cc : CC} (h : scalarCC x = some cc) : cc.scalar = true := by
  have hall : Yields (fun cc => cc.scalar = true) (scalarCC x) := by
    simp only [scalarCC, yields_bind, yields_some, need_eq_some]
    exact fun _ _ _ hcc => hcc
  exact hall cc h

theorem zTagOf_acc {x : Nat} {t : Tag} (h : zTagOf x = some t) : t.acc = true := by
  have hall : Yields (fun t => t.acc = true) (zTagOf x) := by
    simp only [zTagOf, yields_bind, yields_some, need_eq_some]
    exact fun _ _ _ ht => ht
  exact hall t h

/-- Extending the low bits of an extended field gives it again. -/
theorem sextField_toNat {w : Nat} (hw : w ≤ 64) (n : Nat) : sextField w (sextField w n).toNat = sextField w n := by
  unfold sextField
  congr 1
  ext i hi
  simp [BitVec.getElem_signExtend, hi, show i < 64 by omega]

theorem fitsS_of_immS {f : Form} {n : Nat} {lit : Word} {i : Imm} (h : immS f n lit = some i) : i.fitsS = true := by
  cases f with
  | h64 =>
    obtain rfl := Option.some.inj h
    exact beq_iff_eq.mpr (sextField_toNat (by decide) n)
  | h96 =>
    simp only [immS] at h
    split at h
    · obtain rfl := Option.some.inj h
      exact beq_iff_eq.mpr (sextField_toNat (by decide) _)
    · cases h
  | h128 =>
    simp only [immS] at h
    split at h
    · obtain rfl := Option.some.inj h
      rfl
    · cases h

theorem fitsU_of_immU {f : Form} {n : Nat} {lit : Word} {i : Imm} (hn : n < 2 ^ 20) (hl : litFits f lit = true)
    (h : immU f n lit = some i) : i.fitsU = true := by
  cases f with
  | h64 =>
    obtain rfl := Option.some.inj h
    simp only [Imm.fitsU, BitVec.toNat_ofNat, decide_eq_true_eq]
    omega
  | h96 =>
    simp only [immU] at h
    split at h
    · obtain rfl := Option.some.inj h
      exact hl
    · cases h
  | h128 =>
    simp only [immU] at h
    split at h
    · obtain rfl := Option.some.inj h
      rfl
    · cases h

theorem fitsF_of_immF {f : Form} {lit : Word} {i : Imm} (h : immF f lit = some i) : i.fitsF = true := by
  cases f <;> obtain rfl := Option.some.inj h
  · rfl
  · exact beq_iff_eq.mpr (sextField_toNat (by decide) _)
  · rfl

/-- A class F literal outside the 64-bit form is a sign-extended one (R97). -/
theorem literal_of_immF {f : Form} {lit : Word} {i : Imm} (hf : f ≠ .h64) (h : immF f lit = some i) :
    (i.form != .h64 && i.fitsS) = true := by
  cases f with
  | h64 => exact absurd rfl hf
  | h96 =>
    obtain rfl := Option.some.inj h
    exact beq_iff_eq.mpr (sextField_toNat (by decide) _)
  | h128 =>
    obtain rfl := Option.some.inj h
    rfl

/-- The instruction that a part of the decoder answers is well-formed. -/
abbrev YieldsWf (o : Option Instr) : Prop := Yields (fun i => i.wf = true) o

variable {h : Raw}

/-! The tables of the majors, row by row: most rows put no condition on what they answer, and the others check theirs. -/

theorem finO_eq_some {n x : Nat} {k : Fin n} (h : finO n x = some k) : k.val = x := by
  unfold finO at h
  split at h
  · obtain rfl := Option.some.inj h
    rfl
  · cases h

theorem decControl_wf (hf : h.Fits) : YieldsWf (decControl h) := by
  obtain ⟨-, -, -, -, -, -, -, -, himm, hlit⟩ := hf
  unfold decControl
  split
  all_goals simp only [yields_bind, yields_some, yields_none, need_eq_some]
  case h_1 => exact fun _ _ _ _ _ _ _ _ => hlit
  case h_7 =>
    intro _ _ _ _ blen hblen _ hs2 _ _ imm himm'
    have hne : blen ≠ 0 := fun h0 => by simp [← finO_eq_some hblen, h0] at hs2
    show (blen != 0 && imm.fitsU) = true
    rw [bne_iff_ne.mpr hne, fitsU_of_immU himm hlit himm']
    rfl
  all_goals intros
  case h_2 | h_4 => exact fitsS_of_immS ‹_›
  case h_3 => exact fitsU_of_immU himm hlit ‹_›
  all_goals rfl

theorem decLoopOp_wf : YieldsWf (decLoopOp h) := by
  simp only [decLoopOp, yields_bind, need_eq_some]
  intro _ _ _ _ _ _ w _ c _
  split
  · simp only [yields_bind, yields_some, need_eq_some, Bool.and_eq_true]
    exact fun _ _ _ hofs => hofs.2
  · split
    · simp only [yields_bind, yields_some, need_eq_some]
      exact fun _ _ _ hok => hok
    · simp only [yields_bind, yields_some, need_eq_some]
      exact fun _ _ _ hok => hok
    · exact yields_none

theorem decVseed_wf : YieldsWf (decVseed h) := by
  simp only [decVseed, yields_bind, need_eq_some, Bool.and_eq_true]
  intro _ _ k _ _ hk
  split
  all_goals simp only [yields_bind, yields_some, yields_none]
  case h_1 => exact fun _ _ _ _ _ _ => hk.2
  case h_3 => exact fun _ _ _ _ _ _ => hk.2
  case h_4 hform =>
    intro _ _ _ _ _ _ i hi
    have hlit := literal_of_immF hform hi
    show (k != 0 && i.form != .h64 && i.fitsS) = true
    rw [Bool.and_assoc, hk.2, hlit]
    rfl

theorem decLoop_wf : YieldsWf (decLoop h) := by
  unfold decLoop
  split
  case h_1 => exact decLoopOp_wf
  case h_2 => exact decVseed_wf
  all_goals simp only [yields_bind, yields_some, yields_none]
  all_goals (intros; rfl)

theorem decFmtg_wf : YieldsWf (decFmtg h) := by
  simp only [decFmtg, yields_bind]
  intro _ _ _ _ _ _
  split
  · simp only [yields_bind, yields_some]
    exact fun _ _ _ _ => rfl
  · simp only [yields_bind, yields_some, need_eq_some]
    exact fun _ _ _ hok => hok

theorem decFmts_wf : YieldsWf (decFmts h) := by
  simp only [decFmts, yields_bind]
  intro _ _ _ _ _ _ _ _
  split
  · simp only [yields_bind, yields_some]
    exact fun _ _ => rfl
  · simp only [yields_bind, yields_some, need_eq_some]
    exact fun _ _ _ hok => hok

theorem decSystem_wf : YieldsWf (decSystem h) := by
  unfold decSystem
  split
  case h_1 => exact decFmtg_wf
  case h_2 => exact decFmts_wf
  all_goals simp only [yields_bind, yields_some, yields_none]
  all_goals (intros; rfl)

theorem decScalar_wf (w : Bool) : YieldsWf (decScalar h w) := by
  unfold decScalar
  split
  all_goals simp only [yields_bind, yields_some, yields_none]
  all_goals (intros; rfl)

theorem decScalarImm_wf (w : Bool) : YieldsWf (decScalarImm h w) := by
  unfold decScalarImm
  split
  all_goals simp only [yields_bind, yields_some, yields_none, need_eq_some]
  case h_5 =>
    exact fun _ _ _ _ _ _ _ _ _ _ _ hspace _ hdisp => Bool.and_eq_true_iff.mpr ⟨hspace, fitsF_of_immF hdisp⟩
  all_goals intros
  case h_1 | h_2 => exact fitsS_of_immS ‹_›
  case h_3 | h_4 => exact ‹fieldFits _ _ = true›

theorem decCompare_wf (w : Bool) : YieldsWf (decCompare h w) := by
  unfold decCompare
  split
  case h_4 =>
    split
    · simp only [yields_bind, yields_some]
      exact fun cc hcc gd hgd _ _ _ _ _ _ => Bool.and_eq_true_iff.mpr ⟨scalarCC_scalar hcc, gdOf_ne_zero hgd⟩
    · split
      · simp only [yields_bind, yields_some]
        exact fun cc hcc gd hgd _ _ _ _ imm himm => Bool.and_eq_true_iff.mpr
          ⟨Bool.and_eq_true_iff.mpr ⟨scalarCC_scalar hcc, gdOf_ne_zero hgd⟩, fitsS_of_immS himm⟩
      · exact yields_none
  all_goals simp only [yields_bind, yields_some]
  all_goals intros
  all_goals exact gdOf_ne_zero ‹_›

theorem decVecFloat_wf : YieldsWf (decVecFloat h) := by
  unfold decVecFloat
  split
  case h_12 =>
    split
    · simp only [yields_bind, yields_some]
      exact fun _ _ gd hgd _ _ _ _ _ _ => gdOf_ne_zero hgd
    · exact yields_none
  all_goals simp only [yields_bind, yields_some]
  all_goals (intros; rfl)

theorem decVecFun_wf : YieldsWf (decVecFun h) := by
  unfold decVecFun
  split
  all_goals simp only [yields_bind, yields_some, yields_none, need_eq_some]
  all_goals intros
  case h_7 => exact ‹cvtTarget _ = true›
  case h_8 => exact ‹packTarget _ = true›
  case h_9 => exact ‹unpkTarget _ = true›
  all_goals rfl

theorem decVecInt_wf : YieldsWf (decVecInt h) := by
  unfold decVecInt
  split
  all_goals simp only [yields_bind, yields_some, yields_none]
  all_goals (intros; rfl)

theorem decLaneMove_wf : YieldsWf (decLaneMove h) := by
  unfold decLaneMove
  split
  all_goals simp only [yields_bind, yields_some, yields_none, need_eq_some]
  all_goals intros
  case h_1 => exact fitsS_of_immS ‹_›
  case h_5 => exact ‹_ = true›
  all_goals rfl

theorem decMatrix_wf : YieldsWf (decMatrix h) := by
  unfold decMatrix
  split
  all_goals simp only [yields_bind, yields_some, yields_none]
  all_goals intros
  case h_4 => exact zTagOf_acc ‹_›
  all_goals rfl

theorem decMatrixMem_wf : YieldsWf (decMatrixMem h) := by
  unfold decMatrixMem
  split
  all_goals simp only [yields_bind, yields_some, yields_none]
  case h_1 => exact fun _ _ _ _ t ht _ _ imm himm => Bool.and_eq_true_iff.mpr ⟨zTagOf_acc ht, fitsS_of_immS himm⟩
  all_goals intros
  case h_2 | h_3 | h_4 => exact fitsS_of_immS ‹_›
  all_goals rfl

theorem decMemory_wf : YieldsWf (decMemory h) := by
  unfold decMemory
  split
  all_goals simp only [yields_bind, yields_some, yields_none]
  all_goals intros
  case h_14 | h_15 | h_16 | h_17 => rfl
  all_goals exact fitsS_of_immS ‹_›

theorem decFullEmpty_wf : YieldsWf (decFullEmpty h) := by
  unfold decFullEmpty
  split
  case h_7 => exact yields_none
  all_goals simp only [yields_bind, yields_some]
  all_goals intros
  all_goals exact fitsS_of_immS ‹_›

theorem decAtomic_wf (w : Bool) : YieldsWf (decAtomic h w) := by
  unfold decAtomic
  split
  all_goals simp only [yields_bind, yields_some, yields_none]
  all_goals (intros; rfl)

theorem decOrder_wf : YieldsWf (decOrder h) := by
  unfold decOrder
  split
  all_goals simp only [yields_bind, yields_some, yields_none]
  all_goals (intros; rfl)

theorem decCopy_wf : YieldsWf (decCopy h) := by
  unfold decCopy
  split
  all_goals repeat' refine Yields.orElse ?_ ?_
  all_goals simp only [yields_bind, yields_some, yields_none, need_eq_some]
  all_goals intros
  case h_1 => exact ‹cpwSel _ = true›
  all_goals rfl

theorem decTasks_wf : YieldsWf (decTasks h) := by
  unfold decTasks
  split
  all_goals repeat' refine Yields.orElse ?_ ?_
  all_goals simp only [yields_bind, yields_some, yields_none, need_eq_some]
  case h_1 =>
    intro gd hgd _ _ _ _ _ _ b hb _ hle
    refine Bool.and_eq_true_iff.mpr ⟨gdOf_ne_zero hgd, ?_⟩
    rw [finO_eq_some hb]
    exact hle
  all_goals intros
  case h_5.refine_1 | h_5.refine_2 | h_6 | h_7 => exact gdOf_ne_zero ‹_›
  all_goals rfl

theorem decMessages_wf : YieldsWf (decMessages h) := by
  unfold decMessages
  split
  all_goals repeat' refine Yields.orElse ?_ ?_
  all_goals simp only [yields_bind, yields_some, yields_none, need_eq_some]
  case h_2.refine_1 =>
    intro rd hrd _ heven _ _ _ _ _ _ _ _
    show (rd.val % 2 == 0) = true
    rw [finO_eq_some hrd]
    exact heven
  all_goals (intros; rfl)

theorem decTables_wf : YieldsWf (decTables h) := by
  unfold decTables
  split
  all_goals repeat' refine Yields.orElse ?_ ?_
  all_goals simp only [yields_bind, yields_some, yields_none]
  all_goals (intros; rfl)

theorem decStreams_wf : YieldsWf (decStreams h) := by
  unfold decStreams
  split
  all_goals repeat' refine Yields.orElse ?_ ?_
  all_goals simp only [yields_bind, yields_some, yields_none]
  all_goals intros
  case h_1 | h_2 => exact gdOf_ne_zero ‹_›
  all_goals rfl

theorem decSweeps_wf : YieldsWf (decSweeps h) := by
  unfold decSweeps
  split
  all_goals repeat' refine Yields.orElse ?_ ?_
  all_goals simp only [yields_bind, yields_some, yields_none]
  all_goals (intros; rfl)

theorem decCounters_wf : YieldsWf (decCounters h) := by
  unfold decCounters
  split
  all_goals repeat' refine Yields.orElse ?_ ?_
  all_goals simp only [yields_bind, yields_some, yields_none]
  all_goals (intros; rfl)

theorem decDebug_wf : YieldsWf (decDebug h) := by
  unfold decDebug
  split
  all_goals repeat' refine Yields.orElse ?_ ?_
  all_goals simp only [yields_bind, yields_some, yields_none]
  all_goals intros
  case h_2.refine_1 | h_2.refine_2.refine_1 | h_3 => exact fitsS_of_immS ‹_›
  all_goals rfl

/-- What a head decodes to is well-formed when its fields lie in their widths. -/
theorem decodeRaw_wf (hf : h.Fits) : YieldsWf (decodeRaw h) := by
  unfold decodeRaw
  split
  · exact decControl_wf hf
  · exact decLoop_wf
  · exact decSystem_wf
  · exact decScalar_wf _
  · exact decScalarImm_wf _
  · exact decCompare_wf _
  · exact decVecFloat_wf
  · exact decVecFun_wf
  · exact decVecInt_wf
  · exact decLaneMove_wf
  · exact decMatrix_wf
  · exact decMatrixMem_wf
  · exact decMemory_wf
  · exact decFullEmpty_wf
  · exact decAtomic_wf _
  · exact decOrder_wf
  · exact decCopy_wf
  · exact decTasks_wf
  · exact decMessages_wf
  · exact decTables_wf
  · exact decStreams_wf
  · exact decSweeps_wf
  · exact decCounters_wf
  · exact decDebug_wf
  · exact yields_none

/-- The decoded word's instruction is well-formed. -/
theorem decodeHead_wf (hf : h.Fits) : Yields (fun d => d.instr.wf = true) (decodeHead h) := by
  refine Yields.orElse (fun d hd => ?_) ?_
  · obtain ⟨i, hi, rfl⟩ := Option.map_eq_some_iff.mp hd
    exact decodeRaw_wf hf i hi
  · simp only [decCrest, yields_bind, yields_some]
    intros
    rfl

/-- An instruction that has a half's guard is no pair word. -/
theorem Instr.wfPlain_of_half {i : Instr} {g : Guard} (hg : i.halfGuard = some g) (hw : i.wf = true) : i.wfPlain = true := by
  rwa [← Instr.wf_of_not_pair]
  rintro _ _ _ rfl
  cases hg

/-- A word with no decoded head decodes to nothing. -/
theorem decodeHead_eq_none (hr : decodeRaw h = none) (hc : ¬(h.major = 30 ∧ h.minor = 11)) : decodeHead h = none := by
  rw [decodeHead, hr, decCrest_of_ne hc]
  rfl

/-- The decoder of a pair word (R68). -/
theorem decodeWord_pair {lo : Nat} (h3 : lo % 4 = 3) (hi : Nat) : decodeWord lo hi = (do
    need (hi / 2 ^ 58 % 2 ^ 6 == 0)
    let s := Raw.ofScalarHalf lo
    let sh ← decodeRaw s
    let vh ← decodeRaw (Raw.ofVectorHalf s.guard hi)
    need (sh.scalarHalf s.grd && vh.vectorHalf s.grd && pairOk sh vh)
    some (.pair s.grd sh vh)) := by
  simp only [decodeWord, h3]

/-- A pair word's halves are well-formed, and so is the pair. -/
theorem decodeWord_pair_wf {lo : Nat} (h3 : lo % 4 = 3) (hi : Nat) : Yields (fun d => d.instr.wf = true) (decodeWord lo hi) := by
  rw [decodeWord_pair h3]
  simp only [yields_bind, yields_some, need_eq_some, Bool.and_eq_true]
  rintro _ _ sh hsh vh hvh _ ⟨⟨hs, hv⟩, hp⟩
  have hwsh := decodeRaw_wf (Raw.fits_ofScalarHalf lo) sh hsh
  have hwvh := decodeRaw_wf (Raw.fits_ofVectorHalf (Nat.mod_lt _ (by decide)) hi) vh hvh
  simp only [Decoded.instr, Instr.wf, hs, hv, hp, Instr.wfPlain_of_half (scalarHalf_guard hs) hwsh,
    Instr.wfPlain_of_half (vectorHalf_guard hv) hwvh, Bool.and_self]

/-- Settles O55: a head's major and minor choose its row, and every row checks what its instruction needs. -/
theorem reservedWords : Obligations.ReservedWords := by
  refine ⟨fun lo hi h3 hmajor => ?_, fun lo hi h3 hminor hmajor => ?_, fun lo hi h3 hbits => ?_, fun lo hi d hd => ?_⟩
  · obtain ⟨f, lit, -, hhead⟩ := decodeWord_head h3 (hi := hi)
    have hm : (Raw.ofHead f lo lit).major ∉ Claim.majors := hmajor
    rw [hhead]
    exact decodeHead_eq_none (decodeRaw_of_major hm) (fun hc => hm (by simp [Claim.majors, hc.1]))
  · obtain ⟨f, lit, -, hhead⟩ := decodeWord_head h3 (hi := hi)
    have hn : 128 ≤ (Raw.ofHead f lo lit).minor := hminor
    rw [hhead]
    exact decodeHead_eq_none (decodeRaw_of_minor hn hmajor) (fun hc => absurd hc.2 (by omega))
  · rw [decodeWord_pair h3, beq_eq_false_iff_ne.mpr hbits]
    rfl
  · by_cases h3 : lo % 4 = 3
    · exact decodeWord_pair_wf h3 hi d hd
    · obtain ⟨f, lit, hlit, hhead⟩ := decodeWord_head h3 (hi := hi)
      exact decodeHead_wf (Raw.fits_ofHead hlit lo) d (hhead ▸ hd)

end Sys2Proof
end

section
/-! PROOFS. O9: the issue of an instruction, and the scalar and vector instructions that are guarded off (R66, R73, R80, R106, R110). -/

namespace Sys2Proof.Machine

variable {s t u s1 : State} {i : Info}

/-! What the issue asks, in its order. -/

/-- A control instruction in a delay slot or a repeat's body (R73, R138). -/
theorem prologue_slot (hb : i.bar = true) (hl : 0 < s.me.live.left ∨ s.me.live.active = true) :
    prologue i s = .error (.fault { code := .slot }) := by
  have hbar : (!(i.bar && (decide (0 < s.me.live.left) || s.me.live.active))) = false := by
    rcases hl with hl | hl
    · simp [hb, hl]
    · simp [hb, hl]
  rw [prologue, bind_ok (get_run s), hbar]
  exact bind_error (ensure_false _ _ s)

/-- The instruction may stand where its context is: no control instruction in a slot or a repeat's body (R73). -/
abbrev Info.Placed (i : Info) (x : Ctx) : Prop := i.bar = false ∨ x.live.left = 0 ∧ x.live.active = false

theorem Info.Placed.passes (h : i.Placed s.me) :
    (!(i.bar && (decide (0 < s.me.live.left) || s.me.live.active))) = true := by
  rcases h with hb | ⟨hl, ha⟩
  · simp [hb]
  · simp [hl, ha]

/-- What is privileged raises PRIV at decode, whatever its guard (R80). -/
theorem prologue_priv (hb : i.Placed s.me) (hp : i.priv = true) : prologue i s = .error (.fault { code := .priv }) := by
  rw [prologue, bind_ok (get_run s), hb.passes, bind_ok (ensure_true _ _ s), hp]
  exact bind_error (ensure_false _ _ s)

/-- Guarded on, an instruction that passes its breakpoints and waits for nothing issues (R66, R110, R373). -/
theorem prologue_on (hb : i.Placed s.me) (hp : i.priv = false) (hg : s.me.guardBits i.g &&& i.lanes ≠ 0)
    (hbrk : Gives breakCheck s () s) (ht : Gives (turnCheck i) s () t) : prologue i s = .ok (true, t) := by
  have hon : i.on s.me = true := bne_iff_ne.mpr hg
  rw [prologue, bind_ok (get_run s), hb.passes, bind_ok (ensure_true _ _ s), hp,
    Bool.not_false, bind_ok (ensure_true _ _ s), hon, if_pos rfl,
    bind_ok hbrk, bind_ok ht]
  rfl

/-- Guarded on, one that must wait for its turn waits (R106, R110). -/
theorem prologue_waits {e : Stop} (hb : i.Placed s.me) (hp : i.priv = false) (hg : s.me.guardBits i.g &&& i.lanes ≠ 0)
    (hbrk : Gives breakCheck s () s) (ht : turnCheck i s = .error e) : prologue i s = .error e := by
  have hon : i.on s.me = true := bne_iff_ne.mpr hg
  rw [prologue, bind_ok (get_run s), hb.passes, bind_ok (ensure_true _ _ s), hp,
    Bool.not_false, bind_ok (ensure_true _ _ s), hon, if_pos rfl,
    bind_ok hbrk]
  exact bind_error ht

/-- Guarded off, an instruction carries its loop names (R66, R101, R106). -/
theorem prologue_off (hb : i.Placed s.me) (hp : i.priv = false) (hg : s.me.guardBits i.g &&& i.lanes = 0)
    (hd : Gives (depthCheck i.lds) s () s) (hc : Gives (carryNames i.lds) s () t) : prologue i s = .ok (false, t) := by
  have hoff : i.on s.me = false := bne_eq_false_iff_eq.mpr hg
  rw [prologue, bind_ok (get_run s), hb.passes, bind_ok (ensure_true _ _ s), hp,
    Bool.not_false, bind_ok (ensure_true _ _ s), hoff,
    if_neg Bool.false_ne_true, bind_ok hd, bind_ok hc]
  rfl

/-- Without breakpoint units none matches (R373). -/
theorem breakCheck_run (h : (s.cluster (s.clusterOf s.cc)).bps = []) : Gives breakCheck s () s := by
  simp only [Gives, breakCheck, h]
  rfl

/-- Outside an iteration no version is written (R95, R101). -/
theorem State.writeIter_of_no_iter {c k : Nat} (h : s.curIter c k = none) : s.writeIter c k = none := by
  have hframe : s.curFrame c k = (s.exitFrame c k 1).map (fun e => (e, none)) := by rw [State.curFrame, h]
  rw [State.writeIter, hframe]
  cases s.exitFrame c k 1 <;> rfl

/-- Only an instruction that writes a loop name in an iteration meets the depth limit (R106). -/
theorem depthCheck_run {lds : List Nat} (h : lds = [] ∨ s.curIter s.cc s.ck = none) : Gives (depthCheck lds) s () s := by
  rcases h with rfl | h
  · rfl
  · simp only [Gives, depthCheck, State.writeIter_of_no_iter h]

theorem carryNames_of_no_iter (lds : List Nat) (h : s.curIter s.cc s.ck = none) : Gives (carryNames lds) s () s := by
  simp only [Gives, carryNames, State.writeIter_of_no_iter h]

/-- Outside an iteration a side effect has no turn to wait for (R110). -/
theorem sideEffect_of_no_iter (h : s.curIter s.cc s.ck = none) : Gives sideEffect s () s := by
  simp only [Gives, sideEffect, h]

/-- A side effect of the oldest uncommitted iteration commits it (R110). -/
theorem sideEffect_oldest {f : Fin 2} {it : Iter} (h : s.curIter s.cc s.ck = some (f, it)) (hc : it.committed = false)
    (ho : it.i = (s.fr s.cc f).setl) : Gives sideEffect s () (s.commit s.cc s.ck) := by
  simp only [Gives, sideEffect, h, hc, ho, Bool.false_eq_true, if_false, if_true]

/-- A side effect of a younger iteration waits until that is the oldest (R110). -/
theorem sideEffect_younger {f : Fin 2} {it : Iter} (h : s.curIter s.cc s.ck = some (f, it)) (hc : it.committed = false)
    (ho : it.i ≠ (s.fr s.cc f).setl) : sideEffect s = .error (.wait .wver (.oldest s.cc f.val it.i)) := by
  simp only [sideEffect, h, hc, if_neg ho, Bool.false_eq_true, if_false]

/-- The turn of an instruction that writes no loop name is that of its side effect. -/
theorem turnCheck_eq (h : i.lds = [] ∨ s.curIter s.cc s.ck = none) :
    turnCheck i s = if i.side then sideEffect s else .ok ((), s) := by
  rw [turnCheck, bind_ok (depthCheck_run h)]
  cases i.side <;> rfl

theorem turnCheck_of_no_iter (i : Info) (h : s.curIter s.cc s.ck = none) : Gives (turnCheck i) s () s := by
  rw [Gives, turnCheck_eq (.inr h), sideEffect_of_no_iter h, ite_self]

theorem issueConditions : Said.IssueConditions := by
  intro i s
  refine ⟨fun hb hl => prologue_slot (s := s.begun) hb hl, fun hb hp => prologue_priv (s := s.begun) hb hp,
    fun hb hp => ⟨fun hg hn => ?_, fun hg hbp => ⟨fun hn => ?_, fun f it hit hlds hside hcom => ⟨fun ho => ?_, fun ho => ?_⟩,
      fun _ hlds hside => ?_⟩⟩⟩
  · exact prologue_off (s := s.begun) hb hp hg (depthCheck_run (.inr hn)) (carryNames_of_no_iter _ hn)
  · exact prologue_on (s := s.begun) hb hp hg (breakCheck_run hbp) (turnCheck_of_no_iter i hn)
  · refine prologue_on (s := s.begun) hb hp hg (breakCheck_run hbp) ?_
    rw [Gives, turnCheck_eq (.inl hlds), hside]
    exact sideEffect_oldest (s := s.begun) hit hcom ho
  · refine prologue_waits (s := s.begun) hb hp hg (breakCheck_run hbp) ?_
    rw [turnCheck_eq (.inl hlds), hside]
    exact sideEffect_younger (s := s.begun) hit hcom ho
  · refine prologue_on (s := s.begun) hb hp hg (breakCheck_run hbp) ?_
    rw [Gives, turnCheck_eq (.inl hlds), hside]
    rfl

/-! Guarded off (R66). -/

/-- An instruction with that issue whose whole effect is a list of effects. -/
def RunsPuts (ex : State → Out) (i : Info) : Prop := ∃ body : M (List Put), ∀ s, ex s = runPuts i body s

theorem RunsPuts.of_eq {ex : State → Out} {body : M (List Put)} (h : ∀ s, ex s = runPuts i body s) : RunsPuts ex i := ⟨body, h⟩

/-- Guarded off, such an instruction only counts and retires. -/
theorem RunsPuts.skips {ex : State → Out} (h : RunsPuts ex i) (hstore : i.store = false) (hs : Skips i s s1) :
    ex s = .next ((s1.count s1.cc s1.ck 0x09 1).retire i.len) := by
  obtain ⟨body, hex⟩ := h
  rw [hex]
  exact run_off hstore hs

/-- A scalar instruction on two sources computes its result from what its sources read (R125). -/
theorem exec_scalarOp {e : (Guard → Bool → SDst → SSrc → SSrc → Instr) × (∀ n, BitVec n → BitVec n → BitVec n)}
    (he : e ∈ Claim.scalarOps) (g : Guard) (w : Bool) (rd : SDst) (a b : SSrc) :
    ∃ f, ∀ s, exec (e.1 g w rd a b) s = runPuts (binInfo g rd a b) (binBody rd a b f) s := by
  simp only [Claim.scalarOps, List.mem_cons, List.not_mem_nil, or_false] at he
  rcases he with rfl | rfl | rfl | rfl | rfl | rfl | rfl | rfl | rfl | rfl | rfl | rfl | rfl | rfl | rfl | rfl | rfl <;>
    exact ⟨_, fun _ => rfl⟩

/-- So does a bitwise one. -/
theorem exec_logicOp {e : (Guard → SDst → SSrc → SSrc → Instr) × (Bool → Bool → Bool)} (he : e ∈ Claim.logicOps) (g : Guard)
    (rd : SDst) (a b : SSrc) : ∃ f, ∀ s, exec (e.1 g rd a b) s = runPuts (binInfo g rd a b) (binBody rd a b f) s := by
  simp only [Claim.logicOps, List.mem_cons, List.not_mem_nil, or_false] at he
  rcases he with rfl | rfl | rfl | rfl | rfl <;> exact ⟨_, fun _ => rfl⟩

theorem exec_vec2 {e : (Guard → VDst → VSrc → VSrc → Instr) × List Tag × Tag × Claim.Elem2} (he : e ∈ Claim.vec2) (g : Guard)
    (vd : VDst) (a b : VSrc) : RunsPuts (exec (e.1 g vd a b)) (vecInfo g [a, b] [vd]) := by
  simp only [Claim.vec2, List.mem_cons, List.not_mem_nil, or_false] at he
  rcases he with rfl | rfl | rfl | rfl | rfl | rfl | rfl | rfl | rfl | rfl | rfl | rfl | rfl | rfl | rfl | rfl | rfl | rfl |
    rfl | rfl <;> exact ⟨_, fun _ => rfl⟩

theorem exec_vec1 {e : (Guard → VDst → VSrc → Instr) × List Tag × Claim.Elem1} (he : e ∈ Claim.vec1) (g : Guard) (vd : VDst)
    (a : VSrc) : RunsPuts (exec (e.1 g vd a)) (vecInfo g [a] [vd]) := by
  simp only [Claim.vec1, List.mem_cons, List.not_mem_nil, or_false] at he
  rcases he with rfl | rfl | rfl | rfl | rfl | rfl | rfl <;> exact ⟨_, fun _ => rfl⟩

theorem guardedOffRetires : Said.GuardedOffRetires := by
  refine ⟨fun e he g w rd a b s s1 hs => ?_, fun e he g rd a b s s1 hs => ?_,
    fun e he g vd a b s s1 hs => (exec_vec2 he g vd a b).skips rfl hs, fun e he g vd a s s1 hs => (exec_vec1 he g vd a).skips rfl hs⟩
  · obtain ⟨f, hex⟩ := exec_scalarOp he g w rd a b
    exact (RunsPuts.of_eq hex).skips rfl hs
  · obtain ⟨f, hex⟩ := exec_logicOp he g rd a b
    exact (RunsPuts.of_eq hex).skips rfl hs

/-- Settles O9: the checks of the issue one after another, and the instructions that are all run by one rule. -/
theorem issueAndGuardedOff : Obligations.IssueAndGuardedOff := ⟨issueConditions, guardedOffRetires⟩

end Sys2Proof.Machine
end

section
/-! PROOFS. O10: the lanes of a vector, and what operands read and destinations write (R62, R63, R65, R83, R86, R89, R95, R102, R161). -/

namespace Sys2Proof.Machine

variable {s t u : State}

/-! Lanes (R82, R161). -/

theorem packLanes_lt (f : Nat → Lane) (i n : Nat) : packLanes f i n < 2 ^ (32 * n) := by
  induction n generalizing i with
  | zero => simp [packLanes]
  | succ n ih =>
    have hlane := (f i).isLt
    have hrest := ih (i + 1)
    rw [packLanes, Nat.mul_succ, Nat.pow_add]
    generalize 2 ^ (32 * n) = m at *
    omega

/-- Digit `k` of the packed number is lane `k`. -/
theorem packLanes_digit (f : Nat → Lane) {n k : Nat} (h : k < n) (i : Nat) :
    packLanes f i n / 2 ^ (32 * k) % 2 ^ 32 = (f (i + k)).toNat := by
  induction k generalizing i n with
  | zero =>
    obtain ⟨n, rfl⟩ := Nat.exists_eq_succ_of_ne_zero (Nat.ne_of_gt h)
    have hlane := (f i).isLt
    simp only [packLanes, Nat.mul_zero, Nat.pow_zero, Nat.div_one, Nat.add_zero]
    omega
  | succ k ih =>
    obtain ⟨n, rfl⟩ := Nat.exists_eq_succ_of_ne_zero (Nat.ne_of_gt (Nat.zero_lt_of_lt h))
    have hlane := (f i).isLt
    have hrest : packLanes f i (n + 1) / 2 ^ 32 = packLanes f (i + 1) n := by
      rw [packLanes]
      omega
    rw [Nat.mul_succ, Nat.add_comm, Nat.pow_add, ← Nat.div_div_eq_div_mul, hrest, ih (Nat.lt_of_succ_lt_succ h)]
    congr 2
    omega

theorem toNat_packLanes (f : Nat → Lane) (n : Nat) : (BitVec.ofNat (32 * n) (packLanes f 0 n)).toNat = packLanes f 0 n := by
  rw [BitVec.toNat_ofNat, Nat.mod_eq_of_lt (packLanes_lt f 0 n)]

@[simp] theorem getLane_ofLanes (f : Nat → Lane) {n : Nat} (h : n < 32) : getLane (ofLanes f) n = f n := by
  have hnum : (ofLanes f).toNat = packLanes f 0 32 := toNat_packLanes f 32
  refine BitVec.eq_of_toNat_eq ?_
  rw [getLane, BitVec.extractLsb'_toNat, hnum, Nat.shiftRight_eq_div_pow, packLanes_digit f h, Nat.zero_add]

/-- A merge takes the lanes of its mask from one vector and the others from the other (R161). -/
theorem getLane_mergeLanes (m : Lane) (a b : BitVec 1024) {n : Nat} (h : n < 32) :
    getLane (mergeLanes m a b) n = if m.getLsbD n then getLane a n else getLane b n := by
  unfold mergeLanes
  split
  next hm =>
    have hbit : (allOn : Lane) = BitVec.allOnes 32 := rfl
    rw [hm, hbit, BitVec.getLsbD_allOnes, decide_eq_true h, if_pos rfl]
  · split
    next hm => simp [hm]
    · exact getLane_ofLanes _ h

/-! Queue names (R65, R86). -/

/-- Without a mapping a queue name names no queue (R86). -/
theorem Ctx.hwq_unmapped {x : Ctx} {n : Fin 4} (h : x.qmap.getLsbD (4 * n.val + 3) = false) : x.hwq n = none := by
  rw [Ctx.hwq, h]
  rfl

/-- A mapped queue name names the queue of its three bits (R86). -/
theorem Ctx.hwq_mapped {x : Ctx} {n : Fin 4} {q : Fin 8} (h : x.qmap.getLsbD (4 * n.val + 3) = true)
    (hq : x.qmap.extractLsb' (4 * n.val) 3 = BitVec.ofNat 3 q.val) : x.hwq n = some q := by
  have hnum := congrArg BitVec.toNat hq
  rw [BitVec.extractLsb'_toNat, Nat.shiftRight_eq_div_pow, BitVec.toNat_ofNat] at hnum
  have hlt := q.isLt
  rw [Ctx.hwq, if_pos h]
  refine congrArg some (Fin.ext ?_)
  rw [Fin.val_ofNat]
  omega

/-- The queue of a mapped name, once its image is in place (R86, R276, R277). -/
theorem queueOf_run {n : Fin 4} {q : Fin 8} {vec : Bool} (hq : s.me.hwq n = some q) (hv : (s.myCore.hwq.get q).vec = vec)
    (hf : s.foldReady s.cc = true) : Gives (queueOf n vec) s q s := by
  have himg : Gives queueImage s () s := by simp only [Gives, queueImage, hf, if_true]
  rw [Gives, queueOf, bind_ok (get_run s), hq]
  simp only [hv, if_true]
  rw [bind_ok himg]
  rfl

/-- The oldest entry is popped (R65). -/
theorem popQueue_run {n : Fin 4} {q : Fin 8} {vec : Bool} {e : QEntry} {r : List QEntry} (hq : Gives (queueOf n vec) s q s)
    (he : (s.myCore.hwq.get q).entries = e :: r) :
    Gives (popQueue n vec) s e (s.modQueue s.cc q (fun h => { h with entries := r })) := by
  rw [Gives, popQueue, bind_ok hq, bind_ok (get_run s), he]
  rfl

/-- An empty queue has nothing to pop yet (R65). -/
theorem popQueue_empty {n : Fin 4} {q : Fin 8} {vec : Bool} (hq : Gives (queueOf n vec) s q s)
    (he : (s.myCore.hwq.get q).entries = []) : popQueue n vec s = .error (.wait .wmsg (.qHas s.cc q.val 1)) := by
  rw [popQueue, bind_ok hq, bind_ok (get_run s), he]
  rfl

theorem State.hwq_modQueue_self (s : State) (q : Fin 8) (f : HwQueue → HwQueue) :
    (s.modQueue s.cc q f).myCore.hwq.get q = f (s.myCore.hwq.get q) := by
  show ((s.modQueue s.cc q f).core s.cc).hwq.get q = _
  rw [State.modQueue, State.modCore, State.core_setCore]
  exact vector_get_set_self _ q _

theorem State.hwq_modQueue_of_ne (s : State) {p q : Fin 8} (f : HwQueue → HwQueue) (h : p ≠ q) :
    (s.modQueue s.cc q f).myCore.hwq.get p = s.myCore.hwq.get p := by
  show ((s.modQueue s.cc q f).core s.cc).hwq.get p = _
  rw [State.modQueue, State.modCore, State.core_setCore]
  exact vector_get_set_of_ne _ _ h

/-- A name with no mapping raises QUEUE (R86). -/
theorem readS_unmapped {n : Fin 4} (h : s.me.hwq n = none) : readS (.q n) s = .error (.fault { code := .queue }) := by
  refine bind_error (bind_error ?_)
  rw [queueOf, bind_ok (get_run s), h]
  rfl

theorem readS_queue_empty {n : Fin 4} {q : Fin 8} (hq : Gives (queueOf n false) s q s)
    (he : (s.myCore.hwq.get q).entries = []) : readS (.q n) s = .error (.wait .wmsg (.qHas s.cc q.val 1)) :=
  bind_error (popQueue_empty hq he)

theorem readS_queue {n : Fin 4} {q : Fin 8} {v : Word} {r : List QEntry} (hq : Gives (queueOf n false) s q s)
    (he : (s.myCore.hwq.get q).entries = .s v :: r) :
    Gives (readS (.q n)) s v (s.modQueue s.cc q (fun h => { h with entries := r })) :=
  bind_ok (popQueue_run hq he)

/-! Scalar and vector names (R62, R83). -/

theorem State.itOf_of_no_iter {c k : Nat} (h : s.curIter c k = none) : s.itOf c k = 0 := by rw [State.itOf, h]

theorem State.itOf_of_iter {c k : Nat} {f : Fin 2} {it : Iter} (h : s.curIter c k = some (f, it)) : s.itOf c k = it.i := by
  rw [State.itOf, h]

theorem readS_it {n : Nat} (h : s.itOf s.cc s.ck = n) : Gives (readS .it) s (BitVec.ofNat 64 n) s := by
  rw [← h]
  rfl

theorem operandReads : Said.OperandReads := by
  intro s
  refine ⟨fun r => rfl, rfl, rfl, rfl, rfl, fun h => readS_it (State.itOf_of_no_iter h),
    fun f it h => readS_it (State.itOf_of_iter h), fun r => rfl, rfl,
    ⟨_, rfl, rfl, fun n hn => getLane_ofLanes _ hn⟩, fun n h => readS_unmapped (Ctx.hwq_unmapped h),
    fun n q h hq hv hf => ?_⟩
  have hqueue : Gives (queueOf n false) s q s := queueOf_run (Ctx.hwq_mapped h hq) hv hf
  exact ⟨readS_queue_empty hqueue, fun v r he => ⟨_, readS_queue hqueue he,
    congrArg HwQueue.entries (s.hwq_modQueue_self q _), rfl, rfl, fun p hp => s.hwq_modQueue_of_ne _ hp⟩⟩

/-! Loop names (R95, R102). -/

section

variable {name d : Nat} {f : Fin 2} {it : Iter}

theorem readLoop_no_frame (h : s.curFrame s.cc s.ck = none) : readLoop name d s = .error (.fault { code := .frame }) := by
  simp only [readLoop, h]

/-- A distance beyond the loop's window (R102). -/
theorem readLoop_far (h : s.curFrame s.cc s.ck = some (f, some it)) (hd : (s.fr s.cc f).w < d) :
    readLoop name d s = .error (.fault { code := .illegal }) := by
  simp only [readLoop, h, hd, if_true]

/-- The own version that is not yet written (R102). -/
theorem readLoop_unwritten (h : s.curFrame s.cc s.ck = some (f, some it)) (hn : (s.fr s.cc f).ver? name it.i = none) :
    readLoop name 0 s = .error (.fault { code := .vread0, tval := loopTval name }) := by
  simp [readLoop, h, hn]

/-- After IRET no distance is read (R102, R105). -/
theorem readLoop_retired (h : s.curFrame s.cc s.ck = some (f, some it)) (hw : d ≤ (s.fr s.cc f).w) (hd : 0 < d)
    (hr : it.retired = true) : readLoop name d s = .error (.fault { code := .illegal }) := by
  simp [readLoop, h, Nat.not_lt.mpr hw, Nat.ne_of_gt hd, hd, hr]

/-- A name within the window that raises no fault: its own version is there, or its distance reaches back before an IRET (R102). -/
abbrev State.Reads (s : State) (name d : Nat) (f : Fin 2) (it : Iter) : Prop :=
  d ≤ (s.fr s.cc f).w ∧ (d = 0 ∧ (s.fr s.cc f).ver? name it.i ≠ none ∨ 0 < d ∧ it.retired = false)

/-- It is read once its version is determined (R102). -/
theorem readLoop_value {v : BitVec 1024 × Tag} (h : s.curFrame s.cc s.ck = some (f, some it)) (hd : s.Reads name d f it)
    (hv : (s.fr s.cc f).val? name ((it.i : Int) - d) = some v) : Gives (readLoop name d) s v s := by
  obtain ⟨hw, ⟨rfl, hver⟩ | ⟨hd, hr⟩⟩ := hd
  · simp only [Int.natCast_zero, Int.sub_zero] at hv
    simp [Gives, readLoop, h, hver, hv]
  · simp [Gives, readLoop, h, Nat.not_lt.mpr hw, Nat.ne_of_gt hd, hr, hv]

/-- And until then it waits (R102). -/
theorem readLoop_waits (h : s.curFrame s.cc s.ck = some (f, some it)) (hd : s.Reads name d f it)
    (hv : (s.fr s.cc f).val? name ((it.i : Int) - d) = none) :
    readLoop name d s = .error (.wait .wver (.version s.cc f.val name ((it.i : Int) - d))) := by
  obtain ⟨hw, ⟨rfl, hver⟩ | ⟨hd, hr⟩⟩ := hd
  · simp only [Int.natCast_zero, Int.sub_zero] at hv
    simp [readLoop, h, hver, hv]
  · simp [readLoop, h, Nat.not_lt.mpr hw, Nat.ne_of_gt hd, hr, hv]

end

/-- A version that needs no copy has its bits and tag. -/
theorem LFrame.val?_of_ver {F : LFrame} {name : Nat} {i : Int} {v : Ver} (h : F.ver? name i = some v) (hn : v.need = 0) :
    F.val? name i = some (v.bits, v.tag) := by
  simp [LFrame.val?, h, hn]

/-- A seed that is not set is 0 (R98, R102). -/
theorem LFrame.val?_seed {F : LFrame} {name : Nat} {i : Int} (h : F.ver? name i = none) (hi : i < 0) :
    F.val? name i = some (0, .raw) := by
  simp [LFrame.val?, h, hi]

theorem LFrame.val?_none {F : LFrame} {name : Nat} {i : Int} (h : F.ver? name i = none) (hi : 0 ≤ i) : F.val? name i = none := by
  simp [LFrame.val?, h, Int.not_lt.mpr hi]

/-- A scalar operand takes the low half of a loop name's bits (R62). -/
theorem readS_loop {r : Fin 16} {d : Fin 8} {v : BitVec 1024 × Tag} (h : Gives (readLoop r.val d.val) s v s) :
    Gives (readS (.l r d)) s (v.1.setWidth 64) s :=
  bind_ok h

theorem loopNameReads : Said.LoopNameReads := by
  intro s r d
  refine ⟨fun h => bind_error (readLoop_no_frame h), fun f it h => ⟨fun hw => bind_error (readLoop_far h hw),
    fun hw => ⟨fun hd hn => ?_, fun hd hr => bind_error (readLoop_retired h hw hd hr), fun hd => ⟨fun v hv hneed => ?_,
      fun hpos hseed hn => ?_, fun hpos hseed hn => ?_⟩⟩⟩⟩
  · have htval : loopTval r.val = BitVec.ofNat 64 (32 + r.val) := if_pos r.isLt
    rw [← htval]
    refine bind_error ?_
    rw [hd]
    exact readLoop_unwritten h hn
  · refine bind_ok (readLoop_value h ⟨hw, ?_⟩ (LFrame.val?_of_ver hv hneed))
    rcases Nat.eq_zero_or_pos d.val with h0 | hpos
    · refine .inl ⟨h0, ?_⟩
      rw [h0, Int.natCast_zero, Int.sub_zero] at hv
      simp [hv]
    · exact .inr ⟨hpos, hd.resolve_left (Nat.ne_of_gt hpos)⟩
  · have hread := readS_loop (readLoop_value h ⟨hw, .inr ⟨hpos, hd.resolve_left (Nat.ne_of_gt hpos)⟩⟩
      (LFrame.val?_seed hn (by omega)))
    simpa using hread
  · exact bind_error (readLoop_waits h ⟨hw, .inr ⟨hpos, hd.resolve_left (Nat.ne_of_gt hpos)⟩⟩ (LFrame.val?_none hn (by omega)))

/-! Destinations (R62, R63, R89, R161). -/

theorem destinationWrites : Said.DestinationWrites := by
  refine ⟨fun s r v => ⟨rfl, s.me.setX r v, rfl, vector_get_set_self _ r v, fun n hn => vector_get_set_of_ne _ _ hn, rfl⟩,
    fun s v => ⟨rfl, rfl⟩, fun s r m b t => ⟨rfl, s.me.setV r m b t, rfl, ?_, fun n hn => ?_,
      fun n hn => Ctx.setV_get_of_ne _ _ _ _ hn, rfl⟩, fun s m b t => ⟨rfl, rfl⟩⟩
  · rw [Ctx.setV_get_self]
  · rw [Ctx.setV_get_self]
    exact getLane_mergeLanes m b _ hn

/-- Settles O10: the queue, loop and register names of an operand, and the registers of a destination, each by its own rule. -/
theorem operandReadsAndWrites : Obligations.OperandReadsAndWrites := ⟨operandReads, loopNameReads, destinationWrites⟩

end Sys2Proof.Machine
end

section
/-! PROOFS. O26: a pair word decides its halves in turn and takes their effects together (R68 to R70). -/

namespace Sys2Proof.Machine

variable {s t u : State}

/-- A half that is on decides its effects and checks their destinations (R70). -/
theorem halfEff_on {h : M Eff} {ps : List Put} (hm : Gives h s { puts := ps } t) (hc : Gives (checkPuts ps) t () t) :
    Gives (halfEff true h) s { puts := ps } t := by
  rw [Gives, halfEff, if_pos rfl, bind_ok hm]
  exact bind_ok hc

/-- A half that is off decides nothing (R66). -/
theorem halfEff_off (h : M Eff) : Gives (halfEff false h) s {} s := rfl

/-- Outside an iteration a guarded-off store takes no entry (R107). -/
theorem offEntry_of_no_iter (h : s.curIter s.cc s.ck = none) : Gives offEntry s () s := by
  have hroom : Gives (storeRoom 1) s () s := by simp only [Gives, storeRoom, h]
  have hhold : s.holdNone = s := by simp only [State.holdNone, h]
  rw [Gives, offEntry, bind_ok hroom]
  exact congrArg (fun v => Except.ok ((), v)) hhold

/-- The body of a pair word outside an iteration, its halves' effects decided and none of them a request: the effects are
made together (R70). -/
theorem pairBody_run {a b : Info × M Eff} {pa pb : List Put} (ha : Gives (halfEff (a.1.on s.me) a.2) s { puts := pa } t)
    (hb : Gives (halfEff (b.1.on s.me) b.2) t { puts := pb } u) (hc : Gives (checkPuts (pa ++ pb)) u () u)
    (hn : u.curIter u.cc u.ck = none) : Gives (pairBody a b) s () ((u.puts (pa ++ pb)).retire 16) := by
  have hend (lds : List Nat) : Gives (do carryNames lds; finishEff 16 { puts := pa ++ pb }) u () ((u.puts (pa ++ pb)).retire 16) := by
    rw [Gives, bind_ok (carryNames_of_no_iter lds hn)]
    exact finish_run hc
  rw [Gives, pairBody, bind_ok (get_run s), bind_ok ha, bind_ok hb]
  split
  · rw [bind_ok (offEntry_of_no_iter hn)]
    exact hend _
  · exact hend _

/-- A pair word that issues runs the body of its two halves (R68). -/
theorem exec_pairWord_run {g : Guard} {sh vh : Instr} {a b : Info × M Eff} (ha : halfOf sh = some a) (hb : halfOf vh = some b)
    (hi : Issues (pairInfo g s.me a.1 b.1) s t) (hbody : Gives (pairBody a b) t () (u.retire 16)) :
    exec (.pairWord g sh vh) s = .next (u.retire 16) := by
  show execPairWord g sh vh s = _
  simp only [execPairWord, ha, hb]
  exact run_retire hi hbody

/-- Settles O26: both halves decide before either takes effect, and a half that is off decides nothing. -/
theorem pairWordResults : Obligations.PairWordResults := by
  intro g sh vh a b ma mb s s1 hsh hvh hi _ _
  refine ⟨fun s2 s3 pa pb hona honb hma hca hmb hcb hc hn => ?_, fun s2 pb hoffa honb hmb hcb hn => ?_⟩
  · refine exec_pairWord_run hsh hvh hi (pairBody_run (t := s2) ?_ ?_ hc hn)
    · rw [hona]
      exact halfEff_on hma hca
    · rw [honb]
      exact halfEff_on hmb hcb
  · refine exec_pairWord_run hsh hvh hi (pairBody_run (t := s1) (pa := []) ?_ ?_ hcb hn)
    · rw [hoffa]
      exact halfEff_off ma
    · rw [honb]
      exact halfEff_on hmb hcb

end Sys2Proof.Machine
end

section
/-! PROOFS. O58: an instruction that names a queue commits its iteration, so that the frame of a register instruction is larger
than stated (R110). -/

namespace Sys2Proof.Machine

/-- Context 0 of core 0 runs iteration 0 of a loop, the oldest and not committed, and its queue name q0 maps to a queue with one
entry. -/
def queueInIteration : State where
  cores := [(0, { hwq := (Vector.replicate 8 {}).set 0 { entries := [.s 5] },
                  frames := (Vector.replicate 2 {}).set 0 { st := .run, trip := 1, w := 1, its := [{ i := 0, ctx := 0 }] } })]
  ctxs := [(0, { qmap := 8 })]

/-- That state once its iteration is committed (R110). -/
def queueIterationCommitted : State := queueInIteration.begun.commit 0 0

/-- ADD pops its queue operand: a side effect, which commits the iteration before the body (R65, R110). -/
theorem issues_queueInIteration :
    Issues (binInfo ⟨false, 0⟩ .zero (.q 0) .zero) queueInIteration queueIterationCommitted := by
  obtain ⟨-, -, hissue⟩ := issueConditions (binInfo ⟨false, 0⟩ .zero (.q 0) .zero) queueInIteration
  obtain ⟨-, hon⟩ := hissue (.inl rfl) rfl
  obtain ⟨-, hit, -⟩ := hon (by decide) rfl
  exact (hit 0 { i := 0, ctx := 0 } rfl rfl rfl rfl).1 rfl

/-- And it reads the entry. -/
theorem readS_queueIterationCommitted : Gives (readS (.q 0)) queueIterationCommitted 5
    (queueIterationCommitted.modQueue queueIterationCommitted.cc 0 (fun h => { h with entries := [] })) :=
  readS_queue (queueOf_run (Ctx.hwq_mapped (by decide) (by decide)) rfl rfl) rfl

/-- The state that ADD of q0 leaves there: the iteration committed, the entry popped, the sum discarded. -/
def queueAddedInIteration : State :=
  (queueIterationCommitted.modQueue 0 0 (fun h => { h with entries := [] })).retire 8

theorem exec_add_queueInIteration :
    exec (.add ⟨false, 0⟩ false .zero (.q 0) .zero) queueInIteration = .next queueAddedInIteration := by
  have hbody : Gives (binBody .zero (.q 0) .zero (aluW false opAdd)) queueIterationCommitted [.s .zero (aluW false opAdd 5 0)]
      (queueIterationCommitted.modQueue 0 0 (fun h => { h with entries := [] })) := bind_ok readS_queueIterationCommitted
  exact runPuts_next issues_queueInIteration hbody rfl

/-- The commit shows in the core's frames. -/
theorem queueAddedInIteration_frames : (queueAddedInIteration.core 0).frames ≠ (queueInIteration.core 0).frames := by decide

/-- Refutes O58: ADD of q0 in the oldest uncommitted iteration, with no loop name as its destination, commits that iteration, and
so its frame changes. -/
theorem not_registerFrame : ¬ Obligations.RegisterFrame := by
  intro h
  obtain ⟨hscalar, -⟩ := h
  obtain ⟨t, r, ht, hframed⟩ := hscalar _ (List.mem_cons_self ..) ⟨false, 0⟩ false .zero (.q 0) .zero _ _ _ _ _ _
    issues_queueInIteration readS_queueIterationCommitted rfl rfl rfl
  obtain ⟨-, -, -, -, -, -, -, hframes, -⟩ := hframed
  have hout := exec_add_queueInIteration.symm.trans ht
  injection hout with hout
  subst hout
  exact queueAddedInIteration_frames (hframes rfl)

end Sys2Proof.Machine
end

section
/-! PROOFS. O7: VREDA, VSCAN and VREDM (R158, R167, R187). Sums first, in the tree's order and in lane order; then the maximum;
then that an instruction that issues has a lane on when it reads its guard; then the three instructions. -/

namespace Sys2Proof.Machine

variable {s s1 s2 : State}

/-! Sums of two lanes. -/

theorem sumLane_eq (t : Tag) (x y : Lane) : sumLane t x y = Claim.sum2 t x y := by
  unfold sumLane Claim.sum2
  split
  · rfl
  · refine Prod.ext (BitVec.eq_of_toNat_eq ?_) rfl
    rw [BitVec.toNat_add, BitVec.toNat_ofNat]

/-- The lanes that enter a sum, in lane order. -/
theorem sumLanes_eq (t : Tag) (m : Lane) (u : VReg) : sumLanes t m u = (List.range 32).map (Claim.entering t m u) := rfl

/-! Tree order (R158). -/

theorem treeLevel_length (t : Tag) {k : Nat} {l : List Lane} (h : l.length = 2 * k) : (treeLevel t l).1.length = k := by
  induction k generalizing l with
  | zero =>
    obtain rfl : l = [] := List.length_eq_zero_iff.mp h
    rfl
  | succ k ih =>
    match l, h with
    | x :: y :: r, h => exact congrArg (· + 1) (ih (by simpa [Nat.mul_succ] using h))

/-- A level of the tree adds the lanes of two parts apart when the first part is of pairs. -/
theorem treeLevel_append (t : Tag) {k : Nat} {l₁ : List Lane} (l₂ : List Lane) (h : l₁.length = 2 * k) :
    treeLevel t (l₁ ++ l₂) =
      ((treeLevel t l₁).1 ++ (treeLevel t l₂).1, (treeLevel t l₁).2 ||| (treeLevel t l₂).2) := by
  induction k generalizing l₁ with
  | zero =>
    obtain rfl : l₁ = [] := List.length_eq_zero_iff.mp h
    simp [treeLevel]
  | succ k ih =>
    match l₁, h with
    | x :: y :: r, h =>
      have hr := ih (l₁ := r) (by simpa [Nat.mul_succ] using h)
      simp [treeLevel, hr, BitVec.or_assoc]

theorem treeSum_succ (t : Tag) (l : List Lane) (n : Nat) : treeSum t l (n + 1) =
    ((treeSum t (treeLevel t l).1 n).1, (treeLevel t l).2 ||| (treeSum t (treeLevel t l).1 n).2) := rfl

/-- The sum of two halves: theirs added, with the flags of both. -/
theorem treeSum_append (t : Tag) (n : Nat) {l₁ l₂ : List Lane} (h₁ : l₁.length = 2 ^ n) (h₂ : l₂.length = 2 ^ n) :
    treeSum t (l₁ ++ l₂) (n + 1) =
      ((sumLane t (treeSum t l₁ n).1 (treeSum t l₂ n).1).1,
        (sumLane t (treeSum t l₁ n).1 (treeSum t l₂ n).1).2 ||| (treeSum t l₁ n).2 ||| (treeSum t l₂ n).2) := by
  induction n generalizing l₁ l₂ with
  | zero =>
    obtain ⟨x, rfl⟩ := List.length_eq_one_iff.mp h₁
    obtain ⟨y, rfl⟩ := List.length_eq_one_iff.mp h₂
    simp [treeSum, treeLevel]
  | succ n ih =>
    rw [Nat.pow_succ'] at h₁ h₂
    have hlevel := treeLevel_append t l₂ h₁
    have hsum := ih (treeLevel_length t h₁) (treeLevel_length t h₂)
    rw [treeSum_succ t (l₁ ++ l₂), treeSum_succ t l₁, treeSum_succ t l₂, hlevel]
    simp only [hsum]
    refine Prod.ext rfl ?_
    dsimp only
    ac_rfl

/-- The tree over 2ⁿ lanes from lane i · 2ⁿ on forms partial i of level n. -/
theorem treeSum_eq_tree (t : Tag) (f : Nat → Lane) (n i : Nat) :
    treeSum t ((List.range' (i * 2 ^ n) (2 ^ n)).map f) n = Claim.tree t f n i := by
  induction n generalizing i with
  | zero => simp [treeSum, Claim.tree]
  | succ n ih =>
    have hsplit : List.range' (i * 2 ^ (n + 1)) (2 ^ (n + 1)) =
        List.range' (2 * i * 2 ^ n) (2 ^ n) ++ List.range' ((2 * i + 1) * 2 ^ n) (2 ^ n) := by
      have hlen : 2 ^ (n + 1) = 2 ^ n + 2 ^ n := by rw [Nat.pow_succ, Nat.mul_two]
      have hstart : i * 2 ^ (n + 1) = 2 * i * 2 ^ n := by rw [Nat.pow_succ', ← Nat.mul_assoc, Nat.mul_comm i 2]
      rw [hstart, hlen, Nat.add_mul, Nat.one_mul, List.range'_append_1]
    rw [hsplit, List.map_append, treeSum_append t n (by simp) (by simp), ih, ih, sumLane_eq]
    rfl

/-- VREDA's sum and flags (R158, R187). -/
theorem treeSum_sumLanes (t : Tag) (m : Lane) (u : VReg) :
    treeSum t (sumLanes t m u) 5 = Claim.tree t (Claim.entering t m u) 5 0 := by
  rw [sumLanes_eq, List.range_eq_range']
  exact treeSum_eq_tree t _ 5 0

/-! Lane order (R158). -/

theorem scanSums_succ (t : Tag) (acc : Lane) {l : List Lane} {n : Nat} (h : n + 1 < l.length) :
    (scanSums t acc l).getD (n + 1) (0, 0) =
      sumLane t ((scanSums t acc l).getD n (0, 0)).1 (l.getD (n + 1) 0) := by
  induction l generalizing acc n with
  | nil => simp at h
  | cons x r ih =>
    cases n with
    | zero =>
      match r, h with
      | y :: r, _ => rfl
    | succ n => exact ih _ (Nat.lt_of_succ_lt_succ h)

/-- VSCAN's running sum at a lane, with the flags of the addition that forms it (R187). -/
def scanLane (t : Tag) (m : Lane) (u : VReg) (n : Nat) : Lane × FF :=
  (scanSums t (sumUnit t) (sumLanes t m u)).getD n (0, 0)

theorem scanLane_eq_running (t : Tag) (m : Lane) (u : VReg) {n : Nat} (h : n < 32) :
    scanLane t m u n = Claim.running t (Claim.entering t m u) n := by
  have hlane {k : Nat} (hk : k < 32) : (sumLanes t m u).getD k 0 = Claim.entering t m u k := by
    simp [sumLanes_eq, hk]
  induction n with
  | zero => exact sumLane_eq t _ _
  | succ n ih =>
    rw [scanLane, scanSums_succ t _ (by simpa [sumLanes_eq] using h), ← scanLane, ih (by omega), hlane h, sumLane_eq]
    rfl

/-- A flag is raised when a guarded-on lane raises it (R85). -/
theorem getLsbD_flagsOf (m : Lane) (f : Nat → Lane × FF) (i : Nat) : (flagsOf m f).getLsbD i = true ↔
    ∃ n < 32, m.getLsbD n = true ∧ (f n).2.getLsbD i = true := by
  have hfold (l : List Nat) : ∀ a : FF,
      (l.foldl (fun a n => if m.getLsbD n then a ||| (f n).2 else a) a).getLsbD i = true ↔
        a.getLsbD i = true ∨ ∃ n ∈ l, m.getLsbD n = true ∧ (f n).2.getLsbD i = true := by
    induction l with
    | nil => simp
    | cons k r ih =>
      intro a
      rw [List.foldl_cons, ih]
      by_cases hk : m.getLsbD k = true
      · simp [hk, or_assoc]
      · simp [hk]
  rw [flagsOf, hfold]
  simp

/-! The maximum (R167, R187). -/

/-- `z` has the greatest key among the elements of `l` that count. -/
structure IsMax (counts : Nat → Prop) (key : Nat → Int) (l : List Nat) (z : Nat) : Prop where
  counted : counts z
  mem : z ∈ l
  max : ∀ y ∈ l, counts y → key y ≤ key z

section

variable {counts : Nat → Prop} {key : Nat → Int} {l : List Nat} {y z : Nat}

/-- It stays when the next element does not count or has no greater key. -/
theorem IsMax.keep (h : IsMax counts key l z) (hy : counts y → key y ≤ key z) : IsMax counts key (l ++ [y]) z := by
  refine ⟨h.counted, List.mem_append_left _ h.mem, fun w hw hc => ?_⟩
  rcases List.mem_append.mp hw with hw | hw
  · exact h.max w hw hc
  · obtain rfl := List.mem_singleton.mp hw
    exact hy hc

/-- The next element takes its place when no element that counts has a greater key. -/
theorem IsMax.take (hy : counts y) (h : ∀ w ∈ l, counts w → key w ≤ key y) : IsMax counts key (l ++ [y]) y := by
  refine ⟨hy, List.mem_append_right _ (List.mem_singleton_self y), fun w hw hc => ?_⟩
  rcases List.mem_append.mp hw with hw | hw
  · exact h w hw hc
  · obtain rfl := List.mem_singleton.mp hw
    exact Int.le_refl _

/-- The greater of two: the next element when its key is greater. -/
theorem IsMax.step (h : IsMax counts key l z) (hy : counts y) :
    IsMax counts key (l ++ [y]) (if key z < key y then y else z) := by
  split
  next hlt => exact .take hy (fun w hw hc => Int.le_of_lt (Int.lt_of_le_of_lt (h.max w hw hc) hlt))
  next hge => exact h.keep (fun _ => Int.not_lt.mp hge)

theorem isMax_singleton (hy : counts y) : IsMax counts key [y] y :=
  IsMax.take (l := []) hy (by simp)

end

/-- What holds of a list and its value, and of the list one longer and the next value, holds of the whole list and its fold. -/
theorem foldl_extends {P : List Nat → Nat → Prop} {f : Nat → Nat → Nat} (hstep : ∀ l a y, P l a → P (l ++ [y]) (f a y))
    {l r : List Nat} {a : Nat} (h : P l a) : P (l ++ r) (r.foldl f a) := by
  induction r generalizing l a with
  | nil => simpa using h
  | cons y r ih => simpa using ih (hstep l a y h)

/-- The maximum of the patterns of a format, as VREDM forms it (R187). -/
def maxPattern (t : Tag) : List Nat → Nat
  | [] => 0
  | x :: r => r.foldl (fun a y => (elemMinMax t true a y).1) (if t == .fp32 && (fp32.num x).isNan then fp32.nan else x)

theorem intOf_toNat (x : Lane) : intOf false 32 x.toNat = x.toInt := by
  have hx := x.isLt
  rw [BitVec.toInt_eq_toNat_cond, intOf]
  simp only [Bool.false_or, decide_eq_true_eq]
  split <;> split <;> omega

/-- An INT32 maximum. -/
theorem maxPattern_int32 {l : List Nat} (h : l ≠ []) : IsMax (fun _ => True) (intOf false 32) l (maxPattern .int32 l) := by
  match l, h with
  | x :: r, _ => exact foldl_extends (l := [x]) (fun l a y h => h.step trivial) (isMax_singleton trivial)

/-- An FP32 maximum of the patterns `l`: the canonical NaN when all are NaNs, else the greatest number. -/
def IsFloatMax (l : List Nat) (z : Nat) : Prop :=
  (∀ y ∈ l, (fp32.num y).isNan = true) ∧ z = fp32.nan ∨ IsMax (fun y => (fp32.num y).isNan = false) fp32.key l z

theorem isFloatMax_singleton (x : Nat) : IsFloatMax [x] (if (fp32.num x).isNan then fp32.nan else x) := by
  cases hx : (fp32.num x).isNan with
  | true => exact .inl ⟨by simpa using hx, rfl⟩
  | false => exact .inr (isMax_singleton hx)

theorem minMax_of_nan_nan {x y : Nat} (hx : (fp32.num x).isNan = true) (hy : (fp32.num y).isNan = true) :
    (fp32.minMax true x y).1 = fp32.nan := by simp [Fmt.minMax, hx, hy]

theorem minMax_of_nan_left {x y : Nat} (hx : (fp32.num x).isNan = true) (hy : (fp32.num y).isNan = false) :
    (fp32.minMax true x y).1 = y := by simp [Fmt.minMax, hx, hy]

theorem minMax_of_nan_right {x y : Nat} (hx : (fp32.num x).isNan = false) (hy : (fp32.num y).isNan = true) :
    (fp32.minMax true x y).1 = x := by simp [Fmt.minMax, hx, hy]

theorem minMax_of_numbers {x y : Nat} (hx : (fp32.num x).isNan = false) (hy : (fp32.num y).isNan = false) :
    (fp32.minMax true x y).1 = if fp32.key x < fp32.key y then y else x := by simp [Fmt.minMax, hx, hy]

/-- VMAX of a maximum and the next pattern is the maximum with it (R167). -/
theorem IsFloatMax.step {l : List Nat} {z : Nat} (y : Nat) (h : IsFloatMax l z) :
    IsFloatMax (l ++ [y]) (fp32.minMax true z y).1 := by
  cases hy : (fp32.num y).isNan with
  | true =>
    rcases h with ⟨hall, rfl⟩ | hmax
    · rw [minMax_of_nan_nan (by decide) hy]
      exact .inl ⟨by simpa [or_imp, forall_and] using ⟨hall, hy⟩, rfl⟩
    · rw [minMax_of_nan_right hmax.counted hy]
      exact .inr (hmax.keep (fun hnum => by simp [hy] at hnum))
  | false =>
    rcases h with ⟨hall, rfl⟩ | hmax
    · rw [minMax_of_nan_left (by decide) hy]
      exact .inr (.take hy (fun w hw hnum => by simp [hall w hw] at hnum))
    · rw [minMax_of_numbers hmax.counted hy]
      exact .inr (hmax.step hy)

theorem maxPattern_fp32 {l : List Nat} (h : l ≠ []) : IsFloatMax l (maxPattern .fp32 l) := by
  match l, h with
  | x :: r, _ => exact foldl_extends (l := [x]) (fun l a y h => h.step y) (isFloatMax_singleton x)

/-! The guarded-on lanes. -/

/-- The patterns of the guarded-on lanes, in lane order. -/
def onPatterns (m : Lane) (u : VReg) : List Nat :=
  ((List.range 32).filter (fun n => m.getLsbD n)).map (fun n => (getLane u.bits n).toNat)

theorem mem_onPatterns {m : Lane} {u : VReg} {y : Nat} :
    y ∈ onPatterns m u ↔ ∃ n < 32, m.getLsbD n = true ∧ (getLane u.bits n).toNat = y := by
  simp [onPatterns, and_assoc]

theorem forall_mem_onPatterns {m : Lane} {u : VReg} {P : Nat → Prop} :
    (∀ y ∈ onPatterns m u, P y) ↔ ∀ n < 32, m.getLsbD n = true → P (getLane u.bits n).toNat := by
  simp only [onPatterns, List.forall_mem_map, List.mem_filter, List.mem_range, and_imp]

/-- A guard with a lane on has a pattern. -/
theorem onPatterns_ne_nil {m : Lane} (u : VReg) (h : m ≠ 0) : onPatterns m u ≠ [] := by
  obtain ⟨n, hn, hbit⟩ : ∃ n < 32, m.getLsbD n = true := by
    refine Classical.byContradiction (fun hnone => h (BitVec.eq_of_getLsbD_eq (fun n hn => ?_)))
    rw [BitVec.ofNat_eq_ofNat, BitVec.getLsbD_zero, Bool.eq_false_iff]
    exact fun hbit => hnone ⟨n, hn, hbit⟩
  exact List.ne_nil_of_mem (mem_onPatterns.mpr ⟨n, hn, hbit, rfl⟩)

/-- VREDM's result in every lane. -/
def maxLane (t : Tag) (m : Lane) (u : VReg) : Lane := BitVec.ofNat 32 (maxPattern t (onPatterns m u))

/-- A greatest pattern of the guarded-on lanes is that of a lane, the result. -/
theorem IsMax.lane {counts : Nat → Prop} {key : Nat → Int} {m : Lane} {u : VReg} {z : Nat}
    (h : IsMax counts key (onPatterns m u) z) :
    (∃ n < 32, m.getLsbD n = true ∧ counts (getLane u.bits n).toNat ∧ BitVec.ofNat 32 z = getLane u.bits n) ∧
    ∀ n < 32, m.getLsbD n = true → counts (getLane u.bits n).toNat →
      key (getLane u.bits n).toNat ≤ key (BitVec.ofNat 32 z).toNat := by
  obtain ⟨hcounts, hmem, hmax⟩ := h
  obtain ⟨n, hn, hon, rfl⟩ := mem_onPatterns.mp hmem
  rw [BitVec.ofNat_toNat, BitVec.setWidth_eq]
  exact ⟨⟨n, hn, hon, hcounts, rfl⟩, forall_mem_onPatterns.mp hmax⟩

theorem maxLane_int32 {m : Lane} (u : VReg) (h : m ≠ 0) :
    (∃ n < 32, m.getLsbD n = true ∧ maxLane .int32 m u = getLane u.bits n) ∧
    ∀ n < 32, m.getLsbD n = true → (getLane u.bits n).toInt ≤ (maxLane .int32 m u).toInt := by
  obtain ⟨⟨n, hn, hon, -, hlane⟩, hmax⟩ := (maxPattern_int32 (onPatterns_ne_nil u h)).lane
  refine ⟨⟨n, hn, hon, hlane⟩, fun k hk hkon => ?_⟩
  have hkey := hmax k hk hkon trivial
  rwa [intOf_toNat, intOf_toNat] at hkey

/-- All on-lanes NaN: the canonical NaN (R167). -/
theorem maxLane_fp32_nan {m : Lane} {u : VReg} (h : m ≠ 0)
    (hnan : ∀ n < 32, m.getLsbD n = true → (fp32.num (getLane u.bits n).toNat).isNan = true) :
    maxLane .fp32 m u = 0x7FC00000 := by
  rcases maxPattern_fp32 (onPatterns_ne_nil u h) with ⟨-, hz⟩ | ⟨hnum, hmem, -⟩
  · rw [maxLane, hz]
    rfl
  · obtain ⟨n, hn, hon, hlane⟩ := mem_onPatterns.mp hmem
    have hnan' := hnan n hn hon
    rw [hlane, hnum] at hnan'
    cases hnan'

/-- A number among the on-lanes: the greatest of them, past the NaNs (R167). -/
theorem maxLane_fp32_number {m : Lane} {u : VReg} (h : m ≠ 0)
    (hnum : ∃ n < 32, m.getLsbD n = true ∧ (fp32.num (getLane u.bits n).toNat).isNan = false) :
    (∃ n < 32, m.getLsbD n = true ∧ (fp32.num (getLane u.bits n).toNat).isNan = false ∧
      maxLane .fp32 m u = getLane u.bits n) ∧
    ∀ n < 32, m.getLsbD n = true → (fp32.num (getLane u.bits n).toNat).isNan = false →
      fp32.key (getLane u.bits n).toNat ≤ fp32.key (maxLane .fp32 m u).toNat := by
  rcases maxPattern_fp32 (onPatterns_ne_nil u h) with ⟨hnan, -⟩ | hmax
  · obtain ⟨n, hn, hon, hnum⟩ := hnum
    exact absurd (forall_mem_onPatterns.mp hnan n hn hon) (by simp [hnum])
  · exact hmax.lane

/-! What changes no context: the issue of an instruction, and the read of a vector operand. -/

/-- The contexts, and which of them acts, are the same in two states. -/
structure State.SameCtxs (s t : State) : Prop where
  ctxs : t.ctxs = s.ctxs
  cur : t.cur = s.cur

theorem State.SameCtxs.refl (s : State) : s.SameCtxs s := ⟨rfl, rfl⟩

theorem State.SameCtxs.trans {t u : State} (h : s.SameCtxs t) (h' : t.SameCtxs u) : s.SameCtxs u :=
  ⟨h'.ctxs.trans h.ctxs, h'.cur.trans h.cur⟩

theorem State.SameCtxs.me_eq {t : State} (h : s.SameCtxs t) : t.me = s.me := by
  simp only [State.me, State.ctx, h.ctxs, h.cur]

theorem State.sameCtxs_foldl {α : Type} {f : State → α → State} (hf : ∀ (s : State) a, s.SameCtxs (f s a)) (l : List α)
    (s : State) : s.SameCtxs (l.foldl f s) := by
  induction l generalizing s with
  | nil => exact .refl s
  | cons a r ih => exact (hf s a).trans (ih _)

theorem State.sameCtxs_modFr (s : State) (c : Nat) (f : Fin 2) (g : LFrame → LFrame) : s.SameCtxs (s.modFr c f g) := ⟨rfl, rfl⟩

theorem State.sameCtxs_extend (s : State) (e : Option KvExt) : s.SameCtxs (s.extend e) := by
  unfold State.extend
  split
  · exact .refl s
  · dsimp only
    split
    · exact ⟨rfl, rfl⟩
    · exact .refl s

theorem State.sameCtxs_storeUnits (s : State) (a : Agent) (units : List (List Host.Cell)) (e : Option KvExt) :
    s.SameCtxs (s.storeUnits a units e) := by
  have hmem : s.SameCtxs (s.modMem (fun m => units.foldl (fun m u => m.write a u) m)) := ⟨rfl, rfl⟩
  exact hmem.trans (State.sameCtxs_extend _ e)

theorem State.sameCtxs_drainStore (s : State) (c : Nat) (a : Agent) (h : HeldStore) : s.SameCtxs (s.drainStore c a h) := by
  unfold State.drainStore
  split
  · exact s.sameCtxs_storeUnits _ _ _
  · refine State.sameCtxs_foldl (fun (s : State) u => ?_) _ s
    split
    · exact s.sameCtxs_storeUnits _ _ _
    · exact .refl s

theorem State.sameCtxs_drainHeld (s : State) (c : Nat) (f : Fin 2) (i : Nat) : s.SameCtxs (s.drainHeld c f i) := by
  unfold State.drainHeld
  exact (State.sameCtxs_foldl (fun s h => s.sameCtxs_drainStore c _ h) _ s).trans (State.sameCtxs_modFr _ _ _ _)

theorem State.sameCtxs_commitIn (s : State) (c : Nat) (f : Fin 2) (i : Nat) : s.SameCtxs (s.commitIn c f i) := by
  unfold State.commitIn
  exact (s.sameCtxs_drainHeld c f i).trans (State.sameCtxs_modFr _ _ _ _)

theorem State.sameCtxs_commit (s : State) (c k : Nat) : s.SameCtxs (s.commit c k) := by
  unfold State.commit
  split
  · exact .refl s
  · refine State.SameCtxs.trans ?_ (State.sameCtxs_commitIn _ _ _ _)
    split
    · split
      · exact s.sameCtxs_commitIn _ _ _
      · exact .refl s
    · exact .refl s

/-- A part of an instruction that changes no context. -/
def KeepsCtxs {α : Type} (m : M α) : Prop := ∀ (s : State) (a : α) (t : State), m s = .ok (a, t) → s.SameCtxs t

section

variable {α β : Type} {m : M α}

theorem KeepsCtxs.bind {f : α → M β} (hm : KeepsCtxs m) (hf : ∀ a, KeepsCtxs (f a)) : KeepsCtxs (m >>= f) := by
  intro s b u h
  obtain ⟨a, t, ha, hb⟩ := bind_eq_ok h
  exact (hm _ _ _ ha).trans (hf a _ _ _ hb)

/-- A part that answers its own state. -/
theorem KeepsCtxs.of_same (h : ∀ (s : State) (a : α) (t : State), m s = .ok (a, t) → t = s) : KeepsCtxs m := by
  intro s a t ht
  rw [h _ _ _ ht]
  exact .refl s

theorem keepsCtxs_reads (f : State → α) : KeepsCtxs (fun s => .ok (f s, s) : M α) :=
  KeepsCtxs.of_same (fun _ _ _ h => by cases h; rfl)

theorem keepsCtxs_pure (a : α) : KeepsCtxs (pure a : M α) := keepsCtxs_reads (fun _ => a)

theorem keepsCtxs_get : KeepsCtxs (get : M State) := keepsCtxs_reads id

theorem keepsCtxs_raiseV (c : FaultCode) (v : Word) : KeepsCtxs (raiseV c v : M α) := KeepsCtxs.of_same (fun _ _ _ h => by cases h)

end

theorem breakCheck_same {t : State} {a : Unit} (h : breakCheck s = .ok (a, t)) : t = s := by
  unfold breakCheck at h
  dsimp only at h
  split at h <;> cases h
  rfl

theorem depthCheck_same {lds : List Nat} {t : State} {a : Unit} (h : depthCheck lds s = .ok (a, t)) : t = s := by
  unfold depthCheck at h
  split at h
  · split at h <;> cases h
    rfl
  · cases h
    rfl

theorem ensure_same {b : Bool} {c : FaultCode} {v : Word} {t : State} {a : Unit} (h : ensure b c v s = .ok (a, t)) : t = s := by
  cases b <;> cases h
  rfl

theorem keepsCtxs_sideEffect : KeepsCtxs sideEffect := by
  intro s a t h
  unfold sideEffect at h
  split at h
  · cases h
    exact .refl s
  split at h
  · cases h
    exact .refl s
  split at h <;> cases h
  exact s.sameCtxs_commit _ _

theorem keepsCtxs_turnCheck (i : Info) : KeepsCtxs (turnCheck i) := by
  refine (KeepsCtxs.of_same (fun _ _ _ => depthCheck_same)).bind (fun _ => ?_)
  split
  · exact keepsCtxs_sideEffect
  · exact keepsCtxs_pure _

/-- What an instruction that issues has met: its guard is on, and its contexts are as they were (R66). -/
theorem prologue_eq_true {i : Info} {t : State} (h : prologue i s = .ok (true, t)) : i.on s.me = true ∧ s.SameCtxs t := by
  unfold prologue at h
  obtain ⟨_, _, hget, h⟩ := bind_eq_ok h
  cases hget
  obtain ⟨_, _, hslot, h⟩ := bind_eq_ok h
  cases ensure_same hslot
  obtain ⟨_, _, hpriv, h⟩ := bind_eq_ok h
  cases ensure_same hpriv
  split at h
  next hon =>
    obtain ⟨_, _, hbreak, h⟩ := bind_eq_ok h
    cases breakCheck_same hbreak
    obtain ⟨_, _, hturn, h⟩ := bind_eq_ok h
    cases h
    exact ⟨hon, keepsCtxs_turnCheck i _ _ _ hturn⟩
  next =>
    obtain ⟨_, _, _, h⟩ := bind_eq_ok h
    obtain ⟨_, _, _, h⟩ := bind_eq_ok h
    cases h

theorem keepsCtxs_queueImage : KeepsCtxs queueImage := by
  refine KeepsCtxs.of_same (fun s a t h => ?_)
  unfold queueImage at h
  split at h <;> cases h
  rfl

theorem keepsCtxs_queueOf (n : Fin 4) (vec : Bool) : KeepsCtxs (queueOf n vec) := by
  refine keepsCtxs_get.bind (fun s => ?_)
  split
  · exact keepsCtxs_raiseV _ _
  · split
    · exact keepsCtxs_queueImage.bind (fun _ => keepsCtxs_pure _)
    · exact keepsCtxs_raiseV _ _

/-- A pop changes a queue of the core (R65). -/
theorem keepsCtxs_popQueue (n : Fin 4) (vec : Bool) : KeepsCtxs (popQueue n vec) := by
  refine (keepsCtxs_queueOf n vec).bind (fun q u e t h => ?_)
  obtain ⟨_, _, hget, h⟩ := bind_eq_ok h
  cases hget
  cases hentries : (u.myCore.hwq.get q).entries with
  | nil =>
    rw [hentries] at h
    cases h
  | cons e r =>
    rw [hentries] at h
    cases h
    exact ⟨rfl, rfl⟩

theorem keepsCtxs_readLoop (name d : Nat) : KeepsCtxs (readLoop name d) := by
  refine KeepsCtxs.of_same (fun s a t h => ?_)
  unfold readLoop at h
  dsimp only at h
  split at h
  · cases h
  split at h
  · cases h
  split at h
  · cases h
    rfl
  split at h
  · cases h
  split at h
  · cases h
  split at h <;> cases h
  rfl

theorem keepsCtxs_readV (a : VSrc) : KeepsCtxs (readV a) := by
  cases a with
  | v r => exact keepsCtxs_reads (fun s => s.me.v.get r)
  | w r d => exact (keepsCtxs_readLoop _ _).bind (fun _ => keepsCtxs_pure _)
  | q n =>
    refine (keepsCtxs_popQueue n true).bind (fun e => ?_)
    cases e <;> exact keepsCtxs_pure _
  | zero => exact keepsCtxs_pure _
  | it => exact keepsCtxs_reads _
  | lane => exact keepsCtxs_pure _

theorem vecInfo_on {g : Guard} {vs : List VSrc} {vd : List VDst} {x : Ctx} :
    (vecInfo g vs vd).on x = true ↔ x.guardBits g ≠ 0 := by
  have hall : x.guardBits g &&& (vecInfo g vs vd).lanes = x.guardBits g := BitVec.and_allOnes
  rw [← hall]
  exact bne_iff_ne

/-- A vector instruction that issues reads its guard with a lane on (R66, R161). -/
theorem guardBits_ne_zero {g : Guard} {vs : List VSrc} {vd : List VDst} {a : VSrc} {u : VReg}
    (hi : Issues (vecInfo g vs vd) s s1) (hv : Gives (readV a) s1 u s2) : s2.me.guardBits g ≠ 0 := by
  obtain ⟨hon, hsame⟩ := prologue_eq_true hi
  have hme : s2.me = s.begun.me := (hsame.trans (keepsCtxs_readV a _ _ _ hv)).me_eq
  rw [hme]
  exact vecInfo_on.mp hon

/-! The three instructions. -/

/-- The operation format of one source of the set S: its own, or INT32 of a RAW one (R162). -/
theorem format_one {k t : Tag} (hset : k ∈ Claim.setS) (hf : Claim.format .int32 [k] = some t) :
    inS k = true ∧ (if k = .raw then Tag.int32 else k) = t := by
  simp only [Claim.setS, List.mem_cons, List.not_mem_nil, or_false] at hset
  rcases hset with rfl | rfl | rfl <;> cases hf <;> decide

theorem nvIf_cases (b : Bool) : nvIf b = nvIf true ∨ nvIf b = 0 := by cases b <;> decide

theorem nvIf_eq_true {b : Bool} : nvIf b = nvIf true ↔ b = true := by cases b <;> decide

section

variable {g : Guard} {vd : VDst} {a : VSrc} {u : VReg} {t : Tag}

/-- A source of the set S is read with its format (R161, R162). -/
theorem read1_run (hv : Gives (readV a) s1 u s2) (hset : u.tag ∈ Claim.setS) (hf : Claim.format .int32 [u.tag] = some t) :
    Gives (read1 inS a) s1 (u, t) s2 := by
  obtain ⟨hin, htag⟩ := format_one hset hf
  have hread : Gives (readTag inS 1 none a) s1 (u, if u.tag = .raw then none else some u.tag) s2 := by
    rw [Gives, readTag, bind_ok hv, hin, Bool.not_true, if_neg Bool.false_ne_true]
    split <;> rfl
  rw [Gives, read1, bind_ok hread, ← htag]
  split <;> rfl

/-- A vector instruction whose effects are its destination and flags (R85, R161). -/
theorem runHalf_vector {vs : List VSrc} {body : M (List Put)} {m : Lane} {r : BitVec 1024} {f : FF}
    (hi : Issues (vecInfo g vs [vd]) s s1) (hb : Gives body s1 [.v vd m r t, .ff f] s2) (hc : Gives (checkV vd) s2 () s2) :
    runHalf (vecInfo g vs [vd], body) s =
      .next (((s2.putV vd m r t).modMe (fun x => { x with ff := x.ff ||| f })).retire 8) :=
  runPuts_next hi hb (bind_ok hc)

@[simp] theorem maskOf_run (g : Guard) (s : State) : maskOf g s = .ok (s.me.guardBits g, s) := rfl

/-- VREDA writes its sum to every guarded-on lane, with the flags of its tree (R187). -/
theorem exec_vreda (hi : Issues (vecInfo g [a] [vd]) s s1) (h : Gives (read1 inS a) s1 (u, t) s2)
    (hc : Gives (checkV vd) s2 () s2) : exec (.vreda g vd a) s = .next (((s2.putV vd (s2.me.guardBits g)
      (ofLanes (fun _ => (Claim.tree t (Claim.entering t (s2.me.guardBits g) u) 5 0).1)) t).modMe (fun x =>
        { x with ff := x.ff ||| (Claim.tree t (Claim.entering t (s2.me.guardBits g) u) 5 0).2 })).retire 8) := by
  refine runHalf_vector (body := redaBody g vd a) hi ?_ hc
  refine (bind_ok h).trans ((bind_ok (maskOf_run g s2)).trans ?_)
  rw [treeSum_sumLanes]
  generalize Claim.tree t (Claim.entering t (s2.me.guardBits g) u) 5 0 = z
  rfl

/-- VSCAN writes each guarded-on lane its running sum, with the flags of the guarded-on additions (R187). -/
theorem exec_vscan (hi : Issues (vecInfo g [a] [vd]) s s1) (h : Gives (read1 inS a) s1 (u, t) s2)
    (hc : Gives (checkV vd) s2 () s2) : exec (.vscan g vd a) s = .next (((s2.putV vd (s2.me.guardBits g)
      (ofLanes (fun n => (scanLane t (s2.me.guardBits g) u n).1)) t).modMe (fun x =>
        { x with ff := x.ff ||| flagsOf (s2.me.guardBits g) (scanLane t (s2.me.guardBits g) u) })).retire 8) :=
  runHalf_vector (body := scanBody g vd a) hi ((bind_ok h).trans (bind_ok (maskOf_run g s2))) hc

/-- The flags of VREDM: invalid for a signalling NaN in an on-lane of an FP32 source (R187). -/
def maxFlags (t : Tag) (m : Lane) (u : VReg) : FF :=
  nvIf (t == .fp32 && (onPatterns m u).any (fun x => (fp32.num x).sig))

theorem maxFlags_fp32 (m : Lane) (u : VReg) : maxFlags .fp32 m u = nvIf true ↔
    ∃ n < 32, m.getLsbD n = true ∧ (fp32.num (getLane u.bits n).toNat).sig = true := by
  rw [maxFlags, nvIf_eq_true]
  simp [onPatterns]

/-- VREDM writes its maximum to every guarded-on lane (R187). -/
theorem exec_vredm (hi : Issues (vecInfo g [a] [vd]) s s1) (h : Gives (read1 inS a) s1 (u, t) s2)
    (hc : Gives (checkV vd) s2 () s2) : exec (.vredm g vd a) s = .next (((s2.putV vd (s2.me.guardBits g)
      (ofLanes (fun _ => maxLane t (s2.me.guardBits g) u)) t).modMe (fun x =>
        { x with ff := x.ff ||| maxFlags t (s2.me.guardBits g) u })).retire 8) := by
  refine runHalf_vector (body := redmBody g vd a) hi ?_ hc
  refine (bind_ok h).trans ((bind_ok (maskOf_run g s2)).trans ?_)
  unfold maxLane maxFlags maxPattern onPatterns
  generalize List.map _ _ = l
  cases l <;> rfl

end

/-- Settles O7: the tree's halves for VREDA, the running sums for VSCAN, and for VREDM the maximum that each VMAX extends, of
a guard with a lane on. -/
theorem reductions : Obligations.Reductions := by
  intro g vd a s s1 s2 u t hi hv hc hset hf m ends
  have hread := read1_run hv hset hf
  have hguard : m ≠ 0 := guardBits_ne_zero hi hv
  refine ⟨⟨_, exec_vreda hi hread hc, fun n hn => getLane_ofLanes _ hn⟩,
    ⟨_, _, exec_vscan hi hread hc, fun n hn _ => ?_, fun i _ => ?_⟩,
    ⟨_, _, exec_vredm hi hread hc, fun n hn => ?_, ?_, ?_⟩⟩
  · rw [getLane_ofLanes _ hn, scanLane_eq_running t m u hn]
  · rw [getLsbD_flagsOf]
    refine exists_congr fun n => and_congr_right fun hn => ?_
    rw [scanLane_eq_running t m u hn]
  · rw [getLane_ofLanes _ hn, getLane_ofLanes _ (by decide)]
  · rintro rfl
    rw [getLane_ofLanes _ (by decide)]
    exact ⟨rfl, maxLane_int32 u hguard⟩
  · rintro rfl
    rw [getLane_ofLanes _ (by decide)]
    exact ⟨nvIf_cases _, maxFlags_fp32 m u, maxLane_fp32_nan hguard, maxLane_fp32_number hguard⟩

end Sys2Proof.Machine
end

section
/-! PROOFS. O49: PSTART, PSTOP, STATUS, GROUP and SESSION (R204, R305, R306, R382, R415, R418). -/

namespace Sys2Proof.Machine

variable {s t u : State} {r : HostReq}

/-! Tables that lose entries by their keys. -/

/-- A filter on the keys of a table leaves the entries of the keys that pass. -/
theorem tget_filter_key {α : Type} (p : Nat → Bool) (t : Tbl α) (k : Nat) :
    tget (t.filter (fun e => p e.1)) k = if p k = true then tget t k else none := by
  induction t with
  | nil => simp [tget]
  | cons e t ih =>
    obtain ⟨j, a⟩ := e
    by_cases hj : j = k
    · subst hj
      by_cases hp : p j = true <;> simp [tget, hp, ih]
    · by_cases hp : p j = true <;> simp [tget, hp, hj, ih]

/-- A key that a filter drops has the default entry. -/
theorem tgetD_filter_key {α : Type} {p : Nat → Bool} {k : Nat} (hk : p k = false) (t : Tbl α) (d : α) :
    tgetD (t.filter (fun e => p e.1)) k d = d := by
  rw [tgetD, tget_filter_key, hk]
  rfl

/-- Bytes taken out read as 0, and the others as before. -/
theorem Memory.get_outside (p : Nat → Bool) (m : Memory) (l : Nat) :
    Memory.get (outside p m) l = if p l = true then 0 else m.get l := by
  rw [Memory.get, tgetD, outside, tget_filter_key (fun l => !p l)]
  cases p l <;> rfl

/-- What is cleared reads as 0, and the rest as before. -/
theorem MemSys.get_clear (p : Nat → Bool) (m : MemSys) (l : Nat) :
    Memory.get (m.clear p).d l = if p l = true then 0 else Memory.get m.d l := Memory.get_outside p m.d l

/-- In a table without repeated keys a removed key has no entry. -/
theorem tget_tdel_of_nodup {α : Type} {t : Tbl α} (h : (t.map Prod.fst).Nodup) (k : Nat) : tget (tdel t k) k = none := by
  induction t with
  | nil => rfl
  | cons e t ih =>
    rw [List.map_cons, List.nodup_cons] at h
    obtain ⟨he, ht⟩ := h
    rw [tdel]
    split
    next hk => exact tget_of_not_mem (hk ▸ he)
    next hk => rw [tget, if_neg hk, ih ht]

/-! The statuses of R306, told apart. -/

theorem stNoSpace_ne_zero : stNoSpace ≠ 0 := by decide

/-! What partition start and stop leave of the compute clusters. -/

/-- The cores, contexts, clusters, partitions and memories are the same in two states. -/
structure State.SameCompute (s t : State) : Prop where
  cores : t.cores = s.cores
  ctxs : t.ctxs = s.ctxs
  clusters : t.clusters = s.clusters
  parts : t.parts = s.parts
  mem : t.mem = s.mem

namespace State

theorem SameCompute.refl (s : State) : s.SameCompute s := ⟨rfl, rfl, rfl, rfl, rfl⟩

theorem SameCompute.trans (h : s.SameCompute t) (k : t.SameCompute u) : s.SameCompute u :=
  ⟨k.cores.trans h.cores, k.ctxs.trans h.ctxs, k.clusters.trans h.clusters, k.parts.trans h.parts, k.mem.trans h.mem⟩

theorem SameCompute.foldl {α : Type} {f : State → α → State} (hf : ∀ (s : State) (a : α), s.SameCompute (f s a)) :
    ∀ (l : List α) (s : State), s.SameCompute (l.foldl f s)
  | [], s => .refl s
  | a :: l, s => (hf s a).trans (SameCompute.foldl hf l (f s a))

/-- A partition set alike in both states keeps them alike. -/
theorem SameCompute.modPart (h : s.SameCompute t) (p : Nat) (q : Partition) :
    (s.modPart p (fun _ => q)).SameCompute (t.modPart p (fun _ => q)) :=
  ⟨h.cores, h.ctxs, h.clusters, congrArg (tset · p q) h.parts, h.mem⟩

theorem SameCompute.core (h : s.SameCompute t) (c : Nat) : t.core c = s.core c := by rw [State.core, h.cores, State.core]
theorem SameCompute.ctx (h : s.SameCompute t) (c k : Nat) : t.ctx c k = s.ctx c k := by rw [State.ctx, h.ctxs, State.ctx]
theorem SameCompute.cluster (h : s.SameCompute t) (cl : Nat) : t.cluster cl = s.cluster cl := by
  rw [State.cluster, h.clusters, State.cluster]
theorem SameCompute.part (h : s.SameCompute t) (p : Nat) : t.part p = s.part p := by rw [State.part, h.parts, State.part]

theorem testCore_sameCompute (s : State) (c : Nat) : s.SameCompute (s.testCore c).1 := by
  unfold testCore
  dsimp only
  split
  · exact .refl s
  split
  · exact ⟨rfl, rfl, rfl, rfl, rfl⟩
  split <;> exact ⟨rfl, rfl, rfl, rfl, rfl⟩

theorem testCores_sameCompute : ∀ (cs : List Nat) (s : State), s.SameCompute (s.testCores cs).1
  | [], s => .refl s
  | c :: cs, s => (s.testCore_sameCompute c).trans (testCores_sameCompute cs (s.testCore c).1)

theorem setGranule_sameCompute (s : State) (g : Nat) (e : Granule) : s.SameCompute (s.setGranule g e) :=
  ⟨rfl, rfl, rfl, rfl, rfl⟩

theorem setDiePart_sameCompute (s : State) (d p : Nat) (a : Option Nat) : s.SameCompute (s.setDiePart d p a) :=
  ⟨rfl, rfl, rfl, rfl, rfl⟩

theorem grantStreams_sameCompute (s : State) (p : Nat) : s.SameCompute (s.grantStreams p) := by
  refine SameCompute.foldl (fun s g => ?_) _ s
  split
  · exact ⟨rfl, rfl, rfl, rfl, rfl⟩
  · exact .refl s

theorem routeTo_sameCompute (s : State) (peer : Nat) : s.SameCompute (s.routeTo peer) := by
  refine SameCompute.foldl (fun s d => ?_) _ s
  dsimp only
  split
  · exact .refl s
  · exact ⟨rfl, rfl, rfl, rfl, rfl⟩

theorem routeAll_sameCompute (s : State) (peers : List Nat) : s.SameCompute ((s.routeAll peers).getD s) := by
  unfold routeAll
  dsimp only
  split
  · exact .refl s
  · exact SameCompute.foldl routeTo_sameCompute peers s

/-! Cores, contexts and clusters that are reset (R204). -/

/-- The cores `cs` are reset in turn, each for the partition that `g` names. -/
def freshCores (g : State → Nat → Nat) (cs : List Nat) (s : State) : State :=
  cs.foldl (fun s c => s.setCore c (freshCore (s.core c) c (g s c))) s

/-- Resetting cores changes nothing but the cores. -/
theorem freshCores_eq (g : State → Nat → Nat) :
    ∀ (cs : List Nat) (s : State), s.freshCores g cs = { s with cores := (s.freshCores g cs).cores }
  | [], _ => rfl
  | c :: cs, s => freshCores_eq g cs (s.setCore c (freshCore (s.core c) c (g s c)))

/-- A core is as it was and none of those that are reset, or it is reset but for its cycle counter. -/
theorem freshCores_cases (g : State → Nat → Nat) (c : Nat) : ∀ (cs : List Nat) (s : State),
    ((s.freshCores g cs).core c = s.core c ∧ c ∉ cs) ∨ ∃ v, (s.freshCores g cs).core c = freshCore (s.core c) c (g v c)
  | [], _ => .inl ⟨rfl, List.not_mem_nil⟩
  | a :: cs, s => by
    have hrest := freshCores_cases g c cs (s.setCore a (freshCore (s.core a) a (g s a)))
    rcases Decidable.em (c = a) with rfl | hca
    · have hcore : (s.setCore c (freshCore (s.core c) c (g s c))).core c = freshCore (s.core c) c (g s c) :=
        tgetD_tset_self _ _ _ _
      rw [hcore] at hrest
      exact .inr (hrest.elim (fun h => ⟨s, h.1⟩) fun ⟨v, hv⟩ => ⟨v, hv⟩)
    · have hcore : (s.setCore a (freshCore (s.core a) a (g s a))).core c = s.core c := tgetD_tset_of_ne _ _ _ hca
      rw [hcore] at hrest
      exact hrest.imp_left fun h => ⟨h.1, List.not_mem_cons_of_ne_of_not_mem hca h.2⟩

theorem freshCores_core (g : State → Nat → Nat) {c : Nat} {cs : List Nat} (hc : c ∈ cs) (s : State) :
    ∃ v, (s.freshCores g cs).core c = freshCore (s.core c) c (g v c) :=
  (freshCores_cases g c cs s).resolve_left fun h => h.2 hc

theorem resetClusters_cluster {cls : List Nat} {cl : Nat} (h : cl ∈ cls) (s : State) : (s.resetClusters cls).cluster cl = {} :=
  tgetD_filter_key (p := fun x => !cls.contains x) (by simpa using h) s.clusters {}

/-- A cluster's state is at its reset values and so are its cores, but for their cycle counters, and their contexts; the cores are
the partition's or withheld (R204; log 107). -/
def FreshFor (s t : State) (p cl : Nat) : Prop :=
  t.cluster cl = {} ∧ ∀ c ∈ coresOf cl,
    (∃ q, (q = p ∨ q = 16) ∧ t.core c = { home := c, partid := q, cyc := (s.core c).cyc }) ∧
    ∀ k < 16, t.ctx c k = { vcid := c, vctx := k }

theorem FreshFor.trans {p cl : Nat} (h : s.FreshFor t p cl) (k : t.SameCompute u) : s.FreshFor u p cl := by
  simpa only [FreshFor, k.cluster, k.core, k.ctx] using h

theorem SameCompute.freshFor {p cl : Nat} (h : s.SameCompute t) (k : t.FreshFor u p cl) : s.FreshFor u p cl := by
  simpa only [FreshFor, h.core] using k

/-- Clusters given to a partition are fresh for it. -/
theorem giveClusters_freshFor (s : State) (p : Nat) {cls : List Nat} {cl : Nat} (ok : List Nat) (hcl : cl ∈ cls) :
    s.FreshFor (s.giveClusters p cls ok) p cl := by
  refine ⟨resetClusters_cluster hcl _, fun c hc => ?_⟩
  have hmem : c ∈ cls.flatMap coresOf := List.mem_flatMap.mpr ⟨cl, hcl, hc⟩
  refine ⟨?_, fun k hk => ?_⟩
  · obtain ⟨_, hcore⟩ := freshCores_core (fun _ c => if ok.contains c then p else 16) hmem s
    refine ⟨_, ?_, hcore⟩
    split
    · exact .inl rfl
    · exact .inr rfl
  · have hctx : (!(cls.flatMap coresOf).contains ((c * 16 + k) / 16)) = false := by
      rw [show (c * 16 + k) / 16 = c by omega]
      simpa using List.mem_flatMap.mp hmem
    exact tgetD_filter_key (p := fun x => !(cls.flatMap coresOf).contains (x / 16)) hctx _ _

/-- The memories after the partition has its cores are those before, with more of them cleared. -/
theorem fillPartition_mem (s : State) (p : Nat) (cls grs ok : List Nat) :
    ∃ q, (s.fillPartition p cls grs ok).mem = s.mem.clear q := by
  have hgive : (s.giveClusters p cls ok).mem = s.mem :=
    (congrArg State.mem (freshCores_eq (fun _ c => if ok.contains c then p else 16) (cls.flatMap coresOf) s) :)
  refine ⟨_, congrArg (MemSys.clear · _) ((SameCompute.mem ?_).trans hgive)⟩
  exact SameCompute.foldl (fun s g => s.setGranule_sameCompute g _) grs _

theorem fillPartition_freshFor (s : State) (p : Nat) {cls : List Nat} {cl : Nat} (grs ok : List Nat) (hcl : cl ∈ cls) :
    s.FreshFor (s.fillPartition p cls grs ok) p cl := by
  refine FreshFor.trans (t := s.giveClusters p cls ok) (s.giveClusters_freshFor p ok hcl)
    (u := grs.foldl (fun s g => s.setGranule g { valid := true, part := p, lst := Config.listGranule p (g / 16) (g % 16) })
      (s.giveClusters p cls ok)) ?_
  exact SameCompute.foldl (fun s g => s.setGranule_sameCompute g _) grs _

end State

/-! PSTART (R204, R305, R306). -/

theorem cmdPstart_bad (h : pstartOk r = false) (s : State) : (cmdPstart r s).status = 1 := by
  unfold cmdPstart
  rw [h]
  rfl

/-- A body of PSTART within its limits has the length, partition, modes and log base that R305 allows. -/
theorem pstartOk_limits (h : pstartOk r = true) : 176 ≤ r.len ∧ 1 ≤ numAt r.body 0 1 ∧ numAt r.body 0 1 ≤ 15 ∧
    numAt r.body 1 1 ≤ 1 ∧ numAt r.body 2 1 ≤ 2 ∧
    0x1000_0000_0000 ≤ numAt r.body 24 8 ∧ numAt r.body 24 8 < 0x1400_0000_0000 := by
  simp only [pstartOk, logOk, Bool.and_eq_true, decide_eq_true_eq] at h
  omega

/-- What PSTART names is free. -/
abbrev State.PstartFree (s : State) (r : HostReq) : Prop :=
  s.freeFor (numAt r.body 1 1 == 1) (bitsAt r.body 40 64) (bitsAt r.body 104 64) (rangesOf r.body (numAt r.body 168 4)) = true

theorem cmdPstart_started (hok : pstartOk r = true) (hs : (s.part (numAt r.body 0 1)).started = true) :
    (cmdPstart r s).status = 2 := by
  simp [cmdPstart, hok, hs, stNotHeld]

theorem cmdPstart_noSpace (hok : pstartOk r = true) (hs : (s.part (numAt r.body 0 1)).started = false) (hfree : s.PstartFree r)
    (hroute : s.routeAll (Config.peersOf (numAt r.body 0 1)) = none) : (cmdPstart r s).status = 4 := by
  simp [cmdPstart, hok, hs, hfree, hroute, stNoSpace]

/-- The memory ranges of PSTART are cleared and its cores tested: the state, and the cores that may be granted. -/
def State.pstartTested (s : State) (r : HostReq) : State × List Nat :=
  (s.modMem (fun m => m.clear (fun l =>
    (rangesOf r.body (numAt r.body 168 4)).any (fun g => locPA g.1 ≤ l && l < locPA g.1 + g.2)))).testCores
      ((bitsAt r.body 40 64).flatMap coresOf)

/-- No resident partition has the clusters of PSTART: the new one has them at once (log 49). -/
def State.pstartHere (s : State) (r : HostReq) : Bool :=
  s.parts.all (fun q => !q.2.started || !q.2.resident || (bitsAt r.body 40 64).all (fun c => !q.2.clusters.contains c))

/-- The state once the partition has its clusters, or waits for them. -/
def State.pstartFilled (s : State) (r : HostReq) : State :=
  if s.pstartHere r then
    (s.pstartTested r).1.fillPartition (numAt r.body 0 1) (bitsAt r.body 40 64) (bitsAt r.body 104 64) (s.pstartTested r).2
  else (s.pstartTested r).1

/-- The partition that PSTART describes (R305). -/
def State.pstartPart (s : State) (r : HostReq) : Partition :=
  { started := true, sliced := numAt r.body 1 1 == 1, slice := wordAt r.body 8, trt := wordAt r.body 16 &&& 0x0000_FFFF_FFFF_0001
    ranges := rangesOf r.body (numAt r.body 168 4), clusters := bitsAt r.body 40 64, granules := bitsAt r.body 104 64
    resident := s.pstartHere r
    replay :=
      { mode := match numAt r.body 2 1 with
          | 0 => .off
          | 1 => .record
          | _ => .replay
        base := numAt r.body 24 8, limit := numAt r.body 32 8 }
    saved := if s.pstartHere r then none
      else some (startSaved (numAt r.body 0 1) (bitsAt r.body 104 64) (s.pstartTested r).2) }

theorem State.pstartPart_clusters (s : State) (r : HostReq) : (s.pstartPart r).clusters = bitsAt r.body 40 64 := by
  rw [State.pstartPart]
theorem State.pstartPart_granules (s : State) (r : HostReq) : (s.pstartPart r).granules = bitsAt r.body 104 64 := by
  rw [State.pstartPart]
theorem State.pstartPart_ranges (s : State) (r : HostReq) :
    (s.pstartPart r).ranges = rangesOf r.body (numAt r.body 168 4) := by
  rw [State.pstartPart]

/-- The state once the partition's record, allocators and streams are set besides (R264, R315). -/
def State.pstartGranted (s : State) (r : HostReq) : State :=
  let p := numAt r.body 0 1
  let t := (List.range 32).foldl (fun t d => t.setDiePart d p (allocOn p d (s.pstartTested r).2)) (s.pstartFilled r)
  (t.modPart p (fun _ => s.pstartPart r)).grantStreams p

theorem State.pstartGranted_sameCompute (s : State) (r : HostReq) :
    ((s.pstartFilled r).modPart (numAt r.body 0 1) (fun _ => s.pstartPart r)).SameCompute (s.pstartGranted r) :=
  ((SameCompute.foldl (fun t d => t.setDiePart_sameCompute d _ _) _ _).modPart _ _).trans (grantStreams_sameCompute _ _)

/-- PSTART taken: the forwarding entries of the partition's peers come last (R302). -/
theorem cmdPstart_taken (hok : pstartOk r = true) (hs : (s.part (numAt r.body 0 1)).started = false) (hfree : s.PstartFree r)
    (hroute : (s.routeAll (Config.peersOf (numAt r.body 0 1))).isSome = true) : cmdPstart r s =
      { status := stOk, st := ((s.pstartGranted r).routeAll (Config.peersOf (numAt r.body 0 1))).getD (s.pstartGranted r) } := by
  have hroom : (s.routeAll (Config.peersOf (numAt r.body 0 1))).isNone = false := by
    rw [← Option.not_isSome, hroute]
    rfl
  unfold cmdPstart
  rw [hok, Bool.not_true, if_neg Bool.false_ne_true]
  dsimp only
  rw [hs, hfree, hroom, Bool.not_true, Bool.or_false, if_neg Bool.false_ne_true, if_neg Bool.false_ne_true]
  rfl

theorem State.pstartTested_sameCompute (s : State) (r : HostReq) :
    (s.modMem (fun m => m.clear (fun l =>
      (rangesOf r.body (numAt r.body 168 4)).any (fun g => locPA g.1 ≤ l && l < locPA g.1 + g.2)))).SameCompute
        (s.pstartTested r).1 :=
  State.testCores_sameCompute _ _

/-- The memory ranges of the partition read as 0 (R204). -/
theorem State.pstartFilled_get (s : State) {g : Nat × Nat} (hg : g ∈ rangesOf r.body (numAt r.body 168 4)) {i : Nat}
    (hi : i < g.2) : Memory.get (s.pstartFilled r).mem.d (g.1 + i) = 0 := by
  have hcleared : Memory.get (s.pstartTested r).1.mem.d (g.1 + i) = 0 := by
    rw [(s.pstartTested_sameCompute r).mem]
    refine (MemSys.get_clear _ _ _).trans (if_pos (List.any_eq_true.mpr ⟨g, hg, ?_⟩))
    simp [locPA, hi]
  unfold State.pstartFilled
  split
  · obtain ⟨q, hq⟩ := State.fillPartition_mem (s.pstartTested r).1 (numAt r.body 0 1) (bitsAt r.body 40 64)
      (bitsAt r.body 104 64) (s.pstartTested r).2
    rw [hq, MemSys.get_clear, hcleared, ite_self]
  · exact hcleared

/-- Where no resident partition has the clusters, they are fresh for the new one. -/
theorem State.pstartFilled_freshFor (hhere : s.pstartHere r = true) {cl : Nat} (hcl : cl ∈ bitsAt r.body 40 64) :
    s.FreshFor (s.pstartFilled r) (numAt r.body 0 1) cl := by
  have hfresh := (s.pstartTested_sameCompute r).freshFor
    (State.fillPartition_freshFor (s.pstartTested r).1 (numAt r.body 0 1) (bitsAt r.body 104 64) (s.pstartTested r).2 hcl)
  rw [State.pstartFilled, if_pos hhere]
  exact hfresh

theorem State.pstartHere_iff : s.pstartHere r = true ↔
    ∀ q ∈ s.parts, q.2.started = false ∨ q.2.resident = false ∨ ∀ c ∈ bitsAt r.body 40 64, c ∉ q.2.clusters := by
  simp [State.pstartHere, or_assoc]

/-! PSTOP (R305, R306). -/

theorem cmdPstop_bad (h : r.len ≠ 8 ∨ numAt r.body 0 1 = 0 ∨ 15 < numAt r.body 0 1) (s : State) :
    (cmdPstop r s).status = 1 := by
  unfold cmdPstop
  dsimp only
  rw [if_pos]
  · rfl
  · rcases h with h | h | h <;> simp [h]

/-- The body of PSTOP within its limits (R305). -/
def PstopOk (r : HostReq) : Prop := r.len = 8 ∧ zerosAt r.body 1 7 = true ∧ 1 ≤ numAt r.body 0 1 ∧ numAt r.body 0 1 ≤ 15

theorem PstopOk.passes (h : PstopOk r) :
    (r.len != 8 || !zerosAt r.body 1 7 || numAt r.body 0 1 == 0 || decide (15 < numAt r.body 0 1)) = false := by
  obtain ⟨hlen, hz, h1, h15⟩ := h
  simp [hlen, hz, Nat.ne_of_gt h1, h15]

/-- The partition id of a core that PSTOP frees: partition 0's, or a failed core's (log 107). -/
def State.freedId (s : State) (c : Nat) : Nat := if (s.die (c / 256)).failed.contains c then 16 else 0

/-- The cores of a resident partition. -/
def State.pstopCores (s : State) (p : Nat) : List Nat :=
  (s.cores.filter (fun c => c.2.partid == p)).map Prod.fst ++ (s.part p).clusters.flatMap coresOf

/-- A resident partition's cores, contexts and clusters are reset and their memories cleared (log 49). -/
def State.pstopReset (s : State) (p : Nat) : State :=
  let cs := s.pstopCores p
  let t := s.freshCores State.freedId cs
  let t : State := { t.resetClusters (s.part p).clusters with ctxs := t.ctxs.filter (fun x => !cs.contains (x.1 / 16)) }
  t.modMem (fun m => m.clear (fun l => cs.any (fun c => coreLocs c c l)))

/-- Its granules and allocators are free too (R264). -/
def State.pstopFreed (s : State) (p : Nat) : State :=
  let t := (s.part p).granules.foldl (fun t g => t.setGranule g {}) (s.pstopReset p)
  (List.range 32).foldl (fun t d => t.setDiePart d p none) t

/-- A state without the partition that had its cores in `s`: its record, streams, sessions, launches and what is in flight for
it are gone (R305). -/
def State.withoutPart (t s : State) (p : Nat) : State :=
  { t with
    parts := tset t.parts p {}
    streams := t.streams.filter (fun x => x.2.part != p)
    sessions := t.sessions.filter (fun x => x.2.part != p)
    net := t.net.filter (fun e => e.part != p)
    slotNew := t.slotNew.filter (fun b => (s.core b.core).partid != p)
    l2Pending := t.l2Pending.filter (fun e => (s.core e.2.1).partid != p)
    ovfDue := t.ovfDue.filter (fun e => e.1 != p)
    launches := t.launches.filter (fun l => l.req.part != p) }

@[simp] theorem State.withoutPart_cluster (t s : State) (p cl : Nat) : (t.withoutPart s p).cluster cl = t.cluster cl := rfl
@[simp] theorem State.withoutPart_core (t s : State) (p c : Nat) : (t.withoutPart s p).core c = t.core c := rfl

/-- PSTOP taken: a resident partition's cores are free again, and nothing of the partition is left. -/
theorem cmdPstop_taken (h : PstopOk r) (hs : (s.part (numAt r.body 0 1)).started = true) : cmdPstop r s =
    { status := stOk
      st := (if (s.part (numAt r.body 0 1)).resident = true then s.pstopFreed (numAt r.body 0 1) else s).withoutPart s
        (numAt r.body 0 1) } := by
  unfold cmdPstop
  dsimp only
  rw [h.passes, if_neg Bool.false_ne_true, hs, Bool.not_true, if_neg Bool.false_ne_true]
  rfl

theorem cmdPstop_notStarted (h : PstopOk r) (hs : (s.part (numAt r.body 0 1)).started = false) : (cmdPstop r s).status = 2 := by
  unfold cmdPstop
  dsimp only
  rw [h.passes, if_neg Bool.false_ne_true, hs]
  rfl

theorem State.pstopFreed_sameCompute (s : State) (p : Nat) : (s.pstopReset p).SameCompute (s.pstopFreed p) :=
  (SameCompute.foldl (fun t g => t.setGranule_sameCompute g {}) _ _).trans
    (SameCompute.foldl (fun t d => t.setDiePart_sameCompute d p none) _ _)

/-- The clusters of a stopped partition are reset, and their cores are its no more. -/
theorem State.pstopFreed_clusters (s : State) {p cl : Nat} (h1 : 1 ≤ p) (h15 : p ≤ 15) (hcl : cl ∈ (s.part p).clusters) :
    (s.pstopFreed p).cluster cl = {} ∧ ∀ c ∈ coresOf cl, ((s.pstopFreed p).core c).partid ≠ p := by
  have hsame := s.pstopFreed_sameCompute p
  refine ⟨(hsame.cluster cl).trans (State.resetClusters_cluster hcl _), fun c hc => ?_⟩
  have hmem : c ∈ s.pstopCores p := List.mem_append_right _ (List.mem_flatMap.mpr ⟨cl, hcl, hc⟩)
  obtain ⟨v, hcore⟩ := State.freshCores_core State.freedId hmem s
  have hid : ((s.pstopFreed p).core c).partid = v.freedId c := congrArg Core.partid ((hsame.core c).trans hcore)
  rw [hid, State.freedId]
  split <;> omega

/-! STATUS (R415, R418). -/

/-- The four flags of the health word (R415). -/
def State.healthFlags (s : State) : Nat :=
  boolN s.repl + boolN s.sreq * 2 + boolN (s.power == .recovery || s.recov) * 4 + boolN s.keyx * 8

theorem testBit_flags : ∀ a b c d : Bool, let n := boolN a + boolN b * 2 + boolN c * 4 + boolN d * 8
    n < 16 ∧ n.testBit 0 = a ∧ n.testBit 1 = b ∧ n.testBit 2 = c ∧ n.testBit 3 = d := by
  decide

theorem State.healthFlags_lt (s : State) : s.healthFlags < 16 := (testBit_flags _ _ _ _).1

/-- The health word is its flags below the links. -/
theorem State.health_toNat (s : State) : s.health.toNat = 2 ^ 8 * s.links.toNat + s.healthFlags := by
  have hlinks := s.links.isLt
  have hflags := s.healthFlags_lt
  have hhealth : s.health = BitVec.ofNat 64 (s.healthFlags + s.links.toNat * 2 ^ 8) := rfl
  rw [hhealth, BitVec.toNat_ofNat]
  omega

theorem State.health_getLsbD (s : State) {i : Nat} (hi : i < 8) : s.health.getLsbD i = s.healthFlags.testBit i := by
  rw [BitVec.getLsbD, s.health_toNat, Nat.testBit_two_pow_mul_add _ (Nat.lt_trans s.healthFlags_lt (by decide)), if_pos hi]

/-- The flags of the health word, from its lowest bit on (R415). -/
theorem State.health_flags (s : State) : s.health.getLsbD 0 = s.repl ∧ s.health.getLsbD 1 = s.sreq ∧
    s.health.getLsbD 2 = (s.power == .recovery || s.recov) ∧ s.health.getLsbD 3 = s.keyx := by
  obtain ⟨-, h0, h1, h2, h3⟩ := testBit_flags s.repl s.sreq (s.power == .recovery || s.recov) s.keyx
  exact ⟨(s.health_getLsbD (by decide)).trans h0, (s.health_getLsbD (by decide)).trans h1,
    (s.health_getLsbD (by decide)).trans h2, (s.health_getLsbD (by decide)).trans h3⟩

theorem State.health_links (s : State) : s.health.extractLsb' 8 32 = s.links := by
  have hflags := s.healthFlags_lt
  refine BitVec.eq_of_toNat_eq ?_
  have hlinks := s.links.isLt
  rw [BitVec.extractLsb'_toNat, s.health_toNat, Nat.shiftRight_eq_div_pow]
  omega

theorem State.health_above (s : State) : s.health.extractLsb' 40 24 = 0 := by
  have hflags := s.healthFlags_lt
  refine BitVec.eq_of_toNat_eq ?_
  have hlinks := s.links.isLt
  rw [BitVec.extractLsb'_toNat, s.health_toNat, Nat.shiftRight_eq_div_pow]
  change _ = 0
  omega

theorem cmdStatus_bad (h : r.len ≠ 0) (s : State) : (cmdStatus r s).status = 1 := by
  unfold cmdStatus
  rw [if_pos (bne_iff_ne.mpr h)]
  rfl

/-- STATUS begins with the health word and hands over the reports that are the partition's, or all of them to partition 0. -/
theorem cmdStatus_ok (h : r.len = 0) (s : State) : let o := cmdStatus r s
    let v := tgetD s.services r.scn {}
    o.status = 0 ∧ (∃ rest, o.data = bytesOf 8 s.health ++ rest) ∧
      tgetD o.st.services r.scn {} =
        { v with reports := v.reports.filter (fun e => !(r.part == 0 || e.2.1 == r.part)), dropped := 0 } ∧
      (s.sreq = false → o.st.sreq = false) := by
  unfold cmdStatus
  rw [if_neg (by simp [h])]
  refine ⟨rfl, ⟨_, by dsimp only; rw [List.append_assoc, List.append_assoc]⟩, tgetD_tset_self _ _ _ _, fun hs => ?_⟩
  simp [hs]

/-! GROUP and SESSION (R305, R309, R310). -/

/-- GROUP that answers OK names this module, and its members are the group's. -/
theorem cmdGroup_ok (h : (cmdGroup r s).status = 0) :
    let ms := (List.range (numAt r.body 2 2)).map (fun i => numAt r.body (8 + 4 * i) 4)
    Config.moduleId.toNat ∈ ms ∧ tget (cmdGroup r s).st.groups (numAt r.body 0 1) = some ms := by
  revert h
  unfold cmdGroup
  dsimp only
  split
  · exact fun h => absurd h stBad_ne_zero
  next hbody =>
  split
  · exact fun h => absurd h stNoSpace_ne_zero
  · intro _
    simp only [Bool.or_eq_true, not_or, Bool.not_eq_true, Bool.not_eq_false', List.contains_iff_mem] at hbody
    exact ⟨hbody.2, tget_tset_self _ _ _⟩

/-- A number within a part of a body. -/
theorem numAt_take_drop (b : List Byte) {a m o n : Nat} (h : o + n ≤ m) : numAt ((b.drop a).take m) o n = numAt b (a + o) n := by
  rw [numAt, List.drop_take, List.take_take, List.drop_drop, Nat.min_eq_left (by omega), numAt]

theorem wordAt_take_drop (b : List Byte) {a m o : Nat} (h : o + 8 ≤ m) : wordAt ((b.drop a).take m) o = wordAt b (a + o) :=
  congrArg (BitVec.ofNat 64) (numAt_take_drop b h)

/-- The limits of a descriptor's kind and size (R310). -/
theorem sessionOk_limits {kind n : Nat} {d : List Byte} (h : sessionOk kind n d = true) :
    kind ≤ 5 ∧ (kind = 0 → 4 ≤ n ∧ n ≤ 65536 ∧ n % 4 = 0) ∧ (kind = 5 → 1 ≤ n ∧ n ≤ 128) ∧
    (1 ≤ kind → kind ≤ 4 → 1 ≤ n ∧ n ≤ 1024) := by
  simp only [sessionOk, Bool.and_eq_true, decide_eq_true_eq] at h
  obtain ⟨⟨⟨⟨⟨⟨⟨hkind, -⟩, -⟩, -⟩, -⟩, -⟩, -⟩, hsize⟩ := h
  refine ⟨hkind, ?_⟩
  split at hsize
  · simp only [Bool.and_eq_true, beq_iff_eq, decide_eq_true_eq] at hsize
    omega
  · rw [decide_eq_true_eq] at hsize
    omega
  next h0 h5 =>
    rw [decide_eq_true_eq] at hsize
    exact ⟨(absurd · h0), (absurd · h5), fun _ _ => hsize⟩

/-- SESSION, define, that answers OK sets the session that the body describes, within its limits. -/
theorem cmdDefine_ok (h : (cmdDefine r s).status = 0) :
    sessionOk (numAt r.body 8 1) (numAt r.body 10 2) ((r.body.drop 8).take 64) = true ∧
    tget (cmdDefine r s).st.sessions (numAt r.body 0 2) = some
      { part := r.part, kind := numAt r.body 8 1, grp := numAt r.body 9 1, n := numAt r.body 10 2, ca := wordAt r.body 16
        cs := wordAt r.body 24, ra := wordAt r.body 32, rs := wordAt r.body 40 } := by
  have hkind : numAt ((r.body.drop 8).take 64) 0 1 = numAt r.body 8 1 := numAt_take_drop _ (by decide)
  have hgrp : numAt ((r.body.drop 8).take 64) 1 1 = numAt r.body 9 1 := numAt_take_drop _ (by decide)
  have hn : numAt ((r.body.drop 8).take 64) 2 2 = numAt r.body 10 2 := numAt_take_drop _ (by decide)
  have hca : wordAt ((r.body.drop 8).take 64) 8 = wordAt r.body 16 := wordAt_take_drop _ (by decide)
  have hcs : wordAt ((r.body.drop 8).take 64) 16 = wordAt r.body 24 := wordAt_take_drop _ (by decide)
  have hra : wordAt ((r.body.drop 8).take 64) 24 = wordAt r.body 32 := wordAt_take_drop _ (by decide)
  have hrs : wordAt ((r.body.drop 8).take 64) 32 = wordAt r.body 40 := wordAt_take_drop _ (by decide)
  revert h
  unfold cmdDefine
  dsimp only
  rw [hkind, hgrp, hn, hca, hcs, hra, hrs]
  split
  · exact fun h => absurd h stBad_ne_zero
  next hbody =>
  split
  · exact fun h => absurd h stNotHeld_ne_zero
  · intro _
    simp only [Bool.or_eq_true, not_or, Bool.not_eq_true, Bool.not_eq_false'] at hbody
    exact ⟨hbody.2, tget_tset_self _ _ _⟩

/-- SESSION, remove, that answers OK removes the session. -/
theorem cmdRemove_ok (h : (cmdRemove r s).status = 0) : (cmdRemove r s).st.sessions = tdel s.sessions (numAt r.body 0 2) := by
  revert h
  unfold cmdRemove
  dsimp only
  split
  · exact fun h => absurd h stBad_ne_zero
  split
  · exact fun h => absurd h stNotHeld_ne_zero
  · exact fun _ => rfl

/-! The commands together. -/

/-- What PSTART taken leaves: the partition's record, memory ranges that read as 0, and fresh clusters where no resident partition
has them. -/
theorem cmdPstart_leaves (hok : pstartOk r = true) (hs : (s.part (numAt r.body 0 1)).started = false) (hfree : s.PstartFree r)
    (hroute : (s.routeAll (Config.peersOf (numAt r.body 0 1))).isSome = true) :
    (cmdPstart r s).st.part (numAt r.body 0 1) = s.pstartPart r ∧
    (∀ g ∈ rangesOf r.body (numAt r.body 168 4), ∀ i < g.2, Memory.get (cmdPstart r s).st.mem.d (g.1 + i) = 0) ∧
    (s.pstartHere r = true → ∀ cl ∈ bitsAt r.body 40 64, s.FreshFor (cmdPstart r s).st (numAt r.body 0 1) cl) := by
  have hsame := (s.pstartGranted_sameCompute r).trans (State.routeAll_sameCompute _ (Config.peersOf (numAt r.body 0 1)))
  rw [cmdPstart_taken hok hs hfree hroute]
  refine ⟨(hsame.part _).trans (tgetD_tset_self _ _ _ _), fun g hg i hi => ?_, fun hhere cl hcl => ?_⟩
  · rw [hsame.mem]
    exact s.pstartFilled_get hg hi
  · exact State.FreshFor.trans (t := (s.pstartFilled r).modPart _ (fun _ => s.pstartPart r))
      (State.pstartFilled_freshFor hhere hcl) hsame

/-- A partition that is gone is not started and has no streams, sessions or launches. -/
theorem State.withoutPart_leaves (t s : State) (p : Nat) : ((t.withoutPart s p).part p).started = false ∧
    (∀ x ∈ (t.withoutPart s p).streams, x.2.part ≠ p) ∧ (∀ x ∈ (t.withoutPart s p).sessions, x.2.part ≠ p) ∧
    ∀ x ∈ (t.withoutPart s p).launches, x.req.part ≠ p :=
  ⟨congrArg Partition.started (tgetD_tset_self t.parts p {} {}), fun _ hx => bne_iff_ne.mp (List.mem_filter.mp hx).2,
    fun _ hx => bne_iff_ne.mp (List.mem_filter.mp hx).2, fun _ hx => bne_iff_ne.mp (List.mem_filter.mp hx).2⟩

/-- What PSTOP taken leaves of the clusters of a resident partition. -/
theorem cmdPstop_clusters (h : PstopOk r) (hs : (s.part (numAt r.body 0 1)).started = true)
    (hres : (s.part (numAt r.body 0 1)).resident = true) {cl : Nat} (hcl : cl ∈ (s.part (numAt r.body 0 1)).clusters) :
    (cmdPstop r s).st.cluster cl = {} ∧ ∀ c ∈ coresOf cl, ((cmdPstop r s).st.core c).partid ≠ numAt r.body 0 1 := by
  obtain ⟨-, -, h1, h15⟩ := id h
  simp only [cmdPstop_taken h hs, if_pos hres, State.withoutPart_cluster, State.withoutPart_core]
  exact s.pstopFreed_clusters h1 h15 hcl

/-- Settles O49: the outcomes of each command, and what PSTART, PSTOP and SESSION leave of the clusters and tables. -/
theorem hostPartitionCommands : Obligations.HostPartitionCommands := by
  refine ⟨fun r s => ⟨cmdPstart_started, fun hlimits => ?_, cmdPstart_noSpace, fun hbase => ?_, fun hok hs hroute hfree => ?_⟩,
    fun r s => ⟨fun hbad => cmdPstop_bad hbad s, fun hlen hz h1 h15 => ⟨cmdPstop_notStarted ⟨hlen, hz, h1, h15⟩, fun hs => ?_⟩⟩,
    fun r s => ⟨fun hlen => cmdStatus_bad hlen s, fun hlen => ?_⟩, fun r s => cmdGroup_ok, fun r s hok => ?_,
    fun r s hok hnodup => ?_⟩
  · refine cmdPstart_bad (Bool.eq_false_iff.mpr fun hok => ?_) s
    have hpass := pstartOk_limits hok
    omega
  · refine cmdPstart_bad (Bool.eq_false_iff.mpr fun hok => ?_) s
    have hpass := pstartOk_limits hok
    omega
  · obtain ⟨hpart, hranges, hfresh⟩ := cmdPstart_leaves hok hs hfree hroute
    have hstatus : (cmdPstart r s).status = 0 := congrArg Ans.status (cmdPstart_taken hok hs hfree hroute)
    intro t
    rw [show t.part (numAt r.body 0 1) = s.pstartPart r from hpart]
    exact ⟨hstatus, rfl, s.pstartPart_clusters r, s.pstartPart_granules r, s.pstartPart_ranges r, rfl, rfl, rfl, hranges,
      fun hnone => have hhere := State.pstartHere_iff.mpr hnone; ⟨hhere, hfresh hhere⟩⟩
  · have hok : PstopOk r := ⟨hlen, hz, h1, h15⟩
    have hstatus : (cmdPstop r s).status = 0 := congrArg Ans.status (cmdPstop_taken hok hs)
    obtain ⟨hpart, hstreams, hsessions, hlaunches⟩ := State.withoutPart_leaves
      (if (s.part (numAt r.body 0 1)).resident = true then s.pstopFreed (numAt r.body 0 1) else s) s (numAt r.body 0 1)
    have hclusters := fun hres cl hcl => cmdPstop_clusters (cl := cl) hok hs hres hcl
    rw [cmdPstop_taken hok hs] at hstatus hclusters ⊢
    exact ⟨hstatus, hpart, hstreams, hsessions, hlaunches, hclusters⟩
  · obtain ⟨hstatus, ⟨rest, hdata⟩, hservice, hsreq⟩ := cmdStatus_ok hlen s
    obtain ⟨hrepl, hsr, hrecov, hkeyx⟩ := s.health_flags
    dsimp only
    rw [hservice]
    refine ⟨hstatus, ?_, hrepl, hsr, fun hrec => ?_, hkeyx, s.health_links, s.health_above, fun hpart => ?_, fun e he => ?_, rfl,
      hsreq⟩
    · rw [hdata, bytesOf_eq_map]
      exact List.take_left' (by simp)
    · rw [hrecov, hrec]
      rfl
    · simp [hpart]
    · obtain ⟨hmem, hkept⟩ := List.mem_filter.mp he
      simp only [Bool.not_eq_true', Bool.or_eq_false_iff, beq_eq_false_iff_ne] at hkept
      exact ⟨hmem, hkept.2⟩
  · obtain ⟨hlimits, hset⟩ := cmdDefine_ok hok
    exact ⟨_, hset, rfl, rfl, rfl, rfl, rfl, rfl, rfl, rfl, rfl, rfl, sessionOk_limits hlimits⟩
  · rw [cmdRemove_ok hok]
    exact tget_tdel_of_nodup hnodup _

end Sys2Proof.Machine
end
